-- ==== Sys2Proof/Word.lean ====
section
/-!
DEFINITION. The word types of the FQ-4 and their plainest arithmetic (R5, R7).
-/

namespace Sys2Proof

/-- The smallest addressable unit of every memory of the device. -/
abbrev Byte := BitVec 8

/-- One general register (R12). -/
abbrev Word := BitVec 32

/-- A register pair, an address or a program counter (R7). -/
abbrev DWord := BitVec 64

/-- The number of a general register, g0 to g255 (R12). -/
abbrev Reg := BitVec 8

/-- A thread of the package: its team, by the model's own number for the team, and its identifier in the team (R16). -/
structure ThreadRef where
  team : Nat
  tid : Nat
deriving DecidableEq, Repr

/-- Bytes of a number, least significant first (R7). -/
def leBytes : Nat → Nat → List Byte
  | 0, _ => []
  | n + 1, v => BitVec.ofNat 8 v :: leBytes n (v / 256)

/-- The number whose little-endian bytes these are (R7). -/
def leNat : List Byte → Nat
  | [] => 0
  | b :: bs => b.toNat + 256 * leNat bs

/-- The pair of a low and a high word (R7). -/
def mkPair (lo hi : Word) : DWord := hi ++ lo

/-- The low word of a pair: the even register (R7). -/
def loWord (p : DWord) : Word := p.setWidth 32

/-- The high word of a pair: the odd register (R7). -/
def hiWord (p : DWord) : Word := (p >>> 32).setWidth 32

end Sys2Proof
end

