-- ==== Sys2Proof/Config.lean ====
section
/-!
DEFINITION. What the spec leaves open or an implementation fixes: free values (constants without a body, so that nothing
can be proved of them but what holds of every value), and the fixed sizes of R12.
-/

namespace Sys2Proof

/-- The free choice among the moves that the package could make next, by the number of the step (R20, R171). -/
opaque Config.pick : Nat → Nat

/-- The SHA-512 hash of a public key that is fused into the die (R370). -/
opaque Config.fusedHash : List Byte

/-- What a byte of a unit reads as under a new key before anything has written it (R362): the number of the key and the address. -/
opaque Config.unpredictable : Nat → Nat → Byte

/-- Whether an access of the hardware's own or of an engine at a step takes an old translation that a TLB still holds (R358): a value below their
number names one, any other the page tables. -/
opaque Config.oldXlate : Nat → Nat

/-- What a home answers for a read of a weight-store or cache line that the hardware refetches (R373): which instruction-cache copy it was. -/
opaque Config.refetched : Nat → Nat

/-- The fused rollback counter (R370). -/
opaque Config.rollback : Nat

/-- What a peer package answers to a request sent to it at a step (R214, R368, R369): 0 admitted, with room for a pushed
item; 1 admitted, its queue full; 2 admitted, its queue closed; any other value, not admitted. -/
opaque Config.peerAnswer : Nat → Nat

/-- SRC of the error record of an engine operation that ends for want of permission (R320): no value of R378 is given to it. -/
opaque Config.permSource : Nat

/-- The scrub priority at parity with bulk traffic (R234). -/
opaque Config.scrubParity : Nat

/-- The Koriery Link port over which an address of peer memory is reached (R368). -/
opaque Config.route : Nat → Nat

/-- The Koriery Link port over which a remote queue is reached (R214, R368): the context's number and the queue's. -/
opaque Config.routeQueue : Nat → Nat → Nat

/-- What QSTAT shows of a count of items, present or leased, above the 65,536 that its fields give (R218). -/
opaque Config.overCount : Nat → BitVec 17

/-- What the local clock of a core counts from (R13): the local clocks of different cores are not aligned. -/
opaque Config.clockStart : Nat → Nat

/-- The traffic of a group's collectives travels over a port (R368): the group and the port. -/
opaque Config.collOver : List Nat → Nat → Bool

/-- The set of an L1, and of an L2 slice, that a line index goes to (R230): the sets have no figure. -/
opaque Config.l1Set : Nat → Nat

/-- The set of an L2 slice that a line index goes to. -/
opaque Config.l2Set : Nat → Nat

/-- The 256 KiB part of a core's local store that holds an L1 line (R226): core and line index. -/
opaque Config.l1Way : Nat → Nat → Nat

namespace Config

/-- Cores of the package (R12). -/
def cores : Nat := 256
/-- Slots of a bench (R12). -/
def slots : Nat := 768
/-- Granules of a lane bank (R11). -/
def laneGranules : Nat := 128
/-- Outstanding long-latency operations of a thread (R12, R177). -/
def outstanding : Nat := 63
/-- Entries of a core's handle table (R12, R307). -/
def handles : Nat := 1024
/-- Entries of a context's matrix command queue (R154). -/
def commands : Nat := 64
/-- Accumulator elements of a bank (R160). -/
def accElems : Nat := 196608
/-- Bytes of HBM of a die (R14). -/
def dieHbm : Nat := 240 * 2 ^ 30
/-- Bytes of a die's weight store (R12). -/
def dieWs : Nat := 2 ^ 30
/-- Entries of a partition's rack (R185). -/
def rack : Nat := 512

end Config

end Sys2Proof
end

