-- ==== Sys2Proof/Syntax.lean ====
section
/-!
DEFINITION. The instructions of Lanioz base 1 and the steps of the other agents, one constructor per row of the
opcode table. An instruction carries its operand fields (`Ops`, the fields of R29 with MOD turned into named modifiers).
A step of another agent carries what names it: which thread, team, core, queue, or what the outside world supplies.
-/

namespace Sys2Proof

/-- The length of an instruction: 64, 96 or 128 bits (R24). -/
inductive Len where
  | s | m | l
deriving DecidableEq, Repr

/-- The operand fields of an instruction word (R29) and its extra word (R37): `ext` is bits [95:64] of a 96-bit
instruction in its low half, and bits [127:64] of a 128-bit one. -/
structure Ops where
  len : Len
  d : BitVec 8
  a : BitVec 8
  b : BitVec 8
  c : BitVec 8
  ep : BitVec 3
  dk : BitVec 3
  g : BitVec 8
  gs : BitVec 2
  ext : BitVec 64
deriving DecidableEq, Repr

/-- MOD[1:0] of the integer instructions: wrap, clamp to I32 or I64, clamp to Z32 or Z64 (R96, R98). -/
inductive SatMode where
  | wrap | sat | satU
deriving DecidableEq, Repr

/-- The rounding codes of R39; `dyn` takes RM of the mode word (R82). -/
inductive Rnd where
  | rne | rtz | rup | rdn | dyn
deriving DecidableEq, Repr

/-- The relations of ICMP (R101). -/
inductive IRel where
  | eq | ne | lt | le | gt | ge
deriving DecidableEq, Repr

/-- The relations of FCMP (R111). -/
inductive FRel where
  | eq | ne | lt | le | gt | ge | un | or
deriving DecidableEq, Repr

/-- The integer types of ICMP, CVTFI and CVTIF, in MOD order (R101, R113). -/
inductive ITy where
  | i32 | z32 | i64 | z64
deriving DecidableEq, Repr

/-- The CVTFF conversions, destination first (R115). -/
inductive FfCode where
  | f32f64 | f64f32 | f16f32 | f32f16 | bf16f32 | f32bf16 | f16f64 | f64f16
deriving DecidableEq, Repr

/-- The packed formats of PCVT and UPCVT (R119). -/
inductive PkCode where
  | f16 | bf16 | n8 | n8w | n4 | i8 | i4
deriving DecidableEq, Repr

/-- The forms of IVMK (R129). -/
inductive IvmkKind where
  | bounds | pt | cvt
deriving DecidableEq, Repr

/-- The relations of IVCMP (R135). -/
inductive IvRel where
  | lt | le | gt | ge | eq | ne | sub | int | dis | seq | clt | cle | plt | ple
deriving DecidableEq, Repr

/-- The tests of IVTEST (R137). -/
inductive IvTest where
  | empty | entire | bnd | pt | zero | mem
deriving DecidableEq, Repr

/-- The memory spaces (R221). -/
inductive Space where
  | glb | loc | ws
deriving DecidableEq, Repr

/-- The formats of ACCRD and ACCWR (R162). -/
inductive AccFmt where
  | b32 | f16 | bf16 | n8
deriving DecidableEq, Repr

/-- The operators of RVRED (R210). -/
inductive RvOp where
  | addF32 | addI32 | minF32 | maxF32 | minI32 | maxI32
deriving DecidableEq, Repr

/-- The scopes of R38 and R263. -/
inductive Scope where
  | thr | team | die | pkg | sys
deriving DecidableEq, Repr

/-- The memory orders of R38. -/
inductive MOrd where
  | rlx | acq | rel | ar
deriving DecidableEq, Repr

/-- Access sizes of LD and ST: 1, 2, 4, 8, 16 bytes (R248). -/
inductive MSize where
  | b8 | b16 | b32 | b64 | b128
deriving DecidableEq, Repr

/-- The operations of ATOM, ATOM64 and RED (R257). -/
inductive AOp where
  | add | and | or | xor | exch | min | max | minZ | maxZ | addF32 | addI64
deriving DecidableEq, Repr

/-- The operations of ATOMF (R257). -/
inductive AfOp where
  | addF32 | minF32 | maxF32 | addF64 | minF64 | maxF64
deriving DecidableEq, Repr

/-- The kinds of CPY (R316). -/
inductive CpyKind where
  | lin | fill | gth | sct
deriving DecidableEq, Repr

/-- What a BARRIER_WATCHDOG step fires for: a barrier generation, a rendezvous instance (its base and size code) or a
COLL handle (R385). -/
inductive WatchItem where
  | barrier (n : Nat)
  | rendezvous (base : Nat) (size : Nat)
  | coll (token : Word)
deriving DecidableEq, Repr

/-- Where an uncorrectable or a corrected error is found (R373). -/
inductive ErrSite where
  | regFile (t : ThreadRef)
  | scratchpad (team : Nat) (core : Nat)
  | matrixStore (team : Nat) (core : Nat) (acc : Bool)
  | cleanLine (core : Nat)
  | memWord (unit : Nat) (pa : Nat)
  /-- a dirty line of host memory in an L1 or an L2 (unit 3 or 4), by host physical address (R239) -/
  | hostLine (unit : Nat) (pa : Nat)
  | wsWord (die : Nat) (off : Nat)
  | collStaging (die : Nat) (slot : Nat)
  | saveArea (team : Nat)
deriving DecidableEq, Repr

/-- A firmware image as the management port delivers it: the bytes of its body, its version, its signature, and the public key that it is to be
verified against (R370). -/
structure FwImage where
  body : List Byte
  version : Nat
  signature : List Byte
  key : List Byte
deriving DecidableEq, Repr

/-- What firmware gives a partition at its creation (R346 to R348, R352, R369, R378): its number, clusters, HBM units and
which of them the host may reach, weight-store units as (die, unit), collective weight per die, link weight per port, the
address of its region control block, its wait-threshold floor, the log ring's address and size, its virtual functions, and its admission
table as (peer package, peer partition, units). -/
structure PartSpec where
  num : Nat
  clusters : List Nat
  hbmUnits : List Nat
  visible : List Nat
  wsUnits : List (Nat × Nat)
  collWeight : List Nat
  rcb : Nat
  waitFloor : Nat
  logBase : Nat
  logN : Nat
  linkWeight : List Nat
  vfs : List Nat
  admits : List (Nat × Nat × List Nat)
deriving DecidableEq, Repr

/-- One rank's issue of a collective as a peer package reports it (R322, R323): the fields that the ranks must agree on,
its run, its source lanes, and, for `.sk`, the bytes of its sketch state. -/
structure PeerRank where
  index : Nat
  kind : Nat
  op : Nat
  lanes : Nat
  nelem : Nat
  alg : Nat
  ebase : Nat
  run : Nat
  data : List Word
  state : List Byte
deriving DecidableEq, Repr

/-- A request that a peer package sends to this one (R239, R368, R369). -/
inductive PeerReq where
  | load (pa : Nat) (size : Nat)
  | store (pa : Nat) (data : List Byte)
  | atomic (op : AOp) (pa : Nat) (size : Nat) (data : Nat)
  | atomicF (op : AfOp) (pa : Nat) (data : Nat)
  | compare (pa : Nat) (size : Nat) (cmp : Nat) (data : Nat)
  | push (ctx : Nat) (queue : Nat) (key : Nat) (data : List Byte)
deriving DecidableEq, Repr

/-- One constructor per row of the opcode table. -/
inductive Instr where
  -- rows 0x0 and 0x1
  | nop (x : Ops)
  | mov (x : Ops)
  | movw (x : Ops)
  | iadd (x : Ops) (m : SatMode)
  | isub (x : Ops) (m : SatMode)
  | imul (x : Ops) (m : SatMode)
  | imulh (x : Ops) (u : Bool)
  | imad (x : Ops) (m : SatMode)
  | iadd64 (x : Ops) (m : SatMode)
  | isub64 (x : Ops) (m : SatMode)
  | imul64 (x : Ops) (m : SatMode)
  | imad64w (x : Ops) (u : Bool)
  | imin (x : Ops) (u : Bool)
  | imax (x : Ops) (u : Bool)
  | iabs (x : Ops) (sat : Bool)
  | ineg (x : Ops) (sat : Bool)
  | and (x : Ops) (w : Bool)
  | or (x : Ops) (w : Bool)
  | xor (x : Ops) (w : Bool)
  | andn (x : Ops) (w : Bool)
  | shl (x : Ops) (w : Bool)
  | shr (x : Ops) (w : Bool)
  | sar (x : Ops) (w : Bool)
  | rot (x : Ops) (w : Bool)
  | popc (x : Ops) (w : Bool)
  | clz (x : Ops) (w : Bool)
  | brev (x : Ops) (w : Bool)
  | bfe (x : Ops) (u : Bool)
  | bfi (x : Ops)
  | sel (x : Ops) (w : Bool)
  | icmp (x : Ops) (r : IRel) (t : ITy)
  | lea (x : Ops) (sh : BitVec 3) (u : Bool)
  -- row 0x2
  | fadd (x : Ops) (w : Bool) (r : Rnd)
  | fsub (x : Ops) (w : Bool) (r : Rnd)
  | fmul (x : Ops) (w : Bool) (r : Rnd)
  | ffma (x : Ops) (w : Bool) (r : Rnd)
  | fmin (x : Ops) (w : Bool) (nan : Bool)
  | fmax (x : Ops) (w : Bool) (nan : Bool)
  | fdiv (x : Ops) (w : Bool) (r : Rnd)
  | fsqrt (x : Ops) (w : Bool) (r : Rnd)
  | frcp (x : Ops) (w : Bool) (r : Rnd)
  | frsq (x : Ops) (w : Bool) (r : Rnd)
  | fexp2 (x : Ops) (w : Bool)
  | flog2 (x : Ops) (w : Bool)
  | fsinpi (x : Ops) (w : Bool)
  | fcospi (x : Ops) (w : Bool)
  | fcmp (x : Ops) (w : Bool) (rel : FRel) (u : Bool)
  | fclass (x : Ops) (w : Bool)
  -- row 0x3
  | cvtfi (x : Ops) (r : Rnd) (w : Bool) (t : ITy)
  | cvtif (x : Ops) (r : Rnd) (w : Bool) (t : ITy)
  | cvtff (x : Ops) (r : Rnd) (k : FfCode)
  | frnd (x : Ops) (r : Rnd) (w : Bool)
  | fscalb (x : Ops) (r : Rnd) (w : Bool)
  | fexpn (x : Ops) (w : Bool)
  | hadd2 (x : Ops) (r : Rnd) (bf : Bool)
  | hmul2 (x : Ops) (r : Rnd) (bf : Bool)
  | hfma2 (x : Ops) (r : Rnd) (bf : Bool)
  | pcvt (x : Ops) (r : Rnd) (k : PkCode)
  | upcvt (x : Ops) (k : PkCode)
  | fdot2 (x : Ops) (r : Rnd) (bf : Bool)
  -- row 0x4
  | ivmk (x : Ops) (k : IvmkKind) (e w : Bool)
  | ivadd (x : Ops) (e w : Bool)
  | ivsub (x : Ops) (e w : Bool)
  | ivmul (x : Ops) (e w : Bool)
  | ivdiv (x : Ops) (e w : Bool)
  | ivsqr (x : Ops) (e w : Bool)
  | ivsqrt (x : Ops) (e w : Bool)
  | ivneg (x : Ops) (e w : Bool)
  | ivabs (x : Ops) (e w : Bool)
  | ivmeet (x : Ops) (e w : Bool)
  | ivjoin (x : Ops) (e w : Bool)
  | ivmid (x : Ops) (e w : Bool)
  | ivwid (x : Ops) (e w : Bool)
  | ivcmp (x : Ops) (r : IvRel) (e w : Bool)
  | ivsplit (x : Ops) (e w : Bool)
  | ivtest (x : Ops) (t : IvTest) (w : Bool)
  -- row 0x5
  | pand (x : Ops)
  | por (x : Ops)
  | pnot (x : Ops)
  | pxor (x : Ops)
  | pres (x : Ops) (ut : Bool)
  | doti8 (x : Ops) (za zb : Bool)
  | doti4 (x : Ops)
  | dotn8 (x : Ops) (wa wb : Bool)
  | dotn4 (x : Ops)
  | pscl (x : Ops) (r : Rnd)
  -- row 0x6
  | tshape (x : Ops)
  | tshapeFree (x : Ops)
  | tshapeRs (x : Ops)
  | trd (x : Ops)
  | tld (x : Ops) (sp : Space)
  | tst (x : Ops) (sp : Space)
  | mma (x : Ops) (z : Bool)
  | accz (x : Ops)
  | accrd (x : Ops) (f : AccFmt)
  | accwr (x : Ops) (f : AccFmt)
  | mctx (x : Ops)
  | mctxRel (x : Ops)
  | elect (x : Ops) (core : Bool)
  | msync (x : Ops)
  -- row 0x7
  | bra (x : Ops)
  | brx (x : Ops)
  | brt (x : Ops)
  | call (x : Ops)
  | callx (x : Ops)
  | ret (x : Ops)
  | exit (x : Ops)
  | spawn (x : Ops)
  | yield (x : Ops)
  | trap (x : Ops)
  | bkpt (x : Ops)
  | sys (x : Ops)
  -- row 0x8
  | bar (x : Ops)
  | bara (x : Ops)
  | barw (x : Ops)
  | rvx (x : Ops)
  | rvred (x : Ops) (op : RvOp)
  | waita (x : Ops) (sc : Scope) (sp : Space) (ne : Bool)
  | qpush (x : Ops) (nb w : Bool)
  | qpop (x : Ops) (grp nb : Bool)
  | qcnt (x : Ops) (rst : Bool)
  | qclose (x : Ops)
  | qstat (x : Ops)
  -- row 0x9
  | ld (x : Ops) (sx : Bool) (sz : MSize) (sp : Space)
  | st (x : Ops) (sz : MSize) (sp : Space)
  | ldi (x : Ops) (w : Bool) (sp : Space)
  | sti (x : Ops) (w : Bool) (sp : Space)
  | ldt (x : Ops) (sx : Bool) (sz : MSize) (sp : Space)
  | stt (x : Ops) (sz : MSize) (sp : Space)
  | pref (x : Ops)
  | fence (x : Ops) (k : MOrd)
  | cflush (x : Ops) (inv : Bool)
  | cinv (x : Ops) (sc : Scope)
  -- row 0xA
  | atom (x : Ops) (op : AOp) (sp : Space)
  | atomc (x : Ops) (sp : Space)
  | red (x : Ops) (op : AOp) (sp : Space)
  | atomf (x : Ops) (op : AfOp) (sp : Space)
  | atom64 (x : Ops) (op : AOp) (sp : Space)
  | atomc64 (x : Ops) (sp : Space)
  -- row 0xB
  | skbind (x : Ops) (clr : Bool)
  | skfree (x : Ops)
  | skins (x : Ops) (del : Bool)
  | skqry (x : Ops)
  | skmerge (x : Ops)
  | skfold (x : Ops)
  | skclr (x : Ops)
  | skstat (x : Ops)
  -- row 0xC
  | cpy (x : Ops) (k : CpyKind) (dsp ssp : Space)
  | cpyw (x : Ops) (ssp : Space)
  | cpyl (x : Ops) (fill : Bool)
  | coll (x : Ops) (sk : Bool)
  | hwait (x : Ops)
  | htest (x : Ops)
  | hcancel (x : Ops)
  | hmov (x : Ops)
  | cslot (x : Ops)
  | cslotFree (x : Ops)
  -- row 0xD
  | srd (x : Ops)
  | swr (x : Ops)
  | feat (x : Ops)
  | eret (x : Ops)
  | tlbi (x : Ops) (all : Bool) (sc : Scope)
  | evrd (x : Ops)
  | evcfg (x : Ops)
  -- patterns that are no instruction of Lanioz base 1 (R25, R41, R44)
  | extensionSlot (n : BitVec 4)
  | padWord
  | nonInstruction
  -- steps of the thread's own hardware
  | heldTrap (t : ThreadRef)
  | producerCompletion (t : ThreadRef) (op : Nat)
  | waitEnd (t : ThreadRef)
  | pickerOverride (core bench cls : Nat)
  | yieldExpiry (t : ThreadRef)
  | eventWindowRestart (core cls : Nat)
  -- steps of the stage arbiter and of the parking hardware
  | arbiterPass (part choice : Nat)
  | preemption (team : Nat)
  | teamPark (team : Nat)
  | rackFire (team cond : Nat)
  | teamRestore (team : Nat)
  | displacement (team core : Nat)
  | spawnRingStart (team : Nat)
  | teamExit (team : Nat)
  | barrierWatchdog (team : Nat) (w : WatchItem)
  -- steps of queue units, engines, matrix contexts, sketch units and homes
  | queueServe (ctx queue : Nat)
  | qpushAccept (ctx queue : Nat)
  | engineCompletion (core op : Nat)
  | groupAssembly (die slot : Nat) (peers : List PeerRank) (order : Nat)
  | collAbort (group : List Nat) (num : Nat) (received : List Nat)
  | weltEnqueue (core op : Nat)
  | matrixCommandExecute (core mc : Nat) (agree : Bool)
  | sketchOperation (t : ThreadRef) (op : Nat)
  | homeAtomic (t : ThreadRef) (op : Nat)
  | homeRequest (t : ThreadRef) (op : Nat)
  -- steps of the memories
  | hbmReply (stack tag : Nat)
  | scrubPass (stack : Nat)
  | scrubEscalation (stack : Nat)
  | frameMigration (stack src dst : Nat)
  | wsRefresh (die : Nat)
  | splitChange (core split : Nat)
  | faultRecord (ctx : Nat)
  | uncorrectableError (e : ErrSite)
  | correctedError (e : ErrSite)
  -- writes of the host to a virtual function's registers
  | ctxtab (vf : Nat) (v : DWord)
  | ctxcnt (vf : Nat) (v : DWord)
  | qtab (vf : Nat) (v : DWord)
  | qcount (vf : Nat) (v : DWord)
  | fresume (vf ctx seq : Nat)
  | fresumeDeny (vf ctx seq : Nat)
  | tlbinvVa (vf ctx : Nat) (va : DWord)
  | tlbinvAll (vf ctx : Nat)
  | doorbell (vf queue : Nat) (v : DWord)
  | unlistedRegisterWrite (vf : Nat) (off : Nat) (v : DWord)
  -- packets of a user queue
  | launch (vf queue : Nat)
  | wait (vf queue : Nat)
  | wsload (vf queue : Nat)
  | fill (vf queue : Nat)
  | copy (vf queue : Nat)
  | reservedTypePacket (vf queue : Nat)
  | packetCompletion (vf queue : Nat) (index : Nat)
  -- the host's memory port, the fabric and the firmware
  | hostMemAccess (write : Bool) (pa : Nat) (size : Nat) (data : Nat)
  | flitReceive (port : Nat) (good : Bool) (seq : Nat)
  | linkDown (port : Nat)
  | remoteRequest (peer part : Nat) (r : PeerReq)
  | boot (img : FwImage)
  | firmwareImage (img : FwImage)
  | partitionCreate (p : PartSpec)
  | partitionDestroy (part : Nat)
  | faultRingEntryCleared (ctx : Nat) (entry : Nat)
  | hostCxlCacheSnoop (line : Nat) (invalidate : Bool) (data : List Byte)
deriving DecidableEq, Repr

end Sys2Proof
end

