-- ==== Sys2Proof/WellFormed.lean ====
section
/-!
DEFINITION. What makes an encoding legal (`FieldsLegal` of R43, with R30 to R32, R36 to R38): one row per instruction
(`Instr.row`) gives its opcode, MOD, lengths, the role of each field and the layout of its extra word, and `Instr.wf`
checks an instruction against its row. The decoder, the encoder and the machine all read the same rows.
-/

namespace Sys2Proof

/-- What a field of the first word is at an instruction's length and MOD (R29 to R31). -/
inductive Role where
  /-- unused: 0, with its EP and DK bits 0 (R31) -/
  | none
  /-- the destination: `n` registers from a base that is a multiple of `n` (R30) -/
  | dst (n : Nat)
  /-- a register source of `n` registers from a base that is a multiple of `n` (R30, R34) -/
  | src (n : Nat)
  /-- a source of `n` consecutive registers from any base: the coordinates of LDT and STT (R247) -/
  | coords (n : Nat)
  /-- a single source read regardless of its empty bit (R34, R310): its EP bit is 0 -/
  | raw
  /-- a source in field D: the data of STT, always waited on, never marked dead (R247) -/
  | data (n : Nat)
  /-- an 8-bit immediate or a code: its limits are checked by the row -/
  | imm
  /-- a tile register, 0 to 31 (R30) -/
  | tile
  /-- a stage queue or a sketch slot, 0 to 63 (R30, R290) -/
  | num64
deriving DecidableEq, Repr

/-- The extra word's layout (R37). -/
inductive Layout where
  /-- an immediate: IMM32 in the M form, IMM64 in the L form; nothing in the S form -/
  | imm
  /-- a branch, call or spawn offset in IMM32: bits [1:0] are 0 -/
  | offset
  /-- BRANCH2: two offsets, bits [1:0] of each 0 -/
  | branch2
  /-- MEMORY for a load (R248) -/
  | memLoad
  /-- MEMORY for a store (R248) -/
  | memStore
  /-- MEMORY for PREF, TLD and TST: relaxed, SCOPE 000, any hint (R164, R248) -/
  | memHint
  /-- MEMORY for CFLUSH and CINV: relaxed, SCOPE 000, hint normal (R248) -/
  | memPlain
  /-- MEMORY for row 0xA (R248) -/
  | memAtomic
  /-- ENGINE in the L form (R162, R311); IMM32 in the M form of ACCRD and ACCWR -/
  | engine
  /-- the extra word of CPYW (R318) -/
  | welt
deriving DecidableEq, Repr

/-- One row: opcode, MOD, allowed lengths, roles of D, A, B, C, layout, and any further limit of its fields. -/
structure Row where
  opc : Nat
  mod : Nat
  lens : List Len
  d : Role := .none
  a : Role := .none
  b : Role := .none
  c : Role := .none
  lay : Layout := .imm
  more : Bool := true
deriving DecidableEq, Repr

/-- MOD[1:0] of the integer instructions (R96). -/
def SatMode.code : SatMode → Nat
  | .wrap => 0
  | .sat => 1
  | .satU => 3

/-- The rounding codes (R39). -/
def Rnd.code : Rnd → Nat
  | .rne => 0
  | .rtz => 1
  | .rup => 2
  | .rdn => 3
  | .dyn => 4

/-- ICMP MOD[2:0] (R101). -/
def IRel.code : IRel → Nat
  | .eq => 0
  | .ne => 1
  | .lt => 2
  | .le => 3
  | .gt => 4
  | .ge => 5

/-- FCMP MOD[2:0] (R111). -/
def FRel.code : FRel → Nat
  | .eq => 0
  | .ne => 1
  | .lt => 2
  | .le => 3
  | .gt => 4
  | .ge => 5
  | .un => 6
  | .or => 7

/-- The type code of CVTFI and CVTIF (R113). -/
def ITy.code : ITy → Nat
  | .i32 => 0
  | .z32 => 1
  | .i64 => 2
  | .z64 => 3

/-- The type is unsigned. -/
def ITy.unsigned : ITy → Bool
  | .z32 | .z64 => true
  | .i32 | .i64 => false

/-- The type has 64 bits. -/
def ITy.wide : ITy → Bool
  | .i64 | .z64 => true
  | .i32 | .z32 => false

/-- CVTFF MOD[5:3] (R115). -/
def FfCode.code : FfCode → Nat
  | .f32f64 => 0
  | .f64f32 => 1
  | .f16f32 => 2
  | .f32f16 => 3
  | .bf16f32 => 4
  | .f32bf16 => 5
  | .f16f64 => 6
  | .f64f16 => 7

/-- A widening conversion: exact, and RND is 0 (R115). -/
def FfCode.widening : FfCode → Bool
  | .f64f32 | .f32f16 | .f32bf16 | .f64f16 => true
  | .f32f64 | .f16f32 | .bf16f32 | .f16f64 => false

/-- PCVT and UPCVT MOD[5:3] (R119). -/
def PkCode.code : PkCode → Nat
  | .f16 => 0
  | .bf16 => 1
  | .n8 => 2
  | .n8w => 3
  | .n4 => 4
  | .i8 => 5
  | .i4 => 6

/-- Elements per register of a packed format (R119). -/
def PkCode.elems : PkCode → Nat
  | .f16 | .bf16 => 2
  | .n8 | .n8w | .i8 => 4
  | .n4 | .i4 => 8

/-- IVMK OP (R129). -/
def IvmkKind.code : IvmkKind → Nat
  | .bounds => 0
  | .pt => 1
  | .cvt => 2

/-- IVCMP OP (R135). -/
def IvRel.code : IvRel → Nat
  | .lt => 0
  | .le => 1
  | .gt => 2
  | .ge => 3
  | .eq => 4
  | .ne => 5
  | .sub => 6
  | .int => 7
  | .dis => 8
  | .seq => 9
  | .clt => 10
  | .cle => 11
  | .plt => 12
  | .ple => 13

/-- IVTEST OP (R137). -/
def IvTest.code : IvTest → Nat
  | .empty => 0
  | .entire => 1
  | .bnd => 2
  | .pt => 3
  | .zero => 4
  | .mem => 5

/-- The space codes (R164, R248, R256, R316). -/
def Space.code : Space → Nat
  | .glb => 0
  | .loc => 1
  | .ws => 2

/-- Registers that hold an address of the space (R221). -/
def Space.regs : Space → Nat
  | .glb => 2
  | .loc | .ws => 1

/-- ACCRD and ACCWR MOD[1:0] (R162). -/
def AccFmt.code : AccFmt → Nat
  | .b32 => 0
  | .f16 => 1
  | .bf16 => 2
  | .n8 => 3

/-- RVRED MOD[2:0] (R210). -/
def RvOp.code : RvOp → Nat
  | .addF32 => 0
  | .addI32 => 1
  | .minF32 => 2
  | .maxF32 => 3
  | .minI32 => 4
  | .maxI32 => 5

/-- The scope codes (R38). -/
def Scope.code : Scope → Nat
  | .thr => 0
  | .team => 1
  | .die => 2
  | .pkg => 3
  | .sys => 4

/-- The scope a code names; codes 5 to 7 are reserved (R38). -/
def Scope.ofCode : Nat → Option Scope
  | 0 => some .thr
  | 1 => some .team
  | 2 => some .die
  | 3 => some .pkg
  | 4 => some .sys
  | _ => Option.none

/-- The order codes (R38). -/
def MOrd.code : MOrd → Nat
  | .rlx => 0
  | .acq => 1
  | .rel => 2
  | .ar => 3

/-- The size codes (R248). -/
def MSize.code : MSize → Nat
  | .b8 => 0
  | .b16 => 1
  | .b32 => 2
  | .b64 => 3
  | .b128 => 4

/-- The size in bytes (R248). -/
def MSize.bytes : MSize → Nat
  | .b8 => 1
  | .b16 => 2
  | .b32 => 4
  | .b64 => 8
  | .b128 => 16

/-- Registers that hold a datum of the size (R247). -/
def MSize.regs : MSize → Nat
  | .b8 | .b16 | .b32 => 1
  | .b64 => 2
  | .b128 => 4

/-- The operation codes of ATOM, ATOM64 and RED (R257). -/
def AOp.code : AOp → Nat
  | .add => 0
  | .and => 1
  | .or => 2
  | .xor => 3
  | .exch => 4
  | .min => 5
  | .max => 6
  | .minZ => 7
  | .maxZ => 8
  | .addF32 => 9
  | .addI64 => 10

/-- The operation codes of ATOMF (R257). -/
def AfOp.code : AfOp → Nat
  | .addF32 => 0
  | .minF32 => 1
  | .maxF32 => 2
  | .addF64 => 3
  | .minF64 => 4
  | .maxF64 => 5

/-- The operation acts on binary64 (R257). -/
def AfOp.wide : AfOp → Bool
  | .addF64 | .minF64 | .maxF64 => true
  | .addF32 | .minF32 | .maxF32 => false

/-- CPY MOD[1:0] (R316). -/
def CpyKind.code : CpyKind → Nat
  | .lin => 0
  | .fill => 1
  | .gth => 2
  | .sct => 3

/-- One bit of a MOD value. -/
def bit (b : Bool) (k : Nat) : Nat := if b then 2 ^ k else 0

/-- 64-bit or 32-bit register operand. -/
def wid (w : Bool) : Nat := if w then 2 else 1

/-- Registers of an interval: a pair, or a quad when W = 1 (R126). -/
def ivid (w : Bool) : Nat := if w then 4 else 2

/-- Source B: the field in the S form, an immediate in the longer forms (R93). -/
def Ops.srcB (x : Ops) (n : Nat) : Role := if x.len = .s then .src n else .none

/-- Field C of a row 0x9 instruction: an 8-bit offset in the S form, unused in the M form (R247). -/
def Ops.offC (x : Ops) : Role := if x.len = .s then .imm else .none

/-- The selectors that SRD reads (R191). -/
def selReadable (n : Nat) : Bool := n ≤ 0x0C || (0x10 ≤ n && n ≤ 0x18)

/-- The selectors of 64 bits (R191). -/
def selWide (n : Nat) : Bool := n = 0x0A || n = 0x11 || n = 0x12

/-- The field byte of EVRD and EVCFG: [7:6] and [3] are 0 (R393). -/
def evByteOk (c : BitVec 8) : Bool := c &&& 0xC8 = 0

/-- The registers a bench of CPY coordinates names: eight, from a multiple of 8 (R316). -/
def octet : Role := .src 8

/-- The lists of lengths that R40 allows. -/
def lS : List Len := [.s]
/-- S and M. -/
def lSM : List Len := [.s, .m]
/-- S and L. -/
def lSL : List Len := [.s, .l]
/-- M and L. -/
def lML : List Len := [.m, .l]
/-- M only. -/
def lM : List Len := [.m]
/-- L only. -/
def lL : List Len := [.l]
/-- S and M, and L when W = 1 (R105). -/
def lF (w : Bool) : List Len := if w then [.s, .m, .l] else [.s, .m]

/-- A two-source integer instruction of 32 bits. -/
def rowI (x : Ops) (opc mod : Nat) : Row :=
  { opc := opc, mod := mod, lens := lSM, d := .dst 1, a := .src 1, b := x.srcB 1 }

/-- A two-source integer instruction on pairs (R98). -/
def rowI64 (x : Ops) (opc mod : Nat) : Row :=
  { opc := opc, mod := mod, lens := lSL, d := .dst 2, a := .src 2, b := x.srcB 2 }

/-- AND, OR, XOR, ANDN (R99). -/
def rowBit (x : Ops) (opc : Nat) (w : Bool) : Row :=
  { opc := opc, mod := bit w 0, lens := lSM, d := .dst (wid w), a := .src (wid w), b := x.srcB (wid w) }

/-- The shifts: the count is a single register (R99). -/
def rowSh (x : Ops) (opc : Nat) (w : Bool) : Row :=
  { opc := opc, mod := bit w 0, lens := lSM, d := .dst (wid w), a := .src (wid w), b := x.srcB 1 }

/-- FADD, FSUB, FMUL, FDIV, FMIN, FMAX (R105). -/
def rowF (x : Ops) (opc mod : Nat) (w : Bool) : Row :=
  { opc := opc, mod := mod + bit w 3, lens := lF w, d := .dst (wid w), a := .src (wid w), b := x.srcB (wid w) }

/-- The unary instructions of row 0x2 (R108, R109). -/
def rowF1 (opc mod : Nat) (w : Bool) : Row :=
  { opc := opc, mod := mod + bit w 3, lens := lS, d := .dst (wid w), a := .src (wid w) }

/-- HADD2 and HMUL2 (R113). -/
def rowH (x : Ops) (opc : Nat) (r : Rnd) (bf : Bool) : Row :=
  { opc := opc, mod := r.code + bit bf 3, lens := lSM, d := .dst 1, a := .src 1, b := x.srcB 1 }

/-- The interval operations on two intervals (R130, R132). -/
def rowIv2 (opc : Nat) (e w : Bool) : Row :=
  { opc := opc, mod := bit e 1 + bit w 0, lens := lS, d := .dst (ivid w), a := .src (ivid w), b := .src (ivid w) }

/-- The interval operations on one interval (R130). -/
def rowIv1 (opc : Nat) (e w : Bool) : Row :=
  { opc := opc, mod := bit e 1 + bit w 0, lens := lS, d := .dst (ivid w), a := .src (ivid w) }

/-- DOTI8, DOTI4, DOTN8, DOTN4 (R143). -/
def rowDot (opc mod : Nat) : Row :=
  { opc := opc, mod := mod, lens := lS, d := .dst 1, a := .src 1, b := .src 1, c := .src 1 }

/-- CPY fields by kind (R316). -/
def rowCpy (k : CpyKind) (dsp ssp : Space) : Row :=
  let mod := k.code + 4 * dsp.code + 16 * ssp.code
  let ok := decide (dsp ≠ .ws)
  match k with
  | .lin => { opc := 0xC0, mod := mod, lens := lL, d := .dst 1, a := .src dsp.regs, b := .src ssp.regs, c := .src 1,
              lay := .engine, more := ok }
  | .fill => { opc := 0xC0, mod := mod, lens := lL, d := .dst 1, a := .src dsp.regs, b := .src 1, c := .src 1,
               lay := .engine, more := ok && decide (ssp = .glb) }
  | .gth => { opc := 0xC0, mod := mod, lens := lL, d := .dst 1, a := .src dsp.regs, b := .src 2, c := octet,
              lay := .engine, more := ok }
  | .sct => { opc := 0xC0, mod := mod, lens := lL, d := .dst 1, a := .src 2, b := .src ssp.regs, c := octet,
              lay := .engine, more := ok }

/-- The row of each instruction; a step of another agent has no encoding and no row. -/
def Instr.row : Instr → Option Row
  | .nop _ => some { opc := 0x00, mod := 0, lens := lS }
  | .mov x => some { opc := 0x01, mod := 0, lens := lSM, d := .dst 1, a := if x.len = .s then .src 1 else .none }
  | .movw x => some { opc := 0x02, mod := 0, lens := lSL, d := .dst 2, a := if x.len = .s then .src 2 else .none }
  | .iadd x m => some (rowI x 0x03 m.code)
  | .isub x m => some (rowI x 0x04 m.code)
  | .imul x m => some (rowI x 0x05 m.code)
  | .imulh x u => some (rowI x 0x06 (bit u 1))
  | .imad x m => some { rowI x 0x07 m.code with c := .src 1 }
  | .iadd64 x m => some (rowI64 x 0x08 m.code)
  | .isub64 x m => some (rowI64 x 0x09 m.code)
  | .imul64 x m => some (rowI64 x 0x0A m.code)
  | .imad64w _ u => some { opc := 0x0B, mod := bit u 1, lens := lS, d := .dst 2, a := .src 1, b := .src 1, c := .src 2 }
  | .imin x u => some (rowI x 0x0C (bit u 1))
  | .imax x u => some (rowI x 0x0D (bit u 1))
  | .iabs _ t => some { opc := 0x0E, mod := bit t 0, lens := lS, d := .dst 1, a := .src 1 }
  | .ineg _ t => some { opc := 0x0F, mod := bit t 0, lens := lS, d := .dst 1, a := .src 1 }
  | .and x w => some (rowBit x 0x10 w)
  | .or x w => some (rowBit x 0x11 w)
  | .xor x w => some (rowBit x 0x12 w)
  | .andn x w => some (rowBit x 0x13 w)
  | .shl x w => some (rowSh x 0x14 w)
  | .shr x w => some (rowSh x 0x15 w)
  | .sar x w => some (rowSh x 0x16 w)
  | .rot x w => some (rowSh x 0x17 w)
  | .popc _ w => some { opc := 0x18, mod := bit w 0, lens := lS, d := .dst 1, a := .src (wid w) }
  | .clz _ w => some { opc := 0x19, mod := bit w 0, lens := lS, d := .dst 1, a := .src (wid w) }
  | .brev _ w => some { opc := 0x1A, mod := bit w 0, lens := lS, d := .dst (wid w), a := .src (wid w) }
  | .bfe x u => some (rowI x 0x1B (bit u 1))
  | .bfi x => some { rowI x 0x1C 0 with c := .src 1 }
  | .sel _ w => some { opc := 0x1D, mod := bit w 0, lens := lS, d := .dst (wid w), a := .src (wid w), b := .src (wid w), c := .src 1 }
  | .icmp x r t => some { opc := 0x1E, mod := r.code + bit t.unsigned 3 + bit t.wide 4, lens := lSM, d := .dst 1,
                          a := .src (wid t.wide), b := x.srcB (wid t.wide),
                          more := !(t.unsigned && (decide (r = .eq) || decide (r = .ne))) }
  | .lea x sh u => some { opc := 0x1F, mod := sh.toNat + bit u 3, lens := lSM, d := .dst 2, a := .src 2, b := x.srcB 1 }
  | .fadd x w r => some (rowF x 0x20 r.code w)
  | .fsub x w r => some (rowF x 0x21 r.code w)
  | .fmul x w r => some (rowF x 0x22 r.code w)
  | .ffma x w r => some { rowF x 0x23 r.code w with c := .src (wid w) }
  | .fmin x w n => some (rowF x 0x24 (bit n 4) w)
  | .fmax x w n => some (rowF x 0x25 (bit n 4) w)
  | .fdiv x w r => some (rowF x 0x26 r.code w)
  | .fsqrt _ w r => some (rowF1 0x27 r.code w)
  | .frcp _ w r => some (rowF1 0x28 r.code w)
  | .frsq _ w r => some (rowF1 0x29 r.code w)
  | .fexp2 _ w => some (rowF1 0x2A 0 w)
  | .flog2 _ w => some (rowF1 0x2B 0 w)
  | .fsinpi _ w => some (rowF1 0x2C 0 w)
  | .fcospi _ w => some (rowF1 0x2D 0 w)
  | .fcmp x w rel u => some { opc := 0x2E, mod := rel.code + bit w 3 + bit u 4, lens := lSM, d := .dst 1, a := .src (wid w),
                              b := x.srcB (wid w), more := !(u && (decide (rel = .un) || decide (rel = .or))) }
  | .fclass _ w => some { opc := 0x2F, mod := bit w 3, lens := lS, d := .dst 1, a := .src (wid w) }
  | .cvtfi _ r w t => some { opc := 0x30, mod := r.code + bit w 3 + 16 * t.code, lens := lS, d := .dst (wid t.wide), a := .src (wid w) }
  | .cvtif _ r w t => some { opc := 0x31, mod := r.code + bit w 3 + 16 * t.code, lens := lS, d := .dst (wid w), a := .src (wid t.wide) }
  | .cvtff _ r k => some { opc := 0x32, mod := r.code + 8 * k.code, lens := lS,
                           d := .dst (wid (decide (k = .f64f32) || decide (k = .f64f16))),
                           a := .src (wid (decide (k = .f32f64) || decide (k = .f16f64))),
                           more := !k.widening || decide (r = .rne) }
  | .frnd _ r w => some (rowF1 0x33 r.code w)
  | .fscalb x r w => some { opc := 0x34, mod := r.code + bit w 3, lens := lSM, d := .dst (wid w), a := .src (wid w), b := x.srcB 1 }
  | .fexpn _ w => some { opc := 0x35, mod := bit w 3, lens := lS, d := .dst 1, a := .src (wid w) }
  | .hadd2 x r bf => some (rowH x 0x36 r bf)
  | .hmul2 x r bf => some (rowH x 0x37 r bf)
  | .hfma2 x r bf => some { rowH x 0x38 r bf with c := .src 1 }
  | .pcvt _ r k => some { opc := 0x39, mod := r.code + 8 * k.code, lens := lS, d := .dst 1, a := .src (k.elems / 2),
                          b := .src (k.elems / 2), more := decide (k.code ≤ 1) || decide (r = .rne) }
  | .upcvt x k => some { opc := 0x3A, mod := 8 * k.code, lens := lS, d := .dst 1, a := .src 1, c := .imm,
                         more := decide (x.c.toNat < k.elems) }
  | .fdot2 x r bf => some { rowH x 0x3B r bf with c := .src 1 }
  | .ivmk x k e w =>
    let mod := 4 * k.code + bit e 1 + bit w 0
    match k with
    | .bounds => some { opc := 0x40, mod := mod, lens := lSM, d := .dst (ivid w), a := .src (wid w), b := x.srcB (wid w) }
    | .pt => some { opc := 0x40, mod := mod, lens := lSM, d := .dst (ivid w), a := x.srcB (wid w) }
    | .cvt => some { opc := 0x40, mod := mod, lens := lS, d := .dst (ivid w), a := .src (ivid (!w)) }
  | .ivadd _ e w => some (rowIv2 0x41 e w)
  | .ivsub _ e w => some (rowIv2 0x42 e w)
  | .ivmul _ e w => some (rowIv2 0x43 e w)
  | .ivdiv _ e w => some (rowIv2 0x44 e w)
  | .ivsqr _ e w => some (rowIv1 0x45 e w)
  | .ivsqrt _ e w => some (rowIv1 0x46 e w)
  | .ivneg _ e w => some (rowIv1 0x47 e w)
  | .ivabs _ e w => some (rowIv1 0x48 e w)
  | .ivmeet _ e w => some (rowIv2 0x49 e w)
  | .ivjoin _ e w => some (rowIv2 0x4A e w)
  | .ivmid _ e w => some { rowIv1 0x4B e w with d := .dst (wid w) }
  | .ivwid _ e w => some { rowIv1 0x4C e w with d := .dst (wid w) }
  | .ivcmp _ r e w => some { rowIv2 0x4D e w with mod := 4 * r.code + bit e 1 + bit w 0, d := .dst 1 }
  | .ivsplit x e w => some { rowIv1 0x4E e w with c := .dst 1, more := !decide (x.d.toNat ≤ x.c.toNat ∧ x.c.toNat < x.d.toNat + ivid w) }
  | .ivtest _ t w => some { opc := 0x4F, mod := 4 * t.code + bit w 0, lens := lS, d := .dst 1, a := .src (ivid w),
                            b := if t = .mem then .src (wid w) else .none }
  | .pand _ => some { opc := 0x50, mod := 0, lens := lS, d := .dst 1, a := .src 1, b := .src 1 }
  | .por _ => some { opc := 0x51, mod := 0, lens := lS, d := .dst 1, a := .src 1, b := .src 1 }
  | .pnot _ => some { opc := 0x52, mod := 0, lens := lS, d := .dst 1, a := .src 1 }
  | .pxor _ => some { opc := 0x53, mod := 0, lens := lS, d := .dst 1, a := .src 1, b := .src 1 }
  | .pres _ t => some { opc := 0x54, mod := bit t 0, lens := lS, d := .dst 1, a := .src 1 }
  | .doti8 _ za zb => some (rowDot 0x55 (bit za 0 + bit zb 1))
  | .doti4 _ => some (rowDot 0x56 0)
  | .dotn8 _ wa wb => some (rowDot 0x57 (bit wa 0 + bit wb 1))
  | .dotn4 _ => some (rowDot 0x58 0)
  | .pscl x r => some { opc := 0x59, mod := r.code, lens := lS, d := .dst 1, a := .src 1, b := .src 1, c := .imm,
                        more := decide (x.c.toNat ≤ 3) }
  | .tshape _ => some { opc := 0x60, mod := 0, lens := lS, d := .tile, a := .src 4 }
  | .tshapeFree _ => some { opc := 0x60, mod := 1, lens := lS, d := .tile }
  | .tshapeRs _ => some { opc := 0x60, mod := 2, lens := lM, d := .tile }
  | .trd _ => some { opc := 0x61, mod := 0, lens := lS, d := .dst 4, a := .tile }
  | .tld x sp => some { opc := 0x62, mod := sp.code, lens := lML, d := .dst 1, a := .src sp.regs, c := .tile,
                        lay := if x.len = .l then .engine else .memHint }
  | .tst x sp => some { opc := 0x63, mod := sp.code, lens := lML, d := .dst 1, a := .src sp.regs, c := .tile,
                        lay := if x.len = .l then .engine else .memHint, more := decide (sp ≠ .ws) }
  | .mma x z => some { opc := 0x64, mod := bit z 0, lens := lSM, d := .tile, a := .tile, b := x.srcB 1 }
  | .accz x => some { opc := 0x65, mod := 0, lens := lSM, a := .src 1, b := x.srcB 1 }
  | .accrd x f => some { opc := 0x66, mod := f.code, lens := lML, d := .dst 1, a := .src 1,
                         b := if x.len = .l then .src 1 else .none, c := .src 1, lay := .engine }
  | .accwr x f => some { opc := 0x67, mod := f.code, lens := lML, a := .src 1,
                         b := if x.len = .l then .src 1 else .none, c := .src 1, lay := .engine }
  | .mctx _ => some { opc := 0x68, mod := 0, lens := lS, d := .dst 1 }
  | .mctxRel _ => some { opc := 0x68, mod := 1, lens := lS, d := .dst 1 }
  | .elect _ k => some { opc := 0x69, mod := bit k 0, lens := lS, d := .dst 1 }
  | .msync _ => some { opc := 0x6A, mod := 0, lens := lS, d := .dst 1 }
  | .bra _ => some { opc := 0x70, mod := 0, lens := lM, lay := .offset }
  | .brx _ => some { opc := 0x71, mod := 0, lens := lS, a := .src 2 }
  | .brt _ => some { opc := 0x72, mod := 0, lens := lL, a := .src 1, lay := .branch2 }
  | .call _ => some { opc := 0x73, mod := 0, lens := lM, d := .dst 2, lay := .offset }
  | .callx _ => some { opc := 0x74, mod := 0, lens := lS, d := .dst 2, a := .src 2 }
  | .ret _ => some { opc := 0x75, mod := 0, lens := lS, a := .src 2 }
  | .exit _ => some { opc := 0x76, mod := 0, lens := lS }
  | .spawn x => some { opc := 0x77, mod := 0, lens := lSM, d := .dst 1, a := if x.len = .s then .src 2 else .none, c := .src 1,
                       lay := if x.len = .s then .imm else .offset }
  | .yield _ => some { opc := 0x78, mod := 0, lens := lS }
  | .trap x => some { opc := 0x79, mod := 0, lens := lSM, c := x.offC }
  | .bkpt _ => some { opc := 0x7A, mod := 0, lens := lS }
  | .sys x => some { opc := 0x7B, mod := 0, lens := lSM, c := x.offC }
  | .bar x => some { opc := 0x80, mod := 0, lens := lS, c := .imm, more := decide (x.c.toNat ≤ 15) }
  | .bara x => some { opc := 0x81, mod := 0, lens := lS, d := .dst 1, c := .imm, more := decide (x.c.toNat ≤ 15) }
  | .barw x => some { opc := 0x82, mod := 0, lens := lS, a := .src 1, c := .imm, more := decide (x.c.toNat ≤ 15) }
  | .rvx x => some { opc := 0x83, mod := 0, lens := lS, d := .dst 1, a := .src 1, b := .src 1, c := .imm,
                     more := decide (1 ≤ x.c.toNat ∧ x.c.toNat ≤ 5) }
  | .rvred x op => some { opc := 0x84, mod := op.code, lens := lS, d := .dst 1, a := .src 1, c := .imm,
                          more := decide (1 ≤ x.c.toNat ∧ x.c.toNat ≤ 5) }
  | .waita x sc sp ne => some { opc := 0x85, mod := 4 * sc.code + bit (decide (sp = .glb)) 1 + bit ne 0, lens := lSM, d := .dst 1,
                                a := .src sp.regs, b := x.srcB 1, more := decide (sc ≠ .thr) && decide (sp ≠ .ws) }
  | .qpush x nb w => some { opc := 0x86, mod := bit nb 0 + bit w 1, lens := lSM, d := if nb then .dst 1 else .none,
                            a := .src (if w then 1 else 4), b := x.srcB 1, c := .num64,
                            more := decide (x.len = .s) || decide (x.ext.toNat < 4096) }
  | .qpop x grp nb => some { opc := 0x87, mod := bit grp 0 + bit nb 1, lens := if grp then lSM else lS, d := .dst 2, a := .src 1,
                             b := if grp then x.srcB 1 else .none, c := .num64 }
  | .qcnt _ rst => some { opc := 0x88, mod := bit rst 0, lens := lS, d := .dst 1, a := .src 1, c := .num64 }
  | .qclose _ => some { opc := 0x89, mod := 0, lens := lS, c := .num64 }
  | .qstat _ => some { opc := 0x8A, mod := 0, lens := lS, d := .dst 2, c := .num64 }
  | .ld x sx sz sp => some { opc := 0x90, mod := sp.code + 4 * sz.code + bit sx 5, lens := lSM, d := .dst sz.regs, a := .src sp.regs,
                             c := x.offC, lay := .memLoad, more := !sx || decide (sz.code ≤ 1) }
  | .st x sz sp => some { opc := 0x91, mod := sp.code + 4 * sz.code, lens := lSM, a := .src sp.regs, b := .src sz.regs,
                          c := x.offC, lay := .memStore, more := decide (sp ≠ .ws) }
  | .ldi x w sp => some { opc := 0x92, mod := sp.code + 4 * bit w 0, lens := lSM, d := .dst (ivid w), a := .src sp.regs,
                          c := x.offC, lay := .memLoad }
  | .sti x w sp => some { opc := 0x93, mod := sp.code + 4 * bit w 0, lens := lSM, a := .src sp.regs, b := .src (ivid w),
                          c := x.offC, lay := .memStore, more := decide (sp ≠ .ws) }
  | .ldt x sx sz sp => some { opc := 0x94, mod := sp.code + 4 * sz.code + bit sx 5, lens := lSM, d := .dst sz.regs, a := .src 2,
                              b := .coords x.c.toNat, c := .imm, lay := .memLoad,
                              more := (!sx || decide (sz.code ≤ 1)) && decide (1 ≤ x.c.toNat ∧ x.c.toNat ≤ 7) }
  | .stt x sz sp => some { opc := 0x95, mod := sp.code + 4 * sz.code, lens := lSM, d := .data sz.regs, a := .src 2,
                           b := .coords x.c.toNat, c := .imm, lay := .memStore,
                           more := decide (sp ≠ .ws) && decide (1 ≤ x.c.toNat ∧ x.c.toNat ≤ 7) }
  | .pref x => some { opc := 0x96, mod := 0, lens := lSM, a := .src 2, c := x.offC, lay := .memHint }
  | .fence x k => some { opc := 0x97, mod := 4 * k.code, lens := lS, d := .imm,
                         more := decide (k ≠ .rlx) && decide (1 ≤ x.d.toNat ∧ x.d.toNat ≤ 4) }
  | .cflush x inv => some { opc := 0x98, mod := bit inv 0, lens := lSM, a := .src 2, c := x.offC, lay := .memPlain }
  | .cinv x sc => some { opc := 0x99, mod := sc.code, lens := lSM, a := .src 2, c := x.offC, lay := .memPlain,
                         more := decide (sc ≠ .thr) && decide (sc ≠ .sys) }
  | .atom _ op sp => some { opc := 0xA0, mod := sp.code + 4 * op.code, lens := lSM, d := .dst 1, a := .src sp.regs, b := .src 1,
                            lay := .memAtomic, more := decide (sp ≠ .ws) && decide (op.code ≤ 8) }
  | .atomc _ sp => some { opc := 0xA1, mod := sp.code, lens := lSM, d := .dst 1, a := .src sp.regs, b := .src 1, c := .src 1,
                          lay := .memAtomic, more := decide (sp ≠ .ws) }
  | .red _ op sp => some { opc := 0xA2, mod := sp.code + 4 * op.code, lens := lSM, a := .src sp.regs,
                           b := .src (wid (decide (op = .addI64))), lay := .memAtomic,
                           more := decide (sp ≠ .ws) && decide (op ≠ .exch) }
  | .atomf _ op sp => some { opc := 0xA3, mod := sp.code + 4 * op.code, lens := lSM, d := .dst (wid op.wide), a := .src sp.regs,
                             b := .src (wid op.wide), lay := .memAtomic, more := decide (sp ≠ .ws) }
  | .atom64 _ op sp => some { opc := 0xA4, mod := sp.code + 4 * op.code, lens := lSM, d := .dst 2, a := .src sp.regs, b := .src 2,
                              lay := .memAtomic, more := decide (sp ≠ .ws) && decide (op.code ≤ 8) }
  | .atomc64 _ sp => some { opc := 0xA5, mod := sp.code, lens := lSM, d := .dst 2, a := .src sp.regs, b := .src 2, c := .src 2,
                            lay := .memAtomic, more := decide (sp ≠ .ws) }
  | .skbind _ clr => some { opc := 0xB0, mod := bit clr 0, lens := lS, a := .src 2, c := .num64 }
  | .skfree _ => some { opc := 0xB1, mod := 0, lens := lS, c := .num64 }
  | .skins _ del => some { opc := 0xB2, mod := bit del 0, lens := lS, a := .src 2, b := .src 1, c := .num64 }
  | .skqry _ => some { opc := 0xB3, mod := 0, lens := lS, d := .dst 1, a := .src 2, c := .num64 }
  | .skmerge _ => some { opc := 0xB4, mod := 0, lens := lS, b := .num64, c := .num64 }
  | .skfold _ => some { opc := 0xB5, mod := 0, lens := lS, c := .num64 }
  | .skclr _ => some { opc := 0xB6, mod := 0, lens := lS, c := .num64 }
  | .skstat _ => some { opc := 0xB7, mod := 0, lens := lS, d := .dst 4, c := .num64 }
  | .cpy _ k dsp ssp => some (rowCpy k dsp ssp)
  | .cpyw _ ssp => some { opc := 0xC1, mod := ssp.code, lens := lL, d := .dst 1, a := .src 2, b := octet, c := .tile, lay := .welt }
  | .cpyl _ f => some { opc := 0xC2, mod := bit f 0, lens := lL, d := .dst 1, a := .src 2, b := .src (wid (!f)), c := .src 2, lay := .engine }
  | .coll _ sk => some { opc := 0xC3, mod := bit sk 0, lens := lL, d := .dst 1, a := .src (wid (!sk)),
                         b := if sk then .none else .src 2, c := .src 2, lay := .engine }
  | .hwait _ => some { opc := 0xC4, mod := 0, lens := lS, d := .dst 2, a := .src 1 }
  | .htest _ => some { opc := 0xC5, mod := 0, lens := lS, d := .dst 2, a := .raw }
  | .hcancel _ => some { opc := 0xC6, mod := 0, lens := lS, d := .dst 1, a := .raw }
  | .hmov _ => some { opc := 0xC7, mod := 0, lens := lS, d := .dst 1, a := .raw }
  | .cslot _ => some { opc := 0xC8, mod := 0, lens := lS, d := .dst 1, a := .src 1 }
  | .cslotFree _ => some { opc := 0xC8, mod := 1, lens := lS, d := .dst 1, a := .src 1 }
  | .srd x => some { opc := 0xD0, mod := 0, lens := lS, d := .dst (wid (selWide x.c.toNat)), c := .imm, more := selReadable x.c.toNat }
  | .swr x => some { opc := 0xD1, mod := 0, lens := lS, a := .src 1, c := .imm, more := decide (x.c = 0x09) || decide (x.c = 0x18) }
  | .feat x => some { opc := 0xD2, mod := 0, lens := lS, d := .dst 1, c := .imm, more := decide (x.c.toNat ≤ 1) }
  | .eret _ => some { opc := 0xD3, mod := 0, lens := lS }
  | .tlbi _ all sc => some { opc := 0xD4, mod := bit all 0 + 2 * sc.code, lens := lS, a := if all then .none else .src 2,
                             more := decide (sc ≠ .thr) && decide (sc ≠ .sys) }
  | .evrd x => some { opc := 0xD5, mod := 0, lens := lS, d := .dst 1, c := .imm, more := evByteOk x.c }
  | .evcfg x => some { opc := 0xD6, mod := 0, lens := lS, a := .src 1, c := .imm, more := evByteOk x.c }
  | .extensionSlot _ | .padWord | .nonInstruction | .heldTrap _ | .producerCompletion _ _ | .waitEnd _ | .pickerOverride _ _ _
  | .yieldExpiry _ | .eventWindowRestart _ _ | .arbiterPass _ _ | .preemption _ | .teamPark _ | .rackFire _ _ | .teamRestore _
  | .displacement _ _ | .spawnRingStart _ | .teamExit _ | .barrierWatchdog _ _ | .queueServe _ _ | .qpushAccept _ _
  | .engineCompletion _ _ | .groupAssembly _ _ _ _ | .collAbort _ _ _ | .weltEnqueue _ _ | .matrixCommandExecute _ _ _
  | .sketchOperation _ _ | .homeAtomic _ _ | .homeRequest _ _ | .hbmReply _ _ | .scrubPass _ | .scrubEscalation _
  | .frameMigration _ _ _ | .wsRefresh _ | .splitChange _ _ | .faultRecord _ | .uncorrectableError _ | .correctedError _
  | .ctxtab _ _ | .ctxcnt _ _ | .qtab _ _ | .qcount _ _ | .fresume _ _ _ | .fresumeDeny _ _ _ | .tlbinvVa _ _ _ | .tlbinvAll _ _
  | .doorbell _ _ _ | .unlistedRegisterWrite _ _ _ | .launch _ _ | .wait _ _ | .wsload _ _ | .fill _ _ | .copy _ _
  | .reservedTypePacket _ _ | .packetCompletion _ _ _ | .hostMemAccess _ _ _ _ | .flitReceive _ _ _ | .linkDown _
  | .remoteRequest _ _ _ | .boot _ | .firmwareImage _ | .partitionCreate _ | .partitionDestroy _ | .faultRingEntryCleared _ _
  | .hostCxlCacheSnoop _ _ _ => none

/-- The operand fields of an instruction. -/
def Instr.ops : Instr → Option Ops
  | .nop x | .mov x | .movw x | .iadd x _ | .isub x _ | .imul x _ | .imulh x _ | .imad x _ | .iadd64 x _ | .isub64 x _ | .imul64 x _
  | .imad64w x _ | .imin x _ | .imax x _ | .iabs x _ | .ineg x _ | .and x _ | .or x _ | .xor x _ | .andn x _ | .shl x _ | .shr x _
  | .sar x _ | .rot x _ | .popc x _ | .clz x _ | .brev x _ | .bfe x _ | .bfi x | .sel x _ | .icmp x _ _ | .lea x _ _
  | .fadd x _ _ | .fsub x _ _ | .fmul x _ _ | .ffma x _ _ | .fmin x _ _ | .fmax x _ _ | .fdiv x _ _ | .fsqrt x _ _ | .frcp x _ _
  | .frsq x _ _ | .fexp2 x _ | .flog2 x _ | .fsinpi x _ | .fcospi x _ | .fcmp x _ _ _ | .fclass x _ | .cvtfi x _ _ _ | .cvtif x _ _ _
  | .cvtff x _ _ | .frnd x _ _ | .fscalb x _ _ | .fexpn x _ | .hadd2 x _ _ | .hmul2 x _ _ | .hfma2 x _ _ | .pcvt x _ _ | .upcvt x _
  | .fdot2 x _ _ | .ivmk x _ _ _ | .ivadd x _ _ | .ivsub x _ _ | .ivmul x _ _ | .ivdiv x _ _ | .ivsqr x _ _ | .ivsqrt x _ _
  | .ivneg x _ _ | .ivabs x _ _ | .ivmeet x _ _ | .ivjoin x _ _ | .ivmid x _ _ | .ivwid x _ _ | .ivcmp x _ _ _ | .ivsplit x _ _
  | .ivtest x _ _ | .pand x | .por x | .pnot x | .pxor x | .pres x _ | .doti8 x _ _ | .doti4 x | .dotn8 x _ _ | .dotn4 x | .pscl x _
  | .tshape x | .tshapeFree x | .tshapeRs x | .trd x | .tld x _ | .tst x _ | .mma x _ | .accz x | .accrd x _ | .accwr x _ | .mctx x
  | .mctxRel x | .elect x _ | .msync x | .bra x | .brx x | .brt x | .call x | .callx x | .ret x | .exit x | .spawn x | .yield x | .trap x
  | .bkpt x | .sys x | .bar x | .bara x | .barw x | .rvx x | .rvred x _ | .waita x _ _ _ | .qpush x _ _ | .qpop x _ _ | .qcnt x _
  | .qclose x | .qstat x | .ld x _ _ _ | .st x _ _ | .ldi x _ _ | .sti x _ _ | .ldt x _ _ _ | .stt x _ _ | .pref x | .fence x _
  | .cflush x _ | .cinv x _ | .atom x _ _ | .atomc x _ | .red x _ _ | .atomf x _ _ | .atom64 x _ _ | .atomc64 x _ | .skbind x _
  | .skfree x | .skins x _ | .skqry x | .skmerge x | .skfold x | .skclr x | .skstat x | .cpy x _ _ _ | .cpyw x _ | .cpyl x _ | .coll x _
  | .hwait x | .htest x | .hcancel x | .hmov x | .cslot x | .cslotFree x | .srd x | .swr x | .feat x | .eret x | .tlbi x _ _ | .evrd x
  | .evcfg x => some x
  | .extensionSlot _ | .padWord | .nonInstruction | .heldTrap _ | .producerCompletion _ _ | .waitEnd _ | .pickerOverride _ _ _
  | .yieldExpiry _ | .eventWindowRestart _ _ | .arbiterPass _ _ | .preemption _ | .teamPark _ | .rackFire _ _ | .teamRestore _
  | .displacement _ _ | .spawnRingStart _ | .teamExit _ | .barrierWatchdog _ _ | .queueServe _ _ | .qpushAccept _ _
  | .engineCompletion _ _ | .groupAssembly _ _ _ _ | .collAbort _ _ _ | .weltEnqueue _ _ | .matrixCommandExecute _ _ _
  | .sketchOperation _ _ | .homeAtomic _ _ | .homeRequest _ _ | .hbmReply _ _ | .scrubPass _ | .scrubEscalation _
  | .frameMigration _ _ _ | .wsRefresh _ | .splitChange _ _ | .faultRecord _ | .uncorrectableError _ | .correctedError _
  | .ctxtab _ _ | .ctxcnt _ _ | .qtab _ _ | .qcount _ _ | .fresume _ _ _ | .fresumeDeny _ _ _ | .tlbinvVa _ _ _ | .tlbinvAll _ _
  | .doorbell _ _ _ | .unlistedRegisterWrite _ _ _ | .launch _ _ | .wait _ _ | .wsload _ _ | .fill _ _ | .copy _ _
  | .reservedTypePacket _ _ | .packetCompletion _ _ _ | .hostMemAccess _ _ _ _ | .flitReceive _ _ _ | .linkDown _
  | .remoteRequest _ _ _ | .boot _ | .firmwareImage _ | .partitionCreate _ | .partitionDestroy _ | .faultRingEntryCleared _ _
  | .hostCxlCacheSnoop _ _ _ => none

/-- The field's value and its EP and DK bits agree with its role (R30, R31, R34). -/
def Role.ok (r : Role) (v : BitVec 8) (ep dk : Bool) : Bool :=
  match r with
  | .none => decide (v = 0) && !ep && !dk
  | .dst n => decide (v.toNat % n = 0) && !ep && !dk
  | .src n => decide (v.toNat % n = 0)
  | .coords n => decide (v.toNat + n ≤ 256)
  | .raw => !ep
  | .data n => decide (v.toNat % n = 0) && !ep && !dk
  | .imm => !ep && !dk
  | .tile => decide (v.toNat < 32) && !ep && !dk
  | .num64 => decide (v.toNat < 64) && !ep && !dk

/-- MEMX[6:5], the order code (R38). -/
def Ops.ordCode (x : Ops) : Nat := x.ext.toNat / 2 ^ 29 % 4

/-- MEMX[4:2], the scope code (R38). -/
def Ops.scopeCode (x : Ops) : Nat := x.ext.toNat / 2 ^ 26 % 8

/-- MEMX[1:0], the cache hint (R38). -/
def Ops.hint (x : Ops) : Nat := x.ext.toNat / 2 ^ 24 % 4

/-- MEMX with bit 95 clear and the order and scope agreeing: no scope with a relaxed access, one of 001 to 100 otherwise
(R38, R248). -/
def Ops.memxOk (x : Ops) (ords : List Nat) (anyHint : Bool) : Bool :=
  decide (x.ext.toNat / 2 ^ 31 = 0) && ords.contains x.ordCode
    && (if x.ordCode = 0 then decide (x.scopeCode = 0) else decide (1 ≤ x.scopeCode ∧ x.scopeCode ≤ 4))
    && (anyHint || decide (x.hint = 0))

/-- The completion part of an engine word (R162, R311): CTL and CWIDX, with the completion value `cw`. -/
def engineOk (ctl idx cw : Nat) : Bool :=
  decide (ctl / 128 = 0) && decide (1 ≤ ctl / 16 ∧ ctl / 16 ≤ 4) && decide (ctl / 2 % 8 = 0)
    && (decide (ctl % 2 = 1) || (decide (idx = 0) && decide (cw = 0)))

/-- The extra word is legal for its layout (R37, R38, R162, R311, R318); a form without one has none. -/
def Ops.extOk (x : Ops) (lay : Layout) : Bool :=
  let e := x.ext.toNat
  match x.len with
  | .s => decide (e = 0)
  | .m =>
    decide (e < 2 ^ 32) &&
    match lay with
    | .imm | .engine | .branch2 | .welt => true
    | .offset => decide (e % 4 = 0)
    | .memLoad => x.memxOk [0, 1] true
    | .memStore => x.memxOk [0, 2] true
    | .memHint => x.memxOk [0] true
    | .memPlain => x.memxOk [0] false
    | .memAtomic => x.memxOk [0, 1, 2, 3] false
  | .l =>
    match lay with
    | .branch2 => decide (e % 4 = 0) && decide (e / 2 ^ 32 % 4 = 0)
    | .engine => engineOk (e / 2 ^ 24 % 256) (e % 2 ^ 24) (e / 2 ^ 32)
    | .welt => engineOk (e / 2 ^ 24 % 256) (e % 2 ^ 24) (e / 2 ^ 32 % 256) && decide (e / 2 ^ 41 % 8192 ≤ 6143)
    | .imm | .offset | .memLoad | .memStore | .memHint | .memPlain | .memAtomic => true

/-- `FieldsLegal` and `LengthAllowed` of R43, but for the kernel's register bound, which only the machine knows (R30). -/
def Row.ok (r : Row) (x : Ops) : Bool :=
  r.lens.contains x.len && (decide (x.g ≠ 0) || decide (x.gs = 0))
    && r.d.ok x.d false false && r.a.ok x.a (x.ep.getLsbD 0) (x.dk.getLsbD 0)
    && r.b.ok x.b (x.ep.getLsbD 1) (x.dk.getLsbD 1) && r.c.ok x.c (x.ep.getLsbD 2) (x.dk.getLsbD 2)
    && x.extOk r.lay && r.more

/-- A well-formed instruction: a legal encoding of R43. A step of another agent has no encoding; it is well formed. -/
def Instr.wf (i : Instr) : Bool :=
  match i.row, i.ops with
  | some r, some x => r.ok x
  | _, _ => true

end Sys2Proof
end

