-- ==== Sys2Proof/Decode.lean ====
section
/-!
DEFINITION. Decoding of the bytes at a program counter, total, refusing by name (R24 to R44), and after it the encoder,
from the same rows. The numbers of R29's fields are read from one number whose bit 0 is bit 0 of the first byte (R24).
-/

namespace Sys2Proof

/-- Why the bytes at a program counter are no instruction (R44): an instruction that would cross its 32-byte block, or
any pattern that is an illegal-instruction fault. -/
inductive Reject where
  | fetchBoundary
  | illegal
deriving DecidableEq, Repr

/-- The length that LEN gives; 0b00 marks a word that is no instruction (R24). -/
def Len.ofCode : Nat → Option Len
  | 1 => some .s
  | 2 => some .m
  | 3 => some .l
  | _ => none

/-- The LEN code (R24). -/
def Len.code : Len → Nat
  | .s => 1
  | .m => 2
  | .l => 3

/-- Bytes of an instruction (R24). -/
def Len.bytes (l : Len) : Nat := 4 * (l.code + 1)

/-- A rounding code; 5 to 7 are reserved (R39). -/
def Rnd.ofCode : Nat → Option Rnd
  | 0 => some .rne
  | 1 => some .rtz
  | 2 => some .rup
  | 3 => some .rdn
  | 4 => some .dyn
  | _ => none

/-- The MOD of an integer instruction: 0, 1 or 3 (R96). -/
def SatMode.ofCode : Nat → Option SatMode
  | 0 => some .wrap
  | 1 => some .sat
  | 3 => some .satU
  | _ => none

/-- ICMP MOD[2:0] (R101). -/
def IRel.ofCode : Nat → Option IRel
  | 0 => some .eq
  | 1 => some .ne
  | 2 => some .lt
  | 3 => some .le
  | 4 => some .gt
  | 5 => some .ge
  | _ => none

/-- FCMP MOD[2:0] (R111). -/
def FRel.ofCode : Nat → Option FRel
  | 0 => some .eq
  | 1 => some .ne
  | 2 => some .lt
  | 3 => some .le
  | 4 => some .gt
  | 5 => some .ge
  | 6 => some .un
  | 7 => some .or
  | _ => none

/-- A type code (R113). -/
def ITy.ofCode : Nat → Option ITy
  | 0 => some .i32
  | 1 => some .z32
  | 2 => some .i64
  | 3 => some .z64
  | _ => none

/-- A CVTFF code (R115). -/
def FfCode.ofCode : Nat → Option FfCode
  | 0 => some .f32f64
  | 1 => some .f64f32
  | 2 => some .f16f32
  | 3 => some .f32f16
  | 4 => some .bf16f32
  | 5 => some .f32bf16
  | 6 => some .f16f64
  | 7 => some .f64f16
  | _ => none

/-- A packed-format code; 7 is reserved (R119). -/
def PkCode.ofCode : Nat → Option PkCode
  | 0 => some .f16
  | 1 => some .bf16
  | 2 => some .n8
  | 3 => some .n8w
  | 4 => some .n4
  | 5 => some .i8
  | 6 => some .i4
  | _ => none

/-- An IVMK kind; 3 to 15 are reserved (R129). -/
def IvmkKind.ofCode : Nat → Option IvmkKind
  | 0 => some .bounds
  | 1 => some .pt
  | 2 => some .cvt
  | _ => none

/-- An IVCMP relation; 14 and 15 are reserved (R135). -/
def IvRel.ofCode : Nat → Option IvRel
  | 0 => some .lt
  | 1 => some .le
  | 2 => some .gt
  | 3 => some .ge
  | 4 => some .eq
  | 5 => some .ne
  | 6 => some .sub
  | 7 => some .int
  | 8 => some .dis
  | 9 => some .seq
  | 10 => some .clt
  | 11 => some .cle
  | 12 => some .plt
  | 13 => some .ple
  | _ => none

/-- An IVTEST test; 6 to 15 are reserved (R137). -/
def IvTest.ofCode : Nat → Option IvTest
  | 0 => some .empty
  | 1 => some .entire
  | 2 => some .bnd
  | 3 => some .pt
  | 4 => some .zero
  | 5 => some .mem
  | _ => none

/-- A space code; 3 is reserved (R248). -/
def Space.ofCode : Nat → Option Space
  | 0 => some .glb
  | 1 => some .loc
  | 2 => some .ws
  | _ => none

/-- A format code of ACCRD and ACCWR (R162). -/
def AccFmt.ofCode : Nat → Option AccFmt
  | 0 => some .b32
  | 1 => some .f16
  | 2 => some .bf16
  | 3 => some .n8
  | _ => none

/-- An RVRED operator; 6 and above are reserved (R210). -/
def RvOp.ofCode : Nat → Option RvOp
  | 0 => some .addF32
  | 1 => some .addI32
  | 2 => some .minF32
  | 3 => some .maxF32
  | 4 => some .minI32
  | 5 => some .maxI32
  | _ => none

/-- An order code (R38). -/
def MOrd.ofCode : Nat → Option MOrd
  | 0 => some .rlx
  | 1 => some .acq
  | 2 => some .rel
  | 3 => some .ar
  | _ => none

/-- A size code; 5 to 7 are reserved (R248). -/
def MSize.ofCode : Nat → Option MSize
  | 0 => some .b8
  | 1 => some .b16
  | 2 => some .b32
  | 3 => some .b64
  | 4 => some .b128
  | _ => none

/-- An atomic operation; 11 and above are reserved (R257). -/
def AOp.ofCode : Nat → Option AOp
  | 0 => some .add
  | 1 => some .and
  | 2 => some .or
  | 3 => some .xor
  | 4 => some .exch
  | 5 => some .min
  | 6 => some .max
  | 7 => some .minZ
  | 8 => some .maxZ
  | 9 => some .addF32
  | 10 => some .addI64
  | _ => none

/-- An ATOMF operation (R257). -/
def AfOp.ofCode : Nat → Option AfOp
  | 0 => some .addF32
  | 1 => some .minF32
  | 2 => some .maxF32
  | 3 => some .addF64
  | 4 => some .minF64
  | 5 => some .maxF64
  | _ => none

/-- CPY MOD[1:0] (R316). -/
def CpyKind.ofCode : Nat → Option CpyKind
  | 0 => some .lin
  | 1 => some .fill
  | 2 => some .gth
  | 3 => some .sct
  | _ => none

/-- Bit `k` of a MOD value. -/
def modBit (m k : Nat) : Bool := decide (m / 2 ^ k % 2 = 1)

/-- MOD is 0 (R36). -/
def mod0 (m : Nat) (i : Instr) : Option Instr := if m = 0 then some i else none

/-- MOD has no bit but bit `k` (R36). -/
def modFlag (m k : Nat) (f : Bool → Instr) : Option Instr :=
  if m = 0 then some (f false) else if m = 2 ^ k then some (f true) else none

/-- MOD of row 0x2: RND in [2:0], W in [3] (R105). -/
def modF (m : Nat) (f : Bool → Rnd → Instr) : Option Instr :=
  if m < 16 then (Rnd.ofCode (m % 8)).map (f (modBit m 3)) else none

/-- MOD with RND in [2:0] and a flag in [3] (R113). -/
def modR (m : Nat) (f : Rnd → Bool → Instr) : Option Instr :=
  if m < 16 then (Rnd.ofCode (m % 8)).map (fun r => f r (modBit m 3)) else none

/-- MOD with RND in [2:0], W in [3] and a type in [5:4] (R113). -/
def modRT (m : Nat) (f : Rnd → Bool → ITy → Instr) : Option Instr :=
  (Rnd.ofCode (m % 8)).bind fun r => (ITy.ofCode (m / 16)).map (f r (modBit m 3))

/-- MOD with E in [1] and W in [0] (R126). -/
def modE (m : Nat) (f : Bool → Bool → Instr) : Option Instr :=
  if m < 4 then some (f (modBit m 1) (modBit m 0)) else none

/-- MOD with two flags, in [0] and [1]. -/
def mod2 (m : Nat) (f : Bool → Bool → Instr) : Option Instr :=
  if m < 4 then some (f (modBit m 0) (modBit m 1)) else none

/-- MOD with SP in [1:0], SZ in [4:2] and SX in [5] (R248). -/
def modMem (m : Nat) (f : Bool → MSize → Space → Instr) : Option Instr :=
  (MSize.ofCode (m / 4 % 8)).bind fun z => (Space.ofCode (m % 4)).map (f (modBit m 5) z)

/-- The instruction of an opcode, a MOD value and operand fields; none for a reserved opcode or MOD (R36, R40, R42). -/
def build (opc m : Nat) (x : Ops) : Option Instr :=
  match opc with
  | 0x00 => mod0 m (.nop x)
  | 0x01 => mod0 m (.mov x)
  | 0x02 => mod0 m (.movw x)
  | 0x03 => (SatMode.ofCode m).map (.iadd x)
  | 0x04 => (SatMode.ofCode m).map (.isub x)
  | 0x05 => (SatMode.ofCode m).map (.imul x)
  | 0x06 => modFlag m 1 (.imulh x)
  | 0x07 => (SatMode.ofCode m).map (.imad x)
  | 0x08 => (SatMode.ofCode m).map (.iadd64 x)
  | 0x09 => (SatMode.ofCode m).map (.isub64 x)
  | 0x0A => (SatMode.ofCode m).map (.imul64 x)
  | 0x0B => modFlag m 1 (.imad64w x)
  | 0x0C => modFlag m 1 (.imin x)
  | 0x0D => modFlag m 1 (.imax x)
  | 0x0E => modFlag m 0 (.iabs x)
  | 0x0F => modFlag m 0 (.ineg x)
  | 0x10 => modFlag m 0 (.and x)
  | 0x11 => modFlag m 0 (.or x)
  | 0x12 => modFlag m 0 (.xor x)
  | 0x13 => modFlag m 0 (.andn x)
  | 0x14 => modFlag m 0 (.shl x)
  | 0x15 => modFlag m 0 (.shr x)
  | 0x16 => modFlag m 0 (.sar x)
  | 0x17 => modFlag m 0 (.rot x)
  | 0x18 => modFlag m 0 (.popc x)
  | 0x19 => modFlag m 0 (.clz x)
  | 0x1A => modFlag m 0 (.brev x)
  | 0x1B => modFlag m 1 (.bfe x)
  | 0x1C => mod0 m (.bfi x)
  | 0x1D => modFlag m 0 (.sel x)
  | 0x1E => if m < 32 then (IRel.ofCode (m % 8)).bind fun r => (ITy.ofCode (m / 8)).map (.icmp x r) else none
  | 0x1F => if m < 16 then some (.lea x (BitVec.ofNat 3 m) (modBit m 3)) else none
  | 0x20 => modF m (.fadd x)
  | 0x21 => modF m (.fsub x)
  | 0x22 => modF m (.fmul x)
  | 0x23 => modF m (.ffma x)
  | 0x24 => if m < 32 ∧ m % 8 = 0 then some (.fmin x (modBit m 3) (modBit m 4)) else none
  | 0x25 => if m < 32 ∧ m % 8 = 0 then some (.fmax x (modBit m 3) (modBit m 4)) else none
  | 0x26 => modF m (.fdiv x)
  | 0x27 => modF m (.fsqrt x)
  | 0x28 => modF m (.frcp x)
  | 0x29 => modF m (.frsq x)
  | 0x2A => modFlag m 3 (.fexp2 x)
  | 0x2B => modFlag m 3 (.flog2 x)
  | 0x2C => modFlag m 3 (.fsinpi x)
  | 0x2D => modFlag m 3 (.fcospi x)
  | 0x2E => if m < 32 then (FRel.ofCode (m % 8)).map fun r => .fcmp x (modBit m 3) r (modBit m 4) else none
  | 0x2F => modFlag m 3 (.fclass x)
  | 0x30 => modRT m (.cvtfi x)
  | 0x31 => modRT m (.cvtif x)
  | 0x32 => (Rnd.ofCode (m % 8)).bind fun r => (FfCode.ofCode (m / 8)).map (.cvtff x r)
  | 0x33 => modR m (.frnd x)
  | 0x34 => modR m (.fscalb x)
  | 0x35 => modFlag m 3 (.fexpn x)
  | 0x36 => modR m (.hadd2 x)
  | 0x37 => modR m (.hmul2 x)
  | 0x38 => modR m (.hfma2 x)
  | 0x39 => (Rnd.ofCode (m % 8)).bind fun r => (PkCode.ofCode (m / 8)).map (.pcvt x r)
  | 0x3A => if m % 8 = 0 then (PkCode.ofCode (m / 8)).map (.upcvt x) else none
  | 0x3B => modR m (.fdot2 x)
  | 0x40 => (IvmkKind.ofCode (m / 4)).map fun k => .ivmk x k (modBit m 1) (modBit m 0)
  | 0x41 => modE m (.ivadd x)
  | 0x42 => modE m (.ivsub x)
  | 0x43 => modE m (.ivmul x)
  | 0x44 => modE m (.ivdiv x)
  | 0x45 => modE m (.ivsqr x)
  | 0x46 => modE m (.ivsqrt x)
  | 0x47 => modE m (.ivneg x)
  | 0x48 => modE m (.ivabs x)
  | 0x49 => modE m (.ivmeet x)
  | 0x4A => modE m (.ivjoin x)
  | 0x4B => modE m (.ivmid x)
  | 0x4C => modE m (.ivwid x)
  | 0x4D => (IvRel.ofCode (m / 4)).map fun r => .ivcmp x r (modBit m 1) (modBit m 0)
  | 0x4E => modE m (.ivsplit x)
  | 0x4F => if m / 2 % 2 = 0 then (IvTest.ofCode (m / 4)).map fun t => .ivtest x t (modBit m 0) else none
  | 0x50 => mod0 m (.pand x)
  | 0x51 => mod0 m (.por x)
  | 0x52 => mod0 m (.pnot x)
  | 0x53 => mod0 m (.pxor x)
  | 0x54 => modFlag m 0 (.pres x)
  | 0x55 => mod2 m (.doti8 x)
  | 0x56 => mod0 m (.doti4 x)
  | 0x57 => mod2 m (.dotn8 x)
  | 0x58 => mod0 m (.dotn4 x)
  | 0x59 => (Rnd.ofCode m).map (.pscl x)
  | 0x60 => if m = 0 then some (.tshape x) else if m = 1 then some (.tshapeFree x) else if m = 2 then some (.tshapeRs x) else none
  | 0x61 => mod0 m (.trd x)
  | 0x62 => (Space.ofCode m).map (.tld x)
  | 0x63 => (Space.ofCode m).map (.tst x)
  | 0x64 => modFlag m 0 (.mma x)
  | 0x65 => mod0 m (.accz x)
  | 0x66 => (AccFmt.ofCode m).map (.accrd x)
  | 0x67 => (AccFmt.ofCode m).map (.accwr x)
  | 0x68 => if m = 0 then some (.mctx x) else if m = 1 then some (.mctxRel x) else none
  | 0x69 => modFlag m 0 (.elect x)
  | 0x6A => mod0 m (.msync x)
  | 0x70 => mod0 m (.bra x)
  | 0x71 => mod0 m (.brx x)
  | 0x72 => mod0 m (.brt x)
  | 0x73 => mod0 m (.call x)
  | 0x74 => mod0 m (.callx x)
  | 0x75 => mod0 m (.ret x)
  | 0x76 => mod0 m (.exit x)
  | 0x77 => mod0 m (.spawn x)
  | 0x78 => mod0 m (.yield x)
  | 0x79 => mod0 m (.trap x)
  | 0x7A => mod0 m (.bkpt x)
  | 0x7B => mod0 m (.sys x)
  | 0x80 => mod0 m (.bar x)
  | 0x81 => mod0 m (.bara x)
  | 0x82 => mod0 m (.barw x)
  | 0x83 => mod0 m (.rvx x)
  | 0x84 => (RvOp.ofCode m).map (.rvred x)
  | 0x85 => if m < 32 then (Scope.ofCode (m / 4)).map fun sc => .waita x sc (if modBit m 1 then .glb else .loc) (modBit m 0) else none
  | 0x86 => mod2 m (.qpush x)
  | 0x87 => mod2 m (.qpop x)
  | 0x88 => modFlag m 0 (.qcnt x)
  | 0x89 => mod0 m (.qclose x)
  | 0x8A => mod0 m (.qstat x)
  | 0x90 => modMem m (.ld x)
  | 0x91 => if m < 32 then modMem m (fun _ => .st x) else none
  | 0x92 => if m < 8 then (Space.ofCode (m % 4)).map (.ldi x (modBit m 2)) else none
  | 0x93 => if m < 8 then (Space.ofCode (m % 4)).map (.sti x (modBit m 2)) else none
  | 0x94 => modMem m (.ldt x)
  | 0x95 => if m < 32 then modMem m (fun _ => .stt x) else none
  | 0x96 => mod0 m (.pref x)
  | 0x97 => if m % 4 = 0 then (MOrd.ofCode (m / 4)).map (.fence x) else none
  | 0x98 => modFlag m 0 (.cflush x)
  | 0x99 => if m < 8 then (Scope.ofCode m).map (.cinv x) else none
  | 0xA0 => (AOp.ofCode (m / 4)).bind fun o => (Space.ofCode (m % 4)).map (.atom x o)
  | 0xA1 => (Space.ofCode m).map (.atomc x)
  | 0xA2 => (AOp.ofCode (m / 4)).bind fun o => (Space.ofCode (m % 4)).map (.red x o)
  | 0xA3 => (AfOp.ofCode (m / 4)).bind fun o => (Space.ofCode (m % 4)).map (.atomf x o)
  | 0xA4 => (AOp.ofCode (m / 4)).bind fun o => (Space.ofCode (m % 4)).map (.atom64 x o)
  | 0xA5 => (Space.ofCode m).map (.atomc64 x)
  | 0xB0 => modFlag m 0 (.skbind x)
  | 0xB1 => mod0 m (.skfree x)
  | 0xB2 => modFlag m 0 (.skins x)
  | 0xB3 => mod0 m (.skqry x)
  | 0xB4 => mod0 m (.skmerge x)
  | 0xB5 => mod0 m (.skfold x)
  | 0xB6 => mod0 m (.skclr x)
  | 0xB7 => mod0 m (.skstat x)
  | 0xC0 => (CpyKind.ofCode (m % 4)).bind fun k => (Space.ofCode (m / 4 % 4)).bind fun d => (Space.ofCode (m / 16)).map (.cpy x k d)
  | 0xC1 => (Space.ofCode m).map (.cpyw x)
  | 0xC2 => modFlag m 0 (.cpyl x)
  | 0xC3 => modFlag m 0 (.coll x)
  | 0xC4 => mod0 m (.hwait x)
  | 0xC5 => mod0 m (.htest x)
  | 0xC6 => mod0 m (.hcancel x)
  | 0xC7 => mod0 m (.hmov x)
  | 0xC8 => if m = 0 then some (.cslot x) else if m = 1 then some (.cslotFree x) else none
  | 0xD0 => mod0 m (.srd x)
  | 0xD1 => mod0 m (.swr x)
  | 0xD2 => mod0 m (.feat x)
  | 0xD3 => mod0 m (.eret x)
  | 0xD4 => if m < 16 then (Scope.ofCode (m / 2)).map (.tlbi x (modBit m 0)) else none
  | 0xD5 => mod0 m (.evrd x)
  | 0xD6 => mod0 m (.evcfg x)
  | _ => none

/-- The operand fields of an instruction's number `v` of length `l` (R29, R37). -/
def fieldsOf (l : Len) (v : Nat) : Ops :=
  { len := l
    d := BitVec.ofNat 8 (v / 2 ^ 10)
    a := BitVec.ofNat 8 (v / 2 ^ 18)
    b := BitVec.ofNat 8 (v / 2 ^ 26)
    c := BitVec.ofNat 8 (v / 2 ^ 34)
    ep := BitVec.ofNat 3 (v / 2 ^ 42)
    dk := BitVec.ofNat 3 (v / 2 ^ 45)
    g := BitVec.ofNat 8 (v / 2 ^ 48)
    gs := BitVec.ofNat 2 (v / 2 ^ 56)
    ext := BitVec.ofNat 64 (v / 2 ^ 64) }

/-- The pad word (R25). -/
def padValue : Nat := 0xFFFFFFFC

/-- The decode steps of R43 on the number of a whole instruction of length `l`, in the order the rule gives them. -/
def decodeWhole (l : Len) (v : Nat) : Except Reject Instr :=
  let opc := v / 4 % 256
  if opc / 16 = 0xE then .ok (.extensionSlot (BitVec.ofNat 4 opc))
  else
    match build opc (v / 2 ^ 58 % 64) (fieldsOf l v) with
    | some i => if i.wf then .ok i else .error .illegal
    | none => .error .illegal

/-- What the bytes from a program counter to the end of its 32-byte block are (R25, R26, R43): a pad word, an
instruction, a row 0xE word, or no instruction. -/
def decode (bs : List Byte) : Except Reject Instr :=
  let w := leNat (bs.take 4)
  match Len.ofCode (w % 4) with
  | none => if w = padValue then .ok .padWord else .error .illegal
  | some l => if bs.length < l.bytes then .error .fetchBoundary else decodeWhole l (leNat (bs.take l.bytes))

/-- The number of an instruction's words, bit 0 first, from its row (R29, R37); none for a step of another agent. -/
def encodeNat (i : Instr) : Option Nat :=
  match i.row, i.ops with
  | some r, some x =>
    some (x.len.code + 4 * r.opc + 2 ^ 10 * x.d.toNat + 2 ^ 18 * x.a.toNat + 2 ^ 26 * x.b.toNat + 2 ^ 34 * x.c.toNat
      + 2 ^ 42 * x.ep.toNat + 2 ^ 45 * x.dk.toNat + 2 ^ 48 * x.g.toNat + 2 ^ 56 * x.gs.toNat + 2 ^ 58 * r.mod
      + 2 ^ 64 * x.ext.toNat)
  | _, _ => none

/-- The bytes of an instruction as memory holds them (R7, R24); none for a step of another agent. -/
def encode (i : Instr) : Option (List Byte) :=
  match i.ops, encodeNat i with
  | some x, some v => some (leBytes x.len.bytes v)
  | _, _ => none

/-- The decoder's answer on an instruction whose bits are `w`, laid at the start of a 32-byte block. -/
def decodeTableWord (nbits w : Nat) : Option Instr :=
  match decode (leBytes 32 (w % 2 ^ nbits)) with
  | .ok i => some i
  | .error _ => none

end Sys2Proof
end

