-- ==== Sys2Proof/Machine/Fp.lean ====
section
/-!
DEFINITION. The number formats and their one rounding (R73 to R88). Every value is exact, a sign, a magnitude and a
power of two, until `FFmt.round` narrows it once; `Conds` are the conditions of R85 that an element result raises.
-/

namespace Sys2Proof.Machine

/-- The conditions an element result raises: the five of R85 and the clamp of R88. -/
structure Conds where
  nv : Bool := false
  dz : Bool := false
  ov : Bool := false
  uf : Bool := false
  nx : Bool := false
  ns : Bool := false
deriving DecidableEq, Repr

/-- No condition. -/
def Conds.none : Conds := {}

/-- Invalid alone (R85). -/
def Conds.invalid : Conds := { nv := true }

/-- Invalid when `b` (R77). -/
def Conds.ifInvalid (b : Bool) : Conds := { nv := b }

/-- The conditions of either: an element raises each at most once (R85). -/
def Conds.join (a b : Conds) : Conds :=
  { nv := a.nv || b.nv, dz := a.dz || b.dz, ov := a.ov || b.ov, uf := a.uf || b.uf, nx := a.nx || b.nx, ns := a.ns || b.ns }

/-- A rounding mode after DYN has been resolved (R82). -/
inductive RMode where
  | rne | rtz | rup | rdn
deriving DecidableEq, Repr

/-- An IEEE-shaped format: widths of its exponent and its fraction (R76). -/
structure FFmt where
  ebits : Nat
  fbits : Nat
deriving DecidableEq, Repr

/-- FP64 (R76). -/
def f64 : FFmt := ⟨11, 52⟩
/-- FP32 (R76). -/
def f32 : FFmt := ⟨8, 23⟩
/-- F16 (R76). -/
def f16 : FFmt := ⟨5, 10⟩
/-- B16 (R76). -/
def b16 : FFmt := ⟨8, 7⟩

/-- FP64 or FP32, by the W bit of MOD (R105). -/
def fmtW (w : Bool) : FFmt := if w then f64 else f32

/-- The value of a code: a NaN, an infinity, or the exact `(-1)^neg · m · 2^e`. -/
inductive FVal where
  | nan (signalling : Bool)
  | inf (neg : Bool)
  | fin (neg : Bool) (m : Nat) (e : Int)
deriving DecidableEq, Repr

/-- Bits of the format. -/
def FFmt.width (f : FFmt) : Nat := 1 + f.ebits + f.fbits

/-- The exponent bias (R76). -/
def FFmt.bias (f : FFmt) : Nat := 2 ^ (f.ebits - 1) - 1

/-- The exponent of the quantum of subnormals: the smallest subnormal is 2 to this power (R76). -/
def FFmt.qmin (f : FFmt) : Int := 1 - (f.bias : Int) - (f.fbits : Int)

/-- The sign bit's weight. -/
def FFmt.signW (f : FFmt) : Nat := 2 ^ (f.ebits + f.fbits)

/-- The code of +infinity. -/
def FFmt.infCode (f : FFmt) : Nat := (2 ^ f.ebits - 1) * 2 ^ f.fbits

/-- The code of the canonical NaN (R76, R77). -/
def FFmt.nanCode (f : FFmt) : Nat := f.infCode + 2 ^ (f.fbits - 1)

/-- The code of the largest finite value (R76). -/
def FFmt.maxCode (f : FFmt) : Nat := f.infCode - 1

/-- A magnitude code with a sign. -/
def FFmt.signed (f : FFmt) (neg : Bool) (c : Nat) : Nat := if neg then f.signW + c else c

/-- The value of a code (R76, R77). -/
def FFmt.value (f : FFmt) (bits : Nat) : FVal :=
  let neg := decide (bits / f.signW % 2 = 1)
  let e := bits / 2 ^ f.fbits % 2 ^ f.ebits
  let m := bits % 2 ^ f.fbits
  if e = 2 ^ f.ebits - 1 then
    if m = 0 then .inf neg else .nan (decide (m < 2 ^ (f.fbits - 1)))
  else if e = 0 then .fin neg m f.qmin
  else .fin neg (2 ^ f.fbits + m) (f.qmin + (e : Int) - 1)

/-- `m · 2^k` as a natural number, rounded toward zero when `k` is negative. -/
def shiftBy (m : Nat) (k : Int) : Nat :=
  match k with
  | .ofNat n => m * 2 ^ n
  | .negSucc n => m / 2 ^ (n + 1)

/-- The integer quotient of `m · 2^e` by `2^q`, rounded in the mode, and whether it was exact. -/
def roundAt (mode : RMode) (neg : Bool) (m : Nat) (e q : Int) : Nat × Bool :=
  if q ≤ e then (shiftBy m (e - q), true)
  else
    let s := (q - e).toNat
    let n := m / 2 ^ s
    let r := m % 2 ^ s
    let half := 2 ^ (s - 1)
    let up := match mode with
      | .rne => decide (half < r) || (decide (r = half) && decide (n % 2 = 1))
      | .rtz => false
      | .rup => !neg && decide (r ≠ 0)
      | .rdn => neg && decide (r ≠ 0)
    (if up then n + 1 else n, decide (r = 0))

/-- Round an exact nonzero or zero magnitude once into the format (R82), with the conditions of R85: overflow as IEEE
754-2019 gives it, underflow when the result is tiny after rounding and inexact. -/
def FFmt.roundExact (f : FFmt) (mode : RMode) (neg : Bool) (m : Nat) (e : Int) : Nat × Conds :=
  if m = 0 then (f.signed neg 0, {})
  else
    let top := e + (m.log2 : Int)
    let q := max (top - (f.fbits : Int)) f.qmin
    let (n, exact) := roundAt mode neg m e q
    let c := (q - f.qmin).toNat * 2 ^ f.fbits + n
    if f.infCode ≤ c then
      let big := match mode with
        | .rne => true
        | .rtz => false
        | .rup => !neg
        | .rdn => neg
      (f.signed neg (if big then f.infCode else f.maxCode), { ov := true, nx := true })
    else
      let emin : Int := f.qmin + (f.fbits : Int)
      let tiny := decide (top < emin) &&
        !(decide (top + 1 = emin) && decide ((roundAt mode neg m e (top - (f.fbits : Int))).1 = 2 ^ (f.fbits + 1)))
      (f.signed neg c, { uf := tiny && !exact, nx := !exact })

/-- Round a magnitude known to lie at `m · 2^e`, or, when `sticky`, strictly between `m · 2^e` and `(m + 1) · 2^e`. The
magnitude `m` then holds at least two bits more than the format keeps. -/
def FFmt.round (f : FFmt) (mode : RMode) (neg : Bool) (m : Nat) (e : Int) (sticky : Bool) : Nat × Conds :=
  if sticky then f.roundExact mode neg (4 * m + 1) (e - 2) else f.roundExact mode neg m e

/-- The canonical NaN, raising invalid when `iv` (R77). -/
def FFmt.nanOf (f : FFmt) (iv : Bool) : Nat × Conds := (f.nanCode, .ifInvalid iv)

/-- The value is a NaN. -/
def FVal.isNan : FVal → Bool
  | .nan _ => true
  | .inf _ | .fin _ _ _ => false

/-- The value is a signalling NaN (R77). -/
def FVal.isSnan : FVal → Bool
  | .nan s => s
  | .inf _ | .fin _ _ _ => false

/-- The value is an infinity. -/
def FVal.isInf : FVal → Bool
  | .inf _ => true
  | .nan _ | .fin _ _ _ => false

/-- The value is a zero. -/
def FVal.isZero : FVal → Bool
  | .fin _ m _ => decide (m = 0)
  | .nan _ | .inf _ => false

/-- The sign of a value that is not a NaN. -/
def FVal.neg : FVal → Bool
  | .nan _ => false
  | .inf n => n
  | .fin n _ _ => n

/-- The value with its sign changed. -/
def FVal.negate : FVal → FVal
  | .nan s => .nan s
  | .inf n => .inf (!n)
  | .fin n m e => .fin (!n) m e

/-- An exact signed dyadic number: `m · 2^e`. -/
structure Dyadic where
  m : Int
  e : Int
deriving DecidableEq, Repr

/-- The signed magnitude of a finite value. -/
def signedMag (neg : Bool) (m : Nat) : Int := if neg then -(m : Int) else (m : Int)

/-- A finite value as a dyadic; anything else as 0. -/
def FVal.dyadic : FVal → Dyadic
  | .fin n m e => ⟨signedMag n m, e⟩
  | .nan _ | .inf _ => ⟨0, 0⟩

/-- The exact sum. -/
def Dyadic.add (a b : Dyadic) : Dyadic :=
  let e := min a.e b.e
  ⟨a.m * 2 ^ (a.e - e).toNat + b.m * 2 ^ (b.e - e).toNat, e⟩

/-- The exact product. -/
def Dyadic.mul (a b : Dyadic) : Dyadic := ⟨a.m * b.m, a.e + b.e⟩

/-- The exact difference. -/
def Dyadic.sub (a b : Dyadic) : Dyadic := a.add ⟨-b.m, b.e⟩

/-- Exact comparison. -/
def Dyadic.le (a b : Dyadic) : Bool := decide ((a.sub b).m ≤ 0)
/-- Exact comparison. -/
def Dyadic.lt (a b : Dyadic) : Bool := decide ((a.sub b).m < 0)
/-- Exact comparison. -/
def Dyadic.eqv (a b : Dyadic) : Bool := decide ((a.sub b).m = 0)

/-- The exact value of a dyadic. -/
def Dyadic.val (d : Dyadic) : FVal := .fin (decide (d.m < 0)) d.m.natAbs d.e

/-- Round an exact dyadic; an exact zero takes the sign `zneg`. -/
def FFmt.roundDy (f : FFmt) (mode : RMode) (d : Dyadic) (zneg : Bool) : Nat × Conds :=
  if d.m = 0 then (f.signed zneg 0, {}) else f.roundExact mode (decide (d.m < 0)) d.m.natAbs d.e

/-- The sign of an exact zero sum of two addends (R106): their common sign when both are zeros of one sign, otherwise
minus under RDN and plus in the other modes. -/
def zeroSign (mode : RMode) (z1 n1 z2 n2 : Bool) : Bool :=
  if z1 && z2 && n1 == n2 then n1 else decide (mode = .rdn)

/-- IEEE addition of values with the rules of R106. -/
def FFmt.addV (f : FFmt) (mode : RMode) (a b : FVal) : Nat × Conds :=
  if a.isNan || b.isNan then f.nanOf (a.isSnan || b.isSnan)
  else match a, b with
    | .inf n, .inf k => if n = k then (f.signed n f.infCode, {}) else f.nanOf true
    | .inf n, _ => (f.signed n f.infCode, {})
    | _, .inf n => (f.signed n f.infCode, {})
    | _, _ => f.roundDy mode (a.dyadic.add b.dyadic) (zeroSign mode a.isZero a.neg b.isZero b.neg)

/-- a + b (R106). -/
def FFmt.add (f : FFmt) (mode : RMode) (a b : Nat) : Nat × Conds := f.addV mode (f.value a) (f.value b)

/-- a − b, as a + (−b) (R106). -/
def FFmt.sub (f : FFmt) (mode : RMode) (a b : Nat) : Nat × Conds := f.addV mode (f.value a) (f.value b).negate

/-- IEEE multiplication of values (R106). -/
def FFmt.mulV (f : FFmt) (mode : RMode) (a b : FVal) : Nat × Conds :=
  let n := a.neg != b.neg
  if a.isNan || b.isNan then f.nanOf (a.isSnan || b.isSnan)
  else if a.isInf || b.isInf then
    if a.isZero || b.isZero then f.nanOf true else (f.signed n f.infCode, {})
  else f.roundDy mode (a.dyadic.mul b.dyadic) n

/-- a × b (R106). -/
def FFmt.mul (f : FFmt) (mode : RMode) (a b : Nat) : Nat × Conds := f.mulV mode (f.value a) (f.value b)

/-- a × b + c with one rounding; ∞ × 0 raises invalid even when c is a quiet NaN (R106). -/
def FFmt.fma (f : FFmt) (mode : RMode) (a b c : Nat) : Nat × Conds :=
  let x := f.value a
  let y := f.value b
  let z := f.value c
  let n := x.neg != y.neg
  let infZero := (x.isInf && y.isZero) || (x.isZero && y.isInf)
  if x.isNan || y.isNan || z.isNan || infZero then f.nanOf (infZero || x.isSnan || y.isSnan || z.isSnan)
  else if x.isInf || y.isInf then
    if z.isInf && z.neg != n then f.nanOf true else (f.signed n f.infCode, {})
  else if z.isInf then (f.signed z.neg f.infCode, {})
  else
    f.roundDy mode ((x.dyadic.mul y.dyadic).add z.dyadic) (zeroSign mode (x.isZero || y.isZero) n z.isZero z.neg)

/-- The quotient of two nonzero finite magnitudes, correctly rounded. -/
def FFmt.divMag (f : FFmt) (mode : RMode) (neg : Bool) (ma : Nat) (ea : Int) (mb : Nat) (eb : Int) : Nat × Conds :=
  let k := f.fbits + 4 + mb.log2
  let n := ma * 2 ^ k
  f.round mode neg (n / mb) (ea - eb - (k : Int)) (decide (n % mb ≠ 0))

/-- IEEE division of values (R106). -/
def FFmt.divV (f : FFmt) (mode : RMode) (a b : FVal) : Nat × Conds :=
  let n := a.neg != b.neg
  if a.isNan || b.isNan then f.nanOf (a.isSnan || b.isSnan)
  else match a, b with
    | .inf _, .inf _ => f.nanOf true
    | .inf _, _ => (f.signed n f.infCode, {})
    | _, .inf _ => (f.signed n 0, {})
    | .fin _ ma ea, .fin _ mb eb =>
      if mb = 0 then (if ma = 0 then f.nanOf true else (f.signed n f.infCode, { dz := true }))
      else if ma = 0 then (f.signed n 0, {})
      else f.divMag mode n ma ea mb eb
    | .nan s, _ => f.nanOf s
    | _, .nan s => f.nanOf s

/-- a / b (R106). -/
def FFmt.div (f : FFmt) (mode : RMode) (a b : Nat) : Nat × Conds := f.divV mode (f.value a) (f.value b)

/-- One bit at a time from the highest: the largest `r + (bits below 2^k)` whose square is at most `n`. -/
def isqrtBits (n : Nat) : Nat → Nat → Nat
  | 0, r => r
  | k + 1, r => isqrtBits n k (if (r + 2 ^ k) * (r + 2 ^ k) ≤ n then r + 2 ^ k else r)

/-- The integer square root, rounded down. -/
def isqrt (n : Nat) : Nat := isqrtBits n (n.log2 / 2 + 1) 0

/-- The square root of `m · 2^e`, as a magnitude, an exponent and whether it is inexact. -/
def sqrtMag (f : FFmt) (m : Nat) (e : Int) : Nat × Int × Bool :=
  let k : Int := if e % 2 = 0 then 2 * ((f.fbits : Int) + 4) else 2 * ((f.fbits : Int) + 4) + 1
  let n := m * 2 ^ k.toNat
  let r := isqrt n
  (r, (e - k) / 2, decide (r * r ≠ n))

/-- FSQRT (R108). -/
def FFmt.sqrt (f : FFmt) (mode : RMode) (a : Nat) : Nat × Conds :=
  match f.value a with
  | .nan s => f.nanOf s
  | .inf n => if n then f.nanOf true else (f.infCode, {})
  | .fin n m e =>
    if m = 0 then (f.signed n 0, {})
    else if n then f.nanOf true
    else
      let (r, q, st) := sqrtMag f m e
      f.round mode false r q st

/-- FRCP (R108). -/
def FFmt.rcp (f : FFmt) (mode : RMode) (a : Nat) : Nat × Conds := f.divV mode (.fin false 1 0) (f.value a)

/-- FRSQ (R108): the root of `2^k / m`, rounded down, with a sticky bit unless it is exact. -/
def FFmt.rsq (f : FFmt) (mode : RMode) (a : Nat) : Nat × Conds :=
  match f.value a with
  | .nan s => f.nanOf s
  | .inf n => if n then f.nanOf true else (f.signed false 0, {})
  | .fin n m e =>
    if m = 0 then (f.signed n f.infCode, { dz := true })
    else if n then f.nanOf true
    else
      let base := 2 * (f.fbits + 4 + m.log2)
      let k : Nat := if e % 2 = 0 then base else base + 1
      let r := isqrt (2 ^ k / m)
      f.round mode false r ((-e - (k : Int)) / 2) (decide (r * r * m ≠ 2 ^ k))

/-- FMIN and FMAX of two values that are no NaN: −0 orders below +0 (R107). -/
def lessEq (a b : FVal) : Bool :=
  match a, b with
  | .inf n, .inf k => n || !k
  | .inf n, _ => n
  | _, .inf k => !k
  | _, _ => if a.isZero && b.isZero then a.neg || !b.neg else a.dyadic.le b.dyadic

/-- FMIN and FMAX (R107): with `prop`, any NaN gives the canonical NaN; without, the other operand. -/
def FFmt.minMax (f : FFmt) (isMax prop : Bool) (a b : Nat) : Nat × Conds :=
  let x := f.value a
  let y := f.value b
  let c := Conds.ifInvalid (x.isSnan || y.isSnan)
  if x.isNan || y.isNan then
    if prop || (x.isNan && y.isNan) then (f.nanCode, c)
    else if x.isNan then (b % 2 ^ f.width, c) else (a % 2 ^ f.width, c)
  else
    let pickA := if isMax then lessEq y x else lessEq x y
    (if pickA then a % 2 ^ f.width else b % 2 ^ f.width, c)

/-- The order of two values that are no NaN, −0 equal to +0 (R110). -/
def FVal.cmp (a b : FVal) : Ordering :=
  match a, b with
  | .inf n, .inf k => if n = k then .eq else if n then .lt else .gt
  | .inf n, _ => if n then .lt else .gt
  | _, .inf k => if k then .gt else .lt
  | _, _ => if a.dyadic.lt b.dyadic then .lt else if a.dyadic.eqv b.dyadic then .eq else .gt

/-- False, true and undecided as predicates (R81). -/
def pFalse : Word := 0
/-- True (R81). -/
def pTrue : Word := 1
/-- Undecided (R81). -/
def pUndecided : Word := 0xFFFFFFFF

/-- A two-valued predicate (R81). -/
def pOf (b : Bool) : Word := if b then pTrue else pFalse

/-- FCMP (R110, R111). -/
def FFmt.fcmp (f : FFmt) (rel : FRel) (u : Bool) (a b : Nat) : Word × Conds :=
  let x := f.value a
  let y := f.value b
  let unord := x.isNan || y.isNan
  let ordering := match rel with
    | .lt | .le | .gt | .ge => true
    | .eq | .ne | .un | .or => false
  let c := Conds.ifInvalid (x.isSnan || y.isSnan || (unord && ordering && !u))
  if unord then
    match rel with
    | .un => (pTrue, c)
    | .or => (pFalse, c)
    | .ne => (if u then pUndecided else pTrue, c)
    | .eq | .lt | .le | .gt | .ge => (if u then pUndecided else pFalse, c)
  else
    let o := x.cmp y
    let r := match rel with
      | .eq => decide (o = .eq)
      | .ne => decide (o ≠ .eq)
      | .lt => decide (o = .lt)
      | .le => decide (o ≠ .gt)
      | .gt => decide (o = .gt)
      | .ge => decide (o ≠ .lt)
      | .un => false
      | .or => true
    (pOf r, c)

/-- FCLASS: the bit of the class of a (R112). -/
def FFmt.fclass (f : FFmt) (a : Nat) : Word :=
  match f.value a with
  | .nan s => if s then 1 else 2
  | .inf n => if n then 4 else 0x200
  | .fin n m _ =>
    if m = 0 then (if n then 0x20 else 0x40)
    else if m < 2 ^ f.fbits then (if n then 0x10 else 0x80)
    else (if n then 8 else 0x100)

/-- A conversion between formats of R76 (R86, R87, R115). -/
def convFF (src dst : FFmt) (mode : RMode) (a : Nat) : Nat × Conds :=
  match src.value a with
  | .nan s => dst.nanOf s
  | .inf n => (dst.signed n dst.infCode, {})
  | .fin n m e => dst.roundExact mode n m e

/-- Widen a binary32 immediate to binary64 bit for bit: a NaN keeps its kind and payload (R105). -/
def widenImm (a : Nat) : Nat :=
  match f32.value a with
  | .nan _ => f64.signed (decide (a / 2 ^ 31 % 2 = 1)) (f64.infCode + a % 2 ^ 23 * 2 ^ 29)
  | .inf n => f64.signed n f64.infCode
  | .fin n m e => (f64.roundExact .rtz n m e).1

/-- Clamp an exact integer to a range (R88). -/
def satInt (lo hi v : Int) : Int × Bool := if v < lo then (lo, true) else if hi < v then (hi, true) else (v, false)

/-- The range of a signed or an unsigned integer of `w` bits (R74). -/
def intLo (w : Nat) (u : Bool) : Int := if u then 0 else -(2 ^ (w - 1) : Int)
/-- The upper bound (R74). -/
def intHi (w : Nat) (u : Bool) : Int := if u then 2 ^ w - 1 else 2 ^ (w - 1) - 1

/-- Round a value to an integer and clamp it to a format (R86): out of range or infinite gives the nearest bound, a NaN
gives 0, each with invalid; an in-range value that is not an integer raises inexact. The range is judged after rounding: DESIGN CHOICE, log entry
65. -/
def FVal.toInt (v : FVal) (mode : RMode) (w : Nat) (u : Bool) : Int × Conds :=
  match v with
  | .nan _ => (0, .invalid)
  | .inf n => (if n then intLo w u else intHi w u, .invalid)
  | .fin n m e =>
    let (r, exact) := roundAt mode n m e 0
    let (k, clamped) := satInt (intLo w u) (intHi w u) (signedMag n r)
    if clamped then (k, .invalid) else (k, { nx := !exact })

/-- FRND: round to an integral value in the same format, never inexact (R114). -/
def FFmt.rint (f : FFmt) (mode : RMode) (a : Nat) : Nat × Conds :=
  match f.value a with
  | .nan s => f.nanOf s
  | .inf n => (f.signed n f.infCode, {})
  | .fin n m e =>
    if 0 ≤ e then (a % 2 ^ f.width, {})
    else ((f.roundExact .rtz n (roundAt mode n m e 0).1 0).1, {})

/-- An exact integer converted into a format (R87). -/
def FFmt.ofInt (f : FFmt) (mode : RMode) (v : Int) : Nat × Conds :=
  f.roundExact mode (decide (v < 0)) v.natAbs 0

/-- FSCALB (R114). -/
def FFmt.scalb (f : FFmt) (mode : RMode) (a : Nat) (n : Int) : Nat × Conds :=
  match f.value a with
  | .nan s => f.nanOf s
  | .inf k => (f.signed k f.infCode, {})
  | .fin k m e =>
    -- beyond the exponent range every shift rounds alike, so the exact shift may be kept within it
    let lim : Int := 4 * (2 : Int) ^ f.ebits
    f.roundExact mode k m (e + max (-lim) (min lim n))

/-- FEXPN (R114). -/
def FFmt.expn (f : FFmt) (a : Nat) : Word × Conds :=
  match f.value a with
  | .nan _ => (0x80000001, .invalid)
  | .inf _ => (0x7FFFFFFF, .invalid)
  | .fin _ m e => if m = 0 then (0x80000000, .invalid) else (BitVec.ofInt 32 (e + (m.log2 : Int)), {})

/-- The narrow formats N8 and N8W as fraction width and bias; neither has an infinity (R78). -/
structure NFmt where
  fbits : Nat
  bias : Nat
deriving DecidableEq, Repr

/-- N8 (R78). -/
def n8 : NFmt := ⟨4, 3⟩
/-- N8W (R78). -/
def n8w : NFmt := ⟨2, 15⟩

/-- N8W or N8. -/
def nfmtW (w : Bool) : NFmt := if w then n8w else n8

/-- The exponent of the smallest subnormal (R78). -/
def NFmt.qmin (f : NFmt) : Int := 1 - (f.bias : Int) - (f.fbits : Int)

/-- The value of an N8 or N8W code: 0x80 is the NaN, quiet (R78). -/
def NFmt.value (f : NFmt) (c : Nat) : FVal :=
  let c := c % 256
  if c = 0x80 then .nan false
  else
    let neg := decide (128 ≤ c)
    let e := c % 128 / 2 ^ f.fbits
    let m := c % 2 ^ f.fbits
    if e = 0 then .fin neg m f.qmin else .fin neg (2 ^ f.fbits + m) (f.qmin + (e : Int) - 1)

/-- A conversion into N8 or N8W: RNE, saturating, one zero (R79, R86). -/
def NFmt.encode (f : NFmt) (v : FVal) : Nat × Conds :=
  match v with
  | .nan s => (0x80, .ifInvalid s)
  | .inf n => ((if n then 128 else 0) + 0x7F, { nx := true, ns := true })
  | .fin n m e =>
    if m = 0 then (0, {})
    else
      let maxV : Dyadic := (f.value 0x7F).dyadic
      if maxV.lt ⟨(m : Int), e⟩ then ((if n then 128 else 0) + 0x7F, { nx := true, ns := true })
      else
        let top := e + (m.log2 : Int)
        let q := max (top - (f.fbits : Int)) f.qmin
        let (k, exact) := roundAt .rne n m e q
        let c := (q - f.qmin).toNat * 2 ^ f.fbits + k
        let emin : Int := f.qmin + (f.fbits : Int)
        let tiny := decide (top < emin) &&
          !(decide (top + 1 = emin) && decide ((roundAt .rne n m e (top - (f.fbits : Int))).1 = 2 ^ (f.fbits + 1)))
        (if c = 0 then 0 else (if n then 128 + c else c), { uf := tiny && !exact, nx := !exact })

/-- The value of an N4 code; both zeros read as +0 (R78, R79, R87). -/
def n4Value (c : Nat) : FVal :=
  let e := c % 8
  if e = 0 then .fin false 0 0 else .fin (decide (8 ≤ c % 16)) 1 ((e : Int) - 4)

/-- The N4 exponent code nearest to a magnitude, ties to the even code (R86): the number of the bounds 2^−4 (a tie goes
down to zero), 1.5·2^−3, 1.5·2^−2 … that it passes. -/
def n4Code (d : Dyadic) : Nat :=
  -- the midpoint below code k is 1.5·2^(k−5) for k ≥ 2, and 2^−4 for k = 1; it belongs to the even neighbour
  let passes (k : Nat) : Bool :=
    let mid : Dyadic := if k = 1 then ⟨1, -4⟩ else ⟨3, (k : Int) - 6⟩
    if k % 2 = 0 then mid.le d else mid.lt d
  ((List.range 7).filter fun j => passes (j + 1)).length

/-- A conversion into N4 (R79, R86). -/
def n4Encode (v : FVal) : Nat × Conds :=
  match v with
  | .nan _ => (0, .invalid)
  | .inf n => ((if n then 8 else 0) + 7, { nx := true, ns := true })
  | .fin n m e =>
    if m = 0 then (0, {})
    else
      let d : Dyadic := ⟨(m : Int), e⟩
      if (Dyadic.mk 8 0).lt d then ((if n then 8 else 0) + 7, { nx := true, ns := true })
      else
        let k := n4Code d
        let exact := decide (k ≠ 0) && d.eqv ⟨1, (k : Int) - 4⟩
        (if k = 0 then 0 else (if n then 8 + k else k), { nx := !exact })

/-- The value of an S8 scale word: 0x00 is zero, 0xFF is poison (R80). -/
def s8Value (c : Nat) : FVal :=
  let c := c % 256
  if c = 0 then .fin false 0 0
  else if c = 0xFF then .nan false
  else .fin false (4 + c % 4) ((c / 4 : Nat) - 33)

/-- The value of element `c` of a packed format (R87). -/
def PkCode.value (k : PkCode) (c : Nat) : FVal :=
  match k with
  | .f16 => f16.value c
  | .bf16 => b16.value c
  | .n8 => n8.value c
  | .n8w => n8w.value c
  | .n4 => n4Value c
  | .i8 => .fin (decide (128 ≤ c % 256)) (BitVec.ofNat 8 c).toInt.natAbs 0
  | .i4 => .fin (decide (8 ≤ c % 16)) (BitVec.ofNat 4 c).toInt.natAbs 0

/-- The code of a value in a packed format (R86, R120). -/
def PkCode.encode (k : PkCode) (mode : RMode) (v : FVal) : Nat × Conds :=
  let toF (f : FFmt) : Nat × Conds :=
    match v with
    | .nan s => f.nanOf s
    | .inf n => (f.signed n f.infCode, {})
    | .fin n m e => f.roundExact mode n m e
  let toI (w : Nat) : Nat × Conds :=
    let (r, c) := v.toInt .rne w false
    ((BitVec.ofInt w r).toNat, c)
  match k with
  | .f16 => toF f16
  | .bf16 => toF b16
  | .n8 => n8.encode v
  | .n8w => n8w.encode v
  | .n4 => n4Encode v
  | .i8 => toI 8
  | .i4 => toI 4

/-- A value as an FP32 code when the conversion is exact: NaNs become canonical, invalid when signalling (R87, R121). -/
def widen32 (v : FVal) : Nat × Conds :=
  match v with
  | .nan s => f32.nanOf s
  | .inf n => (f32.signed n f32.infCode, {})
  | .fin n m e => f32.roundExact .rne n m e

end Sys2Proof.Machine
end

