-- ==== Sys2Proof/Machine/State.lean ====
section
/-!
DEFINITION. The state of the package as plain data: everything the spec gives the machine, and the model's own schedule.
Tables are lists of a number and an entry; an absent entry stands for the entry's reset value.
-/

namespace Sys2Proof.Machine

/-- A sparse table. -/
abbrev Tbl (α : Type) := List (Nat × α)

/-- A memory: the bytes that differ from what an unlisted address reads as, by rising address. -/
abbrev Memory := List Host.Cell

/-- The memories of the package, and of the world it reaches. -/
inductive MemId where
  /-- the package's HBM, by physical address before the controllers' frame remap (R14, R237) -/
  | hbm
  /-- host memory reached over CXL.cache, by host physical address (R239) -/
  | host
  /-- peer memory reached over Koriery Link, by package × 2^48 + address (R239) -/
  | peer
  /-- the four weight stores, by die × 2^30 + offset (R231) -/
  | ws
  /-- a team's scratchpad on one of its team cores (R225) -/
  | spad (team tcore : Nat)
  /-- a matrix context's half of the operand buffer (R146) -/
  | oper (core mc : Nat)
  /-- a matrix context's accumulator bank (R146) -/
  | acc (core mc : Nat)
  /-- a parked team's half of an operand buffer, or its accumulator bank, by team core (R169) -/
  | kept (team tcore : Nat) (isAcc : Bool)
deriving DecidableEq, Repr

/-- A byte's place. -/
structure Target where
  mem : MemId
  addr : Nat
deriving DecidableEq, Repr

/-- A range of bytes, `hi` excluded. -/
structure Range where
  mem : MemId
  lo : Nat
  hi : Nat
deriving DecidableEq, Repr

/-- The trap causes, in the order of their codes, from 1 (R380). -/
inductive Cause where
  | illegal | fetchBoundary | emulation | emptyRegister | deadRegister | emptyInterval | malformedInterval | misalignment
  | accessViolation | sketchAccess | sketchMismatch | tileConflict | invalidHandle | spawnOverflow | barrierTimeout | race
  | redundancy | threshold | breakpoint | software | sys
deriving DecidableEq, Repr

/-- A trap: its cause, whether it is of the deferred or held kind, and what it reports (R380, R381). -/
structure Trap where
  cause : Cause
  deferred : Bool
  epc : DWord
  eaddr : DWord
  einfo : Word
  einst : List Word
deriving DecidableEq, Repr

/-- A general register: its value, its live/dead bit and its full/empty bit (R176). -/
structure RegCell where
  val : Word
  live : Bool
  full : Bool
deriving DecidableEq, Repr

/-- The waits (R172), each with what tells when it ends. -/
inductive Wait where
  /-- registers that must become full: empty sources, an empty guard, or a pending destination -/
  | regs (rs : List Reg)
  /-- the 64th outstanding operation -/
  | limit
  /-- the completion of every register's producer (IVSPLIT) -/
  | allRegs
  /-- EXIT -/
  | exit
  /-- HWAIT on a token -/
  | handle (token : Word)
  /-- a free handle entry -/
  | handleEntry
  /-- a tile in use (TSHAPE) -/
  | tile (t : Nat)
  /-- a full matrix command queue -/
  | commandQueue
  /-- MCTX `.rel` -/
  | context
  /-- earlier accesses that a fence, a cache or a translation maintenance orders: all, or the loads and atomics only -/
  | accesses (all : Bool)
  /-- accesses issued before a number on some cores, in a 1 GiB region or anywhere, that a translation maintenance covers -/
  | translations (before : Nat) (cores : List Nat) (region : Option Nat)
  /-- acquires issued before a number on some cores, that an instruction-cache maintenance orders before the release that will follow it -/
  | acquires (before : Nat) (cores : List Nat)
  /-- operations of the thread on a sketch slot, or, for SKFREE, of every thread -/
  | sketch (slot : Nat)
  /-- operations that can still set a sticky flag (R192) -/
  | flags
  /-- FP64 divisions and roots in flight (R95, R393) -/
  | divisions
  /-- a word of memory: its place and address, awaited value, relation `.ne`, scope (R211) -/
  | address (at_ : Target) (va : DWord) (c : Word) (ne : Bool) (sc : Scope)
  /-- a barrier generation -/
  | barrier (n : Nat) (gen : Nat)
  /-- the thread's earlier pending request (R205) -/
  | request
  /-- acceptance of a push at a queue (R214) -/
  | push (queue : Nat)
  /-- a page fault, by the record's sequence number (R360) -/
  | pageFault (seq : Nat) (va : DWord)
  /-- every COLL on a slot (R324) -/
  | slot (die slot : Nat)
deriving DecidableEq, Repr

/-- The states of a thread (R22, R174); a thread of a parked team keeps the state it resumes in. -/
inductive TStatus where
  | runnable
  | waiting (w : Wait)
  | exited
deriving DecidableEq, Repr

/-- Where a thread is: in a slot of a bench of a team core, in the team's spawn ring, or in neither (R175, R182). -/
inductive Loc where
  | slot (tcore bench slot : Nat)
  | ring
  | none
deriving DecidableEq, Repr

/-- What the sketch unit does to instances while a thread waits for it (R290): SKFOLD, SKCLR, SKFREE, SKMERGE. -/
inductive SkWork where
  | fold (slot : Nat)
  | clear (slot : Nat)
  | free (slot : Nat)
  | merge (dst src : Nat)
deriving DecidableEq, Repr

/-- What a memory operation does when it is performed. -/
inductive OpKind where
  /-- LD and LDT: sign-extended, or as it is -/
  | load (sx : Bool)
  /-- LDI: checked by R125 -/
  | loadIv (w : Bool)
  /-- ST, STI, STT -/
  | store
  /-- an atomic of R257 -/
  | atomic (op : AOp)
  /-- ATOMF and RED `.add.f32` -/
  | atomicF (op : AfOp)
  /-- ATOMC and ATOMC64 -/
  | compare
  /-- a query of a key (SKQRY, a window load) -/
  | skQuery (slot : Nat) (key : Word)
  /-- an insert of a key with a weight (SKINS, a window store) -/
  | skInsert (slot : Nat) (key : Word) (v : Int)
  /-- SKSTAT -/
  | skStat (slot : Nat)
  /-- an operation for which the thread waits (R290) -/
  | skWork (w : SkWork)
  /-- FDIV and FSQRT at FP64: the result and the conditions are known at issue (R95) -/
  | arith
deriving DecidableEq, Repr

/-- One single-copy-atomic access of an operation (R224): `done` holds the value it has taken, and `early` that it was taken before an earlier
acquire, which may still undo it (R263, R267). -/
structure Access where
  id : Nat
  at_ : Target
  size : Nat
  data : Nat
  done : Option Nat
  early : Bool
deriving DecidableEq, Repr

/-- Who makes an access, as far as scopes tell agents apart (R263): a thread on a core, a copy engine for a team, a collective engine, another
unit of the package, the host, a peer package. -/
inductive Agent where
  | thread (r : ThreadRef) (core : Nat)
  | copier (team core : Nat)
  | collective (die : Nat)
  | package
  | host
  | peer
deriving DecidableEq, Repr

/-- A release that has been performed before earlier stores of its thread (R263, R264): the range it wrote, the operation, its scope and its
core. -/
structure Mark where
  range : Range
  ref : ThreadRef
  op : Nat
  scope : Scope
  core : Nat
deriving DecidableEq, Repr

/-- A memory operation or another long-latency producer of a thread, from issue to completion (R177, R249, R258). -/
structure MemOp where
  id : Nat
  kind : OpKind
  accs : List Access
  ord : MOrd
  scope : Scope
  cmp : Nat
  dst : Reg
  dstN : Nat
  /-- the issuing core -/
  core : Nat
  pc : DWord
  va : DWord
  conds : Conds
  einst : List Word
  /-- the replacement hint of its lines: 0 normal, 1 evict-first, 2 evict-last, 3 no-allocate (R38, R230) -/
  hint : Nat
  /-- for an acquire: the agents that have written its location since it was issued, as long as it had not taken its value (R263) -/
  seen : List Agent
  /-- the bytes of the instances that a sketch operation acts on (R272, R302) -/
  area : List Range
  /-- the grain and the cache policy of its page, as they were translated at issue (R261) -/
  grain : Nat
  cp : Nat
  /-- the thread's interval number N in program order (R275) -/
  n : Nat
deriving DecidableEq, Repr

/-- The kind of a pending request (R182). -/
inductive PKind where
  | rvx
  | rvred (op : RvOp)
  | qpop (grp nb : Bool)
deriving DecidableEq, Repr

/-- A pending request of a thread (R205, R206, R216); operations of a number above `id` were issued after it. -/
structure Pending where
  id : Nat
  kind : PKind
  dst : Reg
  size : Nat
  val : Word
  arg : Nat
  pc : DWord
  einst : List Word
deriving DecidableEq, Repr

/-- A translation (R356, R358). -/
structure Xlate where
  page : Nat
  size : Nat
  base : Nat
  r : Bool
  w : Bool
  x : Bool
  host : Bool
  rem : Bool
  sk : Option Nat
  grain : Nat
  /-- the cache policy: 0 cached, 1 L2 only, 2 uncached at the home -/
  cp : Nat
deriving DecidableEq, Repr

/-- A thread's key as the race detector names it: launch, stage, team index, identifier (R275). -/
structure RaceKey where
  launch : Nat
  stage : Nat
  team : Nat
  tid : Nat
deriving DecidableEq, Repr

/-- A release that a thread has read without an acquire: an acquire fence that follows synchronises with it (R264, R275): the releaser and its N,
the release's scope and core. -/
structure Heard where
  who : RaceKey
  n : Nat
  scope : Scope
  core : Nat
deriving DecidableEq, Repr

/-- A thread (R16, R174 to R177, R191, R381). -/
structure Thread where
  pc : DWord
  regs : Vector RegCell 256
  mode : Word
  status : TStatus
  loc : Loc
  /-- the clock of its core at which it last became resident (R178) -/
  born : Nat
  /-- the clock of its core at which its wait began (R184) -/
  since : Nat
  /-- the team core that measures the wait of a thread in the spawn ring: the one that displaced it (R183, R184) -/
  ringCore : Nat
  handler : Bool
  cause : Word
  epc : DWord
  eaddr : DWord
  einfo : Word
  einst : List Word
  ectl : Word
  resumePc : DWord
  held : List Trap
  ops : List MemOp
  pend : Option Pending
  /-- the wait that has just ended: the instruction at `pc` goes on from it -/
  resume : Option Wait
  /-- how far the instruction at `pc` has come: 1, its guard read has been counted; 2, its source reads too (R89) -/
  phase : Nat
  /-- YIELD: out of Rd until this clock (R199) -/
  yieldTo : Option Nat
  /-- the address of a page fault that was denied: the thread takes the fault next (R361) -/
  denied : Option DWord
  /-- a trap that the thread takes once it is on its cores and has no division in flight (R95, R385) -/
  late : Option Trap
  lastPage : Option Xlate
  /-- granules absent since a restore (R391) -/
  absent : BitVec 16
  /-- where the save area holds its granules, while its team is parked and afterwards while some are absent (R390) -/
  regsAt : Nat
  /-- registers that have become full since the thread was parked, each with whether the value it holds is newer than the save area's: the
  result of a request, or the completion of a handle (R176, R180) -/
  changed : List (Reg × Bool)
  /-- registers that wait for an engine handle's completion, each with its token (R307) -/
  handleRegs : List (Reg × Word)
  raceN : Nat
  raceTab : List (RaceKey × Nat)
  /-- the widest scope of its release fences so far, and the releases that it has read without an acquire (R264, R275) -/
  raceFence : Scope
  raceHeard : List Heard
deriving DecidableEq, Repr

/-- A barrier of a team (R201, R385): its age is `elapsed`, counted until the team last changed its reference core, and the clocks since then; `saved` is
the generation number in the header of the team's save slot (R389). -/
structure Barrier where
  gen : Nat
  arrived : List Nat
  elapsed : Nat
  since : Nat
  fired : Bool
  saved : Nat := 0
deriving DecidableEq, Repr

/-- The age of a rendezvous instance or of a COLL handle (R385), as that of a barrier. -/
structure Age where
  base : Nat
  size : Nat
  elapsed : Nat
  since : Nat
  fired : Bool
deriving DecidableEq, Repr

/-- A wake condition of a rack entry (R185). -/
inductive Cond where
  | address (t : Target)
  | barrier (n : Nat)
  | rendezvous (base size : Nat)
  | queue (q : Nat) (push : Bool)
  | handle (core slot gen : Nat)
  | pageFault (seq : Nat)
deriving DecidableEq, Repr

/-- A rack entry (R185): its conditions, the overflow flag, whether it has fired, whether it holds the pre-empted
condition (R388), and whether a handle was outstanding when the team was parked, so that it returns to its cores (R186). -/
structure Rack where
  conds : List Cond
  overflow : Bool
  fired : Bool
  pre : Bool
  bound : Bool
deriving DecidableEq, Repr

/-- What a team is doing: on its cores; chosen for pre-emption, its issue stopped (R388); parked (R184); killed, leaving
its cores (R376); placed again and still reading its save area (R391). -/
inductive TeamPhase where
  | resident | chosen | parked | killed | restoring
deriving DecidableEq, Repr

/-- A stage of a running pipeline: the fields of its RCB in effect, its kernel descriptor and its stage record
(R70, R71, R350, R351, R353). -/
structure Stage where
  prio : Nat
  flags : Nat
  cmin : Nat
  cmax : Nat
  threadsMax : Nat
  gransMax : Nat
  spadMax : Nat
  spawnsMax : Nat
  waitth : Nat
  barwd : Nat
  weight : Nat
  mode : Nat
  fdom : Nat
  traph : DWord
  rshadow : Nat
  save : DWord
  sring : DWord
  srlog : Nat
  stack : DWord
  stksz : Nat
  matrix : Bool
  idem : Bool
  entry : DWord
  gran : Nat
  cores : Nat
  nthreads : Nat
  spad : Nat
  image : List Byte
  inq : Option Nat
  outq : List Nat
  persistent : Bool
  redundant : Bool
  teams : Nat
  /-- teams first placed so far -/
  next : Nat
  /-- team indices waiting to be placed again after a kill (R377) -/
  again : List Nat
  /-- kills so far of each team index (R377) -/
  kills : Tbl Nat
  killed : Bool
deriving DecidableEq, Repr

/-- The budgets of an RCB node (R352). -/
structure Budget where
  prio : Nat
  cmax : Nat
  threads : Nat
  grans : Nat
  spad : Nat
  spawns : Nat
  qitems : Nat
deriving DecidableEq, Repr

/-- A running pipeline (R17, R189, R352, R366). -/
structure Pipeline where
  part : Nat
  ctx : Nat
  launch : Nat
  vf : Nat
  queue : Nat
  packet : Nat
  args : DWord
  stages : List Stage
  /-- context queue number of each of its queues -/
  queues : List Nat
  qitems : Nat
  budgets : List Budget
  killed : Bool
  partRelaunch : Bool
  trapOk : Bool
deriving DecidableEq, Repr

/-- An item of a stage queue (R213): its arrival sequence, or, while its push waits, the number of that request; `from_` is its pusher as the race
detector records it (R275). -/
structure Item where
  seq : Nat
  key : Nat
  data : List Byte
  from_ : Option (RaceKey × Nat)
deriving DecidableEq, Repr

/-- Items that a thread of a team holds on lease (R217). -/
structure Lease where
  team : Nat
  tid : Nat
  items : List Item
deriving DecidableEq, Repr

/-- A stage queue of a context (R213). -/
structure Queue where
  /-- the pipeline it is bound to, while that runs -/
  pipe : Option Nat
  cap : Nat
  keys : Nat
  isize : Nat
  remote : Bool
  closed : Bool
  items : List Item
  nextSeq : Nat
  counts : Tbl Nat
  leases : List Lease
  /-- pending QPOPs in arrival order -/
  pops : List ThreadRef
  /-- waiting pushes in arrival order, each with its item and its key -/
  pushes : List (ThreadRef × Item)
deriving DecidableEq, Repr

/-- A bound sketch slot (R278, R402): the descriptor, the state's address and the physical place of each 4 KiB block of
the state. -/
structure Bind where
  desc : List Byte
  state : Nat
  frames : List Target
deriving DecidableEq, Repr

/-- Who waits on a page-fault record (R360). -/
inductive Requester where
  | thread (t : ThreadRef)
  | engine (core op : Nat)
  | packet (vf queue index : Nat)
deriving DecidableEq, Repr

/-- A page-fault record, from its making until its resumption (R360, R361). -/
structure FaultRec where
  seq : Nat
  kind : Nat
  reason : Nat
  core : Nat
  va : DWord
  who : Nat
  requesters : List Requester
  /-- the ring entry it was written into, once it was -/
  slot : Option Nat
deriving DecidableEq, Repr

/-- A context (R16, R349): what its launches read of its table entry, its queues, its sketch slots and its faults. -/
structure Context where
  ptbase : Nat
  fring : Nat
  frlog : Nat
  fdom : Nat
  queues : Tbl Queue
  slots : Tbl Bind
  faults : List FaultRec
  faultSeq : Nat
  faultPos : Nat
deriving DecidableEq, Repr

/-- A partition (R346, R347, R369, R378). -/
structure Partition where
  clusters : List Nat
  hbmUnits : List Nat
  visible : List Nat
  wsUnits : List (Nat × Nat)
  collWeight : List Nat
  linkWeight : List Nat
  rcb : Nat
  waitFloor : Nat
  /-- its log ring: physical address, and log2 of the record count (R378) -/
  logBase : Nat
  logN : Nat
  admits : List (Nat × Nat × List Nat)
  launches : Nat
  /-- the number of its key among the keys the store has generated (R362) -/
  key : Nat
  logSeq : Nat
  logPos : Nat
  lost : Nat
  /-- the stage arbiter has still to make a pass: a team has left or has been parked, or a rack entry has fired (R187) -/
  passDue : Bool
deriving DecidableEq, Repr

/-- An error record (R378); `part` is the partition whose log ring it was written into, or 48 for the firmware's own log, of what concerns no
partition. -/
structure ErrRec where
  part : Nat
  seq : Nat
  src : Nat
  unit : Nat
  scope : Nat
  relaunched : Bool
  core : Nat
  ctx : Nat
  launch : Nat
  stage : Nat
  cause : Nat
  tid : Nat
  team : Nat
  pc : DWord
  addr : Nat
  info : Nat
  tag : Nat
  clock : Nat
  lost : Nat
deriving DecidableEq, Repr

/-- An interrupt: MSI-X vector 1 or 2 of every virtual function of a partition, or, for vector 0, the management complex
(R378, R393). -/
structure Irq where
  part : Nat
  vector : Nat
deriving DecidableEq, Repr

/-- An entry of a core's handle table (R307, R308). -/
structure Handle where
  gen : Nat
  pending : Bool
  owner : Nat
  scope : Scope
  err : Nat
  rmask : Word
deriving DecidableEq, Repr

/-- A numeric event class of a core (R90, R91). -/
structure EvReg where
  cnt : Word
  thr : Word
  win : Word
  act : Nat
  start : Nat
  fired : Bool
deriving DecidableEq, Repr

/-- A shape record (R313). -/
structure Shape where
  base : Nat
  elog : Nat
  rank : Nat
  clip : Nat
  xf : Nat
  swz : Nat
  fmt : Nat
  size : List Nat
  stride : List Int
  box : List Nat
deriving DecidableEq, Repr

/-- A collective record (R322). -/
structure CollRec where
  coord : List Nat
  die : Nat
  ext : List Nat
  repl : Nat
  op : Nat
  kind : Nat
  slot : Nat
  lanes : Nat
  ebase : Nat
  run : Nat
  nelem : Nat
deriving DecidableEq, Repr

/-- A tile descriptor's four words (R147). -/
abbrev Tile := BitVec 128

/-- A command of a matrix context (R154). -/
inductive MKind where
  | mma (ta tb : Nat) (da db : Tile) (o : Nat) (z : Bool) (seq : Nat)
  | accz (o count : Nat)
  | accrd (f : AccFmt) (a o rows cols pitch : Nat) (op : Nat)
  | accwr (f : AccFmt) (o rows cols : Nat) (data : List Nat) (cw : Option (Nat × Word))
deriving DecidableEq, Repr

/-- A queued matrix command: its place in the order of issues, its issuer and that instruction; for a welt, the copy that
carried it. -/
structure MCmd where
  id : Nat
  ref : ThreadRef
  tcore : Nat
  pc : DWord
  kind : MKind
  welt : Option Nat
  einst : List Word
deriving DecidableEq, Repr

/-- A matrix context of a core (R146, R153, R154, R168). -/
structure MatCtx where
  /-- the team that holds it and its team core -/
  team : Option (Nat × Nat)
  tiles : Tbl Tile
  queue : List MCmd
  halt : Bool
  /-- the number of the command whose mismatch halted it (R168) -/
  haltAt : Nat
  seq : Nat
deriving DecidableEq, Repr

/-- A team (R16, R180). -/
structure Team where
  pipe : Nat
  stage : Nat
  index : Nat
  phase : TeamPhase
  cores : List Nat
  threads : Tbl Thread
  maxTid : Nat
  spawns : Nat
  barriers : Tbl Barrier
  /-- completed barrier generations (R275) -/
  raceB : Nat
  /-- the spawn ring: identifiers, with KIND 1 for a displaced thread, and the number of entries ever taken (R182) -/
  ring : List (Nat × Bool)
  ringHead : Nat
  /-- team-core positions whose matrix context MCTX `.rel` released (R153) -/
  released : List Nat
  saveSlot : Nat
  /-- while it is parked: its matrix contexts, by team core (R169) -/
  kept : Tbl MatCtx
  rack : Option Rack
  rdvAges : List Age
  collAges : List Age
  /-- a kill asks for a relaunch when the team has left (R377) -/
  relaunch : Bool
  /-- a save of it has failed: pre-emption chooses without it (R392) -/
  spared : Bool
deriving DecidableEq, Repr

/-- What an engine operation does (R164, R166, R317 to R319, R325). -/
inductive EngKind where
  | lin (dsp ssp : Space) (a b len : Nat)
  | fill (dsp : Space) (a : Nat) (pat : Word) (len : Nat)
  | gather (dsp ssp : Space) (a : Nat) (rec : Shape) (k0 : List Int)
  | scatter (dsp ssp : Space) (rec : Shape) (b : Nat) (k0 : List Int)
  | cpyw (ssp : Space) (rec : Shape) (k0 : List Int) (tile : Nat) (ta tb o : Nat) (z : Bool)
  | tld (sp : Space) (a : Nat) (tile : Nat)
  | tst (sp : Space) (a : Nat) (tile : Nat)
  | accrd
  | msync
  | coll (rec : CollRec) (src dst : Nat) (num : Nat)
  | collSk (rec : CollRec) (slot : Nat) (num : Nat)
deriving DecidableEq, Repr

/-- How far an engine operation has come: not begun (R403); a first part of its source has been read, and the next byte waits for a bank in
refresh (R231); its source has been read; for a collective, all ranks' parts
have met, and the whole result has been received, with the conditions of each lane; it will end with an error; it has landed
and its welt waits for the queue. -/
inductive EngStage where
  | waiting
  | reading (data : List Byte)
  | begun (data : List Byte)
  | exchanged (data : List Byte) (conds : List Conds)
  | result (data : List Byte) (conds : List Conds)
  | failed (err : Nat)
  | landed
deriving DecidableEq, Repr

/-- An engine operation of a core (R307, R311, R312). -/
structure EngOp where
  id : Nat
  ref : ThreadRef
  tcore : Nat
  mc : Nat
  slot : Nat
  dreg : Reg
  pc : DWord
  einst : List Word
  scope : Scope
  cw : Option (Nat × Word)
  kind : EngKind
  stage : EngStage
  /-- the units that it will write, as they were mapped at its issue (R245) -/
  owns : List Range
  /-- the GLOBAL units that it holds at their homes, its request having come there (R240, R245) -/
  atHome : List Range
  /-- the GLOBAL units that it has written and released (R245) -/
  wrote : List Range
  /-- the page fault that pauses it (R320) -/
  paused : Option Nat
  rmask : Word
  /-- its slot has begun the operation, whose staging it occupies from then on (R330, R403) -/
  admitted : Bool
  /-- its group has assembled (R323), with these parts of other packages, in an order of arrival (R327) -/
  assembled : Bool
  peers : List PeerRank
  order : Nat
deriving DecidableEq, Repr

/-- A TLB entry, tagged by context (R358). -/
structure TlbEntry where
  ctx : Nat
  x : Xlate
deriving DecidableEq, Repr

/-- A line that an L1 holds (R230, R240): of HBM or host memory, whose sectors the directory gives, or of a weight store (R232); its
replacement hint. -/
structure L1Line where
  line : Target
  hint : Nat
deriving DecidableEq, Repr

/-- A 512-byte line of an L2 slice (R12, R230, R241): its valid and dirty sectors, its replacement hint, and, for a line of host memory, the
host's permission to the slice: 0 none, 1 to read, 2 to write (R239). -/
structure L2Line where
  line : Target
  valid : BitVec 16
  dirty : BitVec 16
  hint : Nat
  perm : Nat
deriving DecidableEq, Repr

/-- Who counts: the core, the thread that a threshold action concerns, and the instruction it reports (R91). -/
structure Counter where
  core : Nat
  ref : ThreadRef
  pc : DWord
  einst : List Word
deriving DecidableEq, Repr

/-- An event that has arisen in the clock of a core that runs: its place among the clock's events, who counts, and its class (R91). -/
structure Arisen where
  place : Nat
  by_ : Counter
  cls : Nat
deriving DecidableEq, Repr

/-- A core (R10, R90, R225, R307, R358). -/
structure Core where
  clock : Nat
  split : Nat
  events : Tbl EvReg
  /-- the events of the clock that runs, in the order in which they are added to the counts when it ends (R91) -/
  arisen : List Arisen
  handles : Tbl Handle
  /-- freed handle entries, each with the clock at which it became free, longest free first; entries never used come before them (R307) -/
  freed : List (Nat × Nat)
  ops : List EngOp
  mc0 : MatCtx
  mc1 : MatCtx
  /-- the matrix context served last (R154) -/
  lastMc : Nat
  tlb : List TlbEntry
  /-- instruction-cache copies: physical address of a 32-byte block and its bytes (R27, R255) -/
  icache : List (Target × List Byte)
  l1 : List L1Line
  /-- the threads in Rd, each with the clock since which it has been there without issuing (R178, R179) -/
  rd : List (ThreadRef × Nat)
  /-- per bench and slot class (bench × 3 + class): the thread tracked by R179 and since which clock it is in Rd -/
  track : Tbl (ThreadRef × Nat)
  /-- the thread that the picker must issue next on a bench and class (R179) -/
  forced : Tbl ThreadRef
  /-- per issue slot (bench × 4 + slot, the slots in the order A0, A1, B, C): the program counter and context of its last stitch (R178) -/
  last : Tbl (DWord × Nat)
  /-- issue slots in the second clock of an FP64 stitch (R21) -/
  busy : List Nat
  /-- the threads of this clock's stitches that have still to issue, by bench, slot and home lane, each with its slot of the bench: 0 to 3 for A0, A1, B
  and C (R18, R91, R178) -/
  stitch : List (ThreadRef × Nat)
  /-- the clock at which the stage arbiter of its partition last made a pass (R187) -/
  passAt : Nat
deriving DecidableEq, Repr

/-- A reduction slot of a die's collective engine: the context that holds it, its algorithm, and, for each group that has
used it, the number of the next operation (R324, R405). -/
structure CSlot where
  ctx : Nat
  alg : Nat
  issued : List (List Nat × Nat)
deriving DecidableEq, Repr

/-- A compute die: its reduction slots, the number of slots that have been used for each group (R405), and the bank of its weight store that is in
refresh (R231, R324). -/
structure Die where
  slots : Tbl CSlot
  refresh : Option Nat
  /-- operations aborted before this die's rank issued its part: group and number (R329) -/
  aborted : List (List Nat × Nat)
  uses : List (List Nat × Nat)
deriving DecidableEq, Repr

/-- An HBM stack's controller: outstanding tags, the firmware's occupancy threshold for scrubbing, scrub priority, passes done, and its
frame remap: the frames that stand elsewhere (R233, R234, R237). -/
structure Stack where
  tags : List Nat
  scrubBelow : Nat
  scrubPri : Nat
  scrubs : Nat
  remap : List (Nat × Nat)
deriving DecidableEq, Repr

/-- The MOESI states (R240). -/
inductive Moesi where
  | m | o | e | s
deriving DecidableEq, Repr

/-- A grain unit's directory entry: the agents that hold it, each in its state; an agent not listed holds it in I (R241); `engine`, it is held by an engine
operation, which writes and releases it (R245). -/
structure DirEntry where
  unit : Range
  holders : Tbl Moesi
  engine : Bool
deriving DecidableEq, Repr

/-- What the loader has loaded for a context: the kernel descriptor's address, the FEATMASK of its image (R65), and the contents of the kernel's
`.scratch` section (R60). -/
structure Loaded where
  ctx : Nat
  kernel : Nat
  featmask : Nat
  scratch : List Byte
deriving DecidableEq, Repr

/-- A user queue's state beside its descriptor in memory (R364). -/
structure UserQueue where
  wr : Nat
  rd : Nat
  err : Bool
deriving DecidableEq, Repr

/-- A consumed packet that has not completed (R365, R366). -/
structure Packet where
  vf : Nat
  queue : Nat
  index : Nat
  bytes : List Byte
  /-- the number of its queue's context -/
  ctx : Nat
  /-- the number that a LAUNCH took (R170) -/
  launch : Nat
  /-- its work has started: a LAUNCH's pipeline runs, a WSLOAD or COPY has read its source -/
  started : Bool
  /-- the pipeline of a LAUNCH -/
  pipe : Option Nat
  /-- the failure code, 0 for none -/
  code : Nat
  /-- the data that a WSLOAD or COPY still has to write -/
  data : List Byte
  /-- a WSLOAD, FILL or COPY has written its data -/
  written : Bool
  /-- its page fault, and whether that was denied -/
  paused : Option Nat
  denied : Bool
deriving DecidableEq, Repr

/-- A virtual function (R348). -/
structure Vf where
  part : Nat
  ctxtab : Nat
  ctxcnt : Nat
  qtab : Nat
  qcount : Nat
  err : Bool
  queues : Tbl UserQueue
deriving DecidableEq, Repr

/-- A Koriery Link port (R368): the flits delivered, whether the receiver drops until a retry, consecutive failed retries,
and whether the port is down. -/
structure Port where
  got : Nat
  dropping : Bool
  retries : Nat
  down : Bool
deriving DecidableEq, Repr

/-- An item sent to a peer's queue (R214). -/
structure Sent where
  ctx : Nat
  queue : Nat
  key : Nat
  data : List Byte
deriving DecidableEq, Repr

/-- A sector's shadow entry in the area at `area` of a context (R275); beside the fields that R275 gives it, the place of that last write, the
core it came from, and the scope in which it is a release, by its order or by a fence before it: by these an acquire tells whether it reads that
write and whether the scopes are mutual (log entry 9). -/
structure Shadow where
  ctx : Nat
  area : Nat
  sector : Target
  who : RaceKey
  bcnt : Nat
  nw : Nat
  atomic : Bool
  scope : Scope
  wrote : Range
  core : Nat
  rel : Scope
deriving DecidableEq, Repr

/-- The management complex (R370): the version of the image that runs, if any, and the public key that it was verified against; whether the
compute dies are held in reset; and the HDM ranges that it has set, each an address and a length (R367). -/
structure Firmware where
  running : Option Nat
  key : List Byte
  held : Bool
  refused : Nat
  hdm : List (Nat × Nat)
deriving DecidableEq, Repr

/-- The corrections of a unit instance since its last record, and every core's clock at that record (R379). -/
structure Corrected where
  unit : Nat
  inst : Nat
  count : Nat
  last : Option (Tbl Nat)
deriving DecidableEq, Repr

/-- One move of the package: a thread issues the instruction at its program counter; another agent makes one step; a core's
clock ticks; an engine reads its source, its request for a unit comes to the home, or it writes a unit that it holds (R245); a TLB entry, an instruction-cache block or a line of an L1 or of an L2 slice is evicted; the host reads a
register of a virtual function (R348); the reader of a partition's log clears VALID of an entry (R378); firmware sets the HDM ranges (R367); the
loader loads an image (R60, R65). -/
inductive Move where
  | issue (t : ThreadRef)
  | event (i : Instr)
  | clock (core : Nat)
  | engineBegin (core op : Nat)
  | engineOwn (core op k : Nat)
  | engineWrite (core op k : Nat)
  | tlbEvict (core : Nat)
  | icacheEvict (core : Nat)
  | l1Evict (core k : Nat)
  | l2Evict (slice k : Nat)
  | readRegister (vf off : Nat)
  | clearRecord (part entry : Nat)
  | setHdm (ranges : List (Nat × Nat))
  | loadImage (l : Loaded)
deriving DecidableEq, Repr

/-- The thread whose instruction is being executed and that instruction's words, as far as they were fetched (R401). -/
structure Current where
  ref : ThreadRef
  words : List Word
deriving DecidableEq, Repr

/-- The package. -/
structure State where
  mems : List (MemId × Memory)
  teams : Tbl Team
  pipes : Tbl Pipeline
  contexts : Tbl Context
  parts : Tbl Partition
  cores : Tbl Core
  dies : Tbl Die
  hbm : Tbl Stack
  vfs : Tbl Vf
  packets : List Packet
  ports : Tbl Port
  /-- the error records that have been written, the last one last (R378); the log rings in memory hold their bytes -/
  log : List ErrRec
  irqs : List Irq
  sent : List Sent
  /-- the data of the host's last read: of memory over CXL.mem, or of a register (R348, R367) -/
  hostData : List Byte
  /-- the key of each HBM unit, and of each 64 MiB weight-store unit, that a partition has been given: a number of the key store's (R362) -/
  hbmKeys : Tbl Nat
  wsKeys : Tbl Nat
  /-- the directory that the home slices keep in their L2 tags, by grain unit (R241, R242) -/
  dir : List DirEntry
  /-- the lines of each L2 slice (R9, R12, R241) -/
  l2 : Tbl (List L2Line)
  /-- releases performed ahead of earlier stores of their threads (R263) -/
  marks : List Mark
  poison : List Range
  shadow : List Shadow
  corrected : List Corrected
  firmware : Firmware
  /-- what the loader has loaded, the last first (R60, R65) -/
  loaded : List Loaded
  keys : Nat
  /-- the next number for an operation, a team or a pipeline -/
  nextId : Nat
  /-- the thread that executes (the model's own) -/
  cur : Option Current
  /-- the schedule: moves that come next, and the inputs of the outside world (the model's own) -/
  agenda : List Move
  /-- the number of the step, the argument of every free choice (the model's own) -/
  tick : Nat
deriving DecidableEq, Repr

/-- Why the machine stops with a fault. -/
inductive Fault where
  /-- Raised when an instruction of a thread is executed and no thread executes it: the step never does this. Safe. -/
  | noThread
  /-- Raised when the schedule names a step of another agent that this state does not have: a completion of nothing, an
  action on a thread, team, queue or core that does not exist or is not ready for it. Safe: there is no such step. -/
  | notEnabled
deriving DecidableEq, Repr

/-- Why the machine refuses. -/
inductive Refusal where
  /-- Raised by an arm of `exec` that has no meaning yet, with the instruction's mnemonic. Safe. -/
  | notModelled (mnemonic : String)
deriving DecidableEq, Repr

/-- The package right after reset (R90, R370): nothing is mapped, placed or running; the compute dies are held until a signed
image runs. -/
def State.reset : State :=
  { mems := [], teams := [], pipes := [], contexts := [], parts := [], cores := [], dies := [], hbm := [], vfs := [],
    packets := [], ports := [], log := [], irqs := [], sent := [], hostData := [], hbmKeys := [], wsKeys := [], dir := [], l2 := [], marks := [], poison := [], shadow := [], corrected := [],
    firmware := { running := none, key := [], held := true, refused := 0, hdm := [] }, loaded := [],
    keys := 0, nextId := 1, cur := none, agenda := [], tick := 0 }

end Sys2Proof.Machine
end

