-- ==== Sys2Proof/Machine/Mem.lean ====
section
/-!
DEFINITION. Tables and memories: lookup and update, the canonical form of a memory, and accesses of several bytes, least
significant byte first (R7).
-/

namespace Sys2Proof.Machine

/-- The entry of a table. -/
def Tbl.look {α : Type} : Tbl α → Nat → Option α
  | [], _ => none
  | (j, v) :: t, k => if j = k then some v else Tbl.look t k

/-- A table without an entry. -/
def Tbl.drop {α : Type} (t : Tbl α) (k : Nat) : Tbl α := t.filter fun e => e.1 != k

/-- A table with an entry set, in its place. -/
def Tbl.put {α : Type} : Tbl α → Nat → α → Tbl α
  | [], k, v => [(k, v)]
  | (j, w) :: t, k, v => if j = k then (k, v) :: t else (j, w) :: Tbl.put t k v

/-- A table with an entry changed, if it has one. -/
def Tbl.upd {α : Type} (t : Tbl α) (k : Nat) (f : α → α) : Tbl α :=
  match Tbl.look t k with
  | some v => Tbl.put t k (f v)
  | none => t

/-- What an unlisted address of any memory reads as, where its unit has no key of a partition's (log entry 3). -/
def Memory.rest : Byte := 0

/-- One byte. -/
def Memory.read : Memory → Nat → Byte
  | [], _ => Memory.rest
  | (b, v) :: m, a => if b = a then v else Memory.read m a

/-- A memory with a cell put before the first higher address. -/
def Memory.insert : Memory → Nat → Byte → Memory
  | [], a, v => [(a, v)]
  | (b, w) :: m, a, v => if a < b then (a, v) :: (b, w) :: m else (b, w) :: Memory.insert m a v

/-- A memory with one byte written: an address that holds what an unlisted one reads as is not listed. -/
def Memory.write (m : Memory) (a : Nat) (v : Byte) : Memory :=
  let m' := m.filter fun c => c.1 != a
  if v = Memory.rest then m' else Memory.insert m' a v

/-- The canonical form: addresses strictly rise from above `lo`, and no cell holds what an unlisted address reads as. -/
def Memory.wfFrom : Option Nat → Memory → Bool
  | _, [] => true
  | lo, (a, v) :: m => (match lo with
      | some l => decide (l < a)
      | none => true) && decide (v ≠ Memory.rest) && Memory.wfFrom (some a) m

/-- The canonical form of a memory. -/
def Memory.wf (m : Memory) : Bool := Memory.wfFrom none m

/-- A memory among the memories. -/
def Mems.look : List (MemId × Memory) → MemId → Memory
  | [], _ => []
  | (j, m) :: l, k => if j = k then m else Mems.look l k

/-- The memories with one set. -/
def Mems.put : List (MemId × Memory) → MemId → Memory → List (MemId × Memory)
  | [], k, m => [(k, m)]
  | (j, n) :: l, k, m => if j = k then (k, m) :: l else (j, n) :: Mems.put l k m

/-- A memory of the package. -/
def State.mem (s : State) (id : MemId) : Memory := Mems.look s.mems id

/-- The package with one memory set. -/
def State.setMem (s : State) (id : MemId) (m : Memory) : State := { s with mems := Mems.put s.mems id m }

/-- What a byte under a key of the key store reads as before anything has written it: unpredictable (R362, log entry 3). -/
def keyMask (key : Option Nat) (a : Nat) : Byte :=
  match key with
  | some k => Config.unpredictable k a
  | none => 0

/-- What a byte of the package reads as before anything has written it: unpredictable in a unit that a partition has been given, otherwise as
any unlisted byte. -/
def State.mask (s : State) (id : MemId) (a : Nat) : Byte :=
  match id with
  | .hbm => keyMask (s.hbmKeys.look (a / 2 ^ 30)) a
  | .ws => keyMask (s.wsKeys.look (a / 2 ^ 26)) a
  | .host | .peer | .spad .. | .oper .. | .acc .. | .kept .. => 0

/-- One byte of the package: HBM and the weight stores list what differs from what the unit's key gives (R362). -/
def State.byte (s : State) (id : MemId) (a : Nat) : Byte := (s.mem id).read a ^^^ s.mask id a

/-- Write one byte. -/
def State.setByte (s : State) (id : MemId) (a : Nat) (v : Byte) : State := s.setMem id ((s.mem id).write a (v ^^^ s.mask id a))

/-- The `n` bytes from a place on. -/
def State.bytes (s : State) (t : Target) : Nat → List Byte
  | 0 => []
  | n + 1 => s.byte t.mem t.addr :: s.bytes { t with addr := t.addr + 1 } n

/-- Write bytes from a place on. -/
def State.setBytes (s : State) (t : Target) : List Byte → State
  | [] => s
  | b :: bs => (s.setByte t.mem t.addr b).setBytes { t with addr := t.addr + 1 } bs

/-- The little-endian number in `n` bytes (R7). -/
def State.load (s : State) (t : Target) (n : Nat) : Nat := leNat (s.bytes t n)

/-- Store a number in `n` bytes, little-endian (R7). -/
def State.store (s : State) (t : Target) (n v : Nat) : State := s.setBytes t (leBytes n v)

/-- Forget a memory: it reads as zeros (R226, R146). -/
def State.clearMem (s : State) (id : MemId) : State := { s with mems := s.mems.filter fun e => e.1 != id }

/-- The number in a field of a record's bytes: `n` bytes from offset `o`. -/
def field (bs : List Byte) (o n : Nat) : Nat := leNat ((bs.drop o).take n)

/-- Whether all bytes of a field are 0. -/
def zeros (bs : List Byte) (o n : Nat) : Bool := ((bs.drop o).take n).all fun b => b == 0

/-- A memory of tile bytes (R146, R169). -/
def MemId.isTile : MemId → Bool
  | .oper .. | .kept _ _ false => true
  | .hbm | .host | .peer | .ws | .spad .. | .acc .. | .kept _ _ true => false

/-- The memories that GLOBAL reaches. -/
def MemId.isGlobal : MemId → Bool
  | .hbm | .host | .peer => true
  | .ws | .spad _ _ | .oper _ _ | .acc _ _ | .kept .. => false

/-- Two ranges share a byte. -/
def Range.meets (a b : Range) : Bool := decide (a.mem = b.mem) && decide (a.lo < b.hi) && decide (b.lo < a.hi)

/-- The range of an access. -/
def Target.range (t : Target) (n : Nat) : Range := ⟨t.mem, t.addr, t.addr + n⟩

/-- The range lies wholly in another. -/
def Range.within (a b : Range) : Bool := decide (a.mem = b.mem) && decide (b.lo ≤ a.lo) && decide (a.hi ≤ b.hi)

end Sys2Proof.Machine
end

