-- ==== Sys2Proof/Machine/Access.lean ====
section
/-!
DEFINITION. The accessors of the state: cores, teams, threads and their registers (R12, R176), the environment of the
executing thread, waits, and the error log (R378).
-/

namespace Sys2Proof.Machine

/-- A numeric event class at reset (R90). -/
def EvReg.fresh : EvReg := { cnt := 0, thr := 0xFFFFFFFF, win := 0, act := 0, start := 0, fired := false }

/-- A matrix context that no team holds (R146). -/
def MatCtx.fresh : MatCtx := { team := none, tiles := [], queue := [], halt := false, haltAt := 0, seq := 0 }

/-- A core at reset. -/
def Core.fresh : Core :=
  { clock := 0, split := 0, events := [], handles := [], freed := [], ops := [], mc0 := .fresh, mc1 := .fresh, lastMc := 1,
    arisen := [], passAt := 0, tlb := [], icache := [], l1 := [], rd := [], track := [], forced := [], last := [], busy := [], stitch := [] }

/-- A compute die at reset. -/
def Die.fresh : Die := { slots := [], refresh := none, aborted := [], uses := [] }

/-- A stack controller at reset. -/
def Stack.fresh : Stack := { tags := [], scrubBelow := 8, scrubPri := 0, scrubs := 0, remap := [] }

/-- A Koriery Link port at reset. -/
def Port.fresh : Port := { got := 0, dropping := false, retries := 0, down := false }

/-- A context that has run nothing: no queue bound, no slot bound (R213, R278). -/
def Context.fresh : Context :=
  { ptbase := 0, fring := 0, frlog := 4, fdom := 0, queues := [], slots := [], faults := [], faultSeq := 0, faultPos := 0 }

/-- The core of a number. -/
def State.core (s : State) (n : Nat) : Core := (s.cores.look n).getD .fresh
/-- Set a core. -/
def State.setCore (s : State) (n : Nat) (c : Core) : State := { s with cores := s.cores.put n c }
/-- Change a core. -/
def State.updCore (s : State) (n : Nat) (f : Core → Core) : State := s.setCore n (f (s.core n))
/-- The die of a number. -/
def State.die (s : State) (n : Nat) : Die := (s.dies.look n).getD .fresh
/-- Set a die. -/
def State.setDie (s : State) (n : Nat) (d : Die) : State := { s with dies := s.dies.put n d }
/-- The stack of a number. -/
def State.stack (s : State) (n : Nat) : Stack := (s.hbm.look n).getD .fresh
/-- Set a stack. -/
def State.setStack (s : State) (n : Nat) (k : Stack) : State := { s with hbm := s.hbm.put n k }
/-- The port of a number. -/
def State.port (s : State) (n : Nat) : Port := (s.ports.look n).getD .fresh
/-- The number of a context: its partition, the virtual function whose context table lists it, and its index there. Entries of equal index in the
tables of two virtual functions are two contexts, even where the tables are one; DESIGN CHOICE, log entry 63. -/
def ctxNumber (part vf index : Nat) : Nat := part * 16384 + vf * 256 + index % 256
/-- The partition of a context (R16). -/
def ctxPart (n : Nat) : Nat := n / 16384
/-- A context, by its number. -/
def State.context (s : State) (n : Nat) : Context := (s.contexts.look n).getD .fresh
/-- Set a context. -/
def State.setContext (s : State) (n : Nat) (c : Context) : State := { s with contexts := s.contexts.put n c }
/-- A matrix context of a core (R146). -/
def Core.mc (c : Core) (k : Nat) : MatCtx := if k = 0 then c.mc0 else c.mc1
/-- Set a matrix context of a core. -/
def Core.setMc (c : Core) (k : Nat) (m : MatCtx) : Core := if k = 0 then { c with mc0 := m } else { c with mc1 := m }
/-- A numeric event class of a core (R90). -/
def Core.event (c : Core) (k : Nat) : EvReg := (c.events.look k).getD .fresh
/-- The weight-store refresh phase as a core counts it: its clocks, modulo 32,768 (R191, R192). -/
def State.wsPhase (s : State) (core : Nat) : Nat := (s.core core).clock % 32768
/-- The local clock of a core, as an instruction or a record gives it (R13): its clocks, from a start that is free. -/
def State.localClock (s : State) (core : Nat) : Nat := (Config.clockStart core + (s.core core).clock) % 2 ^ 64
/-- The die of a core (R10). -/
def dieOf (core : Nat) : Nat := core / 64

/-- A team. -/
def State.team (s : State) (n : Nat) : Option Team := s.teams.look n
/-- Set a team. -/
def State.setTeam (s : State) (n : Nat) (tm : Team) : State := { s with teams := s.teams.put n tm }
/-- Change a team, if there is one. -/
def State.updTeam (s : State) (n : Nat) (f : Team → Team) : State :=
  match s.team n with
  | some tm => s.setTeam n (f tm)
  | none => s
/-- A thread. -/
def State.thread (s : State) (r : ThreadRef) : Option Thread := (s.team r.team).bind fun tm => tm.threads.look r.tid
/-- Set a thread of an existing team. -/
def State.setThread (s : State) (r : ThreadRef) (t : Thread) : State :=
  s.updTeam r.team fun tm => { tm with threads := tm.threads.put r.tid t }
/-- Change a thread, if there is one. -/
def State.updThread (s : State) (r : ThreadRef) (f : Thread → Thread) : State :=
  match s.thread r with
  | some t => s.setThread r (f t)
  | none => s
/-- The pipeline of a team. -/
def State.pipeOf (s : State) (tm : Team) : Option Pipeline := s.pipes.look tm.pipe
/-- The stage of a team. -/
def State.stageOf (s : State) (tm : Team) : Option Stage := (s.pipeOf tm).bind fun p => p.stages[tm.stage]?
/-- A context's number. -/
def Pipeline.ctxNum (p : Pipeline) : Nat := ctxNumber p.part p.vf p.ctx
/-- Change a stage of a pipeline. -/
def State.updStage (s : State) (pipe stage : Nat) (f : Stage → Stage) : State :=
  { s with pipes := s.pipes.upd pipe fun p => { p with stages := p.stages.modify stage f } }

/-- A register at reset. -/
def RegCell.zero : RegCell := { val := 0, live := true, full := true }
/-- A dead register: full, since an empty source is waited on before its dead mark applies (R176). -/
def RegCell.dead : RegCell := { val := 0, live := false, full := true }

/-- A register; g0 reads zero (R12). -/
def Thread.cell (t : Thread) (r : Reg) : RegCell := if r = 0 then .zero else t.regs[r.toNat]'r.isLt
/-- Set a register; g0 ignores writes (R12). -/
def Thread.setCell (t : Thread) (r : Reg) (c : RegCell) : Thread :=
  if r = 0 then t else { t with regs := t.regs.set r.toNat c r.isLt }
/-- The value of a register, 0 when it is dead (R176). -/
def Thread.rd (t : Thread) (r : Reg) : Word := if (t.cell r).live then (t.cell r).val else 0
/-- A write makes the register live and full (R176). -/
def Thread.wr (t : Thread) (r : Reg) (v : Word) : Thread := t.setCell r { val := v, live := true, full := true }
/-- The register is full. -/
def Thread.full (t : Thread) (r : Reg) : Bool := (t.cell r).full
/-- The register is dead. -/
def Thread.isDead (t : Thread) (r : Reg) : Bool := !(t.cell r).live
/-- Mark a register empty at issue; it is live (R35, R177). -/
def Thread.markEmpty (t : Thread) (r : Reg) : Thread := t.setCell r { t.cell r with live := true, full := false }
/-- Mark a register full with the value it holds (R307). -/
def Thread.markFull (t : Thread) (r : Reg) : Thread := t.setCell r { t.cell r with full := true }
/-- Apply a dead mark (R35). -/
def Thread.markDead (t : Thread) (r : Reg) : Thread := t.setCell r .dead
/-- A pair, low word in the even register (R7). -/
def Thread.pair (t : Thread) (r : Reg) : DWord := mkPair (t.rd r) (t.rd (r + 1))
/-- A quad (R45). -/
def Thread.quad (t : Thread) (r : Reg) : BitVec 128 := t.pair (r + 2) ++ t.pair r

/-- `n` registers from a base. -/
def regRange (r : Reg) (n : Nat) : List Reg := (List.range n).map fun i => r + BitVec.ofNat 8 i

/-- The writes that put a number into `n` registers, low word first. -/
def wordsOf (r : Reg) (n v : Nat) : List (Reg × Word) :=
  (List.range n).map fun i => (r + BitVec.ofNat 8 i, BitVec.ofNat 32 (v / 2 ^ (32 * i)))

/-- Perform register writes in order. -/
def Thread.wrs (t : Thread) (l : List (Reg × Word)) : Thread := l.foldl (fun t w => t.wr w.1 w.2) t

/-- A long-latency operation counts toward the 63: memory producers with a destination, handles, a pending request (R177). -/
def Thread.inFlight (t : Thread) : Nat :=
  (t.ops.filter fun o => o.dstN != 0).length + t.handleRegs.length + (if t.pend.isSome then 1 else 0)

/-- A producer in flight in the sense of R177: handles and pending requests excluded. -/
def Thread.producing (t : Thread) : Bool := t.ops.any fun o => o.dstN != 0

/-- An FP64 division or root is in flight (R95). -/
def Thread.dividing (t : Thread) : Bool := t.ops.any fun o => decide (o.kind = .arith)

/-- The thread's mode word: RM (R83). -/
def Thread.rm (t : Thread) : Nat := t.mode.toNat % 8
/-- The dead-read policy: true in mode T (R83). -/
def Thread.modeT (t : Thread) : Bool := t.mode.getLsbD 3
/-- The interval empty policy: true when lenient (R83). -/
def Thread.lenient (t : Thread) : Bool := t.mode.getLsbD 4

/-- A thread right after its creation: every register live, full and 0 (R354), no operation outstanding (R198). -/
def Thread.fresh (pc : DWord) (mode : Word) : Thread :=
  { pc := pc, regs := Vector.replicate 256 .zero, mode := mode, status := .runnable, loc := .none, born := 0, since := 0, ringCore := 0,
    handler := false, cause := 0, epc := 0, eaddr := 0, einfo := 0, einst := [], ectl := 0, resumePc := 0, held := [],
    ops := [], pend := none, resume := none, phase := 0, yieldTo := none, denied := none, late := none, lastPage := none, absent := 0, regsAt := 0, changed := [],
    handleRegs := [], raceN := 0, raceTab := [], raceFence := .thr, raceHeard := [] }

/-- What an instruction sees: its thread, the thread's team, stage and pipeline, and where the thread runs. -/
structure Env where
  ref : ThreadRef
  words : List Word
  t : Thread
  tm : Team
  st : Stage
  pl : Pipeline
  tcore : Nat
  bench : Nat
  slot : Nat
  core : Nat
deriving DecidableEq, Repr

/-- The environment of a thread that is runnable in a slot of a resident team. -/
def State.env (s : State) (c : Current) : Option Env :=
  (s.team c.ref.team).bind fun tm =>
    (s.pipeOf tm).bind fun pl =>
      (pl.stages[tm.stage]?).bind fun st =>
        (tm.threads.look c.ref.tid).bind fun t =>
          match t.loc, t.status, tm.phase with
          | .slot tc b k, .runnable, .resident =>
            (tm.cores[tc]?).map fun core =>
              { ref := c.ref, words := c.words, t := t, tm := tm, st := st, pl := pl, tcore := tc, bench := b, slot := k, core := core }
          | _, _, _ => none

/-- The core a thread is on, or, in the spawn ring, the one that displaced it, for clocks (R184); team core 0 of its team otherwise. -/
def Team.coreOf (tm : Team) (t : Thread) : Nat :=
  match t.loc with
  | .slot tc _ _ => tm.cores.getD tc 0
  | .ring => tm.cores.getD t.ringCore 0
  | .none => tm.cores.headD 0

/-- The clock of the core a thread is on. -/
def State.clockOf (s : State) (r : ThreadRef) : Nat :=
  match s.team r.team with
  | some tm => match tm.threads.look r.tid with
    | some t => (s.core (tm.coreOf t)).clock
    | none => 0
  | none => 0

/-- The tokens of handles that a wait waits on: HWAIT's, or those of the empty handle registers that it reads, all of them for IVSPLIT (R385). -/
def Thread.awaits (t : Thread) : Wait → List Word
  | .handle tok => [tok]
  | .regs rs => (t.handleRegs.filter fun h => rs.contains h.1).map fun h => h.2
  | .allRegs => t.handleRegs.map fun h => h.2
  | .limit | .exit | .handleEntry | .tile _ | .commandQueue | .context | .accesses _ | .translations .. | .acquires .. | .sketch _ | .flags
  | .divisions | .address .. | .barrier .. | .request | .push _ | .pageFault .. | .slot .. => []

/-- A token names a collective that is under way on a core of the team (R307, R385). -/
def State.collToken (s : State) (tm : Team) (tok : Word) : Bool :=
  let c := s.core (tm.cores.getD (tok.toNat / 2 ^ 30) 0)
  c.ops.any fun o => decide (o.slot = tok.toNat % 1024) && (match o.kind with
    | .coll .. | .collSk .. => true
    | .lin .. | .fill .. | .gather .. | .scatter .. | .cpyw .. | .tld .. | .tst .. | .accrd | .msync => false)
    && (match c.handles.look o.slot with
      | some h => decide (h.gen = tok.toNat / 1024 % 2 ^ 20)
      | none => false)

/-- The first wait on a collective's handle starts its age (R385). -/
def State.ageColl (s : State) (team : Nat) (toks : List Word) : State :=
  s.updTeam team fun tm =>
    let now := (s.core (tm.cores.headD 0)).clock
    let new := toks.filter fun k => s.collToken tm k && tm.collAges.all fun a => a.base != k.toNat
    { tm with collAges := tm.collAges ++ new.map fun k => { base := k.toNat, size := 0, elapsed := 0, since := now, fired := false } }

/-- What a thread keeps of the wait it goes on from when it enters another: a page fault of its fetch does not undo what the instruction has
done (R202, R214, R261). -/
def Thread.keeps (t : Thread) : Wait → Option Wait
  | .pageFault .. => t.resume
  | .regs _ | .limit | .allRegs | .exit | .handle _ | .handleEntry | .tile _ | .commandQueue | .context | .accesses _ | .translations .. | .acquires .. | .sketch _
  | .flags | .divisions | .address .. | .barrier .. | .request | .push _ | .slot .. => none

/-- Put a thread into a wait (R174); a wait that is resumed keeps its beginning (R184). -/
def State.wait (s : State) (r : ThreadRef) (w : Wait) : State :=
  let now := s.clockOf r
  let toks := match s.thread r with
    | some t => t.awaits w
    | none => []
  (s.updThread r fun t => { t with status := .waiting w, since := if t.resume = some w then t.since else now, resume := t.keeps w }).ageColl
    r.team toks

/-- A fresh number. -/
def State.fresh (s : State) : State := { s with nextId := s.nextId + 1 }

/-- A record about nothing. -/
def ErrRec.blank : ErrRec :=
  { part := 0, seq := 0, src := 0, unit := 0, scope := 0, relaunched := false, core := 0xFFFF, ctx := 0xFFFF, launch := 0, stage := 0,
    cause := 0, tid := 0, team := 0, pc := 0, addr := 0, info := 0, tag := 0, clock := 0, lost := 0 }

/-- The report target of a fault domain is firmware (R350). -/
def fdomFw (fdom : Nat) : Bool := decide (fdom / 4 % 2 = 1)

/-- A record about a thread of a team (R378). -/
def State.errFor (s : State) (tm : Team) (tid : Nat) (src : Nat) : ErrRec :=
  let core := match tm.threads.look tid with
    | some t => tm.coreOf t
    | none => tm.cores.headD 0xFFFF
  match s.pipeOf tm with
  | some p => { ErrRec.blank with part := p.part, src := src, core := core, ctx := p.ctx, launch := p.launch, stage := tm.stage,
                                  tid := tid, team := tm.index, clock := s.localClock core }
  | none => { ErrRec.blank with src := src, core := core }

/-- The stage arbiter of a partition is to make a pass (R187). -/
def State.askPass (s : State) (part : Nat) : State := { s with parts := s.parts.upd part fun p => { p with passDue := true } }

/-- A team has left its cores, or its rack entry has fired: the arbiter of its partition is to make a pass (R187). -/
def State.askPassOf (s : State) (tm : Team) : State :=
  match s.pipeOf tm with
  | some p => s.askPass p.part
  | none => s

/-- The rack entry of a team fires (R185). -/
def State.fireRack (s : State) (n : Nat) : State :=
  match s.team n with
  | some tm => (s.setTeam n { tm with rack := tm.rack.map fun r => { r with fired := true } }).askPassOf tm
  | none => s

/-- The partition that holds a core. -/
def State.partOfCore (s : State) (core : Nat) : Option (Nat × Partition) := s.parts.find? fun e => e.2.clusters.contains (core / 4)

end Sys2Proof.Machine
end

