-- ==== Sys2Proof/Machine/Homes.lean ====
section
/-!
DEFINITION. The homes (R15, R238, R239): a line's slice, the lines of L2 slices, the directory's recall (R241, R245), what a write at a home
does beside changing bytes: acquires note the writer (R263), and what it covers is poisoned no longer (R375); and the error log, whose rings the
hardware writes there (R378).
-/

namespace Sys2Proof.Machine

/-- The access has been performed, for good. -/
def Access.isDone (a : Access) : Bool := a.done.isSome && !a.early

/-- Every access of the operation has been performed. -/
def MemOp.isDone (o : MemOp) : Bool := o.accs.all Access.isDone

/-- The range of an access. -/
def Access.range (a : Access) : Range := a.at_.range a.size

/-- Acquire semantics. -/
def ordAcquires : MOrd → Bool
  | .acq | .ar => true
  | .rlx | .rel => false

/-- Release semantics. -/
def ordReleases : MOrd → Bool
  | .rel | .ar => true
  | .rlx | .acq => false

/-- A release that was performed ahead has stores before it that have not been performed. -/
def State.markOpen (s : State) (m : Mark) : Bool :=
  match s.thread m.ref with
  | some t => t.ops.any fun p => decide (p.id < m.op) && !p.isDone
  | none => false

/-- What an access of an operation touches: its bytes, or, for a sketch operation, those of its instances (R272, R302). -/
def MemOp.spans (o : MemOp) (a : Access) : List Range := if o.area.isEmpty then [a.range] else o.area

/-- A place has been written by an agent: acquires that have still to take their value from it note it (R263). -/
def State.noteWrite (s : State) (g : Agent) (r : Range) : State :=
  let note (o : MemOp) : MemOp :=
    if ordAcquires o.ord && (o.accs.any fun a => a.done.isNone && (o.spans a).any fun x => x.meets r) && !o.seen.contains g then { o with seen := g :: o.seen }
    else o
  { s with teams := s.teams.map fun tm => (tm.1, { tm.2 with threads := tm.2.threads.map fun t => (t.1, { t.2 with ops := t.2.ops.map note }) }) }

/-- A write by an agent to a range (R263, R264): the releases performed ahead that it covers are no longer what is read there, unless it is an
atomic. -/
def State.wroteBy (s : State) (g : Agent) (chain : Bool) (r : Range) : State :=
  let s := { s with marks := s.marks.filter fun m => s.markOpen m && (chain || !m.range.within r) }
  s.noteWrite g r

/-- A range holds a poisoned byte (R375). -/
def State.poisoned (s : State) (r : Range) : Bool := s.poison.any fun p => p.meets r

/-- A write covers poisoned units wholly: they are poisoned no longer (R375). -/
def State.unpoison (s : State) (r : Range) : State := { s with poison := s.poison.filter fun p => !p.within r }

/-- A write of a number to a place (R375); `chain`, as a part of an atomic. -/
def State.writeData (s : State) (g : Agent) (chain : Bool) (t : Target) (n v : Nat) : State :=
  ((s.store t n v).unpoison (t.range n)).wroteBy g chain (t.range n)

/-- A write of bytes to a place (R375). -/
def State.writeBytes (s : State) (g : Agent) (t : Target) (l : List Byte) : State :=
  ((s.setBytes t l).unpoison (t.range l.length)).wroteBy g false (t.range l.length)

/-- The slice of a line index within a die: the XOR of its seven 5-bit groups (R238). -/
def sliceIn (l : Nat) : Nat := (List.range 7).foldl (fun x i => x ^^^ l / 2 ^ (5 * i) % 32) 0

/-- The home slice of a place, die × 32 + slice within the die (R10, R15): of HBM on the die that owns it (R238), of host memory on die
L mod 4 (R239). -/
def homeOf (t : Target) : Nat :=
  let l := t.addr / 512
  (if t.mem = .host then l % 4 else t.addr / Config.dieHbm) * 32 + sliceIn l

/-- Memory whose lines are cached: of the package or of the host; a peer's never (R239). -/
def MemId.cached : MemId → Bool
  | .hbm | .host => true
  | .peer | .ws | .spad .. | .oper .. | .acc .. | .kept .. => false

/-- The 512-byte line that holds a place (R12). -/
def lineOf (t : Target) : Target := { t with addr := t.addr / 512 * 512 }

/-- The sectors of a line that a range touches (R12). -/
def sectorsOf (line : Target) (r : Range) : BitVec 16 :=
  (List.range 16).foldl (fun m i => if (⟨line.mem, line.addr + 32 * i, line.addr + 32 * i + 32⟩ : Range).meets r then m ||| (1#16 <<< i) else m) 0

/-- The replacement hints of two uses of a line (R230): evict-last wins, and evict-first holds against none. -/
def joinHint (a b : Nat) : Nat := if a = 2 ∨ b = 2 then 2 else if a = 1 ∨ b = 1 then 1 else 0

/-- The lines of a slice. -/
def State.slice (s : State) (k : Nat) : List L2Line := (s.l2.look k).getD []

/-- The L2 line of a place. -/
def State.l2At (s : State) (t : Target) : Option L2Line := (s.slice (homeOf t)).find? fun l => decide (l.line = lineOf t)

/-- The home's L2 line after sectors have become valid and dirty, with a hint and the host's permission (R230, R239, R241). -/
def State.l2Touch (s : State) (t : Target) (valid dirty : BitVec 16) (hint perm : Nat) : State :=
  let k := homeOf t
  let l := match s.l2At t with
    | some l => { l with valid := l.valid ||| valid, dirty := l.dirty ||| dirty, hint := joinHint l.hint hint, perm := max l.perm perm }
    | none => { line := lineOf t, valid := valid, dirty := dirty, hint := hint % 3, perm := perm }
  { s with l2 := s.l2.put k (l :: (s.slice k).filter fun m => decide (m.line ≠ lineOf t)) }

/-- The directory without the units that meet ranges: every copy is recalled or invalidated. -/
def dirDrop (d : List DirEntry) (rs : List Range) : List DirEntry := d.filter fun e => !(rs.any fun g => g.meets e.unit)

/-- A holder has the unit dirty (R240). -/
def Moesi.isDirty : Moesi → Bool
  | .m | .o => true
  | .e | .s => false

/-- A unit is dirty in some L1. -/
def DirEntry.isDirty (e : DirEntry) : Bool := e.holders.any fun h => h.2.isDirty

/-- A core's L1 keeps a line while it has a valid sector of it (R242), or while it is a weight store's. -/
def L1Line.live (d : List DirEntry) (core : Nat) (l : L1Line) : Bool :=
  decide (l.line.mem = .ws) || d.any fun e => !e.engine && e.unit.meets (l.line.range 512) && (e.holders.look core).isSome

/-- Every operation of the package, with its core. -/
def State.allOps (s : State) : List (Nat × EngOp) := s.cores.flatMap fun e => e.2.ops.map fun o => (e.1, o)

/-- The caching agent that an engine operation acts as (R240): a collective engine, 256 + its die, or the core's bit for a copy engine. -/
def EngOp.agent (o : EngOp) (core : Nat) : Nat :=
  match o.kind with
  | .coll .. | .collSk .. => 256 + dieOf core
  | .lin .. | .fill .. | .gather .. | .scatter .. | .cpyw .. | .tld .. | .tst .. | .accrd | .msync => core

/-- The units that an operation holds at their homes: one that will end with an error holds none (R245). -/
def EngOp.held (o : EngOp) : List Range :=
  match o.stage with
  | .failed _ | .landed => []
  | .waiting | .reading _ | .begun _ | .exchanged _ _ | .result _ _ => o.atHome

/-- The directory's entries of engines (R240, R241): the agent of an operation holds each of its units alone, in E until it writes through; where an earlier
operation holds the unit, the request is queued behind it (R245). -/
def State.engineUnits (s : State) : List DirEntry :=
  s.allOps.flatMap fun e => (e.2.held.filter fun u => u.mem.cached && s.allOps.all fun f => decide (e.2.id ≤ f.2.id) || f.2.held.all fun g => !g.meets u).map fun u =>
    { unit := u, holders := [(e.2.agent e.1, .e)], engine := true }

/-- Change the directory: the engines keep what they hold, and an L1 line without a valid sector is gone. -/
def State.setDir (s : State) (d : List DirEntry) : State :=
  let own := s.engineUnits
  let d := own ++ d.filter fun e => !e.engine && own.all fun o => !o.unit.meets e.unit
  { s with dir := d, cores := s.cores.map fun c => (c.1, { c.2 with l1 := c.2.l1.filter (L1Line.live d c.1) }) }

/-- The directory, once what the engines hold has changed. -/
def State.reown (s : State) : State := s.setDir s.dir

/-- Bytes have been written through to the L2 lines that hold them: their sectors are valid and dirty there (R241, R246). -/
def L2Line.wrote (rs : List Range) (l : L2Line) : L2Line :=
  rs.foldl (fun l r => if r.meets (l.line.range 512) then { l with valid := l.valid ||| sectorsOf l.line r, dirty := l.dirty ||| sectorsOf l.line r } else l) l

/-- Bytes have been written through to the L2. -/
def State.l2Wrote (s : State) (rs : List Range) : State := { s with l2 := s.l2.map fun e => (e.1, e.2.map (L2Line.wrote rs)) }

/-- Every copy of units is recalled, and `new` copies take their place: what was dirty is dirty in the L2, which holds every line that an L1 holds
(R241, R245). -/
def State.regrant (s : State) (rs : List Range) (new : List DirEntry) : State :=
  let dirty := (s.dir.filter fun e => e.isDirty && rs.any fun g => g.meets e.unit).map fun e => e.unit
  (s.l2Wrote dirty).setDir (new ++ dirDrop s.dir rs)

/-- Every copy of units is recalled (R241, R245). -/
def State.recall (s : State) (rs : List Range) : State := s.regrant rs []

/-- Ranges have been written at their homes past the L1s: no copy of them is left, the home's L2 has what of them it holds, and what they cover is
poisoned no longer (R243, R246, R375). -/
def State.homePut (s : State) (rs : List Range) : State := rs.foldl State.unpoison ((s.recall rs).l2Wrote rs)

/-- Ranges have been written at their homes by an agent, which acquires note (R263). -/
def State.homeWrote (s : State) (g : Agent) (rs : List Range) : State := rs.foldl (fun s r => s.wroteBy g false r) (s.homePut rs)

/-- A record's 64 bytes (R378). -/
def ErrRec.bytes (r : ErrRec) : List Byte :=
  leBytes 4 r.seq ++ leBytes 1 r.src ++ leBytes 1 r.unit ++ leBytes 1 r.scope ++ leBytes 1 (if r.relaunched then 1 else 0) ++ leBytes 2 r.core
    ++ leBytes 2 r.ctx ++ leBytes 4 r.launch ++ leBytes 1 r.stage ++ leBytes 1 r.cause ++ leBytes 2 r.tid ++ leBytes 4 r.team
    ++ leBytes 8 r.pc.toNat ++ leBytes 8 r.addr ++ leBytes 4 r.info ++ leBytes 4 r.tag ++ leBytes 8 r.clock ++ leBytes 4 r.lost ++ leBytes 3 0
    ++ leBytes 1 1

/-- An entry of a partition's log ring (R378). -/
def Partition.logEntry (p : Partition) (k : Nat) : Target := ⟨.hbm, p.logBase + 64 * (k % 2 ^ p.logN)⟩

/-- VALID of an entry of a partition's log ring. -/
def State.logValid (s : State) (p : Partition) (k : Nat) : Bool := decide (s.byte .hbm ((p.logEntry k).addr + 63) ≠ 0)

/-- The number of the firmware's own log, of what concerns no partition (R378, log entry 46). -/
def noPart : Nat := 48

/-- Write a record into a partition's log ring, or drop it when the next entry is still valid, and notify (R378): the management
complex when `fw`, otherwise the virtual functions of the partition. -/
def State.logErr (s : State) (r : ErrRec) (fw : Bool) : State :=
  match s.parts.look r.part with
  | none =>
    if r.part = noPart then
      { s with log := s.log ++ [({ r with seq := (s.log.filter fun e => e.part == noPart).length + 1 } : ErrRec)], irqs := s.irqs ++ [{ part := noPart, vector := 0 }] }
    else s
  | some p =>
    if s.logValid p p.logPos then { s with parts := s.parts.put r.part { p with lost := p.lost + 1 } }
    else
      let e : ErrRec := { r with seq := p.logSeq + 1, lost := p.lost }
      let s : State := { s with
        log := s.log ++ [e]
        parts := s.parts.put r.part { p with logSeq := p.logSeq + 1, logPos := (p.logPos + 1) % 2 ^ p.logN, lost := 0 }
        irqs := s.irqs ++ [{ part := r.part, vector := if fw then 0 else 1 }] }
      (s.setBytes (p.logEntry p.logPos) e.bytes).homeWrote .package [(p.logEntry p.logPos).range 64]

/-- Log a record about a stage: its fault domain names the report target (R378). -/
def State.logStage (s : State) (tm : Team) (r : ErrRec) : State :=
  match s.stageOf tm with
  | some st => s.logErr r (fdomFw st.fdom)
  | none => s


end Sys2Proof.Machine
end

