-- ==== Sys2Proof/Machine/Flags.lean ====
section
/-!
DEFINITION. Sticky flags and numeric events: what the conditions of an element result do to the mode word of the thread and
to the counters of its core (R83, R85, R88 to R91), in the order that R91 gives the events of a clock, and the held traps of R381.
-/

namespace Sys2Proof.Machine

/-- The codes of the causes (R380). -/
def Cause.code : Cause → Nat
  | .illegal => 1
  | .fetchBoundary => 2
  | .emulation => 3
  | .emptyRegister => 4
  | .deadRegister => 5
  | .emptyInterval => 6
  | .malformedInterval => 7
  | .misalignment => 8
  | .accessViolation => 9
  | .sketchAccess => 10
  | .sketchMismatch => 11
  | .tileConflict => 12
  | .invalidHandle => 13
  | .spawnOverflow => 14
  | .barrierTimeout => 15
  | .race => 16
  | .redundancy => 17
  | .threshold => 18
  | .breakpoint => 19
  | .software => 20
  | .sys => 21

/-- The place of a held trap among those pending at one boundary (R381). -/
def Trap.rank (t : Trap) : Nat :=
  match t.cause with
  | .malformedInterval => 0
  | .redundancy => 1
  | .barrierTimeout => 2
  | .race => 3
  | _ => 4

/-- Put a held trap into its place; one of the same cause that is pending already is kept (R381). -/
def holdIn (l : List Trap) (t : Trap) : List Trap :=
  if l.any fun u => decide (u.cause = t.cause) then l
  else (l.filter fun u => u.rank < t.rank) ++ t :: l.filter fun u => !(u.rank < t.rank)

/-- A thread that has not exited holds a trap until a boundary (R381). -/
def State.hold (s : State) (r : ThreadRef) (t : Trap) : State :=
  s.updThread r fun th => if th.status = .exited then th else { th with held := holdIn th.held t }

/-- The sticky flags that conditions set: NV, DZ, OF, UF, NX in bits 8 to 12, NS in bit 14 (R83). -/
def condFlags (c : Conds) : Word :=
  (if c.nv then 0x100 else 0) ||| (if c.dz then 0x200 else 0) ||| (if c.ov then 0x400 else 0) ||| (if c.uf then 0x800 else 0)
    ||| (if c.nx then 0x1000 else 0) ||| (if c.ns then 0x4000 else 0)

/-- EI (R83). -/
def flagEI : Word := 0x2000

/-- The event classes that an element result's conditions count, in the order of their codes (R89). -/
def condClasses (c : Conds) : List Nat :=
  (if c.nv then [0] else []) ++ (if c.ov then [1] else []) ++ (if c.uf then [2] else []) ++ (if c.dz then [3] else [])
    ++ (if c.ns then [5] else [])

/-- The action of a class fires for the crossing thread (R91); `trapOk` is the firmware's permission of the trap action. -/
def State.fire (s : State) (k : Counter) (cls act cnt : Nat) : State :=
  match s.team k.ref.team with
  | none => s
  | some tm =>
    let trapOk := match s.pipeOf tm with
      | some p => p.trapOk
      | none => false
    let rec_ := { s.errFor tm k.ref.tid 4 with core := k.core, cause := cls, info := cnt, pc := k.pc, clock := s.localClock k.core }
    if act = 1 && trapOk then
      s.hold k.ref { cause := .threshold, deferred := true, epc := k.pc, eaddr := 0, einfo := BitVec.ofNat 32 cls, einst := k.einst }
    else if act = 2 then { s with irqs := s.irqs ++ [{ part := rec_.part, vector := 2 }] }
    else if act = 1 || act = 3 then s.logStage tm rec_
    else s

/-- The class's window has ended at a clock (R90). -/
def EvReg.due (e : EvReg) (now : Nat) : Bool := decide (e.win.toNat ≠ 0) && decide (e.start + e.win.toNat ≤ now)

/-- A window that has ended restarts: the count is 0, and the action may fire again (R90, R91). -/
def EvReg.roll (e : EvReg) (now : Nat) : EvReg :=
  if e.due now then { e with cnt := 0, fired := false, start := e.start + (now - e.start) / e.win.toNat * e.win.toNat } else e

/-- Count one event of a class (R90, R91): the count saturates, and the action fires at most once per window, when the count
exceeds the threshold. -/
def State.countOne (s : State) (k : Counter) (cls : Nat) : State :=
  let c := s.core k.core
  let e := (c.event cls).roll c.clock
  let cnt := min (e.cnt.toNat + 1) 0xFFFFFFFF
  let cross := decide (e.thr.toNat < cnt) && !e.fired
  let s := s.setCore k.core { c with events := c.events.put cls { e with cnt := BitVec.ofNat 32 cnt, fired := e.fired || cross } }
  if cross then s.fire k cls e.act cnt else s

/-- The issue class of an opcode with its MOD field (R21): 0 A, 1 B, 2 C. -/
def opClass (opc mod : Nat) : Nat :=
  if opc < 0x20 then 0
  else if opc < 0x40 then
    if 0x26 ≤ opc ∧ opc ≤ 0x2D then 1
    else if opc = 0x32 then (if [0, 1, 6, 7].contains (mod / 8) then 1 else 0)
    else if opc ≤ 0x35 ∧ mod / 8 % 2 = 1 then 1
    else 0
  else if opc < 0x50 then 1
  else if opc < 0x55 then 0
  else if opc < 0x60 then 1
  else 2

/-- The place of a matrix command's events in a clock: after those of all threads (R159). -/
def lastPlace : Nat := 513

/-- The issue slot of a bench that an instruction's events belong to (R18, R91), 0 to 3 for A0, A1, B and C: that of the stitch in which its thread issues;
for an event that arises after the issue, the first slot of the instruction's class. -/
def State.issueSlot (s : State) (k : Counter) : Nat :=
  let cls := opClass ((k.einst.getD 0 0).toNat / 4 % 256) ((k.einst.getD 1 0).toNat / 2 ^ 26)
  match (s.core k.core).stitch.head? with
  | some (r, n) => if r = k.ref ∧ n < 2 ∧ cls = 0 then n else if cls = 0 then 0 else cls + 1
  | none => if cls = 0 then 0 else cls + 1

/-- The place of a thread's events in a clock (R91): by bench, issue slot and home lane; a thread that sits in no slot comes after those that do (log
entry 66). -/
def State.eventPlace (s : State) (k : Counter) : Nat :=
  match s.thread k.ref with
  | some t => match t.loc with
    | .slot _ b j => b * 128 + s.issueSlot k * 32 + j % 32
    | .ring | .none => 512
  | none => 512

/-- An event put behind those of its place and before those of later ones. -/
def insertArisen (a : Arisen) : List Arisen → List Arisen
  | [] => [a]
  | b :: l => if b.place ≤ a.place then b :: insertArisen a l else a :: b :: l

/-- Events arise on a core, in order, at a place of its clock (R91): they are added to the counts when the clock ends. -/
def State.countAt (s : State) (place : Nat) (k : Counter) (l : List Nat) : State :=
  if l.isEmpty then s
  else s.updCore k.core fun c => { c with arisen := l.foldl (fun a n => insertArisen { place := place, by_ := k, cls := n } a) c.arisen }

/-- Events of a thread arise, in order (R91). -/
def State.count (s : State) (k : Counter) (l : List Nat) : State := s.countAt (s.eventPlace k) k l

/-- The events of a core's clock are added to its counts (R91). -/
def State.settle (s : State) (core : Nat) : State :=
  let l := (s.core core).arisen
  l.foldl (fun s a => s.countOne a.by_ a.cls) (s.updCore core fun c => { c with arisen := [] })

/-- Set sticky flags of a thread that has not exited (R84, R159). -/
def State.setFlags (s : State) (r : ThreadRef) (f : Word) : State :=
  s.updThread r fun t => if t.status = .exited then t else { t with mode := t.mode ||| f }

/-- All flags that the conditions of several element results set. -/
def flagsOf (cs : List Conds) : Word := cs.foldl (fun f c => f ||| condFlags c) 0

/-- Raise the conditions of element results, in element order (R85, R89, R91). -/
def State.raise (s : State) (k : Counter) (cs : List Conds) : State :=
  (s.setFlags k.ref (flagsOf cs)).count k (cs.flatMap condClasses)

/-- Raise the conditions of a matrix command's elements (R159): the flags of its thread, and events after those of all threads. -/
def State.raiseLast (s : State) (k : Counter) (cs : List Conds) : State :=
  (s.setFlags k.ref (flagsOf cs)).countAt lastPlace k (cs.flatMap condClasses)

/-- The counter of the executing instruction. -/
def Env.counter (e : Env) : Counter := { core := e.core, ref := e.ref, pc := e.t.pc, einst := e.words }

end Sys2Proof.Machine
end

