-- ==== Sys2Proof/Machine/Xlate.lean ====
section
/-!
DEFINITION. Addresses: the checks of R222, the page-table walk (R355 to R357), the TLB and last-page registers (R358), and
page faults (R360).
-/

namespace Sys2Proof.Machine

/-- A physical HBM address lies in a unit of the partition (R346). -/
def Partition.owns (p : Partition) (pa : Nat) : Bool := p.hbmUnits.contains (pa / 2 ^ 30)

/-- Every byte of an access of `n` bytes, at most a unit's, lies in units of the partition (R345, R346). -/
def Partition.ownsAll (p : Partition) (pa n : Nat) : Bool := p.owns pa && p.owns (pa + n - 1)

/-- A bit of a page-table entry. -/
def pteBit (v k : Nat) : Bool := decide (v / 2 ^ k % 2 = 1)

/-- Bytes of a leaf page at a level; at level 0 by TG of the entry above (R355). -/
def leafSize (level : Nat) (tg : Bool) : Nat :=
  match level with
  | 2 => 2 ^ 30
  | 1 => 2 ^ 21
  | _ => if tg then 2 ^ 16 else 2 ^ 12

/-- A valid entry is malformed (R357). -/
def pteMalformed (v level : Nat) (tg : Bool) : Bool :=
  let t := pteBit v 1
  let addr := v / 2 ^ 12 % 2 ^ 44 * 2 ^ 12
  let slot := v / 2 ^ 57 % 64
  pteBit v 63 || decide (v / 2 ^ 8 % 4 = 3) || decide (v / 2 ^ 6 % 4 = 3)
    || (!t && decide (level = 3)) || (t && decide (level = 0))
    || (pteBit v 2 && !(t && decide (level = 1)))
    || (!t && decide (addr % leafSize level tg ≠ 0))
    || (pteBit v 10 && pteBit v 11)
    || (pteBit v 56 && (pteBit v 10 || pteBit v 11 || pteBit v 5 || decide (addr ≠ 0) || !pteBit v 3 || !pteBit v 4))
    || (!pteBit v 56 && decide (slot ≠ 0))

/-- The translation that a leaf entry gives (R356). -/
def pteLeaf (v va level : Nat) (tg : Bool) : Xlate :=
  let size := leafSize level tg
  { page := va / size * size, size := size, base := v / 2 ^ 12 % 2 ^ 44 * 2 ^ 12, r := pteBit v 3, w := pteBit v 4, x := pteBit v 5,
    cp := v / 2 ^ 8 % 4, host := pteBit v 10, rem := pteBit v 11, sk := if pteBit v 56 then some (v / 2 ^ 57 % 64) else none,
    grain := match v / 2 ^ 6 % 4 with
      | 0 => 32
      | 1 => 128
      | _ => 512 }

/-- The index of a level's table (R355). -/
def pteIndex (va level : Nat) (tg : Bool) : Nat :=
  match level with
  | 3 => va / 2 ^ 39 % 2 ^ 17
  | 2 => va / 2 ^ 30 % 512
  | 1 => va / 2 ^ 21 % 512
  | _ => if tg then va / 2 ^ 16 % 32 else va / 2 ^ 12 % 512

/-- Walk the tables from a level down: a translation, or the reason of a page fault: 0 invalid, 1 malformed, 2 out of
carve-out (R355, R357, R360). `n` levels remain. -/
def State.walkFrom (s : State) (p : Partition) (va : Nat) : Nat → Nat → Bool → Except Nat Xlate
  | 0, _, _ => .error 1
  | n + 1, table, tg =>
    let at_ := table + 8 * pteIndex va n tg
    if !p.ownsAll at_ 8 then .error 2
    else
      let v := s.load ⟨.hbm, at_⟩ 8
      if !pteBit v 0 then .error 0
      else if pteMalformed v n tg then .error 1
      else if pteBit v 1 then s.walkFrom p va n (v / 2 ^ 12 % 2 ^ 44 * 2 ^ 12) (pteBit v 2)
      else
        let x := pteLeaf v va n tg
        if x.host || x.rem || x.sk.isSome || p.owns x.base then .ok x else .error 2

/-- Walk the tables of a context for a canonical address (R355). -/
def State.walk (s : State) (ctx va : Nat) : Except Nat Xlate :=
  match s.parts.look (ctxPart ctx) with
  | some p => s.walkFrom p (va % 2 ^ 56) 4 (s.context ctx).ptbase false
  | none => .error 2

/-- The translation covers an address. -/
def Xlate.covers (x : Xlate) (va : Nat) : Bool := decide (x.page ≤ va % 2 ^ 56) && decide (va % 2 ^ 56 < x.page + x.size)

/-- The place of an address that a translation covers (R356). -/
def Xlate.place (x : Xlate) (va : Nat) : Target :=
  { mem := if x.host then .host else if x.rem then .peer else .hbm, addr := x.base + (va % 2 ^ 56 - x.page) }

/-- The translations of an address that a context has in a core's TLB, or, for an access that is made on no core, in any. -/
def State.oldXlates (s : State) (core : Option Nat) (ctx va : Nat) : List Xlate :=
  s.cores.flatMap fun c =>
    if core.all fun k => k == c.1 then c.2.tlb.filterMap fun t => if t.ctx == ctx && t.x.covers va then some t.x else none else []

/-- The translation of an access of an engine or of the hardware's own: of the page tables, or, until an invalidation, an old one that the core's TLB
still holds (R358), so that an invalidation that covers the core (R359) covers it. The hardware's own accesses (packets, save areas, rings, sketch states) are
made on no core, and R358 gives them no TLB: they may use what any TLB still holds. -/
def State.xlate (s : State) (core : Option Nat) (ctx va : Nat) : Except Nat Xlate :=
  match s.oldXlates core ctx va with
  | [] => s.walk ctx va
  | o :: l => match (o :: l)[Config.oldXlate s.tick]? with
    | some x => .ok x
    | none => s.walk ctx va

/-- Translate through a last-page register, the core's TLB, or a walk that fills the TLB (R358). -/
def State.translate (s : State) (core ctx : Nat) (last : Option Xlate) (va : Nat) : Except Nat Xlate × State :=
  match last.filter fun x => x.covers va with
  | some x => (.ok x, s)
  | none =>
    let c := s.core core
    match c.tlb.find? fun t => t.ctx == ctx && t.x.covers va with
    | some t => (.ok t.x, s)
    | none =>
      match s.walk ctx va with
      | .ok x => (.ok x, s.setCore core { c with tlb := ({ ctx := ctx, x := x } :: c.tlb).take 4096 })
      | .error r => (.error r, s)

/-- Bits [63:56] are copies of bit 55 (R221). -/
def canonical (va : Nat) : Bool := decide (va / 2 ^ 55 % 512 = 0) || decide (va / 2 ^ 55 % 512 = 511)

/-- The permission an access needs (R357). -/
inductive Need where
  | read | write | both | exec
deriving DecidableEq, Repr

/-- The page grants what an access needs (R357). -/
def Xlate.grants (x : Xlate) : Need → Bool
  | .read => x.r
  | .write => x.w
  | .both => x.r && x.w
  | .exec => x.x

/-- Where an access goes: to a place, into a sketch window, to a fault, or to a page fault for a reason. -/
inductive Place where
  | at_ (t : Target) (grain : Nat)
  | window (slot : Nat) (key : Word) (x : Xlate)
  | fault (c : Cause) (eaddr : DWord) (einfo : Word)
  | pageFault (reason : Nat)
deriving DecidableEq, Repr

/-- A number put into a rising list. -/
def insertNat (n : Nat) : List Nat → List Nat
  | [] => [n]
  | a :: l => if n ≤ a then n :: a :: l else a :: insertNat n l

/-- The numbers in rising order. -/
def sortNat (l : List Nat) : List Nat := l.foldr insertNat []

/-- The units of a partition's weight-store carve-out on a die, in rising order (R346). -/
def Partition.wsOn (p : Partition) (die : Nat) : List Nat :=
  sortNat ((p.wsUnits.filter fun u => u.1 == die).map fun u => u.2)

/-- The place of a carve-out offset (R231), if the range lies in the carve-out. -/
def Partition.wsPlace (p : Partition) (die off size : Nat) : Option Target :=
  let us := p.wsOn die
  if off + size ≤ us.length * 2 ^ 26 then
    some ⟨.ws, die * Config.dieWs + us.getD (off / 2 ^ 26) 0 * 2 ^ 26 + off % 2 ^ 26⟩
  else none

/-- The range checks of LOCAL, codes 0x03 and 0x04 (R222). -/
def Env.localCheck (e : Env) (a size : Nat) : Option Word :=
  if a / 2 ^ 26 ≠ 0 ∨ e.tm.cores.length ≤ a / 2 ^ 24 % 4 then some 3
  else if e.st.spad < a % 2 ^ 24 + size then some 4
  else none

/-- The place of a LOCAL address (R221). -/
def Env.localPlace (e : Env) (a : Nat) : Target := ⟨.spad e.ref.team (a / 2 ^ 24 % 4), a % 2 ^ 24⟩

/-- The checks of R222 in their order on an address formed already, and the permission (R223): `align` may exceed `size`. -/
def State.resolve (s : State) (e : Env) (sp : Space) (a align size : Nat) (need : Need) : Place × State :=
  let ea := BitVec.ofNat 64 a
  if a % align ≠ 0 then (.fault .misalignment ea 0, s)
  else match sp with
  | .loc =>
    match e.localCheck a size with
    | some c => (.fault .accessViolation ea c, s)
    | none => (.at_ (e.localPlace a) 4, s)
  | .ws =>
    match (s.parts.look e.pl.part).bind fun p => p.wsPlace (dieOf e.core) a size with
    | some t => (.at_ t 32, s)
    | none => (.fault .accessViolation ea 5, s)
  | .glb =>
    if !canonical a then (.fault .accessViolation ea 1, s)
    else match s.translate e.core e.pl.ctxNum e.t.lastPage a with
    | (.error r, s) => (.pageFault r, s)
    | (.ok x, s) =>
      if !x.grants need then (.fault .accessViolation ea 2, s)
      else match x.sk with
      | some k => (.window k (BitVec.ofNat 32 (a / 4)) x, s.updThread e.ref fun t => { t with lastPage := some x })
      | none => (.at_ (x.place a) x.grain, s.updThread e.ref fun t => { t with lastPage := some x })

/-- Make a page-fault record, or join the one outstanding for the same context, page and core; the record's number (R360). -/
def State.newFault (s : State) (ctx : Nat) (q : Requester) (kind reason core : Nat) (va : DWord) (who : Nat) : State × Nat :=
  let c := s.context ctx
  match c.faults.find? fun f => f.core == core && f.va.toNat / 4096 == va.toNat / 4096 with
  | some f =>
    (s.setContext ctx { c with faults := c.faults.map fun g => if g.seq = f.seq then { g with requesters := g.requesters ++ [q] } else g }, f.seq)
  | none =>
    let n := c.faultSeq + 1
    let f : FaultRec := { seq := n, kind := kind, reason := reason, core := core, va := va, who := who, requesters := [q], slot := none }
    (s.setContext ctx { c with faultSeq := n, faults := c.faults ++ [f] }, n)

/-- A thread waits on a page fault of an access kind: 0 load, 1 store, 2 atomic, 3 fetch (R261, R360). -/
def State.threadFault (s : State) (e : Env) (kind reason : Nat) (a : Nat) : State :=
  let va := BitVec.ofNat 64 a
  let (s, n) := s.newFault e.pl.ctxNum (.thread e.ref) kind reason e.core va e.slot
  s.wait e.ref (.pageFault n va)

/-- The place of each byte range of a GLOBAL range, page by page of 4 KiB, without faults: an engine's or a hardware
access (R320, R358, R402); `none` at the first page that is not mapped as needed, with its address and reason. -/
def State.pages (s : State) (core : Option Nat) (ctx : Nat) (need : Need) : Nat → Nat → List Target → Except (Nat × Option Nat) (List Target)
  | 0, _, acc => .ok acc.reverse
  | n + 1, va, acc =>
    match s.xlate core ctx va with
    | .error r => .error (va, some r)
    | .ok x => if x.grants need && x.sk.isNone then s.pages core ctx need n (va + 4096) (x.place va :: acc) else .error (va, none)

/-- The places of the 4 KiB blocks that a GLOBAL range of `n` bytes touches; otherwise the first address of the range that cannot be
used (R360). -/
def State.blocks (s : State) (core : Option Nat) (ctx : Nat) (need : Need) (va n : Nat) : Except (Nat × Option Nat) (List Target) :=
  if n = 0 then .ok []
  else match s.pages core ctx need ((va + n - 1) / 4096 - va / 4096 + 1) (va / 4096 * 4096) [] with
    | .ok bs => .ok bs
    | .error x => .error (max x.1 va, x.2)

/-- Byte `i` of a range that starts at `va`, in the blocks found for it. -/
def blockByte (bs : List Target) (va i : Nat) : Target :=
  let b := bs.getD ((va + i) / 4096 - va / 4096) ⟨.hbm, 0⟩
  { b with addr := b.addr + (va + i) % 4096 }

/-- The ranges of memory of `n` bytes from `va` on, one for each of the blocks found for them. -/
def blockRanges (bs : List Target) (va n : Nat) : List Range :=
  if n = 0 then []
  else (List.range ((va + n - 1) / 4096 - va / 4096 + 1)).map fun i =>
    let t := bs.getD i ⟨.hbm, 0⟩
    let lo := if i = 0 then va % 4096 else 0
    let hi := min 4096 (va % 4096 + n - 4096 * i)
    ⟨t.mem, t.addr + lo, t.addr + hi⟩

/-- Read `n` bytes of a GLOBAL range. -/
def State.readBlocks (s : State) (bs : List Target) (va n : Nat) : List Byte :=
  (List.range n).map fun i => let t := blockByte bs va i; s.byte t.mem t.addr

/-- Write bytes of a GLOBAL range from byte `i` on. -/
def State.writeBlocks (s : State) (bs : List Target) (va : Nat) : Nat → List Byte → State
  | _, [] => s
  | i, b :: l => let t := blockByte bs va i; (s.setByte t.mem t.addr b).writeBlocks bs va (i + 1) l

/-- An access of the hardware's own to peer memory does not get there: its port is down (R368), or the peer refuses it (R369). It goes as one to a page without
permission: DESIGN CHOICE, log entry 70. -/
def State.shutOut (s : State) (bs : List Target) : Bool :=
  bs.any fun t => decide (t.mem = .peer) && ((s.ports.look (Config.route t.addr)).any (fun p => p.down) || decide (3 ≤ Config.peerAnswer s.tick))

/-- The places of the hardware's own access to the context's memory. -/
def State.ownBlocks (s : State) (ctx : Nat) (need : Need) (va n : Nat) : Except (Nat × Option Nat) (List Target) :=
  match s.blocks none ctx need va n with
  | .ok bs => if s.shutOut bs then .error (va, none) else .ok bs
  | .error x => .error x

/-- Read a record of the hardware's own from the context's memory (R251, R291, R320, R364). -/
def State.readGlobal (s : State) (ctx va n : Nat) : Except (Nat × Option Nat) (List Byte) :=
  match s.ownBlocks ctx .read va n with
  | .ok bs => .ok (s.readBlocks bs va n)
  | .error r => .error r

/-- Write bytes of the hardware's own into the context's memory. -/
def State.writeGlobal (s : State) (ctx va : Nat) (l : List Byte) : Except (Nat × Option Nat) State :=
  match s.ownBlocks ctx .write va l.length with
  | .ok bs => .ok ((s.writeBlocks bs va 0 l).homeWrote .package (blockRanges bs va l.length))
  | .error r => .error r

/-- The ranges of a part of the context's memory, as far as the hardware's own accesses reach it. -/
def State.ownRanges (s : State) (ctx va n : Nat) : List Range :=
  match s.ownBlocks ctx .read va n with
  | .ok bs => blockRanges bs va n
  | .error _ => []

/-- A range of the context's memory holds a poisoned byte (R375). -/
def State.globalPoison (s : State) (ctx va n : Nat) : Bool := (s.ownRanges ctx va n).any s.poisoned

end Sys2Proof.Machine
end

