-- ==== Sys2Proof/Machine/Shapes.lean ====
section
/-!
DEFINITION. Shape records: their fields, their legality, the addresses they give, the swizzle and the layout conversions
(R228, R235, R313 to R315).
-/

namespace Sys2Proof.Machine

/-- The fields of a shape record's 128 bytes (R313). -/
def shapeOf (d : List Byte) : Shape :=
  { base := field d 0 8, elog := field d 8 1, rank := field d 9 1, clip := field d 10 1, xf := field d 11 1, swz := field d 12 1,
    fmt := field d 13 1, size := (List.range 7).map fun i => field d (16 + 4 * i) 4,
    stride := (List.range 7).map fun i => (BitVec.ofNat 64 (field d (48 + 8 * i) 8)).toInt,
    box := (List.range 7).map fun i => field d (104 + 2 * i) 2 }

/-- The element size in bytes (R313). -/
def Shape.n (r : Shape) : Nat := 2 ^ r.elog

/-- The box that a layout conversion needs (R314). -/
def Shape.xfOk (r : Shape) : Bool :=
  if r.xf = 0 then true
  else decide (r.rank = 2) &&
    (if r.xf = 2 then decide (r.elog = 2) && decide (r.box.take 2 = [16, 16]) else decide (r.elog = 0) && decide (r.box.take 2 = [32, 32]))

/-- The record is well-formed as far as LDT and STT read it: they ignore BOX and XF (R251, R314). -/
def elemOk (d : List Byte) : Bool :=
  let r := shapeOf d
  zeros d 14 2 && zeros d 44 4 && zeros d 118 10
    && decide (r.elog ≤ 4) && decide (1 ≤ r.rank ∧ r.rank ≤ 7) && decide (r.clip ≤ 1) && decide (r.swz ≤ 3)
    && (decide (r.fmt ≤ 7) || decide (r.fmt = 15))
    && ((r.size.take r.rank).all fun v => v != 0) && ((r.size.drop r.rank).all fun v => v == 0) && ((r.stride.drop r.rank).all fun v => v == 0)
    && decide (r.base % r.n = 0) && (r.stride.all fun v => v % (r.n : Int) == 0)

/-- The record is well-formed (R314). -/
def shapeOk (d : List Byte) : Bool :=
  let r := shapeOf d
  elemOk d && decide (r.xf ≤ 3) && ((r.box.take r.rank).all fun v => v != 0) && ((r.box.drop r.rank).all fun v => v == 0) && r.xfOk

/-- The index lies in bounds (R251, R315). -/
def Shape.inBounds (r : Shape) (k : List Int) : Bool :=
  ((k.take r.rank).zip r.size).all fun e => decide (0 ≤ e.1) && decide (e.1 < (e.2 : Int))

/-- The record-side address of an index (R251, R315). -/
def Shape.addr (r : Shape) (k : List Int) : Int :=
  (((k.take r.rank).zip r.stride).map fun e => e.1 * e.2).foldl (fun a b => a + b) (r.base : Int)

/-- The stored offset of a logical offset under a swizzle (R228). -/
def Shape.swizzle (r : Shape) (x : Nat) : Nat :=
  if r.swz = 0 then x
  else
    let w := 16 * 2 ^ r.swz
    let row := x / w
    row * w + 16 * ((x % w / 16) ^^^ (row % (w / 16))) + x % 16

/-- The coordinates of a box's elements in dense order, the first dimension fastest (R315). -/
def boxCoords : List Nat → List (List Nat)
  | [] => [[]]
  | b :: bs => (boxCoords bs).flatMap fun rest => (List.range b).map fun e => e :: rest

/-- The elements of a box from its origin, in dense order: their indexes (R315). -/
def Shape.elements (r : Shape) (k0 : List Int) : List (List Int) :=
  (boxCoords (r.box.take r.rank)).map fun e => List.zipWith (fun (k : Int) (c : Nat) => k + c) k0 e

/-- The number of bytes of a box. -/
def Shape.boxBytes (r : Shape) : Nat := (r.box.take r.rank).foldl (fun a b => a * b) r.n

/-- The number of elements of a box. -/
def Shape.count (r : Shape) : Nat := (r.box.take r.rank).foldl (fun a b => a * b) 1

/-- The byte of the stored kilobyte that byte `j` of the converted one takes (R235). -/
def xfFrom (xf j : Nat) : Nat :=
  match xf with
  | 0 => j
  | 1 => j % 32 * 32 + j / 32
  | 2 => (j / 4 % 16 * 16 + j / 64) * 4 + j % 4
  | _ => (j / 256 * 8 + j % 64 / 8) * 32 + j / 64 % 4 * 8 + j % 8

/-- The byte of the converted kilobyte that byte `y` of the stored one takes: the inverse (R315). -/
def xfInto (xf y : Nat) : Nat :=
  match xf with
  | 0 | 1 | 2 => xfFrom xf y
  | _ => (y / 256 * 4 + y % 32 / 8) * 64 + y / 32 % 8 * 8 + y % 8

/-- A box's dense bytes converted on a gather (R315). -/
def xfGather (xf : Nat) (l : List Byte) : List Byte :=
  if xf = 0 then l else (List.range l.length).map fun j => l.getD (xfFrom xf j) 0

/-- A scatter's dense bytes before they are stored (R315). -/
def xfScatter (xf : Nat) (l : List Byte) : List Byte :=
  if xf = 0 then l else (List.range l.length).map fun j => l.getD (xfInto xf j) 0

/-- The dense elements that a scatter reads (R317): those that reach an element of the record in bounds, through the inverse layout conversion
(R315). -/
def Shape.scattered (r : Shape) (k0 : List Int) : List Nat :=
  let es := r.elements k0
  (List.range r.count).filter fun m => match es[xfFrom r.xf (m * r.n) / r.n]? with
    | some k => r.inBounds k
    | none => false

end Sys2Proof.Machine
end

