-- ==== Sys2Proof/Machine/Ring.lean ====
section
/-!
DEFINITION. The image of the spawn ring in memory (R182) and the seats of a bench (R11, R175, R181).
-/

namespace Sys2Proof.Machine

/-- The kind code of a pending request (R182). -/
def PKind.code : PKind → Nat
  | .rvx => 1
  | .rvred _ => 2
  | .qpop _ _ => 3

/-- A pending request gives its result in a register. -/
def Pending.gives (p : Pending) (r : Reg) : Bool :=
  r == p.dst || match p.kind with
    | .qpop _ _ => r == p.dst + 1
    | .rvx | .rvred _ => false

/-- The pending request that a thread waits on, if it does (R172): by a register that it fills, or by the next request. -/
def Thread.awaited (t : Thread) : Option Pending :=
  t.pend.filter fun p => match t.status with
    | .waiting (.regs rs) => rs.any p.gives
    | .waiting .request | .waiting .allRegs => true
    | .waiting _ | .runnable | .exited => false

/-- WAITK: the wait that a displaced thread resumes (R182); a wait on its pending request is a rendezvous or a queue wait
(R172). -/
def Thread.waitK (t : Thread) : Nat :=
  match t.status with
  | .waiting (.address ..) => 1
  | .waiting (.barrier ..) => 2
  | .waiting (.push _) => 4
  | .waiting _ | .runnable | .exited => match t.awaited with
    | some p => (match p.kind with
      | .rvx | .rvred _ => 3
      | .qpop _ _ => 4)
    | none => 0

/-- PARG: position, MOD, or limit (R182). -/
def Pending.parg (p : Pending) : Nat :=
  match p.kind with
  | .rvx => p.arg
  | .rvred op => op.code
  | .qpop _ _ => p.arg

/-- The bits of a list, lowest first, as a number. -/
def bitsNat : List Bool → Nat
  | [] => 0
  | b :: l => (if b then 1 else 0) + 2 * bitsNat l

/-- The bytes of a register's granules, granule 0 first (R182, R390). -/
def Thread.granBytes (t : Thread) (gran : Nat) : List Byte :=
  (List.range (16 * gran)).flatMap fun i => leBytes 4 (t.rd (BitVec.ofNat 8 i)).toNat

/-- The live bits of a thread's allocated registers (R182). -/
def Thread.liveBits (t : Thread) (gran : Nat) : Nat :=
  bitsNat ((List.range (16 * gran)).map fun i => (t.cell (BitVec.ofNat 8 i)).live)

/-- A spawn-ring entry's bytes (R182). -/
def ringEntry (t : Thread) (tid gran : Nat) (displaced : Bool) : List Byte :=
  let kind := if displaced then 1 else 0
  let req := match t.pend with
    | some p => leBytes 1 p.kind.code ++ leBytes 1 p.dst.toNat ++ leBytes 1 p.size ++ leBytes 1 0 ++ leBytes 4 p.val.toNat
                  ++ leBytes 4 p.parg
    | none => leBytes 12 0
  leBytes 8 t.pc.toNat ++ leBytes 2 tid ++ leBytes 1 kind ++ leBytes 1 t.waitK ++ leBytes 4 t.mode.toNat
    ++ leBytes 32 (t.liveBits gran) ++ req ++ leBytes 4 0 ++ t.granBytes gran

/-- The address of the entry at a place of the ring, counted from the first entry ever (R182). -/
def Stage.ringAt (st : Stage) (k : Nat) : Nat := st.sring.toNat + k % 2 ^ st.srlog * (64 + 64 * st.gran)

/-- Write a thread's ring entry, the `k`-th ever (R182). -/
def State.writeRing (s : State) (ctx : Nat) (st : Stage) (k : Nat) (t : Thread) (tid : Nat) (displaced : Bool) :
    Except (Nat × Option Nat) State :=
  s.writeGlobal ctx (st.ringAt k) (ringEntry t tid st.gran displaced)

/-- Bring the ring entry of a thread up to date, where it has one: its request's result has been written (R182). -/
def State.ringSync (s : State) (r : ThreadRef) : State :=
  match s.team r.team with
  | none => s
  | some tm =>
    match tm.threads.look r.tid, s.pipeOf tm, s.stageOf tm, tm.ring.findIdx? fun e => e.1 == r.tid with
    | some t, some p, some st, some k =>
      match s.writeRing p.ctxNum st (tm.ringHead + k) t r.tid ((tm.ring.getD k (0, false)).2) with
      | .ok s => s
      | .error _ => s
    | _, _, _, _ => s

/-- The seats taken on a core: bench, slot and granules (R175); a parked team takes none (R184). -/
def State.seats (s : State) (core : Nat) : List (Nat × Nat × Nat) :=
  s.teams.flatMap fun e =>
    let gran := match s.stageOf e.2 with
      | some st => st.gran
      | none => 16
    if e.2.phase = .parked then []
    else e.2.threads.filterMap fun th => match th.2.loc with
      | .slot tc b k => if e.2.cores[tc]? = some core then some (b, k, gran) else none
      | .ring | .none => none

/-- The slot can take a thread of a number of granules: it is free and its lane bank has room (R11, R175). -/
def seatFits (seats : List (Nat × Nat × Nat)) (gran bench slot : Nat) : Bool :=
  let mine := seats.filter fun e => e.1 == bench
  (mine.all fun e => e.2.1 != slot)
    && decide (((mine.filter fun e => e.2.1 % 32 == slot % 32).map fun e => e.2.2).sum + gran ≤ Config.laneGranules)

/-- The lowest slot of a bench that can take a thread, from a slot on. -/
def seatFrom (seats : List (Nat × Nat × Nat)) (gran bench : Nat) : Nat → Nat → Option Nat
  | 0, _ => none
  | n + 1, k => if seatFits seats gran bench k then some k else seatFrom seats gran bench n (k + 1)

/-- The lowest slot of a bench that can take a thread (R181). -/
def seatOn (seats : List (Nat × Nat × Nat)) (gran bench : Nat) : Option Nat := seatFrom seats gran bench Config.slots 0

/-- The first seat in a list of team cores and benches, in their order (R181). -/
def State.seatIn (s : State) (tm : Team) (gran : Nat) : List (Nat × Nat) → Option (Nat × Nat × Nat)
  | [] => none
  | (tc, b) :: l =>
    match tm.cores[tc]? with
    | none => s.seatIn tm gran l
    | some core =>
      match seatOn (s.seats core) gran b with
      | some k => some (tc, b, k)
      | none => s.seatIn tm gran l

/-- Every bench of a team, core by core (R181). -/
def Team.benches (tm : Team) : List (Nat × Nat) :=
  (List.range tm.cores.length).flatMap fun tc => [0, 1, 2, 3].map fun b => (tc, b)

/-- The benches in the order that a spawner tries them: its own, the others of its core, then the other team cores (R181). -/
def Team.benchesFrom (tm : Team) (tc b : Nat) : List (Nat × Nat) :=
  (tc, b) :: (([0, 1, 2, 3].filter fun x => x != b).map fun x => (tc, x))
    ++ (((List.range tm.cores.length).filter fun x => x != tc).flatMap fun x => [0, 1, 2, 3].map fun y => (x, y))

end Sys2Proof.Machine
end

