-- ==== Sys2Proof/Machine/Sync.lean ====
section
/-!
DEFINITION. Barriers and rendezvous instances of a team: arrival, completion and the members that leave (R201 to R210).
-/

namespace Sys2Proof.Machine

/-- A barrier at placement (R201). -/
def Barrier.fresh : Barrier := { gen := 0, arrived := [], elapsed := 0, since := 0, fired := false }

/-- A barrier of a team. -/
def Team.barrier (tm : Team) (n : Nat) : Barrier := (tm.barriers.look n).getD .fresh

/-- The identifiers of the members that have not exited, spawn-ring children included (R201). -/
def Team.live (tm : Team) : List Nat := (tm.threads.filter fun e => decide (e.2.status ≠ .exited)).map fun e => e.1

/-- One barrier's test: its generation completes when a member lives and every live member has arrived (R201). -/
def Barrier.test (live : List Nat) (b : Barrier) : Barrier :=
  if !live.isEmpty && live.all b.arrived.contains then
    { Barrier.fresh with gen := (b.gen + 1) % 2 ^ 32, saved := b.saved }
  else b

/-- Test every barrier of a team (R201): at every arrival, exit and spawn. -/
def Team.testBarriers (tm : Team) : Team :=
  let bs := tm.barriers.map fun e => (e.1, e.2.test tm.live)
  let done := (tm.barriers.filter fun e => decide ((e.2.test tm.live).gen ≠ e.2.gen)).length
  { tm with barriers := bs, raceB := (tm.raceB + done) % 2 ^ 16 }

/-- A thread arrives at a barrier in its generation (R202); `now` is the clock of team core 0 (R385). -/
def Team.arrive (tm : Team) (n tid now : Nat) : Team :=
  let b := tm.barrier n
  let b' := { b with
    arrived := tid :: b.arrived
    elapsed := if b.arrived.isEmpty then 0 else b.elapsed
    since := if b.arrived.isEmpty then now else b.since }
  { tm with barriers := tm.barriers.put n b' }

/-- A thread that leaves is in no arrival set (R197). -/
def Team.leaveBarriers (tm : Team) (tid : Nat) : Team :=
  { tm with barriers := tm.barriers.map fun e => (e.1, { e.2 with arrived := e.2.arrived.filter fun t => t != tid }) }

/-- The pending request is an arrival in an instance of a size (R205). -/
def Pending.rdv (p : Pending) (size : Nat) : Bool :=
  match p.kind with
  | .qpop _ _ => false
  | .rvx | .rvred _ => p.size == size

/-- A member is present when its identifier has been given out and it has not exited (R204). -/
def Team.present (tm : Team) (tid : Nat) : Option Thread :=
  match tm.threads.look tid with
  | some t => if t.status = .exited then none else some t
  | none => none

/-- The members of a group: position and thread, absent ones `none` (R204). -/
def Team.group (tm : Team) (base size : Nat) : List (Option Thread) :=
  (List.range (2 ^ size)).map fun p => tm.present (base + p)

/-- The instance of a group completes: some member is present, and every present member has an arrival of its size (R205). -/
def Team.rdvReady (tm : Team) (base size : Nat) : Bool :=
  let g := tm.group base size
  g.any (fun m => m.isSome) && g.all fun m => match m with
    | some t => match t.pend with
      | some p => p.rdv size
      | none => false
    | none => true

/-- The operator of RVRED on two words, with its conditions (R210). -/
def rvApply (op : RvOp) (a b : Word) : Word × Conds :=
  match op with
  | .addF32 => let r := f32.add .rne a.toNat b.toNat; (BitVec.ofNat 32 r.1, r.2)
  | .addI32 => (a + b, {})
  | .minF32 => let r := f32.minMax false false a.toNat b.toNat; (BitVec.ofNat 32 r.1, r.2)
  | .maxF32 => let r := f32.minMax true false a.toNat b.toNat; (BitVec.ofNat 32 r.1, r.2)
  | .minI32 => (if a.toInt ≤ b.toInt then a else b, {})
  | .maxI32 => (if a.toInt ≤ b.toInt then b else a, {})

/-- The identity of an operator (R210). -/
def rvIdentity : RvOp → Word
  | .addF32 => 0
  | .addI32 => 0
  | .minF32 => 0x7F800000
  | .maxF32 => 0xFF800000
  | .minI32 => 0x7FFFFFFF
  | .maxI32 => 0x80000000

/-- One level of the tree: neighbours are combined (R209). -/
def treeLevel (f : Word → Word → Word × Conds) : List Word → List Word × Conds
  | a :: b :: l =>
    let (v, c) := f a b
    let (r, d) := treeLevel f l
    (v :: r, c.join d)
  | l => (l, {})

/-- The root of a tree of `n` levels, and the conditions of all its nodes (R209). -/
def treeRoot (f : Word → Word → Word × Conds) : Nat → List Word → Conds → Word × Conds
  | 0, l, c => (l.headD 0, c)
  | n + 1, l, c =>
    let (r, d) := treeLevel f l
    treeRoot f n r (c.join d)

/-- The results of a completed instance, by position: value and conditions (R207 to R209); `none` marks the mismatch. -/
def rdvResults (size : Nat) (g : List (Option Thread)) : Option (List (Word × Conds)) :=
  let reqs := g.map fun m => m.bind fun t => t.pend
  let kinds := reqs.filterMap fun r => r.map fun p => p.kind
  match kinds with
  | [] => some []
  | k :: ks =>
    if ks.all fun j => decide (j = k) then
      match k with
      | .rvred op =>
        let vs := reqs.map fun r => match r with
          | some p => p.val
          | none => rvIdentity op
        let root := treeRoot (rvApply op) size vs {}
        some (reqs.map fun _ => root)
      | .rvx | .qpop _ _ =>
        some (reqs.map fun r => match r with
          | some p => (match (reqs.getD (p.arg % 2 ^ size) none) with
            | some q => q.val
            | none => 0, {})
          | none => (0, {}))
    else none

/-- The clock and core that a thread's events count on. -/
def State.counterOf (s : State) (r : ThreadRef) (pc : DWord) (einst : List Word) : Counter :=
  { core := (match s.team r.team with
      | some tm => match tm.threads.look r.tid with
        | some t => tm.coreOf t
        | none => 0
      | none => 0), ref := r, pc := pc, einst := einst }

/-- The team of a thread is not on its cores, or has not read its save area yet: what its registers become is newer than that area. -/
def State.isAway (s : State) (r : ThreadRef) : Bool :=
  match s.team r.team with
  | some tm => decide (tm.phase = .parked) || decide (tm.phase = .restoring)
  | none => false

/-- Write the result of a request into its destination, and into the spawn ring's copy where the thread waits there; the
request is no longer pending (R182, R206). In a register of an absent granule the result is newer than what the save area gives (R176). -/
def State.answer (s : State) (r : ThreadRef) (ws : List (Reg × Word)) : State :=
  let away := s.isAway r
  (s.updThread r fun t =>
    { t.wrs ws with
      pend := none
      changed := ((ws.filter fun w => away || t.absent.getLsbD (w.1.toNat / 16)).map fun w => (w.1, true)) ++ t.changed }).ringSync r

/-- Write the results of a completed instance in every member (R205, R207). -/
def State.completeRdv (s : State) (team base size : Nat) : State :=
  match s.team team with
  | none => s
  | some tm =>
    let g := tm.group base size
    let res := rdvResults size g
    let s := (List.range (2 ^ size)).foldl (fun s p =>
      match (g.getD p none).bind fun t => t.pend with
      | none => s
      | some q =>
        let r : ThreadRef := { team := team, tid := base + p }
        match res with
        | some vs =>
          let v := vs.getD p (0, {})
          let s := s.answer r [(q.dst, v.1)]
          s.raise (s.counterOf r q.pc q.einst) [v.2]
        | none =>
          (s.answer r [(q.dst, 0)]).hold r
            { cause := .barrierTimeout, deferred := true, epc := q.pc, eaddr := BitVec.ofNat 64 base, einfo := 2, einst := q.einst }) s
    s.updTeam team fun tm => { tm with rdvAges := tm.rdvAges.filter fun a => !(a.base == base && a.size == size) }

/-- The groups in which a member of a team has an arrival (R204). -/
def Team.rdvGroups (tm : Team) : List (Nat × Nat) :=
  tm.threads.filterMap fun e => match e.2.pend with
    | some p => match p.kind with
      | .qpop _ _ => none
      | .rvx | .rvred _ => if e.2.status = .exited then none else some (e.1 / 2 ^ p.size * 2 ^ p.size, p.size)
    | none => none

/-- Complete every instance of a team that is ready (R205): at every arrival, exit and spawn. -/
def State.testRdv (s : State) (team : Nat) : State :=
  match s.team team with
  | none => s
  | some tm => tm.rdvGroups.eraseDups.foldl (fun s g =>
      match s.team team with
      | some tm => if tm.rdvReady g.1 g.2 then s.completeRdv team g.1 g.2 else s
      | none => s) s

/-- Test the barriers and the instances of a team. -/
def State.testSync (s : State) (team : Nat) : State := (s.updTeam team Team.testBarriers).testRdv team

/-- Withdraw a thread's requests from the queues of its context (R197, R374). -/
def State.withdraw (s : State) (r : ThreadRef) : State :=
  match s.team r.team with
  | none => s
  | some tm => match s.pipeOf tm with
    | none => s
    | some p =>
      let c := s.context p.ctxNum
      s.setContext p.ctxNum { c with queues := c.queues.map fun e =>
        (e.1, { e.2 with pops := e.2.pops.filter fun x => x != r, pushes := e.2.pushes.filter fun x => x.1 != r }) }

/-- Entries of threads that have exited are dropped from the head of the spawn ring (R182, R374). -/
def Team.pruneRing (tm : Team) : Team :=
  let gone (e : Nat × Bool) : Bool := (tm.present e.1).isNone
  { tm with ring := tm.ring.dropWhile gone, ringHead := tm.ringHead + (tm.ring.takeWhile gone).length }

/-- A thread ends (R197, R374): its requests are withdrawn, it leaves every barrier and the spawn ring, and the instances are tested again. Its
slot is freed at once, unless a producer is still in flight. -/
def State.endThread (s : State) (r : ThreadRef) : State :=
  let s := s.withdraw r
  let s := s.updThread r fun t =>
    { t with status := .exited, pend := none, resume := none, held := [], handler := false, yieldTo := none, denied := none, late := none,
             lastPage := none, handleRegs := [], loc := if t.producing then t.loc else .none }
  let s := s.updTeam r.team fun tm => (tm.leaveBarriers r.tid).pruneRing
  s.testSync r.team

end Sys2Proof.Machine
end

