-- ==== Sys2Proof/Machine/Ops.lean ====
section
/-!
DEFINITION. The shared operations: completion of handles (R307), aborts of collectives (R329), kills (R373 to R377), and taking
an exception and returning from one (R381 to R384).
-/

namespace Sys2Proof.Machine

/-- An operation of a core. -/
def Core.op (c : Core) (id : Nat) : Option EngOp := c.ops.find? fun o => o.id == id

/-- Change an operation of a core; the directory follows what it holds. -/
def State.updOp (s : State) (core id : Nat) (f : EngOp → EngOp) : State :=
  (s.updCore core fun c => { c with ops := c.ops.map fun o => if o.id = id then f o else o }).reown

/-- A handle-table entry (R307). -/
def Core.handle (c : Core) (slot : Nat) : Handle :=
  (c.handles.look slot).getD { gen := 0, pending := false, owner := 0, scope := .team, err := 0, rmask := 0 }

/-- The token of a handle (R307). -/
def tokenOf (tcore gen slot : Nat) : Word := BitVec.ofNat 32 (tcore * 2 ^ 30 + gen * 2 ^ 10 + slot)

/-- The token of an operation. -/
def Core.token (c : Core) (o : EngOp) : Word := tokenOf o.tcore (c.handle o.slot).gen o.slot

/-- The operation issued first, of a list. -/
def firstIssued (l : List (Nat × EngOp)) : Option (Nat × EngOp) :=
  l.foldl (fun m e => match m with
    | none => some e
    | some b => if e.2.id < b.2.id then some e else some b) none

/-- The agent as far as scopes go (R263). -/
def EngOp.scopeAgent (o : EngOp) (core : Nat) : Agent :=
  match o.kind with
  | .coll .. | .collSk .. => .collective (dieOf core)
  | .lin .. | .fill .. | .gather .. | .scatter .. | .cpyw .. | .tld .. | .tst .. | .accrd | .msync => .copier o.ref.team core

/-- A handle completes (R307): its entry records the status and becomes free, the thread's register becomes full with its
value unchanged, and the operation is gone with all that it owned; of a parked thread the register is full once it is restored (R180). -/
def State.completeHandle (s : State) (core : Nat) (o : EngOp) (err : Nat) (rmask : Word) : State :=
  let c := s.core core
  let h := c.handle o.slot
  let away := s.isAway o.ref
  let s := (s.setCore core { c with
    handles := c.handles.put o.slot { h with pending := false, err := err, rmask := rmask }
    freed := c.freed ++ [(o.slot, c.clock)]
    ops := c.ops.filter fun p => p.id != o.id }).reown
  let s := s.updTeam o.ref.team fun tm => { tm with collAges := tm.collAges.filter fun a => a.base != (c.token o).toNat }
  s.updThread o.ref fun t =>
    if t.handleRegs.contains (o.dreg, c.token o) then
      { t.markFull o.dreg with
        handleRegs := t.handleRegs.filter fun r => r != (o.dreg, c.token o)
        changed := if away then (o.dreg, false) :: t.changed else t.changed }
    else t

/-- The group of a collective record (R323, R405): extents, REPL, and the coordinates on the axes outside REPL; the context's number is part of it, so that
operations of two contexts never meet, which R405 leaves open: DESIGN CHOICE, log entry 61. -/
def CollRec.group (r : CollRec) (ctx : Nat) : List Nat :=
  let axis (bit v : Nat) : Nat := if r.repl / 2 ^ bit % 2 = 1 then 0 else v
  ctx :: r.repl :: r.ext ++ [axis 0 r.die, axis 1 (r.coord.getD 0 0), axis 2 (r.coord.getD 1 0), axis 3 (r.coord.getD 2 0)]

/-- The coordinate and the extent of an axis that the group spans; 0 and 1 otherwise (R323): die, x, y, z. -/
def CollRec.axis (r : CollRec) (i : Nat) : Nat × Nat :=
  if r.repl / 2 ^ i % 2 = 1 then
    (if i = 0 then (r.die, r.ext.getD 3 1) else (r.coord.getD (i - 1) 0, r.ext.getD (i - 1) 1))
  else (0, 1)

/-- The number of ranks of the group (R323). -/
def CollRec.ranks (r : CollRec) : Nat := (r.axis 0).2 * (r.axis 1).2 * (r.axis 2).2 * (r.axis 3).2

/-- The rank's index in its group (R323). -/
def CollRec.rank (r : CollRec) : Nat :=
  (r.axis 0).1 + (r.axis 0).2 * ((r.axis 1).1 + (r.axis 1).2 * ((r.axis 2).1 + (r.axis 2).2 * (r.axis 3).1))

/-- The record, the group and the number of a collective operation. -/
def EngKind.coll? (k : EngKind) : Option (CollRec × Nat) :=
  match k with
  | .coll r _ _ n => some (r, n)
  | .collSk r _ n => some (r, n)
  | .lin .. | .fill .. | .gather .. | .scatter .. | .cpyw .. | .tld .. | .tst .. | .accrd | .msync => none

/-- The context of a thread's team. -/
def State.ctxOf (s : State) (r : ThreadRef) : Nat :=
  match (s.team r.team).bind s.pipeOf with
  | some p => p.ctxNum
  | none => 0

/-- The collective operation is part of a group's operation of a number. -/
def State.inGroup (s : State) (o : EngOp) (g : List Nat) (num : Nat) : Bool :=
  match o.kind.coll? with
  | some (r, n) => decide (r.group (s.ctxOf o.ref) = g) && decide (n = num)
  | none => false

/-- How many slots of a die have been used for a group, whether or not they are still held: the streams that its rank has begun (R405). -/
def Die.begun (x : Die) (g : List Nat) : Nat := ((x.uses.find? fun u => decide (u.1 = g)).map fun u => u.2).getD 0

/-- The die's rank of a group has issued its part of the operation of a number, or never will: its slot has been freed (R405). -/
def Die.hasIssued (x : Die) (g : List Nat) (num : Nat) : Bool :=
  decide (num / 2 ^ 40 < x.begun g)
    && !x.slots.any fun k => k.2.issued.any fun i => decide (i.1 = g) && decide (i.2 / 2 ^ 40 = num / 2 ^ 40) && decide (i.2 ≤ num)

/-- The bits of RMASK that ranks stand under (R308). -/
def rankBits (l : List Nat) : Word := l.foldl (fun m r => m ||| (1#32 <<< (r % 32))) 0

/-- The rank of a collective operation, unless it has its whole result or has failed (R329). -/
def EngOp.losing (o : EngOp) : Option Nat :=
  match o.stage, o.kind.coll? with
  | .waiting, some (r, _) | .reading _, some (r, _) | .begun _, some (r, _) | .exchanged _ _, some (r, _) => some r.rank
  | _, _ => none

/-- A part of an aborted operation (R329): one that has its whole result keeps it, any other will end with ERR 4; of `all` the ranks that lose the
result are struck from RMASK. -/
def EngOp.abort (all : Word) (lost : List Nat) (o : EngOp) : EngOp :=
  let had := match o.stage with
    | .waiting | .reading _ | .begun _ => all
    | .exchanged _ _ | .result _ _ | .failed _ | .landed => o.rmask
  let o' := { o with rmask := had &&& ~~~rankBits lost }
  if o.losing.isSome then { o' with stage := .failed 4 } else o'

/-- The rank of a part, and whether it has the whole result. -/
def EngOp.hasResult (o : EngOp) : Bool :=
  match o.stage with
  | .result _ _ | .landed => true
  | .waiting | .reading _ | .begun _ | .exchanged _ _ | .failed _ => false

/-- The parts of the package have met those of the other packages. -/
def EngOp.hasMet (o : EngOp) : Bool :=
  match o.stage with
  | .exchanged _ _ | .result _ _ | .landed => true
  | .waiting | .reading _ | .begun _ | .failed _ => false

/-- The abort of a group's operation reaches this package's ranks (R329): a rank that has its whole result keeps it, every
other rank will end with ERR 4, and a rank that issues its part later finds the abort noted. `received` are the ranks of other packages that have the
whole result; where nothing tells, all of them once the parts have met, and none before. -/
def State.abortGroup (s : State) (g : List Nat) (num : Nat) (received : Option (List Nat)) : State :=
  let mine := s.allOps.filter fun e => s.inGroup e.2 g num
  let ranks := mine.filterMap fun e => e.2.kind.coll?.map fun c => c.1.rank
  let keep := (mine.filter fun e => e.2.hasResult).filterMap fun e => e.2.kind.coll?.map fun c => c.1.rank
  let n := (mine.filterMap fun e => e.2.kind.coll?.map fun c => c.1.ranks).headD 0
  let has := received.getD (if mine.any fun e => e.2.hasMet then (List.range n).filter fun k => !ranks.contains k else [])
  let lost := (List.range n).filter fun k => !keep.contains k && !has.contains k
  let s := mine.foldl (fun s e => s.updOp e.1 e.2.id (EngOp.abort (rankBits (List.range n)) lost)) s
  [0, 1, 2, 3].foldl (fun s d =>
    let x := s.die d
    if x.hasIssued g num then s else s.setDie d { x with aborted := (g, num) :: x.aborted }) s

/-- The engine operations that a killed team issued: those that have not begun end with ERR 1, a started COLL aborts, the
others run on (R376, R403). A COLL that has not begun ends with ERR 1, and aborts its group's operation as a cancelling rank's does (R329): DESIGN CHOICE,
log entry 79, since R376 names its ERR alone. -/
def State.killOps (s : State) (team : Nat) : State :=
  s.allOps.foldl (fun s e =>
    if e.2.ref.team = team then
      match e.2.kind.coll?, e.2.stage with
      | none, .waiting => match e.2.kind with
        | .accrd | .msync => s
        | .lin .. | .fill .. | .gather .. | .scatter .. | .cpyw .. | .tld .. | .tst .. | .coll .. | .collSk .. =>
          s.updOp e.1 e.2.id fun o => { o with stage := .failed 1 }
      | some (r, n), .waiting =>
        let s := s.abortGroup (r.group (s.ctxOf e.2.ref)) n none
        if e.2.admitted then s else s.updOp e.1 e.2.id fun o => { o with stage := .failed 1 }
      | some (r, n), .begun _ | some (r, n), .exchanged _ _ => s.abortGroup (r.group (s.ctxOf e.2.ref)) n none
      | _, _ => s
    else s) s

/-- The queued matrix commands of a team are discarded, and their handles complete with ERR 7 (R376). -/
def State.dropCommands (s : State) (team : Nat) : State :=
  s.cores.foldl (fun s e =>
    [0, 1].foldl (fun s k =>
      let m := (s.core e.1).mc k
      match m.team with
      | some (n, _) =>
        if n = team then
          let s := m.queue.foldl (fun s c => match c.kind with
            | .accrd _ _ _ _ _ _ op => match (s.core e.1).op op with
              | some o => s.completeHandle e.1 o 7 0
              | none => s
            | .mma .. | .accz .. | .accwr .. => s) s
          s.updCore e.1 fun c => c.setMc k { c.mc k with queue := [] }
        else s
      | none => s) s) s

/-- An item put into the order of arrivals (R217). -/
def insertItem (i : Item) : List Item → List Item
  | [] => [i]
  | j :: l => if i.seq ≤ j.seq then i :: j :: l else j :: insertItem i l

/-- The leases of a killed team on one queue: an idempotent stage's items return to the head of the queue, in their order of arrival, older than
every item present; otherwise they are dropped, and one record of source 7 counts them (R217, R377). -/
def State.killLease (tm : Team) (n ctx : Nat) (idem : Bool) (s : State) (q : Nat) : State :=
  let c := s.context ctx
  match c.queues.look q with
  | none => s
  | some x =>
    let mine := (x.leases.filter fun l => l.team == n).flatMap fun l => l.items
    let x := { x with leases := x.leases.filter fun l => l.team != n }
    if mine.isEmpty then s
    else if idem then s.setContext ctx { c with queues := c.queues.put q { x with items := mine.foldr insertItem [] ++ x.items } }
    else (s.setContext ctx { c with queues := c.queues.put q x }).logStage tm { s.errFor tm 0 7 with info := mine.length }

/-- The leases of a killed team on every queue of its context (R217, R377). -/
def State.killLeases (s : State) (tm : Team) (n : Nat) : State :=
  match s.pipeOf tm, s.stageOf tm with
  | some p, some st => ((s.context p.ctxNum).queues.map fun q => q.1).foldl (State.killLease tm n p.ctxNum st.idem) s
  | _, _ => s

/-- A thread of a killed team (R374). -/
def Thread.killed (t : Thread) : Thread :=
  { t with status := .exited, pend := none, resume := none, held := [], handler := false, yieldTo := none, denied := none,
           late := none, lastPage := none, handleRegs := [], loc := if t.producing then t.loc else .none }

/-- Kill a team (R376), in its order; whether it is to be relaunched is decided by the caller (R377). A parked team is on no cores, and its save
slot is freed without a restore (R392). -/
def State.killTeam (s : State) (n : Nat) (relaunch : Bool) : State :=
  match s.team n with
  | none => s
  | some tm =>
    if tm.phase = .killed then s
    else
      let s := tm.threads.foldl (fun s e => s.withdraw { team := n, tid := e.1 }) s
      let s := if tm.phase = .parked then
          (List.range tm.cores.length).foldl (fun s c => (s.clearMem (.kept n c false)).clearMem (.kept n c true)) s
        else s
      let s := s.setTeam n { tm with phase := .killed, cores := if tm.phase = .parked then [] else tm.cores, kept := [], threads := tm.threads.map (fun e => (e.1, e.2.killed)), ring := [],
                                     barriers := [], rdvAges := [], collAges := [], rack := none, relaunch := relaunch }
      ((s.dropCommands n).killOps n).killLeases tm n

/-- Kill a stage: every team of it (R376). -/
def State.killStage (s : State) (pipe stage : Nat) : State :=
  let s := s.updStage pipe stage fun st => { st with killed := true, again := [] }
  s.teams.foldl (fun s e => if e.2.pipe = pipe ∧ e.2.stage = stage then s.killTeam e.1 false else s) s

/-- Kill a pipeline: every stage of it (R376). -/
def State.killPipe (s : State) (pipe : Nat) : State :=
  match s.pipes.look pipe with
  | none => s
  | some p =>
    let s := { s with pipes := s.pipes.put pipe { p with killed := true } }
    (List.range p.stages.length).foldl (fun s k => s.killStage pipe k) s

/-- The kill scope applied, from 0 thread to 3 pipeline: the larger of the containment floor and the fault domain's, and
stage scope for the fourth kill of a team index that would be relaunched (R373, R377). An error in a team that is killed already is of the same
kill (R392). -/
def killScope (st : Stage) (relaunchOk : Bool) (tm : Team) (floor : Nat) : Nat × Bool :=
  let sc := max floor (st.fdom % 4)
  let index := tm.index
  let again := decide (sc = 1) && st.idem && relaunchOk
  if tm.phase = .killed then (sc, decide (sc = 1) && tm.relaunch)
  else if again && decide (3 ≤ (st.kills.look index).getD 0) then (2, false) else (sc, again)

/-- A kill of a scope takes place (R374 to R377): a team that is killed already is not killed again (R392). -/
def State.applyKill (s : State) (r : ThreadRef) (tm : Team) (sc : Nat) (again : Bool) : State :=
  match sc with
  | 0 => s.endThread r
  | 1 => if tm.phase = .killed then s else (s.updStage tm.pipe tm.stage fun st =>
      { st with kills := st.kills.put tm.index ((st.kills.look tm.index).getD 0 + 1) }).killTeam r.team again
  | 2 => s.killStage tm.pipe tm.stage
  | _ => s.killPipe tm.pipe

/-- Apply a kill for a thread of a team, no smaller than a floor, and write the record: before the kill where an uncorrectable error
was contained (R372), otherwise after it (R373, R377, R378). -/
def State.killAs (first : Bool) (s : State) (r : ThreadRef) (floor : Nat) (rec_ : ErrRec) : State :=
  match s.team r.team with
  | none => s
  | some tm =>
    match s.pipeOf tm, s.stageOf tm with
    | some p, some st =>
      let (sc, again) := killScope st (decide (st.flags / 8 % 2 = 1) && p.partRelaunch) tm floor
      let e := { rec_ with scope := sc + 1, relaunched := again }
      if first then (s.logErr e (fdomFw st.fdom)).applyKill r tm sc again else (s.applyKill r tm sc again).logErr e (fdomFw st.fdom)
    | _, _ => s

/-- Apply a kill for a thread of a team, and then write the record (R373, R377, R378). -/
def State.kill (s : State) (r : ThreadRef) (floor : Nat) (rec_ : ErrRec) : State := s.killAs false r floor rec_

/-- Enter the handler (R382): the trap selectors, handler mode and the program counter; nothing else changes. -/
def Thread.enter (t : Thread) (tr : Trap) (traph : DWord) : Thread :=
  { t with
    cause := BitVec.ofNat 32 tr.cause.code ||| (if tr.deferred then 0x80000000 else 0)
    epc := tr.epc
    eaddr := tr.eaddr
    einfo := tr.einfo
    einst := tr.einst
    ectl := 0
    resumePc := if tr.deferred then t.pc else tr.epc
    handler := true
    pc := traph
    status := .runnable
    resume := none
    phase := 0
    denied := none
    late := none }

/-- TAKE A TRAP (R380 to R383): the thread enters the context's handler; it is killed instead where there is no handler, or
where it is in handler mode already. -/
def State.takeTrap (s : State) (r : ThreadRef) (tr : Trap) : State :=
  match s.team r.team with
  | none => s
  | some tm =>
    match tm.threads.look r.tid, s.stageOf tm with
    | some t, some st =>
      if st.traph = 0 || t.handler then
        s.kill r 0 { s.errFor tm r.tid 1 with cause := tr.cause.code, pc := tr.epc, addr := tr.eaddr.toNat, info := tr.einfo.toNat }
      else s.setThread r (t.enter tr st.traph)
    | _, _ => s

/-- A program counter advanced by a number of bytes (R43). The machine forms no program counter by advancing whose bits 63:56 are not copies of
bit 55 (R27): past the last address below 2^55 comes the canonical address of the same low 56 bits. DESIGN CHOICE, log entry 56: R27 names no
other value there. -/
def advance (pc : DWord) (n : Nat) : DWord := ((pc + BitVec.ofNat 64 n).setWidth 56).signExtend 64

/-- RETURN FROM A TRAP (R384): past the instruction under skip, otherwise to the resume point; the trap selectors are
cleared, as they read 0 outside handler mode (R191). -/
def Thread.leave (t : Thread) : Thread :=
  let skip := !t.cause.getLsbD 31 && t.ectl.getLsbD 0
  let len := 4 * ((t.einst.headD 0).toNat % 4 + 1)
  { t with
    pc := if skip then advance t.epc len else t.resumePc
    handler := false
    cause := 0, epc := 0, eaddr := 0, einfo := 0, einst := [], ectl := 0, resumePc := 0
    phase := 0
    resume := none }

end Sys2Proof.Machine
end

