-- ==== Sys2Proof/Machine/Places.lean ====
section
/-!
DEFINITION. The places of the bytes that an engine operation reads and writes (R221, R315, R317, R320), the units of coherence that hold them
(R242), and those that an operation owns (R245, R270, R321).
-/

namespace Sys2Proof.Machine

/-- A field of a tile descriptor: `n` bits from bit `o` of word `w`. -/
def tileField (t : Tile) (w o n : Nat) : Nat := t.toNat / 2 ^ (32 * w + o) % 2 ^ n

/-- SIZE in bytes; 0 marks an invalid tile (R147). -/
def tileSize (t : Tile) : Nat := 256 * tileField t 0 16 10
/-- A tile register's descriptor. -/
def MatCtx.tile (m : MatCtx) (t : Nat) : Tile := (m.tiles.look t).getD 0

/-- Bytes of the destination (R325). -/
def CollRec.dstBytes (r : CollRec) : Nat := 4 * r.lanes * (if r.kind = 2 then r.ranks else 1)

/-- What an engine operation needs to know of its issuer to reach its bytes. -/
structure Reach where
  team : Nat
  part : Nat
  ctx : Nat
  core : Nat
deriving DecidableEq, Repr

/-- The reach of an operation, while its team exists. -/
def State.reach (s : State) (core : Nat) (o : EngOp) : Option Reach :=
  ((s.team o.ref.team).bind s.pipeOf).map fun p => { team := o.ref.team, part := p.part, ctx := p.ctxNum, core := core }

/-- The place of a byte of LOCAL (R221). -/
def localByte (team a : Nat) : Target := ⟨.spad team (a / 2 ^ 24 % 4), a % 2 ^ 24⟩

/-- A number of consecutive places. -/
def Target.span (t : Target) (n : Nat) : List Target := (List.range n).map fun i => { t with addr := t.addr + i }

/-- The places of a range of a space; an unmapped page stops with its address and reason, one without permission with its
address (R320). `sw` swizzles LOCAL addresses (R315); a range of WS may go on in another unit of the carve-out (R231, R346). -/
def State.places (s : State) (r : Reach) (sp : Space) (need : Need) (sw : Nat → Nat) (a n : Nat) :
    Except (Nat × Option Nat) (List Target) :=
  match sp with
  | .glb => match s.blocks (some r.core) r.ctx need a n with
    | .error x => .error x
    | .ok bs => .ok ((List.range n).map fun i => blockByte bs a i)
  | .loc => .ok ((List.range n).map fun i => localByte r.team (sw ((a + i) % 2 ^ 32)))
  | .ws =>
    let at_ (a n : Nat) : Option Target := (s.parts.look r.part).bind fun p => p.wsPlace (dieOf r.core) a n
    if n = 0 then .ok [] else match at_ a n with
    | some t => .ok ((List.range n).map fun i => (at_ (a + i) 1).getD t)
    | none => .error (a, none)

/-- The places of a box's bytes on its record side, in dense order; `none` for a byte of an out-of-bounds element (R315). -/
def State.boxPlaces (s : State) (r : Reach) (sp : Space) (need : Need) (rec_ : Shape) :
    List (List Int) → Except (Nat × Option Nat) (List (Option Target))
  | [] => .ok []
  | k :: ks =>
    match s.boxPlaces r sp need rec_ ks with
    | .error x => .error x
    | .ok l =>
      if rec_.inBounds k then
        let a := (rec_.addr k % 2 ^ (if sp = Space.glb then 64 else 32)).toNat
        match s.places r sp need rec_.swizzle a rec_.n with
        | .error x => .error x
        | .ok ps => .ok (ps.map some ++ l)
      else .ok (List.replicate rec_.n none ++ l)

/-- The unit of coherence that holds a place: the grain of its page, or a word of a scratchpad (R242, R321). -/
def grainUnit (g : Nat) (t : Target) : Range :=
  let u := if t.mem.isGlobal then g else 4
  ⟨t.mem, t.addr / u * u, t.addr / u * u + u⟩

/-- The ranges that cover places, neighbours joined. -/
def coverRanges : List Range → List Range
  | [] => []
  | r :: l => match coverRanges l with
    | [] => [r]
    | q :: qs => if r.mem = q.mem ∧ q.lo ≤ r.hi ∧ r.lo ≤ q.lo then ⟨r.mem, r.lo, max r.hi q.hi⟩ :: qs else r :: q :: qs

/-- The bytes at places; a missing one reads as 0 (R315). -/
def State.bytesAt (s : State) (l : List (Option Target)) : List Byte :=
  l.map fun t => match t with
    | some t => s.byte t.mem t.addr
    | none => 0

/-- Write bytes at places; a missing one is not written (R315). -/
def State.putAt (s : State) : List (Option Target) → List Byte → State
  | some t :: ts, b :: bs => (s.setByte t.mem t.addr b).putAt ts bs
  | none :: ts, _ :: bs => s.putAt ts bs
  | _, _ => s

/-- The reach of the executing thread. -/
def Env.reach (e : Env) : Reach := { team := e.ref.team, part := e.pl.part, ctx := e.pl.ctxNum, core := e.core }

/-- The units of a GLOBAL range of `n` bytes in the pages of 4 KiB that are mapped, each by its page's grain (R242, R356); a window page has
none. With the grain; `k` pages remain, from the one that holds `va` on. -/
def State.pageUnits (s : State) (ctx va n : Nat) : Nat → List (Range × Nat)
  | 0 => []
  | k + 1 =>
    let here := min n (4096 - va % 4096)
    let rest := s.pageUnits ctx (va + here) (n - here) k
    if n = 0 then [] else match s.walk ctx va with
      | .error _ => rest
      | .ok x => if x.sk.isSome then rest else
        let t := x.place va
        (⟨t.mem, t.addr / x.grain * x.grain, (t.addr + here + x.grain - 1) / x.grain * x.grain⟩, x.grain) :: rest

/-- The units of a GLOBAL range, as far as its pages are mapped. -/
def State.globalUnits (s : State) (ctx va n : Nat) : List Range := coverRanges ((s.pageUnits ctx va n (n / 4096 + 2)).map fun u => u.1)

/-- The words of LOCAL that hold a range of addresses (R321); `sw` swizzles them (R315). -/
def localUnits (team : Nat) (sw : Nat → Nat) (a n : Nat) : List Range :=
  coverRanges ((List.range n).map fun i => grainUnit 4 (localByte team (sw ((a + i) % 2 ^ 32))))

/-- The units of a range that an operation will write, in the pages that are mapped (R245). -/
def State.ownRange (s : State) (e : Env) (sp : Space) (sw : Nat → Nat) (a n : Nat) : List Range :=
  match sp with
  | .glb => s.globalUnits e.pl.ctxNum a n
  | .loc => localUnits e.ref.team sw a n
  | .ws => []

/-- The address of an element of a box in a space (R315). -/
def Shape.elemIn (r : Shape) (sp : Space) (k : List Int) : Nat := (r.addr k % 2 ^ (if sp = Space.glb then 64 else 32)).toNat

/-- The units of the record side that a scatter writes, in the pages that are mapped (R245). -/
def State.ownBox (s : State) (e : Env) (sp : Space) (rec_ : Shape) (k0 : List Int) : List Range :=
  coverRanges (((rec_.elements k0).filter fun k => rec_.inBounds k).flatMap fun k => s.ownRange e sp rec_.swizzle (rec_.elemIn sp k) rec_.n)

/-- The matrix context that a team holds on a core (R146). -/
def Core.mcOf (c : Core) (team : Nat) : Option Nat :=
  let held (m : MatCtx) : Bool := match m.team with
    | some (n, _) => n == team
    | none => false
  if held c.mc0 then some 0 else if held c.mc1 then some 1 else none

/-- The tile memory and the matrix context of an operation's team: on its core, or with the team while it is parked (R169). -/
def State.tileHome (s : State) (core : Nat) (o : EngOp) : MemId × MatCtx :=
  match (s.team o.ref.team).bind fun tm => tm.kept.look o.tcore with
  | some m => (.kept o.ref.team o.tcore false, m)
  | none =>
    let k := ((s.core core).mcOf o.ref.team).getD o.mc
    (.oper core k, (s.core core).mc k)

/-- The descriptor of a tile that an operation names. -/
def State.tileOf (s : State) (core : Nat) (o : EngOp) (t : Nat) : Tile := (s.tileHome core o).2.tile t

/-- The GLOBAL ranges, by address and length, that an operation writes. -/
def State.writeSpans (s : State) (core : Nat) (o : EngOp) : List (Nat × Nat) :=
  match o.kind with
  | .lin .glb _ a _ n | .fill .glb a _ n => [(a, n)]
  | .gather .glb _ a rec_ _ => [(a, rec_.boxBytes)]
  | .scatter .glb _ rec_ _ k0 => ((rec_.elements k0).filter fun k => rec_.inBounds k).map fun k => (rec_.elemIn .glb k, rec_.n)
  | .coll rec_ _ dst _ => [(dst, rec_.dstBytes)]
  | .tst .glb a t => [(a, tileSize (s.tileOf core o t))]
  | .lin .. | .fill .. | .gather .. | .scatter .. | .cpyw .. | .tld .. | .tst .. | .accrd | .msync | .collSk .. => []

/-- The GLOBAL units that an operation will write, in the pages that are mapped by now (R245, R270). -/
def State.targets (s : State) (core : Nat) (o : EngOp) : List Range :=
  coverRanges ((s.writeSpans core o).flatMap fun p => s.globalUnits (s.ctxOf o.ref) p.1 p.2)

/-- A range without the bytes of another. -/
def Range.minus (r w : Range) : List Range :=
  if r.meets w then (if r.lo < w.lo then [⟨r.mem, r.lo, w.lo⟩] else []) ++ (if w.hi < r.hi then [⟨r.mem, w.hi, r.hi⟩] else []) else [r]

/-- Ranges without the bytes of others. -/
def minusAll (l ws : List Range) : List Range := ws.foldl (fun l w => l.flatMap fun r => r.minus w) l

/-- The units that an operation of a core has still to write: those it named at issue, and those of pages that have been mapped since (R245). -/
def State.owned (s : State) (core : Nat) (o : EngOp) : List Range :=
  match o.stage with
  | .failed _ | .landed => []
  | .waiting | .reading _ | .begun _ | .exchanged _ _ | .result _ _ => minusAll (o.owns ++ s.targets core o) o.wrote

/-- The units that an operation owns at their homes: words of scratchpads and bytes of tiles, which are reserved at issue (R321), and the GLOBAL units that its
requests have come to (R245). -/
def State.taken (s : State) (core : Nat) (o : EngOp) : List Range := ((s.owned core o).filter fun g => !g.mem.isGlobal) ++ o.held

/-- The grain units of a range. -/
def Range.units (r : Range) (g : Nat) : List Range := (List.range ((r.hi - r.lo) / g)).map fun i => ⟨r.mem, r.lo + g * i, r.lo + g * i + g⟩

/-- The GLOBAL units of an operation, one by one; those of a sketch's state, page by page. -/
def State.unitsOf (s : State) (core : Nat) (o : EngOp) : List Range :=
  match o.kind with
  | .collSk .. => o.owns
  | .lin .. | .fill .. | .gather .. | .scatter .. | .cpyw .. | .tld .. | .tst .. | .accrd | .msync | .coll .. =>
    (s.writeSpans core o).flatMap fun p => (s.pageUnits (s.ctxOf o.ref) p.1 p.2 (p.2 / 4096 + 2)).flatMap fun u => u.1.units u.2

end Sys2Proof.Machine
end

