-- ==== Sys2Proof/Machine/Operands.lean ====
section
/-!
DEFINITION. The steps that every instruction takes around its own effect (R32 to R35, R43): the register bound, the guard, the
empty policy, the reading of sources under the dead-read policy, the wait on a pending destination, and afterwards the dead
marks, the destination writes and the advance of the program counter.
-/

namespace Sys2Proof.Machine

/-- The immediate of a 96-bit instruction (R37). -/
def imm32 (x : Ops) : Word := x.ext.setWidth 32

/-- A signed 32-bit offset (R37). -/
def soff32 (v : Nat) : DWord := (BitVec.ofNat 32 v).signExtend 64

/-- OFF24, or, in the S form, C8 times the scale (R247). -/
def memOff (x : Ops) (scale : Nat) : DWord :=
  match x.len with
  | .s => x.c.signExtend 64 * BitVec.ofNat 64 scale
  | .m | .l => (x.ext.setWidth 24).signExtend 64

/-- The registers that a field names (R30). -/
def roleRegs (r : Role) (v : BitVec 8) : List Reg :=
  match r with
  | .dst n | .src n | .coords n | .data n => regRange v n
  | .raw => [v]
  | .none | .imm | .tile | .num64 => []

/-- The registers that a field names as a source under R34. -/
def waitRegs (r : Role) (v : BitVec 8) : List Reg :=
  match r with
  | .src n | .coords n | .data n => regRange v n
  | .dst _ | .raw | .none | .imm | .tile | .num64 => []

/-- The registers that a field reads. -/
def readRegs (r : Role) (v : BitVec 8) : List Reg :=
  match r with
  | .src n | .coords n | .data n => regRange v n
  | .raw => [v]
  | .dst _ | .none | .imm | .tile | .num64 => []

/-- The registers that a field names as a destination. -/
def destRegs (r : Role) (v : BitVec 8) : List Reg :=
  match r with
  | .dst n => regRange v n
  | .src _ | .coords _ | .data _ | .raw | .none | .imm | .tile | .num64 => []

/-- Every general register that an instruction names; G of 0 names none (R32). -/
def rowNamed (r : Row) (x : Ops) : List Reg :=
  (if x.g = 0 then [] else [x.g]) ++ roleRegs r.d x.d ++ roleRegs r.a x.a ++ roleRegs r.b x.b ++ roleRegs r.c x.c

/-- The registers that must be full before the sources are read (R34). -/
def rowWaits (r : Row) (x : Ops) : List Reg :=
  waitRegs r.d x.d ++ waitRegs r.a x.a ++ waitRegs r.b x.b ++ waitRegs r.c x.c

/-- The registers under an EP bit of 1 (R34). -/
def rowEps (r : Row) (x : Ops) : List Reg :=
  (if x.ep.getLsbD 0 then waitRegs r.a x.a else []) ++ (if x.ep.getLsbD 1 then waitRegs r.b x.b else [])
    ++ (if x.ep.getLsbD 2 then waitRegs r.c x.c else [])

/-- The registers that are read as sources. -/
def rowReads (r : Row) (x : Ops) : List Reg :=
  readRegs r.d x.d ++ readRegs r.a x.a ++ readRegs r.b x.b ++ readRegs r.c x.c

/-- The registers under a DK bit of 1 (R35). -/
def rowDks (r : Row) (x : Ops) : List Reg :=
  (if x.dk.getLsbD 0 then readRegs r.a x.a else []) ++ (if x.dk.getLsbD 1 then readRegs r.b x.b else [])
    ++ (if x.dk.getLsbD 2 then readRegs r.c x.c else [])

/-- The registers marked dead (R35): never the guard that the instruction reads (R32). -/
def rowMarks (r : Row) (x : Ops) : List Reg := (rowDks r x).filter fun g => g != x.g

/-- The destination registers. -/
def rowDests (r : Row) (x : Ops) : List Reg :=
  destRegs r.d x.d ++ destRegs r.a x.a ++ destRegs r.b x.b ++ destRegs r.c x.c

/-- A predicate value, taken three-valued (R32). -/
inductive Tri where
  | f | t | u
deriving DecidableEq, Repr

/-- The three-valued reading of a word (R32, R81). -/
def triOf (v : Word) : Tri := if v = 0 then .f else if v = 0xFFFFFFFF then .u else .t

/-- GS lets the instruction run (R32, R43). -/
def guardOn (gs : BitVec 2) (v : Tri) : Bool :=
  match gs.toNat with
  | 0 => decide (v = .t)
  | 1 => decide (v = .f)
  | 2 => decide (v = .u)
  | _ => decide (v ≠ .t)

/-- What an instruction's own effect comes to. -/
inductive Res where
  /-- it takes place: the state with everything but the register effects, the writes, the registers marked empty, and the
  target of a transfer of control -/
  | done (s : State) (ws : List (Reg × Word)) (pend : List Reg) (jump : Option DWord)
  /-- it waits (R172) -/
  | wait (w : Wait) (s : State)
  /-- it traps (R380); the state holds what the trap leaves behind -/
  | trap (c : Cause) (eaddr : DWord) (einfo : Word) (s : State)
  /-- it has ended its thread, or put it into a page-fault wait, or its thread has still to issue it again -/
  | stop (s : State)

/-- The lowest-numbered register of a list. -/
def lowest (l : List Reg) : Reg := l.foldl (fun m r => if r.toNat < m.toNat then r else m) (l.headD 0)

/-- A precise trap of the instruction at the program counter: while an FP64 division or root is in flight, a thread that would enter its handler
keeps the trap and waits (R95). -/
def preciseTrap (e : Env) (c : Cause) (ea : DWord) (ei : Word) (s : State) : State :=
  let tr : Trap := { cause := c, deferred := false, epc := e.t.pc, eaddr := ea, einfo := ei, einst := e.words }
  if e.t.dividing && decide (e.st.traph ≠ 0) && !e.t.handler then (s.updThread e.ref fun t => { t with late := some tr }).wait e.ref .divisions
  else s.takeTrap e.ref tr

/-- The instruction has been carried as far as `n` (R89). -/
def State.setPhase (s : State) (r : ThreadRef) (n : Nat) : State := s.updThread r fun t => { t with phase := n }

/-- Count dead reads: one for each register (R89). -/
def State.countDead (s : State) (k : Counter) (n : Nat) : State := s.count k (List.replicate n 7)

/-- Dead marks, writes, empty marks and the new program counter of an instruction that has taken place (R35). -/
def finishThread (t : Thread) (marks : List Reg) (ws : List (Reg × Word)) (pend : List Reg) (pc : DWord) : Thread :=
  let t := marks.foldl Thread.markDead t
  let t := t.wrs ws
  let t := pend.foldl Thread.markEmpty t
  { t with pc := pc, phase := 0, resume := none }

/-- The effect of an instruction whose sources have been read, and what follows it (R35, R46). -/
def effect (e : Env) (r : Row) (x : Ops) (body : Env → State → Res) (s : State) : State :=
  match body e s with
  | .done s' ws pend jump =>
    s'.updThread e.ref fun t =>
      finishThread t (rowMarks r x) ws pend (match jump with
        | some pc => pc
        | none => advance e.t.pc x.len.bytes)
  | .wait w s' => s'.wait e.ref w
  | .trap c ea ei s' => preciseTrap e c ea ei s'
  | .stop s' => s'

/-- The sources (R34, R89): the empty policy, the wait until all are full, the dead reads, and the wait on a pending
destination (R177). -/
def sources (e : Env) (r : Row) (x : Ops) (body : Env → State → Res) (s : State) : State :=
  let t := e.t
  let empties := (rowEps r x).filter fun g => !t.full g
  if !empties.isEmpty then preciseTrap e .emptyRegister 0 ((lowest empties).setWidth 32) s
  else
    let pending := (rowWaits r x).filter fun g => !t.full g
    if !pending.isEmpty then s.wait e.ref (.regs pending)
    else
      let dead := ((rowReads r x).filter fun g => t.isDead g && g != x.g).eraseDups
      let n := if t.modeT then min dead.length 1 else dead.length
      let s := if t.phase < 2 then (s.countDead e.counter n).setPhase e.ref 2 else s
      if t.modeT && !dead.isEmpty then preciseTrap e .deadRegister 0 ((lowest dead).setWidth 32) s
      else
        let late := (rowDests r x).filter fun g => !t.full g
        if !late.isEmpty then s.wait e.ref (.regs late) else effect e r x body s

/-- The guard (R32, R33). -/
def guarded (e : Env) (r : Row) (x : Ops) (body : Env → State → Res) (s : State) : State :=
  let t := e.t
  if x.g = 0 then sources e r x body s
  else if !t.full x.g then s.wait e.ref (.regs [x.g])
  else
    let dead := t.isDead x.g
    let s := if t.phase < 1 then (s.countDead e.counter (if dead then 1 else 0)).setPhase e.ref 1 else s
    if dead && t.modeT then preciseTrap e .deadRegister 0 (x.g.setWidth 32) s
    else if guardOn x.gs (triOf (t.rd x.g)) then sources e r x body s
    else s.updThread e.ref fun t => finishThread t [] [] [] (advance t.pc x.len.bytes)

/-- The granules that a list of registers lies in. -/
def granulesOf (l : List Reg) : BitVec 16 := l.foldl (fun m r => m ||| (1#16 <<< (r.toNat / 16))) 0

/-- A granule takes its values from REGS (R391), but for registers that have been written since the park (R176, R206). -/
def Thread.fillGranule (t : Thread) (g : Nat) (bs : List Byte) : Thread :=
  let old (i : Nat) : Bool := decide (i / 16 = g) && !t.changed.contains (BitVec.ofNat 8 i, true)
  { t with
    absent := t.absent &&& ~~~(1#16 <<< g)
    changed := t.changed.filter fun c => c.1.toNat / 16 != g
    regs := Vector.ofFn fun i => if old i.val then { t.regs[i] with val := BitVec.ofNat 32 (field bs (4 * (i.val % 16)) 4) } else t.regs[i] }

/-- Granules are filled one after another: the thread, or the address at which the save area cannot be read, or is poisoned (R391). -/
def State.fillFrom (s : State) (ctx : Nat) : List Nat → Thread → Except Nat Thread
  | [], t => .ok t
  | g :: l, t =>
    match s.readGlobal ctx (t.regsAt + 64 * g) 64 with
    | .error x => .error x.1
    | .ok bs => if s.globalPoison ctx (t.regsAt + 64 * g) 64 then .error (t.regsAt + 64 * g) else s.fillFrom ctx l (t.fillGranule g bs)

/-- The save area of an absent granule cannot be read, or is poisoned: the team is killed (R391). -/
def State.fillFails (s : State) (e : Env) (va : Nat) : State :=
  s.killAs true e.ref 1 { s.errFor e.tm e.ref.tid 10 with unit := 11, addr := va }

/-- The executing thread with the absent granules of a mask filled, or the state in which its team has been killed (R176, R391). -/
def State.filled (s : State) (e : Env) (mask : BitVec 16) : Except State Thread :=
  match s.fillFrom e.pl.ctxNum ((List.range 16).filter (mask &&& e.t.absent).getLsbD) e.t with
  | .error va => .error (s.fillFails e va)
  | .ok t => .ok t

/-- Every instruction (R43): the register bound of the kernel (R30), the filling of absent granules that it names, which
kills the team where the save area cannot be read (R391), then the guard. -/
def pipeline (e : Env) (r : Row) (x : Ops) (body : Env → State → Res) (s : State) : State :=
  let named := rowNamed r x
  if named.any fun g => decide (16 * e.st.gran ≤ g.toNat) then preciseTrap e .illegal 0 0 s
  else
    if granulesOf named &&& e.t.absent = 0 then guarded e r x body s
    else match s.filled e (granulesOf named) with
    | .error s' => s'
    | .ok t => guarded { e with t := t } r x body (s.setThread e.ref t)

/-- Run an instruction of the executing thread; there must be one (R43). -/
def runInstr (i : Instr) (body : Ops → Env → State → Res) (s : State) : Host.Outcome State Fault Refusal :=
  match s.cur with
  | none => .fault .noThread
  | some c =>
    match s.env c, i.row, i.ops with
    | some e, some r, some x => .next (pipeline e r x (body x) s)
    | _, _, _ => .fault .noThread

/-- What happens next in the same step, once an instruction has taken place (R201, R205). -/
def andThen (f : State → State) : Host.Outcome State Fault Refusal → Host.Outcome State Fault Refusal
  | .next s => .next (f s)
  | .fault c => .fault c
  | .refused r => .refused r

/-- A step that the state has, or has not. -/
def orNotEnabled (o : Option State) : Host.Outcome State Fault Refusal :=
  match o with
  | some s => .next s
  | none => .fault .notEnabled

/-- The team of the executing thread is tested: its barriers and its rendezvous instances (R201, R205). -/
def State.testCur (s : State) : State :=
  match s.cur with
  | some c => s.testSync c.ref.team
  | none => s

/-- An instruction that only computes: its writes and the conditions of its element results, in element order. -/
structure Eff where
  ws : List (Reg × Word)
  conds : List Conds := []

/-- The body of an instruction that only computes from its thread's registers and mode word. -/
def pureBody (f : Thread → Eff) (e : Env) (s : State) : Res :=
  let r := f e.t
  .done (if r.conds.all fun c => decide (c = {}) then s else s.raise e.counter r.conds) r.ws [] none

/-- Source B of a single register: the register in the S form, the immediate in the M form (R93). -/
def srcB (x : Ops) (t : Thread) : Word := if x.len = .s then t.rd x.b else imm32 x

/-- Source B of a pair: the pair in the S form, the immediate in the L form (R93). -/
def srcB64 (x : Ops) (t : Thread) : DWord := if x.len = .s then t.pair x.b else x.ext

/-- A single-register result. -/
def w1 (r : Reg) (v : Word) : List (Reg × Word) := [(r, v)]

/-- A pair result (R7). -/
def w2 (r : Reg) (v : DWord) : List (Reg × Word) := [(r, loWord v), (r + 1, hiWord v)]

/-- A result of 32 or 64 bits. -/
def wN (w : Bool) (r : Reg) (v : DWord) : List (Reg × Word) := if w then w2 r v else w1 r (loWord v)

/-- A source of 32 bits, zero-extended, or 64. -/
def rdN (w : Bool) (t : Thread) (r : Reg) : DWord := if w then t.pair r else (t.rd r).setWidth 64

end Sys2Proof.Machine
end

