-- ==== Sys2Proof/Machine/Memory.lean ====
section
/-!
DEFINITION. When an access may be performed: the scopes (R263), the order that a thread's own accesses keep (R264, R266 to R268, R271, R272), the
units that an engine owns (R245, R270), and the waits for a thread's earlier accesses; the race detector (R275, R276).
-/

namespace Sys2Proof.Machine

/-- The operation takes a value from memory: a load, an atomic or a sketch query (R268). -/
def OpKind.reads : OpKind → Bool
  | .load _ | .loadIv _ | .atomic _ | .atomicF _ | .compare | .skQuery .. | .skStat _ | .skWork (.merge ..) => true
  | .store | .skInsert .. | .skWork (.fold _) | .skWork (.clear _) | .skWork (.free _) | .arith => false

/-- The operation writes memory or a sketch (R268). -/
def OpKind.writes : OpKind → Bool
  | .store | .atomic _ | .atomicF _ | .compare | .skInsert .. | .skWork _ => true
  | .load _ | .loadIv _ | .skQuery .. | .skStat _ | .arith => false

/-- The sketch slots that the operation acts on (R272). -/
def OpKind.slots : OpKind → List Nat
  | .skQuery k _ | .skInsert k _ _ | .skStat k | .skWork (.fold k) | .skWork (.clear k) | .skWork (.free k) => [k]
  | .skWork (.merge d c) => [d, c]
  | .load _ | .loadIv _ | .store | .atomic _ | .atomicF _ | .compare | .arith => []

/-- The operation can set a sticky flag when it completes (R192). -/
def OpKind.flags : OpKind → Bool
  | .atomicF _ | .arith => true
  | .load _ | .loadIv _ | .store | .atomic _ | .compare | .skQuery .. | .skInsert .. | .skStat _ | .skWork _ => false

/-- Both places are in one scratchpad, whose port takes a thread's accesses in program order (R229, R271). -/
def sameSpad (a b : MemId) : Bool :=
  match a with
  | .spad _ _ => decide (a = b)
  | .hbm | .host | .peer | .ws | .oper _ _ | .acc _ _ | .kept .. => false

/-- An agent lies in the scope instance of a thread on a core (R263). -/
def scopeHolds (sc : Scope) (me : ThreadRef) (core : Nat) (g : Agent) : Bool :=
  match sc, g with
  | .thr, .thread r _ => decide (r = me)
  | .team, .thread r _ => r.team == me.team
  | .team, .copier t _ => t == me.team
  | .die, .thread _ c | .die, .copier _ c => dieOf c == dieOf core
  | .die, .collective d => d == dieOf core
  | .pkg, .thread .. | .pkg, .copier .. | .pkg, .collective _ | .pkg, .package => true
  | .sys, _ => true
  | .thr, .copier .. | .thr, .collective _ | .thr, .package | .thr, .host | .thr, .peer => false
  | .team, .collective _ | .team, .package | .team, .host | .team, .peer => false
  | .die, .package | .die, .host | .die, .peer => false
  | .pkg, .host | .pkg, .peer => false

/-- An earlier operation has no access still to perform that touches the range, or an instance's state in it, or is in its scratchpad (R266, R271,
R302). -/
def MemOp.apart (p : MemOp) (r : Range) : Bool :=
  p.accs.all fun q => q.isDone || ((p.spans q).all (fun x => !x.meets r) && !sameSpad q.at_.mem r.mem)

/-- An earlier operation lets a later read of a range be performed: it has been performed, or it neither acquires nor touches
the range or its scratchpad (R266, R267, R271). -/
def MemOp.lets (p : MemOp) (r : Range) : Bool := p.isDone || (!ordAcquires p.ord && p.apart r)

/-- An access of operation `o` may be performed as far as the thread's earlier operations go (R266 to R268, R272). -/
def orderReady (earlier : List MemOp) (o : MemOp) (a : Access) : Bool :=
  (earlier.all fun p => (o.spans a).all p.lets)
    && (!ordReleases o.ord || earlier.all MemOp.isDone)
    && (!o.kind.writes || earlier.all fun p => p.isDone || !p.kind.reads)
    && earlier.all fun p => p.isDone || p.kind.slots.all fun k => !o.kind.slots.contains k

/-- A release may be performed ahead of earlier plain stores and inserts of its thread to other places, whether it is a store, an atomic or an insert
through a window: the agents of its scope instance will not read it before those have been performed (R263, R264, R272, R274). -/
def aheadReady (earlier : List MemOp) (o : MemOp) (a : Access) : Bool :=
  ordReleases o.ord && a.at_.mem.isGlobal
    && earlier.all fun p => p.isDone || (!p.kind.reads && (o.spans a).all p.apart && p.kind.slots.all fun k => !o.kind.slots.contains k)

/-- A load or a query may take its value before earlier acquires of its thread, which may still undo that (R263, R264, R267); the port of one
scratchpad, and an instance, keep the thread's order (R271, R272). -/
def earlyReady (earlier : List MemOp) (o : MemOp) (a : Access) : Bool :=
  (match o.kind with
    | .load _ | .loadIv _ | .skQuery .. | .skStat _ => true
    | .store | .atomic _ | .atomicF _ | .compare | .skInsert .. | .skWork _ | .arith => false)
    && earlier.all fun p => p.isDone || ((o.spans a).all p.apart && p.kind.slots.all fun k => !o.kind.slots.contains k)

/-- The operations of a thread before one of them. -/
def Thread.before (t : Thread) (id : Nat) : List MemOp := t.ops.takeWhile fun p => p.id != id

/-- An agent inside the scope instance of a release performed ahead may not read its place yet (R264). -/
def State.markHolds (s : State) (g : Agent) (r : Range) : Bool :=
  s.marks.any fun m => m.range.meets r && scopeHolds m.scope m.ref m.core g && (match g with
      | .thread q _ => decide (q ≠ m.ref)
      | .copier .. | .collective _ | .package | .host | .peer => true) && s.markOpen m

/-- A later release of the thread has been performed ahead of an operation. -/
def State.overtaken (s : State) (r : ThreadRef) (id : Nat) : Bool := s.marks.any fun m => decide (m.ref = r) && decide (id < m.op)

/-- No engine operation issued before a number owns a unit of a range (R245). -/
def State.unowned (s : State) (id : Nat) (r : Range) : Bool :=
  s.allOps.all fun e => !(decide (e.2.id < id)) || (s.owned e.1 e.2).all fun o => !o.meets r

/-- What of an engine operation's destination a thread's access waits for: of the thread's own operation all that it has still to write (R270), of another's
what it owns at its home (R245): the requests for the units of one operation come to their homes separately (11_ordering.md, question 9); DEDUCED, log
entry 69. -/
def State.shuts (s : State) (q : ThreadRef) (e : Nat × EngOp) : List Range := if e.2.ref = q then s.owned e.1 e.2 else s.taken e.1 e.2

/-- No engine operation that a thread's access of a number waits for owns a unit of a range (R245, R270): of its own operations, those issued
before the access; and where the access had come to its home before an engine asked for the unit, as one that a release has overtaken has, the home
serves it first (R244). -/
def State.unownedFor (s : State) (q : ThreadRef) (first : Bool) (id : Nat) (r : Range) : Bool :=
  s.allOps.all fun e => ((decide (e.2.ref = q) || first) && decide (id < e.2.id)) || (s.shuts q e).all fun o => !o.meets r

/-- No engine owns a unit of a range at its home (R241, R245). -/
def State.noEngine (s : State) (r : Range) : Bool := s.allOps.all fun e => (s.taken e.1 e.2).all fun o => !o.meets r

/-- An access is free of engines, and, where it reads, of releases performed ahead. A request of its thread that is pending holds it up no more than it
holds up parking (R172, R177): DEDUCED, log entry 16. -/
def State.accessFree (s : State) (r : ThreadRef) (o : MemOp) (a : Access) : Bool :=
  s.unownedFor r (s.overtaken r o.id) a.id a.range
    && (!o.kind.reads || (o.spans a).all fun x => !s.markHolds (.thread r o.core) x)

/-- The stores and inserts that a release would be performed ahead of are at their homes (R245): no engine that came before them holds them up. -/
def State.aheadFree (s : State) (r : ThreadRef) (earlier : List MemOp) : Bool :=
  earlier.all fun p => p.accs.all fun q => q.isDone ||
    s.allOps.all fun e => decide (q.id ≤ e.2.id) || (s.shuts r e).all fun o => (p.spans q).all fun x => !o.meets x

/-- A release may be performed now, in its place or ahead of earlier stores. -/
def State.mayPerform (s : State) (r : ThreadRef) (t : Thread) (o : MemOp) (a : Access) : Bool :=
  let l := t.before o.id
  orderReady l o a || (aheadReady l o a && s.aheadFree r l)

/-- An access may be performed. -/
def State.accessReady (s : State) (r : ThreadRef) (t : Thread) (o : MemOp) (a : Access) : Bool := s.mayPerform r t o a && s.accessFree r o a

/-- The race detector watches the thread's stage (R275). -/
def State.detects (s : State) (r : ThreadRef) : Bool :=
  match (s.team r.team).bind s.stageOf with
  | some st => decide (st.flags / 2 % 2 = 1) && decide (st.rshadow ≠ 0)
  | none => false

/-- A release performed ahead still keeps an earlier acquire of the thread waiting. -/
def State.acquireHeld (s : State) (r : ThreadRef) (earlier : List MemOp) : Bool :=
  earlier.any fun p => ordAcquires p.ord && p.accs.any fun q => !q.isDone && (p.spans q).any fun x => s.markHolds (.thread r p.core) x

/-- The thread's order and the race detector let an operation take its value early. -/
def State.mayTakeEarly (s : State) (r : ThreadRef) (t : Thread) (o : MemOp) (a : Access) : Bool :=
  earlyReady (t.before o.id) o a && !s.acquireHeld r (t.before o.id) && !s.detects r && (o.spans a).all fun x => !s.poisoned x

/-- An access may take its value early. -/
def State.accessEarly (s : State) (r : ThreadRef) (t : Thread) (o : MemOp) (a : Access) : Bool := s.mayTakeEarly r t o a && s.accessFree r o a

/-- A read that an instruction makes at issue is in the thread's order, and no release performed ahead holds it up (R211, R229, R251). -/
def State.readOrdered (s : State) (q : ThreadRef) (core : Nat) (t : Thread) (r : Range) : Bool :=
  (t.ops.all fun p => p.lets r) && !s.markHolds (.thread q core) r

/-- A read that an instruction makes at issue may be performed (R211, R229, R251). -/
def State.readReady (s : State) (q : ThreadRef) (core : Nat) (t : Thread) (r : Range) : Bool :=
  s.readOrdered q core t r && s.unownedFor q false s.nextId r

/-- Every access of the thread has been performed: what a release waits for (R253, R264). -/
def Thread.settled (t : Thread) : Bool := t.ops.all MemOp.isDone

/-- Every load, atomic and query of the thread has taken its value: what an acquire fence waits for (R253). -/
def Thread.readsDone (t : Thread) : Bool := t.ops.all fun o => o.isDone || !o.kind.reads

/-- What an instruction does at issue comes after earlier accesses of its thread: until `ready` the thread stays runnable and issues it again, since R172 has
no wait for it. -/
def inOrder (s : State) (ready : Bool) (k : Unit → Res) : Res := if ready then k () else .stop s

/-- An instruction that is a release takes place once the thread's accesses have been performed (R264). -/
def releasing (e : Env) (s : State) (k : Unit → Res) : Res := inOrder s e.t.settled k

/-- An instruction that reads ranges at issue takes place once it may read them. -/
def readingNow (e : Env) (s : State) (rs : List Range) (k : Unit → Res) : Res := inOrder s (rs.all (s.readReady e.ref e.core e.t)) k

/-- An instruction that orders the thread's accesses waits for them (R172). -/
def awaiting (s : State) (ready : Bool) (k : Unit → Res) : Res := if ready then k () else .wait (.accesses true) s

/-- Only loads, stores, atomics, LDT and STT set the last-page register (R358). -/
def State.keepPage (s : State) (e : Env) : State := s.updThread e.ref fun t => { t with lastPage := e.t.lastPage }

/-- UNIT of an error record for a memory (R378). -/
def MemId.unit : MemId → Nat
  | .ws => 6
  | .spad _ _ => 2
  | .oper _ _ => 7
  | .acc _ _ => 8
  | .kept _ _ b => if b then 8 else 7
  | .hbm | .host | .peer => 5

/-- A thread has read a poisoned byte: it is killed (R373, R375). -/
def State.poisonKill (s : State) (r : ThreadRef) (pc : DWord) (t : Target) : State :=
  match s.team r.team with
  | some tm => s.killAs true r 0 { s.errFor tm r.tid 2 with unit := t.mem.unit, pc := pc, addr := t.addr }
  | none => s

/-- The access travels over a port that is down (R368). -/
def State.linkDead (s : State) (t : Target) : Bool :=
  match t.mem with
  | .peer => (s.port (Config.route t.addr)).down
  | .hbm | .host | .ws | .spad .. | .oper .. | .acc .. | .kept .. => false

/-- A thread's remote operation ends as an uncorrectable error: the thread is killed (R368, R373). -/
def State.linkKill (s : State) (r : ThreadRef) (pc : DWord) (port : Nat) : State :=
  match s.team r.team with
  | some tm => s.killAs true r 0 { s.errFor tm r.tid 2 with unit := 10, pc := pc, addr := port }
  | none => s

/-- A release of a thread for the race detector: its interval number rises (R275). -/
def State.released (s : State) (r : ThreadRef) : State :=
  s.updThread r fun t => { t with raceN := (t.raceN + 1) % 2 ^ 16 }

/-- The key of a thread as the race detector names it (R275). -/
def State.raceKey (s : State) (r : ThreadRef) : RaceKey :=
  match s.team r.team with
  | none => { launch := 0, stage := 0, team := 0, tid := r.tid }
  | some tm =>
    { launch := (match s.pipeOf tm with
        | some p => p.launch % 2 ^ 29
        | none => 0), stage := tm.stage, team := tm.index, tid := r.tid }

/-- Both keys are of one team. -/
def RaceKey.sameTeam (a b : RaceKey) : Bool :=
  decide (a.launch = b.launch) && decide (a.stage = b.stage) && decide (a.team = b.team)

/-- The thread's table of releases with one recorded: 8 entries, the least recently used replaced (R275); recording an entry is its use, a check that
finds it is none: DESIGN CHOICE, log entry 9. -/
def raceNote (tab : List (RaceKey × Nat)) (k : RaceKey) (n : Nat) : List (RaceKey × Nat) :=
  ((k, n) :: tab.filter fun e => e.1 != k).take 8

/-- The access is synchronised with the sector's last write (R276). -/
def Shadow.synced (e : Shadow) (me : RaceKey) (b : Nat) (tab : List (RaceKey × Nat)) (atomic : Bool) : Bool :=
  decide (e.who = me) || (e.who.sameTeam me && decide (e.bcnt < b))
    || (tab.any fun x => x.1 == e.who && decide (e.nw < x.2)) || (atomic && e.atomic)

/-- A writer lies in the scope instance of a thread on a core, as keys name them (R263). -/
def raceScope (sc : Scope) (a b : RaceKey) (ca cb : Nat) : Bool :=
  match sc with
  | .thr => false
  | .team => a.sameTeam b
  | .die => dieOf ca == dieOf cb
  | .pkg | .sys => true

/-- The wider of two scopes. -/
def widest (a b : Scope) : Scope := if a.code < b.code then b else a

/-- A read of a range by another thread returns the sector's last write, which is a release (R264, R275). -/
def Shadow.heard (e : Shadow) (me : RaceKey) (r : Range) : Option Heard :=
  if decide (e.who ≠ me) && e.wrote.meets r && decide (e.rel ≠ .thr) then some { who := e.who, n := e.nw, scope := e.rel, core := e.core } else none

/-- An acquire of a scope by a thread on a core synchronises with a release that it has read, under mutual scopes (R263, R264). -/
def Heard.syncs (h : Heard) (me : RaceKey) (core : Nat) (scope : Scope) : Bool :=
  raceScope h.scope h.who me h.core core && raceScope scope h.who me h.core core

/-- One access as the race detector sees it; one that writes nothing is a read; `n` is the thread's N in program order. -/
structure RaceAccess where
  ref : ThreadRef
  core : Nat
  pc : DWord
  einst : List Word
  va : DWord
  at_ : Target
  size : Nat
  write : Bool
  atomic : Bool
  ord : MOrd
  scope : Scope
  n : Nat
deriving DecidableEq, Repr

/-- What a thread's table of releases, and its releases read without an acquire, become with a read that has heard a release (R264, R275). -/
def Thread.hear (t : Thread) (me : RaceKey) (a : RaceAccess) (h : Heard) : Thread :=
  if ordAcquires a.ord && h.syncs me a.core a.scope then { t with raceTab := raceNote t.raceTab h.who h.n }
  else { t with raceHeard := h :: t.raceHeard.filter fun x => decide (x ≠ h) }

/-- A fence of a thread (R264, R275): a release fence makes its later stores releases, and raises N; an acquire fence synchronises with the releases that
the thread has read. -/
def State.raceFence (s : State) (r : ThreadRef) (core : Nat) (k : MOrd) (sc : Scope) : State :=
  let s := if ordReleases k then (s.released r).updThread r fun t => { t with raceFence := widest t.raceFence sc } else s
  if ordAcquires k then
    let me := s.raceKey r
    s.updThread r fun t =>
      { t with raceTab := (t.raceHeard.filter fun h => h.syncs me core sc).foldr (fun h tab => raceNote tab h.who h.n) t.raceTab
               raceHeard := t.raceHeard.filter fun h => !h.syncs me core sc }
  else s

/-- The 16 bytes of a shadow entry that holds a write (R275). -/
def Shadow.bytes (e : Shadow) : List Byte :=
  leBytes 8 (e.who.tid % 2 ^ 16 * 2 ^ 48 + e.who.team % 2 ^ 16 * 2 ^ 32 + e.who.stage % 8 * 2 ^ 29 + e.who.launch % 2 ^ 29)
    ++ leBytes 2 e.bcnt ++ leBytes 2 e.nw ++ leBytes 4 ((if e.atomic then 16 else 0) + 8 + e.scope.code)

/-- The report of a race: the held race trap, or a record (R276, R378, R380). -/
def State.reportRace (s : State) (tm : Team) (st : Stage) (a : RaceAccess) : State :=
  let info := if a.write then 2 else 1
  if st.flags / 4 % 2 = 1 then
    s.logStage tm { s.errFor tm a.ref.tid 5 with pc := a.pc, addr := a.va.toNat, info := info }
  else
    s.hold a.ref { cause := .race, deferred := true, epc := a.pc, eaddr := a.va, einfo := BitVec.ofNat 32 info, einst := a.einst }

/-- The race detector, on an access to GLOBAL that has been performed, within one sector (R275, R276). -/
def State.raceAccess (s : State) (a : RaceAccess) : State :=
  match s.team a.ref.team, s.thread a.ref with
  | some tm, some th =>
    match s.stageOf tm with
    | none => s
    | some st =>
      if st.flags / 2 % 2 = 0 || st.rshadow = 0 || !a.at_.mem.isGlobal then s
      else
        let me := s.raceKey a.ref
        let ctx := s.ctxOf a.ref
        let sector : Target := { a.at_ with addr := a.at_.addr / 32 * 32 }
        let here (e : Shadow) : Bool := e.ctx == ctx && e.area == st.rshadow && decide (e.sector = sector)
        let old := s.shadow.find? here
        let th' := match (if a.atomic || !a.write then old.bind fun e => e.heard me (a.at_.range a.size) else none) with
          | some h => th.hear me a h
          | none => th
        let race := match old with
          | some e => !e.synced me tm.raceB th'.raceTab a.atomic
          | none => false
        let s := s.setThread a.ref th'
        let new : Shadow := { ctx := ctx, area := st.rshadow, sector := sector, who := me, bcnt := tm.raceB, nw := a.n, atomic := a.atomic,
                              scope := if a.ord = .rlx then .thr else a.scope, wrote := a.at_.range a.size, core := a.core
                              rel := widest th.raceFence (if ordReleases a.ord then a.scope else .thr) }
        let s := if a.write then { s with shadow := new :: s.shadow.filter fun e => !here e } else s
        if race then s.reportRace tm st a else s
  | _, _ => s

/-- The race detector sees an instruction read a record of `n` bytes in GLOBAL, sector by sector (R276). -/
def State.raceRead (s : State) (e : Env) (va n : Nat) (t : Target) : State :=
  (List.range (n / 32)).foldl (fun s i =>
    s.raceAccess { ref := e.ref, core := e.core, pc := e.t.pc, einst := e.words, va := BitVec.ofNat 64 (va + 32 * i), at_ := { t with addr := t.addr + 32 * i },
                   size := 32, write := false, atomic := false, ord := .rlx, scope := .thr, n := 0 }) s

/-- What follows an instruction that takes place. -/
def Res.noting (f : State → State) : Res → Res
  | .done s ws pend jump => .done (f s) ws pend jump
  | .wait w s => .wait w s
  | .trap c ea ei s => .trap c ea ei s
  | .stop s => .stop s

end Sys2Proof.Machine
end

