-- ==== Sys2Proof/Machine/Caches.lean ====
section
/-!
DEFINITION. The caches: homes and slices (R15, R238, R239), the directory's MOESI states (R240 to R243), the lines of L2 slices and of L1s with
their replacement hints (R230, R241, R252), write-back and eviction (R241, R254), and the cache policy of a page (R356). The caches hold no data
of their own: a value has one copy, in its memory (log entry 50).
-/

namespace Sys2Proof.Machine

/-- The grain and the cache policy of the page that a thread has just accessed (R242, R261, R356). -/
def State.pageOf (s : State) (r : ThreadRef) : Nat × Nat :=
  match (s.thread r).bind fun t => t.lastPage with
  | some x => (x.grain, x.cp)
  | none => (32, 0)

/-- Lines of an L2 slice (R12). -/
def l2Lines : Nat := 6144

/-- The L2 has the line of a place, or room for it. -/
def State.l2Room (s : State) (t : Target) : Bool := (s.l2At t).isSome || decide ((s.slice (homeOf t)).length < l2Lines)

/-- Lines of a core's L1 (R12, R225). -/
def Core.l1Lines (c : Core) : Nat := (8 - c.split) * 512

/-- The L1 has the line of a place, or room for it. -/
def Core.l1Room (c : Core) (t : Target) : Bool := (c.l1.any fun l => decide (l.line = lineOf t)) || decide (c.l1.length < c.l1Lines)

/-- The directory entry of a unit after an agent has read it (R240, R241). -/
def dirRead (d : List DirEntry) (u : Range) (agent : Nat) : DirEntry :=
  let old := match d.find? fun e => decide (e.unit = u) with
    | some e => e.holders
    | none => []
  let others := (old.filter fun h => h.1 != agent).map fun h =>
    (h.1, match h.2 with
      | .m => Moesi.o
      | .e => Moesi.s
      | .o => Moesi.o
      | .s => Moesi.s)
  let mine := match old.look agent with
    | some x => x
    | none => if others.isEmpty then .e else .s
  { unit := u, holders := (agent, mine) :: others, engine := false }

/-- An agent has read a unit and holds a copy (R240, R241); copies of units of another grain that share bytes with it are recalled. -/
def State.holdRead (s : State) (u : Range) (agent : Nat) : State :=
  let s := s.recall ((s.dir.filter fun e => e.unit.meets u && decide (e.unit ≠ u)).map fun e => e.unit)
  let e := dirRead s.dir u agent
  s.setDir (e :: s.dir.filter fun x => decide (x.unit ≠ u))

/-- An agent has written a unit: it alone holds it, every other copy has been invalidated (R242, R243). -/
def State.holdWrite (s : State) (u : Range) (agent : Nat) : State := s.regrant [u] [{ unit := u, holders := [(agent, .m)], engine := false }]

/-- A core's L1 holds the line of a place, with a hint. -/
def State.l1Touch (s : State) (core : Nat) (t : Target) (hint : Nat) : State :=
  s.updCore core fun c =>
    let old := match c.l1.find? fun l => decide (l.line = lineOf t) with
      | some l => l.hint
      | none => 0
    { c with l1 := { line := lineOf t, hint := joinHint old (hint % 3) } :: c.l1.filter fun l => decide (l.line ≠ lineOf t) }

/-- The use that a request makes of a line. -/
inductive HomeUse where
  | read | write | atomic
deriving DecidableEq, Repr

/-- No engine owns a unit of a line (R241, R245). -/
def State.lineUnowned (s : State) (line : Target) : Bool := s.noEngine (line.range 512)

/-- A home serves a core's request for the unit of an access, with the page's grain and policy and the line's hint (R230, R239 to R244, R356): a cached
line goes to the core's L1, a no-allocate read's only to the L2; for an L2-only page, and for an atomic, every copy is recalled; an uncached page
leaves nothing. The slice obtains the host's permission first for a host line (R239). An access to a unit that an engine owns, where it may pass,
is performed at the home, and leaves the core no copy beside the engine's (R240, R245): DEDUCED, log entry 50. -/
def State.coherent (s : State) (grain cp core : Nat) (t : Target) (use : HomeUse) (hint : Nat) : State :=
  if t.mem = .ws then (if hint = 3 then s else s.l1Touch core t hint)
  else if !t.mem.cached then s
  else
    let u := grainUnit grain t
    let sec := sectorsOf (lineOf t) u
    let perm := if t.mem = .host then (if use = .read then 1 else 2) else 0
    if cp = 2 then s.recall [u]
    else if cp = 1 || use = .atomic || !s.noEngine u then (s.recall [u]).l2Touch t sec (if use = .read then 0 else sec) hint perm
    else match use with
      | .read =>
        if hint = 3 && !(s.dir.any fun e => decide (e.unit = u) && (e.holders.look core).isSome) then s.l2Touch t sec 0 hint perm
        else ((s.l2Touch t sec 0 hint perm).holdRead u core).l1Touch core t hint
      | .write | .atomic => ((s.l2Touch t sec 0 hint perm).holdWrite u core).l1Touch core t hint

/-- The home and the core's L1 can take the line of a request: where they are full, a line leaves first. -/
def State.cacheRoom (s : State) (cp core : Nat) (t : Target) (use : HomeUse) (hint : Nat) : Bool :=
  if t.mem = .ws then decide (hint = 3) || (s.core core).l1Room t
  else if !t.mem.cached then true
  else decide (cp = 2) || (s.l2Room t && (decide (cp = 1) || decide (use = .atomic) || decide (use = .read && hint = 3) || (s.core core).l1Room t))

/-- A line may be replaced, of those in its set (R230): an evict-last one only where no other can be, an evict-first one before any other. -/
def mayReplace (hint : Nat) (set : List Nat) : Bool :=
  match hint with
  | 1 => true
  | 2 => set.all fun h => h == 2
  | _ => set.all fun h => h != 1

/-- A line leaves a core's L1 (R226, R230, R241): a dirty unit is written back to the L2, and the directory lists the core no more. -/
def State.leaveL1 (s : State) (core : Nat) (line : Target) : State :=
  let mine := s.dir.filter fun e => e.unit.meets (line.range 512) && (e.holders.look core).any Moesi.isDirty
  let s := s.l2Wrote (mine.map fun e => e.unit)
  let d := (s.dir.map fun e =>
    if e.unit.meets (line.range 512) then ({ e with holders := e.holders.filter fun h => h.1 != core } : DirEntry) else e).filter fun e =>
      !e.holders.isEmpty
  (s.setDir d).updCore core fun c => { c with l1 := c.l1.filter fun m => decide (m.line ≠ line) }

/-- A line of an L1 may be replaced (R230). -/
def Core.l1Yields (c : Core) (l : L1Line) : Bool :=
  mayReplace l.hint ((c.l1.filter fun m => decide (Config.l1Set (m.line.addr / 512) = Config.l1Set (l.line.addr / 512))).map fun m => m.hint)

/-- A line leaves a core's L1 to make room (R230). -/
def State.evictL1 (s : State) (core k : Nat) : Option State :=
  match (s.core core).l1[k]? with
  | none => none
  | some l => if !(s.core core).l1Yields l then none else some (s.leaveL1 core l.line)

/-- A line of an L2 slice may be replaced (R230, R241): never one that an engine owns. -/
def State.l2Yields (s : State) (slice : Nat) (l : L2Line) : Bool :=
  mayReplace l.hint (((s.slice slice).filter fun m => decide (Config.l2Set (m.line.addr / 512) = Config.l2Set (l.line.addr / 512))).map fun m => m.hint)
    && s.lineUnowned l.line

/-- A line leaves an L2 slice (R241): every copy is recalled first. -/
def State.leaveL2 (s : State) (slice : Nat) (line : Target) : State :=
  let s := s.recall [line.range 512]
  { s with l2 := s.l2.put slice ((s.slice slice).filter fun m => decide (m.line ≠ line)) }

/-- A line leaves an L2 slice to make room. -/
def State.evictL2 (s : State) (slice k : Nat) : Option State :=
  match (s.slice slice)[k]? with
  | none => none
  | some l => if s.l2Yields slice l then some (s.leaveL2 slice l.line) else none

/-- Room in a slice for the line of a place: the least recently used line that may be replaced leaves where the slice is full (R230, R241). -/
def State.makeL2Room (s : State) (t : Target) : State :=
  if s.l2Room t then s
  else match (s.slice (homeOf t)).reverse.find? (s.l2Yields (homeOf t)) with
    | some l => s.leaveL2 (homeOf t) l.line
    | none => s

/-- Room in a core's L1 for the line of a place. -/
def State.makeL1Room (s : State) (core : Nat) (t : Target) : State :=
  let c := s.core core
  if c.l1Room t then s
  else match c.l1.reverse.find? c.l1Yields with
    | some l => s.leaveL1 core l.line
    | none => s

/-- A line comes into its slice, which makes room for it; where every line is an engine's, it does not (R241). -/
def State.l2Bring (s : State) (t : Target) (valid dirty : BitVec 16) (hint perm : Nat) : State :=
  let s := s.makeL2Room t
  if s.l2Room t then s.l2Touch t valid dirty hint perm else s

/-- The lines of a range that the L2s can hold. -/
def Range.lines (r : Range) : List Target :=
  if !r.mem.cached || decide (r.hi ≤ r.lo) then [] else (List.range ((r.hi - 1) / 512 - r.lo / 512 + 1)).map fun i => ⟨r.mem, (r.lo / 512 + i) * 512⟩

/-- The lines of a range that an engine is to write come into the home L2, of host memory with the host's permission to write (R239). -/
def State.l2Engine (s : State) (r : Range) (sectors : Target → BitVec 16) : State :=
  r.lines.foldl (fun s t => s.l2Bring t (sectors t) (sectors t) 0 (if r.mem = .host then 2 else 0)) s

/-- The results of an engine in a range go through to the home L2 (R245, R246), line by line. -/
def State.l2Results (s : State) (r : Range) : State := s.l2Engine r fun t => sectorsOf t r

/-- Write a line back to its memory (R254): no sector of it stays dirty; with `inv`, every copy in the package is gone. -/
def State.flushLine (s : State) (line : Target) (inv : Bool) : State :=
  let k := homeOf line
  if inv then
    let s := s.recall [line.range 512]
    { s with l2 := s.l2.put k ((s.slice k).filter fun m => decide (m.line ≠ line)) }
  else
    let clean (x : Moesi) : Moesi := match x with
      | .m => .e
      | .o => .s
      | .e => .e
      | .s => .s
    { s with
      dir := s.dir.map fun e => if e.unit.meets (line.range 512) then { e with holders := e.holders.map fun h => (h.1, clean h.2) } else e
      l2 := s.l2.put k ((s.slice k).map fun m => if m.line = line then { m with dirty := 0 } else m) }

/-- A prefetched line comes into the L2, and into the core's L1 unless the hint is no-allocate (R252): full caches make room, the units that an engine
owns come without a copy for the core (R245), and of a poisoned line nothing comes (R375); where every line of the slice is an engine's there is no
room: DEDUCED, log entry 58. -/
def State.prefetch (s : State) (core : Nat) (t : Target) (grain cp hint : Nat) : State :=
  if !t.mem.cached || cp = 2 || s.poisoned ((lineOf t).range 512) then s
  else
    let s := s.l2Bring t 0xFFFF 0 hint (if t.mem = .host then 1 else 0)
    if hint = 3 || cp = 1 || (s.l2At t).isNone then s
    else
      let s := s.makeL1Room core t
      if !(s.core core).l1Room t then s
      else
        let us := ((List.range (512 / grain)).map fun i => grainUnit grain { lineOf t with addr := (lineOf t).addr + grain * i }).filter s.noEngine
        (us.foldl (fun s u => s.holdRead u core) s).l1Touch core t hint

/-- A core without a team changes the split of its local store (R188, R226): where scratchpad grows, the lines of the ways that are converted are
written back and leave; which way holds a line is free (Config.l1Way), but no more lines stay than the ways that are left hold (R12). -/
def State.changeSplit (s : State) (core split : Nat) : State :=
  let l := (s.core core).l1
  let kept := (l.filter fun x => decide (Config.l1Way core (x.line.addr / 512) % 8 < 8 - split)).take ((8 - split) * 512)
  let s := (l.filter fun x => !kept.contains x).foldl (fun s x => s.leaveL1 core x.line) s
  s.updCore core fun c => { c with split := split }

end Sys2Proof.Machine
end

