-- ==== Sys2Proof/Machine/Elem.lean ====
section
/-!
DEFINITION. The elementary functions of R109 and the logarithm of R286, each the exact value rounded once. A value is
enclosed between two fixed-point bounds; both are rounded, and when they disagree the precision is doubled. Every value
enclosed here is irrational: the rational cases are taken apart first, as R109 lists them.
-/

namespace Sys2Proof.Machine

/-- A nonnegative real between `lo / 2^p` and `hi / 2^p`, for a precision `p` known from the context. -/
structure Encl where
  lo : Nat
  hi : Nat
deriving DecidableEq, Repr

/-- The enclosure of a rational number. -/
def Encl.ofRat (p n d : Nat) : Encl := ⟨n * 2 ^ p / d, n * 2 ^ p / d + 1⟩

/-- The sum. -/
def Encl.add (a b : Encl) : Encl := ⟨a.lo + b.lo, a.hi + b.hi⟩

/-- The difference of a larger and a smaller number. -/
def Encl.sub (a b : Encl) : Encl := ⟨a.lo - b.hi, a.hi - b.lo⟩

/-- The product. -/
def Encl.mul (p : Nat) (a b : Encl) : Encl := ⟨a.lo * b.lo / 2 ^ p, a.hi * b.hi / 2 ^ p + 1⟩

/-- The quotient by an integer. -/
def Encl.divNat (a : Encl) (k : Nat) : Encl := ⟨a.lo / k, a.hi / k + 1⟩

/-- A multiple. -/
def Encl.scale (a : Encl) (k : Nat) : Encl := ⟨a.lo * k, a.hi * k⟩

/-- The quotient. -/
def Encl.div (p : Nat) (a b : Encl) : Encl := ⟨a.lo * 2 ^ p / b.hi, a.hi * 2 ^ p / b.lo + 1⟩

/-- Terms `t·x/(k+1), …` added to a sum: a power series with factorial denominators; the last term bounds the rest. -/
def expTerms (p : Nat) (x : Encl) : Nat → Nat → Encl → Encl → Encl
  | 0, _, t, acc => ⟨acc.lo, acc.hi + 2 * t.hi + 1⟩
  | n + 1, k, t, acc =>
    let t' := (t.mul p x).divNat (k + 1)
    expTerms p x n (k + 1) t' (acc.add t')

/-- e^x for x below 1. -/
def exps (p : Nat) (x : Encl) : Encl := expTerms p x (p / 4 + 8) 0 ⟨2 ^ p, 2 ^ p⟩ ⟨2 ^ p, 2 ^ p⟩

/-- Terms of the series of the inverse hyperbolic tangent: powers of z times z², divided by the odd numbers. -/
def atanhTerms (p : Nat) (z2 : Encl) : Nat → Nat → Encl → Encl → Encl
  | 0, _, t, acc => ⟨acc.lo, acc.hi + 2 * t.hi + 1⟩
  | n + 1, k, t, acc =>
    let t' := t.mul p z2
    atanhTerms p z2 n (k + 2) t' (acc.add (t'.divNat (k + 2)))

/-- ln((d + n) / (d − n)) = 2·artanh(n / d), for n / d at most 1/3. -/
def lnRatio (p n d : Nat) : Encl :=
  let z := Encl.ofRat p n d
  (atanhTerms p (z.mul p z) (p / 3 + 4) 1 z z).scale 2

/-- ln 2. -/
def ln2 (p : Nat) : Encl := lnRatio p 1 3

/-- Terms of the series of the sine: x^(2k+1)/(2k+1)!, the even ones in `pos`, the odd ones in `neg`. -/
def sinTerms (p : Nat) (x2 : Encl) : Nat → Nat → Encl → Encl → Encl → Encl
  | 0, _, t, pos, neg => let s := pos.sub neg; ⟨s.lo - (t.hi + 1), s.hi + t.hi + 1⟩
  | n + 1, k, t, pos, neg =>
    let t1 := ((t.mul p x2).divNat (k + 1)).divNat (k + 2)
    let t2 := ((t1.mul p x2).divNat (k + 3)).divNat (k + 4)
    sinTerms p x2 n (k + 4) t2 (pos.add t2) (neg.add t1)

/-- The sine of x, for x at most π/2. -/
def sinE (p : Nat) (x : Encl) : Encl := sinTerms p (x.mul p x) (p / 8 + 6) 1 x x ⟨0, 0⟩

/-- Terms of the series of the inverse tangent of 1/q. -/
def atanTerms (p q : Nat) : Nat → Nat → Nat → Encl → Encl → Encl
  | 0, _, w, pos, neg => let s := pos.sub neg; ⟨s.lo - (w + 1), s.hi + w + 1⟩
  | n + 1, k, w, pos, neg =>
    let w1 := w / (q * q)
    let w2 := w1 / (q * q)
    atanTerms p q n (k + 4) w2 (pos.add ⟨w2 / (k + 4), w2 / (k + 4) + 1⟩) (neg.add ⟨w1 / (k + 2), w1 / (k + 2) + 1⟩)

/-- The inverse tangent of 1/q. -/
def atanInv (p q : Nat) : Encl :=
  let w := 2 ^ p / q
  atanTerms p q (p / 8 + 4) 1 w ⟨w, w + 1⟩ ⟨0, 0⟩

/-- π, by Machin's formula. -/
def piE (p : Nat) : Encl := ((atanInv p 5).scale 16).sub ((atanInv p 239).scale 4)

/-- Round an irrational magnitude `v · 2^e`, where `enc p` encloses v with precision p: both bounds are rounded, and the
precision doubles while they disagree. -/
def roundEncl (f : FFmt) (neg : Bool) (e : Int) (enc : Nat → Encl) : Nat → Nat → Nat × Conds
  | 0, p => f.round .rne neg (enc p).lo (e - (p : Int)) true
  | n + 1, p =>
    let b := enc p
    let x := f.round .rne neg b.lo (e - (p : Int)) true
    let y := f.round .rne neg b.hi (e - (p : Int)) true
    if x = y then x else roundEncl f neg e enc n (2 * p)

/-- The floor of `m · 2^e` with a sign. -/
def floorDy (neg : Bool) (m : Nat) (e : Int) : Int :=
  let (q, exact) := roundAt .rtz neg m e 0
  if neg then (if exact then -(q : Int) else -(q : Int) - 1) else (q : Int)

/-- 2^a (R109). -/
def FFmt.exp2 (f : FFmt) (a : Nat) : Nat × Conds :=
  match f.value a with
  | .nan s => f.nanOf s
  | .inf n => (if n then 0 else f.infCode, {})
  | .fin neg m e =>
    if m = 0 then f.roundExact .rne false 1 0
    else
      -- beyond this bound the result overflows, or rounds to zero, alike
      let lim : Int := 4 * (2 : Int) ^ f.ebits
      let n := floorDy neg m e
      if lim < n then f.roundExact .rne false 1 lim
      else if n < -lim then f.round .rne false (2 ^ (f.fbits + 4)) (-lim) true
      else if 0 ≤ e then f.roundExact .rne false 1 n
      else
        let k := (-e).toNat
        let frac := (signedMag neg m - n * 2 ^ k).toNat
        if frac = 0 then f.roundExact .rne false 1 n
        else roundEncl f false n (fun p => exps p (Encl.mul p (Encl.ofRat p frac (2 ^ k)) (ln2 p))) 3 192

/-- log2 a (R109): the exponent and the logarithm of the mantissa, which lies in [1, 2). -/
def FFmt.lg2 (f : FFmt) (a : Nat) : Nat × Conds :=
  match f.value a with
  | .nan s => f.nanOf s
  | .inf n => if n then f.nanOf true else (f.infCode, {})
  | .fin neg m e =>
    if m = 0 then (f.signed true f.infCode, { dz := true })
    else if neg then f.nanOf true
    else
      let k := m.log2
      let top := e + (k : Int)
      if m = 2 ^ k then f.ofInt .rne top
      else
        let lg (p : Nat) : Encl := Encl.div p (lnRatio p (m - 2 ^ k) (m + 2 ^ k)) (ln2 p)
        if 0 ≤ top then roundEncl f false 0 (fun p => Encl.add ⟨top.toNat * 2 ^ p, top.toNat * 2 ^ p⟩ (lg p)) 3 256
        else roundEncl f true 0 (fun p => Encl.sub ⟨top.natAbs * 2 ^ p, top.natAbs * 2 ^ p⟩ (lg p)) 3 256

/-- sin(π·n/2^k) for 0 < n/2^k ≤ 1/2, rounded with a sign; 1/2 gives 1. The precision grows with the smallness of the
angle. -/
def FFmt.sinUnit (f : FFmt) (neg : Bool) (n k : Nat) : Nat × Conds :=
  if 2 * n = 2 ^ k then f.roundExact .rne neg 1 0
  else roundEncl f neg 0 (fun p => sinE p (Encl.mul p (piE p) (Encl.ofRat p n (2 ^ k)))) 3 (192 + (k - n.log2))

/-- |a| modulo 2 as a multiple of 2^−k (k at least 1). -/
def modTwo (m : Nat) (e : Int) : Nat × Nat :=
  let k := max 1 (-e).toNat
  (shiftBy m (e + (k : Int)) % 2 ^ (k + 1), k)

/-- sin(π·a) (R109). -/
def FFmt.sinpi (f : FFmt) (a : Nat) : Nat × Conds :=
  match f.value a with
  | .nan s => f.nanOf s
  | .inf _ => f.nanOf true
  | .fin neg m e =>
    let (t, k) := modTwo m e
    if m = 0 ∨ t % 2 ^ k = 0 then (f.signed neg 0, {})
    else
      let flip := decide (2 ^ k ≤ t)
      let u := t % 2 ^ k
      f.sinUnit (neg != flip) (if 2 ^ k < 2 * u then 2 ^ k - u else u) k

/-- cos(π·a) (R109). -/
def FFmt.cospi (f : FFmt) (a : Nat) : Nat × Conds :=
  match f.value a with
  | .nan s => f.nanOf s
  | .inf _ => f.nanOf true
  | .fin _ m e =>
    let (t, k) := modTwo m e
    let u := if 2 ^ k < t then 2 ^ (k + 1) - t else t
    -- the angle u lies between 0 and 1; cos(πu) = sin(π(1/2 − u)), negative beyond 1/2
    if 2 * u = 2 ^ k then (0, {})
    else if 2 * u < 2 ^ k then f.sinUnit false (2 ^ k - 2 * u) (k + 1)
    else f.sinUnit true (2 * u - 2 ^ k) (k + 1)

/-- Round(FP64, RNE, m × ln(m / v)) for 0 < v < m, m a power of two (R286). -/
def linearCount (m v : Nat) : Nat :=
  let k := v.log2
  -- ln(m / v) = (log2 m − k)·ln 2 − ln(v / 2^k)
  (roundEncl f64 false 0
    (fun p => ((ln2 p).scale (m.log2 - k)).sub (lnRatio p (v - 2 ^ k) (v + 2 ^ k)) |>.scale m) 3 256).1

end Sys2Proof.Machine
end

