-- ==== Sys2Proof/Machine/SketchUnit.lean ====
section
/-!
DEFINITION. The sketch unit: the layout of an instance's state, hashing, and the operations on an instance (R279 to R286,
R294 to R296, R402).
-/

namespace Sys2Proof.Machine

/-- What governs an instance's operations (R279, R281, R282): the descriptor's fields, with the current b. -/
structure SkParams where
  ty : Nat
  b : Nat
  dk : Nat
  cw : Nat
  seed : Nat
  flags : Nat
  fill : Nat
deriving DecidableEq, Repr

/-- The fields of a descriptor's bytes (R279). -/
def skParams (d : List Byte) : SkParams :=
  { ty := field d 0 1, b := field d 1 1, dk := field d 2 1, cw := field d 3 1, seed := field d 4 4, flags := field d 8 2, fill := field d 10 2 }

/-- Bytes of a counter (R279). -/
def SkParams.cbytes (p : SkParams) : Nat := 2 ^ p.cw

/-- The maximum of a counter (R284). -/
def SkParams.top (p : SkParams) : Nat := 2 ^ (8 * p.cbytes) - 1

/-- Bytes of the body (R280). -/
def SkParams.body (p : SkParams) : Nat :=
  match p.ty with
  | 1 => 2 ^ p.b / 8
  | 2 => p.dk * 2 ^ p.b * p.cbytes
  | _ => 2 ^ p.b

/-- A descriptor's fields lie within their values, its reserved bytes are 0, and the state is not too large (R279, R280). -/
def descOk (d : List Byte) : Bool :=
  let p := skParams d
  (match p.ty with
    | 1 => decide (1 ≤ p.dk ∧ p.dk ≤ 8) && decide (p.cw = 0) && decide (p.flags = 0)
    | 2 => decide (1 ≤ p.dk ∧ p.dk ≤ 8) && decide (p.cw ≤ 2) && (decide (p.flags = 2) || decide (p.flags = 3)) && decide (p.fill = 0)
    | 3 => decide (p.dk = 0) && decide (p.cw = 0) && decide (p.flags = 0) && decide (p.fill = 0)
    | _ => false)
    && decide (4 ≤ p.b ∧ p.b ≤ 16) && zeros d 12 4 && decide (field d 16 8 % 512 = 0) && zeros d 24 8
    && decide (64 + p.body ≤ 262144)

/-- The place of byte `i` of an instance's state (R402). -/
def Bind.at_ (k : Bind) (i : Nat) : Target := blockByte k.frames k.state i

/-- The bytes of an instance's state from `o` on. -/
def State.skBytes (s : State) (k : Bind) (o n : Nat) : List Byte :=
  (List.range n).map fun i => let t := k.at_ (o + i); s.byte t.mem t.addr

/-- A field of an instance's state. -/
def State.skGet (s : State) (k : Bind) (o n : Nat) : Nat := leNat (s.skBytes k o n)

/-- Write bytes of an instance's state from `o` on, at their homes (R402); who has them written, `State.skWrote` says. -/
def State.skPut (s : State) (k : Bind) (o : Nat) (l : List Byte) : State :=
  let first := (k.state + o) / 4096 - k.state / 4096
  (s.writeBlocks k.frames k.state o l).homePut (blockRanges (k.frames.drop first) (k.state + o) l.length)

/-- Write a field of an instance's state. -/
def State.skSet (s : State) (k : Bind) (o n v : Nat) : State := s.skPut k o (leBytes n v)

/-- A descriptor in a state's header without its reserved bytes, which are ignored there (R8, R279). -/
def descFields (d : List Byte) : List Byte := d.take 12 ++ List.replicate 4 0 ++ (d.drop 16).take 8 ++ List.replicate 8 0

/-- The parameters that stand (R281, R282, R302): DESC as the state holds it; where its fields are none that R279 allows, or ask for more than the
bound state, those of the descriptor bound: DESIGN CHOICE, log entry 8. -/
def State.skNow (s : State) (k : Bind) : SkParams :=
  let d := descFields (s.skBytes k 0 32)
  if descOk d && decide ((skParams d).body ≤ (skParams k.desc).body) then skParams d else skParams k.desc

/-- The ranges of memory that an instance's state occupies, one for each of its blocks. -/
def Bind.ranges (k : Bind) : List Range := blockRanges k.frames k.state (64 + (skParams k.desc).body)

/-- An agent has had an instance written, which is one location (R262, R272): acquires on it, and on the bytes of its state, note the agent (R263). -/
def State.skWrote (s : State) (g : Agent) (k : Bind) : State := k.ranges.foldl (fun s r => s.wroteBy g true r) s

/-- The grain units of the pages that hold an instance's state, as far as it reaches (R242, R245). -/
def State.bindUnits (s : State) (ctx : Nat) (k : Bind) : List Range :=
  (k.ranges.zip (List.range k.ranges.length)).map fun r =>
    let g := match s.walk ctx (k.state / 4096 * 4096 + 4096 * r.2) with
      | .ok x => x.grain
      | .error _ => 32
    ⟨r.1.mem, r.1.lo / g * g, (r.1.hi + g - 1) / g * g⟩

/-- The constants of R282. -/
def hashC (i : Nat) : Nat :=
  match i with
  | 0 => 0x9E3779B1
  | 1 => 0x85EBCA77
  | 2 => 0xC2B2AE3D
  | 3 => 0x27D4EB2F
  | 4 => 0x165667B1
  | 5 => 0xD3A2646D
  | 6 => 0xFD7046C5
  | _ => 0xB55A4F09

/-- The product that hash `i` of a key takes its bits from (R282). -/
def SkParams.mix (p : SkParams) (i : Nat) (x : Word) : Nat := (x.toNat ^^^ p.seed) * hashC i % 2 ^ 32

/-- Hash `i` of a key (R282). -/
def SkParams.hash (p : SkParams) (i : Nat) (x : Word) : Nat := p.mix i x / 2 ^ (32 - p.b)

/-- The offset of counter `j` of row `i` in the state (R281). -/
def SkParams.counterAt (p : SkParams) (i j : Nat) : Nat := 64 + (i * 2 ^ p.b + j) * p.cbytes

/-- SAT (R281). -/
def State.skSat (s : State) (k : Bind) : Bool := decide (s.skGet k 0x20 4 % 2 = 1)

/-- Set bits of FLAGS. -/
def State.skFlag (s : State) (k : Bind) (f : Nat) : State := s.skSet k 0x20 4 (s.skGet k 0x20 4 ||| f)

/-- A sum clamped to I64 (R281). -/
def satTotal (v : Int) : Nat := (BitVec.ofInt 64 (satInt (intLo 64 false) (intHi 64 false) v).1).toNat

/-- TOTAL as a signed number. -/
def State.skTotal (s : State) (k : Bind) : Int := (BitVec.ofNat 64 (s.skGet k 0x28 8)).toInt

/-- TOTAL increased, saturating. -/
def State.skAddTotal (s : State) (k : Bind) (v : Int) : State := s.skSet k 0x28 8 (satTotal (s.skTotal k + v))

/-- The saturation test of a filter (R283): whether it has just become true. -/
def State.skTest (s : State) (k : Bind) : State × Bool :=
  let p := s.skNow k
  let thr := if p.fill = 0 then 32768 else p.fill
  if !s.skSat k && decide (thr * 2 ^ p.b < s.skGet k 0x24 4 * 65536) then (s.skFlag k 1, true) else (s, false)

/-- Set a bit of a filter; FILLCNT counts it when it was clear (R281, R283). -/
def State.skSetBit (s : State) (k : Bind) (j : Nat) : State :=
  let v := s.skGet k (64 + j / 8) 1
  if v / 2 ^ (j % 8) % 2 = 1 then s
  else (s.skSet k (64 + j / 8) 1 (v + 2 ^ (j % 8))).skSet k 0x24 4 (s.skGet k 0x24 4 + 1)

/-- One row of a frequency insert (R284): the state and whether the counter was pinned. -/
def State.skRow (s : State) (k : Bind) (p : SkParams) (x : Word) (v : Int) (i : Nat) : State × Bool :=
  let o := p.counterAt i (p.hash i x)
  let c := s.skGet k o p.cbytes
  if c = p.top then (s, false)
  else if (p.top : Int) ≤ c + v then ((s.skSet k o p.cbytes p.top).skSet k 0x24 4 (s.skGet k 0x24 4 + 1), true)
  else if (c : Int) + v < 0 then ((s.skSet k o p.cbytes 0).skFlag k 2, false)
  else (s.skSet k o p.cbytes (c + v).toNat, false)

/-- An insert of a key with a weight, and whether it counts a sketch-saturation event (R283 to R285). -/
def State.skInsert (s : State) (k : Bind) (x : Word) (v : Int) : State × Bool :=
  let p := s.skNow k
  match p.ty with
  | 1 =>
    let s := (List.range p.dk).foldl (fun s i => s.skSetBit k (p.hash i x)) s
    (s.skAddTotal k 1).skTest k
  | 2 =>
    let r := (List.range p.dk).foldl (fun (r : State × Bool) i => let q := r.1.skRow k p x v i; (q.1, r.2 || q.2)) (s, false)
    let s := r.1.skAddTotal k v
    (if r.2 then s.skFlag k 1 else s, r.2)
  | _ =>
    let j := p.mix 0 x / 2 ^ (32 - p.b)
    let t := p.mix 1 x
    let rank := if t = 0 then 33 else 32 - t.log2
    let old := s.skGet k (64 + j) 1
    let s := if old % 64 < rank then s.skSet k (64 + j) 1 rank else s
    let s := if old % 64 = 0 then s.skSet k 0x24 4 (s.skGet k 0x24 4 + 1) else s
    (s.skAddTotal k 1, false)

/-- The constant α of R286, as a binary64 code. -/
def skAlpha (m : Nat) : Nat :=
  let rat (n d : Nat) : Nat := (f64.divMag .rne false n 0 d 0).1
  if m = 16 then rat 673 1000
  else if m = 32 then rat 697 1000
  else if m = 64 then rat 709 1000
  else rat (7213 * m) (10 * (1000 * m + 1079))

/-- The estimate of a distinct counter from its registers (R286). -/
def skEstimate (m fillcnt : Nat) (regs : List Nat) : Word :=
  let v := m - fillcnt
  let z := (regs.map fun r => 2 ^ (63 - r % 64)).sum
  let a := (f64.value (skAlpha m)).dyadic
  -- α · m² / Z, with Z = z · 2^−63
  let e0 := (f64.divMag .rne false (a.m.natAbs * m * m) a.e z (-63)).1
  let small := (f64.value e0).dyadic.le ⟨5 * m, -1⟩ && decide (0 < v)
  let e := if small then (if v < m then linearCount m v else 0) else e0
  BitVec.ofNat 32 (convFF f64 f32 .rne e).1

/-- A query (R283 to R286). -/
def State.skQuery (s : State) (k : Bind) (x : Word) : Word :=
  let p := s.skNow k
  match p.ty with
  | 1 => pOf ((List.range p.dk).all fun i => let j := p.hash i x; decide (s.skGet k (64 + j / 8) 1 / 2 ^ (j % 8) % 2 = 1))
  | 2 =>
    let cs := (List.range p.dk).map fun i => s.skGet k (p.counterAt i (p.hash i x)) p.cbytes
    BitVec.ofNat 32 (cs.foldl min (cs.headD 0))
  | _ => skEstimate (2 ^ p.b) (s.skGet k 0x24 4) ((s.skBytes k 64 (2 ^ p.b)).map fun b => b.toNat)

/-- SKSTAT's quad (R296). -/
def State.skStat (s : State) (k : Bind) : Nat :=
  let p := s.skNow k
  let w1 := p.ty * 2 ^ 24 + p.b * 2 ^ 16 + p.dk * 2 ^ 8 + s.skGet k 0x20 4 % 4
  s.skGet k 0x24 4 + w1 * 2 ^ 32 + s.skGet k 0x28 8 * 2 ^ 64

/-- The counters of a frequency body (R281). -/
def counters (w : Nat) : Nat → List Byte → List Nat
  | 0, _ => []
  | n + 1, l => leNat (l.take w) :: counters w n (l.drop w)

/-- FILLCNT recounted from a body (R281, R294). -/
def skRecount (p : SkParams) (body : List Byte) : Nat :=
  match p.ty with
  | 1 => (body.map fun b => ((List.range 8).filter fun i => b.getLsbD i).length).sum
  | 2 => ((counters p.cbytes (p.dk * 2 ^ p.b) body).filter fun c => c == p.top).length
  | _ => (body.filter fun b => decide (b.toNat % 64 ≠ 0)).length

/-- Two counters joined: M if either is M, else the capped sum (R294, R295). -/
def joinCounter (top a b : Nat) : Nat := if a = top ∨ b = top then top else min top (a + b)

/-- A frequency merge pins a counter that was below M in both inputs. -/
def newlyPinned (top : Nat) (l : List (Nat × Nat)) : Bool := l.any fun c => decide (c.1 < top ∧ c.2 < top ∧ top ≤ c.1 + c.2)

/-- Two instances may be merged (R294): TYPE, current b, DK, CW and SEED are equal. -/
def SkParams.alike (p q : SkParams) : Bool :=
  decide (p.ty = q.ty) && decide (p.b = q.b) && decide (p.dk = q.dk) && decide (p.cw = q.cw) && decide (p.seed = q.seed)

/-- Apply a read state, header and body, to an instance (R294); whether it counts a sketch-saturation event. Where an operation between the checks and
the write has made the two differ, it changes nothing: DESIGN CHOICE, log entry 8. -/
def State.skMerge (s : State) (k : Bind) (src : List Byte) : State × Bool :=
  let p := s.skNow k
  if !p.alike (skParams src) then (s, false) else
  let mine := s.skBytes k 64 p.body
  let theirs := (src.drop 64).take p.body
  let total := s.skTotal k + (BitVec.ofNat 64 (field src 0x28 8)).toInt
  let finish (body : List Byte) : State := ((s.skPut k 64 body).skSet k 0x24 4 (skRecount p body)).skSet k 0x28 8 (satTotal total)
  match p.ty with
  | 1 => (finish (List.zipWith (fun a b => a ||| b) mine theirs)).skTest k
  | 2 =>
    let n := p.dk * 2 ^ p.b
    let cs := (counters p.cbytes n mine).zip (counters p.cbytes n theirs)
    let s := (finish (cs.flatMap fun c => leBytes p.cbytes (joinCounter p.top c.1 c.2))).skFlag k (field src 0x20 4)
    if newlyPinned p.top cs then (s.skFlag k 1, true) else (s, false)
  | _ => (finish (List.zipWith (fun a b => if a.toNat % 64 < b.toNat % 64 then b else a) mine theirs), false)

/-- Neighbours paired. -/
def pairUp : List Nat → List (Nat × Nat)
  | a :: b :: l => (a, b) :: pairUp l
  | _ => []

/-- A filter's bits from a body. -/
def bodyBits (l : List Byte) : List Bool := l.flatMap fun b => (List.range 8).map b.getLsbD

/-- A filter's bits folded (R295). -/
def foldBits : List Bool → List Bool
  | a :: b :: l => (a || b) :: foldBits l
  | _ => []

/-- Bits as bytes, eight at a time. -/
def packBits : Nat → List Bool → List Byte
  | 0, _ => []
  | n + 1, l => BitVec.ofNat 8 (bitsNat (l.take 8)) :: packBits n (l.drop 8)

/-- SKFOLD (R295), and whether it counts a sketch-saturation event. An instance that another fold has brought to b = 4 since the check stays as it is:
DESIGN CHOICE, log entry 8. -/
def State.skFold (s : State) (k : Bind) : State × Bool :=
  let p := s.skNow k
  if p.ty = 3 ∨ p.b ≤ 4 then (s, false) else
  let q := { p with b := p.b - 1 }
  let old := s.skBytes k 64 p.body
  let cs := pairUp (counters p.cbytes (p.dk * 2 ^ p.b) old)
  let new := if p.ty = 1 then packBits q.body (foldBits (bodyBits old))
    else cs.flatMap fun c => leBytes p.cbytes (joinCounter p.top c.1 c.2)
  let s := s.skPut k 64 (new ++ List.replicate (p.body - q.body) 0)
  let s := (s.skSet k 1 1 q.b).skSet k 0x24 4 (skRecount q new)
  if p.ty = 1 then s.skTest k
  else if newlyPinned p.top cs then (s.skFlag k 1, true) else (s, false)

/-- SKCLR (R296). -/
def State.skClear (s : State) (k : Bind) : State :=
  let p := s.skNow k
  (s.skPut k 0x20 (List.replicate 16 0)).skPut k 64 (List.replicate p.body 0)

/-- SKBIND `.clr` (R291): DESC, and zeros in the rest of the header and in the body. -/
def State.skFormat (s : State) (k : Bind) : State :=
  s.skPut k 0 (k.desc ++ List.replicate (32 + (skParams k.desc).body) 0)

/-- A weight may be inserted: no deletion on a filter or a distinct counter, no negative weight without DEL (R284, R293). TYPE and DEL of this check at issue
are those of the binding, not of DESC as a plain write may have left it: DESIGN CHOICE, log entry 8. -/
def Bind.allows (k : Bind) (v : Int) (deletes : Bool) : Bool :=
  let p := skParams k.desc
  !(decide (v < 0) && decide (p.flags % 2 = 0)) && !(deletes && decide (p.ty ≠ 2))

/-- The binding of a slot of a context (R278). -/
def State.bound (s : State) (ctx slot : Nat) : Option Bind := (s.context ctx).slots.look slot

/-- Set the binding of a slot of a context (R278). -/
def State.setBind (s : State) (ctx slot : Nat) (k : Option Bind) : State :=
  let c := s.context ctx
  s.setContext ctx { c with slots := match k with
    | some b => c.slots.put slot b
    | none => c.slots.drop slot }

/-- An operation that has taken a slot's binding is still to be performed, of any thread or engine of the context (R278, R292); SKFREE itself apart. -/
def State.slotBusy (s : State) (ctx slot : Nat) : Bool :=
  (s.teams.any fun e => (match s.pipeOf e.2 with
      | some p => decide (p.ctxNum = ctx)
      | none => false) && e.2.threads.any fun t => t.2.ops.any fun o =>
        !o.isDone && o.kind.slots.contains slot && decide (o.kind ≠ .skWork (.free slot)))
    || s.allOps.any fun o => decide (s.ctxOf o.2.ref = ctx) && (match o.2.kind with
      | .collSk _ k _ => decide (k = slot)
      | .lin .. | .fill .. | .gather .. | .scatter .. | .cpyw .. | .tld .. | .tst .. | .accrd | .msync | .coll .. => false)

/-- No engine operation that an operation on an instance waits for owns a part of its state (R245): a merge of the instance itself is an operation of the
instance, and lets others fall between its read and its write (R328), but those that the issuer of the merge has made after it (R270, R272). `engine`, of
another merge. -/
def State.instanceFree (s : State) (engine : Bool) (q : ThreadRef) (id ctx slot : Nat) (rs : List Range) : Bool :=
  s.allOps.all fun e => (decide (e.2.ref = q) && decide (id < e.2.id))
    || (match e.2.kind with
      | .collSk _ k _ => decide (k = slot) && decide (s.ctxOf e.2.ref = ctx) && (engine || decide (e.2.ref ≠ q))
      | .lin .. | .fill .. | .gather .. | .scatter .. | .cpyw .. | .tld .. | .tst .. | .accrd | .msync | .coll .. => false)
    || (s.owned e.1 e.2).all fun o => !(rs.any o.meets)

/-- The thread's earlier operations let an operation on an instance be performed (R268, R272). -/
def Thread.skReady (t : Thread) (slot : Nat) : Bool :=
  t.ops.all fun p => p.isDone || (!p.kind.reads && !ordAcquires p.ord && !p.kind.slots.contains slot)

end Sys2Proof.Machine
end

