-- ==== Sys2Proof/Machine/MemInstr.lean ====
section
/-!
DEFINITION. Row 0x9: loads, stores, interval and shaped accesses, prefetch, fences and cache maintenance (R247 to R255, R260,
R261). An access that passes its checks is issued here; its home performs it later.
-/

namespace Sys2Proof.Machine

/-- The order of MEMX; the short form is relaxed (R38, R248). -/
def memOrd (x : Ops) : MOrd :=
  match x.ordCode with
  | 0 => .rlx
  | 1 => .acq
  | 2 => .rel
  | _ => .ar

/-- The scope that a code names (R38). -/
def scopeOf (n : Nat) : Scope :=
  match n with
  | 0 => .thr
  | 1 => .team
  | 2 => .die
  | 3 => .pkg
  | _ => .sys

/-- The scope of MEMX (R38). -/
def memScope (x : Ops) : Scope := scopeOf x.scopeCode

/-- The address that a memory instruction forms (R222). -/
def memAddr (x : Ops) (sp : Space) (scale : Nat) (t : Thread) : Nat :=
  if sp = .glb then (t.pair x.a + memOff x scale).toNat else (t.rd x.a + loWord (memOff x scale)).toNat

/-- The checks of an address and what follows them: R222 and R223, then the sketch window (R260). `kind` is the access kind of a page fault
(R360). -/
def reaching (e : Env) (s : State) (sp : Space) (a align size : Nat) (need : Need) (kind : Nat)
    (window : Nat → Word → State → Res) (k : Target → State → Res) : Res :=
  match s.resolve e sp a align size need with
  | (.fault c ea ei, s) => .trap c ea ei s
  | (.pageFault r, s) => .stop (s.threadFault e kind r a)
  | (.window slot key _, s) => window slot key s
  | (.at_ t _, s) => k t s

/-- The checks of an access and what follows them: a peer package must admit it (R369). -/
def accessing (e : Env) (s : State) (sp : Space) (a align size : Nat) (need : Need) (kind : Nat)
    (window : Nat → Word → State → Res) (k : Target → State → Res) : Res :=
  reaching e s sp a align size need kind window fun t s =>
    if t.mem = .peer ∧ 3 ≤ Config.peerAnswer s.tick then .trap .accessViolation (BitVec.ofNat 64 a) 0x0B s else k t s

/-- A window that the instruction may not access (R260). -/
def noWindow (a : Nat) (_ : Nat) (_ : Word) (s : State) : Res := .trap .sketchAccess (BitVec.ofNat 64 a) 1 s

/-- The single-copy-atomic accesses of an operation of `size` bytes: 16 bytes are two of 8 (R224). -/
def splitAccess (id : Nat) (t : Target) (size data : Nat) : List Access :=
  if size = 16 then
    [{ id := id + 1, at_ := t, size := 8, data := data % 2 ^ 64, done := none, early := false },
     { id := id + 2, at_ := { t with addr := t.addr + 8 }, size := 8, data := data / 2 ^ 64, done := none, early := false }]
  else [{ id := id + 1, at_ := t, size := size, data := data % 2 ^ (8 * size), done := none, early := false }]

/-- An operation of the executing instruction. -/
def Env.memOp (e : Env) (id : Nat) (kind : OpKind) (accs : List Access) (ord : MOrd) (scope : Scope) (hint cmp : Nat)
    (dst : Reg) (dstN a : Nat) : MemOp :=
  { id := id, kind := kind, accs := accs, ord := ord, scope := scope, cmp := cmp, dst := dst, dstN := dstN, core := e.core, pc := e.t.pc,
    va := BitVec.ofNat 64 a, conds := {}, einst := e.words, hint := hint, seen := [], area := [], grain := 32, cp := 0, n := 0 }

/-- Issue an operation: it joins the thread's operations in program order, with the grain and the policy of the page that its address has been
translated to (R261); a release raises the thread's N (R275). -/
def State.issue (s : State) (e : Env) (o : MemOp) : State :=
  let p := s.pageOf e.ref
  let s := if ordReleases o.ord then s.released e.ref else s
  ({ s with nextId := s.nextId + 3 }).updThread e.ref fun t => { t with ops := t.ops ++ [{ o with grain := p.1, cp := p.2, n := t.raceN }] }

/-- An operation of the executing instruction on a bound instance, through a window or by its slot (R272, R288, R293). -/
def Env.skMemOp (e : Env) (id : Nat) (kind : OpKind) (k : Bind) (ord : MOrd) (scope : Scope) (hint : Nat) (dst : Reg) (dstN a : Nat) : MemOp :=
  { e.memOp id kind [{ id := id + 1, at_ := k.at_ 0, size := 0, data := 0, done := none, early := false }] ord scope hint 0 dst dstN a with
    area := k.ranges }

/-- A producer with a destination of `n` registers, which waits as the 64th outstanding operation (R177). -/
def produce (e : Env) (s : State) (o : MemOp) : Res :=
  if Config.outstanding ≤ e.t.inFlight then .wait .limit s else .done (s.issue e o) [] (regRange o.dst o.dstN) none

/-- LD (R249, R288). -/
def ldBody (sx : Bool) (sz : MSize) (sp : Space) (x : Ops) (e : Env) (s : State) : Res :=
  let n := sz.bytes
  let a := memAddr x sp n e.t
  accessing e s sp a n n .read 0
    (fun slot key s =>
      if sz ≠ .b32 then noWindow a slot key s
      else match s.bound e.pl.ctxNum slot with
        | none => .trap .sketchAccess (BitVec.ofNat 64 a) 2 s
        | some k => produce e s (e.skMemOp s.nextId (.skQuery slot key) k (memOrd x) (memScope x) x.hint x.d sz.regs a))
    (fun t s => produce e s (e.memOp s.nextId (.load sx) (splitAccess s.nextId t n 0) (memOrd x) (memScope x) x.hint 0 x.d sz.regs a))

/-- The data of a store of a size (R249). -/
def storeData (sz : MSize) (t : Thread) (r : Reg) : Nat :=
  match sz with
  | .b128 => (t.quad r).toNat
  | .b64 => (t.pair r).toNat
  | .b8 | .b16 | .b32 => (t.rd r).toNat

/-- ST (R249, R288). -/
def stBody (sz : MSize) (sp : Space) (x : Ops) (e : Env) (s : State) : Res :=
  let n := sz.bytes
  let a := memAddr x sp n e.t
  accessing e s sp a n n .write 1
    (fun slot key s =>
      if sz ≠ .b32 then noWindow a slot key s
      else match s.bound e.pl.ctxNum slot with
        | none => .trap .sketchAccess (BitVec.ofNat 64 a) 2 s
        | some k =>
          let v := (e.t.rd x.b).toInt
          if !k.allows v false then .trap .sketchAccess (BitVec.ofNat 64 a) 3 s
          else .done (s.issue e (e.skMemOp s.nextId (.skInsert slot key v) k (memOrd x) (memScope x) x.hint 0 0 a)) [] [] none)
    (fun t s => .done (s.issue e (e.memOp s.nextId .store (splitAccess s.nextId t n (storeData sz e.t x.b)) (memOrd x) (memScope x) x.hint 0 0 0 a))
      [] [] none)

/-- LDI (R250). -/
def ldiBody (w : Bool) (sp : Space) (x : Ops) (e : Env) (s : State) : Res :=
  let n := if w then 16 else 8
  let a := memAddr x sp n e.t
  accessing e s sp a n n .read 0 (noWindow a) fun t s =>
    produce e s (e.memOp s.nextId (.loadIv w) (splitAccess s.nextId t n 0) (memOrd x) (memScope x) x.hint 0 x.d (if w then 4 else 2) a)

/-- STI (R250). -/
def stiBody (w : Bool) (sp : Space) (x : Ops) (e : Env) (s : State) : Res :=
  let n := if w then 16 else 8
  let a := memAddr x sp n e.t
  accessing e s sp a n n .write 1 (noWindow a) fun t s =>
    let data := if w then (e.t.quad x.b).toNat else (e.t.pair x.b).toNat
    .done (s.issue e (e.memOp s.nextId .store (splitAccess s.nextId t n data) (memOrd x) (memScope x) x.hint 0 0 0 a)) [] [] none

/-- The address of an element in a space: GLOBAL modulo 2^64, LOCAL swizzled and WS modulo 2^32 (R222, R251). -/
def elemAddr (r : Shape) (sp : Space) (a : Int) : Nat :=
  match sp with
  | .glb => (a % 2 ^ 64).toNat
  | .loc => r.swizzle (a % 2 ^ 32).toNat % 2 ^ 32
  | .ws => (a % 2 ^ 32).toNat

/-- Signed coordinates in consecutive registers (R251, R315). -/
def coordsAt (t : Thread) (r : Reg) (n : Nat) : List Int := (regRange r n).map fun g => (t.rd g).toInt

/-- The base of a record in a space: LOCAL and WS use the low 32 bits (R313). -/
def Shape.based (r : Shape) (sp : Space) : Shape := if sp = .glb then r else { r with base := r.base % 2 ^ 32 }

/-- The element of LDT and STT (R251): the record is read, then `out` or `k` with the element's address; the race detector sees the read where the
instruction takes place (R261, R276). -/
def shaped (sp : Space) (n : Nat) (x : Ops) (e : Env) (s : State) (out : State → Res) (k : Nat → State → Res) : Res :=
  let ra := (e.t.pair x.a).toNat
  let ea := BitVec.ofNat 64 ra
  accessing e s .glb ra 128 128 .read 0 (noWindow ra) fun t s =>
    readingNow e s [t.range 128] fun _ =>
      if s.poisoned (t.range 128) then .stop (s.poisonKill e.ref e.t.pc t)
      else
        let d := s.bytes t 128
        let note (s : State) : State := s.raceRead e ra 128 t
        let rec_ := (shapeOf d).based sp
        let rank := x.c.toNat
        if !elemOk d || rec_.rank != rank || rec_.n != n then .trap .accessViolation ea 6 s
        else
          let ks := coordsAt e.t x.b rank
          let off : Int := if x.len = .s then 0 else (memOff x n).toInt
          let a := elemAddr rec_ sp (rec_.addr ks + off)
          if rec_.inBounds ks then (k a s).noting note
          else if rec_.clip = 1 then .trap .accessViolation (BitVec.ofNat 64 a) 7 s
          else (out s).noting note

/-- LDT (R251). -/
def ldtBody (sx : Bool) (sz : MSize) (sp : Space) (x : Ops) (e : Env) (s : State) : Res :=
  let n := sz.bytes
  shaped sp n x e s (fun s => .done s (wordsOf x.d sz.regs 0) [] none) fun a s =>
    accessing e s sp a n n .read 0 (noWindow a) fun t s =>
      produce e s (e.memOp s.nextId (.load sx) (splitAccess s.nextId t n 0) (memOrd x) (memScope x) x.hint 0 x.d sz.regs a)

/-- STT (R251). -/
def sttBody (sz : MSize) (sp : Space) (x : Ops) (e : Env) (s : State) : Res :=
  let n := sz.bytes
  shaped sp n x e s (fun s => .done s [] [] none) fun a s =>
    accessing e s sp a n n .write 1 (noWindow a) fun t s =>
      .done (s.issue e (e.memOp s.nextId .store (splitAccess s.nextId t n (storeData sz e.t x.d)) (memOrd x) (memScope x) x.hint 0 0 0 a)) [] [] none

/-- FENCE (R253): `.acq` waits for the loads and atomics, `.rel` and `.ar` for every access. What has been performed with respect to one agent has been
performed with respect to all (R243), so every scope waits alike; the race detector tells them apart (R275). -/
def fenceBody (k : MOrd) (sc : Scope) (e : Env) (s : State) : Res :=
  let done (_ : Unit) : Res := .done (s.raceFence e.ref e.core k sc) [] [] none
  if ordReleases k then awaiting s e.t.settled done
  else if e.t.readsDone then done ()
  else .wait (.accesses false) s

/-- PREF (R252, R375): where the address is that of a readable byte outside the windows, its line is brought in; otherwise nothing happens. -/
def prefBody (x : Ops) (e : Env) (s : State) : Res :=
  let a := memAddr x .glb 512 e.t
  match s.resolve e .glb a 1 1 .read with
  | (.at_ t grain, s') => .done ((s'.keepPage e).prefetch e.core t grain (s'.pageOf e.ref).2 x.hint) [] [] none
  | (.fault .., _) | (.pageFault _, _) | (.window .., _) => .done s [] [] none

/-- CFLUSH (R254): the thread's own accesses to the line come first; nothing that an agent reads changes, and a remote page's line is no line of
this package. -/
def cflushBody (inv : Bool) (x : Ops) (e : Env) (s : State) : Res :=
  let a := memAddr x .glb 512 e.t
  reaching e s .glb a 1 1 (if inv then .write else .read) (if inv then 1 else 0) (noWindow a) fun t s =>
    let s := s.keepPage e
    if t.mem = .peer then .done s [] [] none
    else awaiting s (s.readReady e.ref e.core e.t ((lineOf t).range 512)) fun _ => .done (s.flushLine (lineOf t) inv) [] [] none

/-- The cores of a scope (R255, R359). -/
def scopeCores (sc : Scope) (e : Env) : List Nat :=
  match sc with
  | .thr | .team => e.tm.cores
  | .die => (List.range 64).map fun i => dieOf e.core * 64 + i
  | .pkg | .sys => List.range Config.cores

/-- The instruction-cache copies of a line on a list of cores are invalidated (R255). -/
def State.dropLine (s : State) (line : Range) (cores : List Nat) : State :=
  { s with cores := s.cores.map fun e =>
      if cores.contains e.1 then (e.1, { e.2 with icache := e.2.icache.filter fun b => !(b.1.range 32).meets line }) else e }

/-- An acquire that was issued before a number, on one of some cores, has still to be performed (R264). -/
def State.acquiring (s : State) (before : Nat) (cores : List Nat) : Bool :=
  s.teams.any fun tm => tm.2.threads.any fun t => t.2.ops.any fun o =>
    decide (o.id < before) && cores.contains o.core && ordAcquires o.ord && !o.isDone

/-- CINV (R255): the copies go once no acquire on its cores is under way, whose thread would have fetched already what comes after the acquire: so an
acquire that synchronises with a release after the CINV sees it (R264); DEDUCED, log entry 16. -/
def cinvBody (sc : Scope) (x : Ops) (e : Env) (s : State) : Res :=
  let a := memAddr x .glb 512 e.t
  reaching e s .glb a 1 1 .read 0 (noWindow a) fun t s =>
    let s := s.keepPage e
    let line := (lineOf t).range 512
    let before := match e.t.resume with
      | some (.acquires n _) => n
      | _ => s.nextId
    if !s.readReady e.ref e.core e.t line then .wait (.accesses true) s
    else if s.acquiring before (scopeCores sc e) then .wait (.acquires before (scopeCores sc e)) s
    else .done (s.dropLine line (scopeCores sc e)) [] [] none

/-- LD (R249). -/
def execLd (x : Ops) (sx : Bool) (sz : MSize) (sp : Space) (s : State) : Host.Outcome State Fault Refusal :=
  runInstr (.ld x sx sz sp) (ldBody sx sz sp) s

/-- ST (R249). -/
def execSt (x : Ops) (sz : MSize) (sp : Space) (s : State) : Host.Outcome State Fault Refusal :=
  runInstr (.st x sz sp) (stBody sz sp) s

/-- LDI (R250). -/
def execLdi (x : Ops) (w : Bool) (sp : Space) (s : State) : Host.Outcome State Fault Refusal :=
  runInstr (.ldi x w sp) (ldiBody w sp) s

/-- STI (R250). -/
def execSti (x : Ops) (w : Bool) (sp : Space) (s : State) : Host.Outcome State Fault Refusal :=
  runInstr (.sti x w sp) (stiBody w sp) s

/-- LDT (R251). -/
def execLdt (x : Ops) (sx : Bool) (sz : MSize) (sp : Space) (s : State) : Host.Outcome State Fault Refusal :=
  runInstr (.ldt x sx sz sp) (ldtBody sx sz sp) s

/-- STT (R251). -/
def execStt (x : Ops) (sz : MSize) (sp : Space) (s : State) : Host.Outcome State Fault Refusal :=
  runInstr (.stt x sz sp) (sttBody sz sp) s

/-- PREF (R252). -/
def execPref (x : Ops) (s : State) : Host.Outcome State Fault Refusal := runInstr (.pref x) prefBody s

/-- FENCE (R253). -/
def execFence (x : Ops) (k : MOrd) (s : State) : Host.Outcome State Fault Refusal := runInstr (.fence x k) (fun x => fenceBody k (scopeOf (x.d.toNat % 8))) s

/-- CFLUSH (R254). -/
def execCflush (x : Ops) (inv : Bool) (s : State) : Host.Outcome State Fault Refusal :=
  runInstr (.cflush x inv) (cflushBody inv) s

/-- CINV (R255). -/
def execCinv (x : Ops) (sc : Scope) (s : State) : Host.Outcome State Fault Refusal := runInstr (.cinv x sc) (cinvBody sc) s

end Sys2Proof.Machine
end

