-- ==== Sys2Proof/Machine/Sketches.lean ====
section
/-!
DEFINITION. Row 0xB: the instructions on sketch instances (R290 to R298, R402).
-/

namespace Sys2Proof.Machine

/-- A sketch-access fault (R297). -/
def skFault (code : Word) (s : State) : Res := .trap .sketchAccess 0 code s

/-- The frames of a state's blocks: every page mapped, writable, in HBM and no window (R280, R402). -/
def State.skFrames (s : State) (ctx : Nat) : Nat → Nat → Option (List Target)
  | 0, _ => some []
  | n + 1, va =>
    match s.walk ctx va with
    | .error _ => none
    | .ok x => if x.w && !x.host && !x.rem && x.sk.isNone then (s.skFrames ctx n (va + 4096)).map fun l => x.place va :: l else none

/-- The binding that a descriptor asks for, if its state can be reached (R280, R402). -/
def State.makeBind (s : State) (ctx : Nat) (d : List Byte) : Option Bind :=
  let st := field d 16 8
  let n := 64 + (skParams d).body
  if !descOk d || !canonical st || !canonical (st + n - 1) || decide (2 ^ 64 < st + n) then none
  else (s.skFrames ctx ((st + n - 1) / 4096 - st / 4096 + 1) (st / 4096 * 4096)).map fun f => { desc := d, state := st, frames := f }

/-- Two states overlap (R291), as the STATE addresses tell: two ranges that reach the same frames under different addresses do not; DESIGN CHOICE, log
entry 8. -/
def Bind.meets (a b : Bind) : Bool :=
  decide (a.state < b.state + (64 + (skParams b.desc).body)) && decide (b.state < a.state + (64 + (skParams a.desc).body))

/-- DESC agrees with a descriptor: every byte but LOG2W, which a fold may have lowered (R291). -/
def descAgrees (desc d : List Byte) : Bool :=
  decide (desc.take 1 = d.take 1) && decide (desc.drop 2 = d.drop 2) && decide (4 ≤ field desc 1 1) && decide (field desc 1 1 ≤ field d 1 1)

/-- SKBIND (R291). -/
def skbindBody (clr : Bool) (x : Ops) (e : Env) (s : State) : Res :=
  let a := (e.t.pair x.a).toNat
  let ctx := e.pl.ctxNum
  let slot := x.c.toNat
  accessing e s .glb a 32 32 .read 0 (noWindow a) fun t s =>
    readingNow e s [t.range 32] fun _ =>
      if s.poisoned (t.range 32) then .stop (s.poisonKill e.ref e.t.pc t)
      else
        let d := s.bytes t 32
        Res.noting (fun s => s.raceRead e a 32 t) <|
        if (s.bound ctx slot).isSome then skFault 5 s
        else match s.makeBind ctx d with
          | none => skFault 4 s
          | some k =>
            if (s.context ctx).slots.any fun b => b.2.meets k then skFault 6 s
            else
              let go (s : State) : Res :=
                if clr then .done (((s.skFormat k).skWrote (.thread e.ref e.core) k).setBind ctx slot (some k)) [] [] none
                else if descAgrees (s.skBytes k 0 32) d then .done (s.setBind ctx slot (some k)) [] [] none
                else .trap .sketchMismatch 0 3 s
              if !e.t.skReady slot || !(k.ranges.all (s.readReady e.ref e.core e.t)) then .wait (.sketch slot) s
              else if clr then go s
              else match (blockRanges k.frames k.state 32).find? fun r => s.poisoned r with
                | some r => .stop (s.poisonKill e.ref e.t.pc ⟨r.mem, r.lo⟩)
                | none => go s

/-- An operation on instances for which the thread waits (R290): it takes its bindings as it is issued (R278), and the instruction ends when the unit
has performed it. -/
def skWorkOp (w : SkWork) (slot : Nat) (places : List Target) (area : List Range) (e : Env) (s : State) : Res :=
  let accs := (places.zip (List.range places.length)).map fun p =>
    ({ id := s.nextId + 1 + p.2, at_ := p.1, size := 0, data := 0, done := none, early := false } : Access)
  .wait (.sketch slot) (s.issue e { e.memOp s.nextId (.skWork w) accs .rlx .thr 0 0 0 0 0 with area := area })

/-- The instruction has come back from the wait for its own operation. -/
def Env.worked (e : Env) (slot : Nat) : Bool := decide (e.t.resume = some (.sketch slot))

/-- SKFREE (R292). -/
def skfreeBody (x : Ops) (e : Env) (s : State) : Res :=
  let ctx := e.pl.ctxNum
  let slot := x.c.toNat
  if e.worked slot then .done s [] [] none
  else match s.bound ctx slot with
  | none => skFault 2 s
  | some k => skWorkOp (.free slot) slot [k.at_ 0] [] e s

/-- An operation that the sketch unit performs later (R290). -/
def skOp (kind : OpKind) (k : Bind) (dst : Reg) (dstN : Nat) (e : Env) (s : State) : Res :=
  let o := e.skMemOp s.nextId kind k .rlx .thr 0 dst dstN 0
  if dstN = 0 then .done (s.issue e o) [] [] none else produce e s o

/-- The folded key of a pair (R282). -/
def foldKey (p : DWord) : Word := loWord p ^^^ hiWord p

/-- SKINS (R293). -/
def skinsBody (del : Bool) (x : Ops) (e : Env) (s : State) : Res :=
  let slot := x.c.toNat
  let w := (e.t.rd x.b).toInt
  let v := if del then -w else w
  match s.bound e.pl.ctxNum slot with
  | none => skFault 2 s
  | some k => if !k.allows v del then skFault 3 s else skOp (.skInsert slot (foldKey (e.t.pair x.a)) v) k 0 0 e s

/-- SKQRY (R293). -/
def skqryBody (x : Ops) (e : Env) (s : State) : Res :=
  let slot := x.c.toNat
  match s.bound e.pl.ctxNum slot with
  | none => skFault 2 s
  | some k => skOp (.skQuery slot (foldKey (e.t.pair x.a))) k x.d 1 e s

/-- SKSTAT (R296). -/
def skstatBody (x : Ops) (e : Env) (s : State) : Res :=
  let slot := x.c.toNat
  match s.bound e.pl.ctxNum slot with
  | none => skFault 2 s
  | some k => skOp (.skStat slot) k x.d 4 e s

/-- What an instruction judges of an instance's header as it is issued (R294, R295): it reads that in its thread's order, as an operation of the
instance (R272). -/
def judging (e : Env) (s : State) (slot : Nat) (k : Bind) (f : Unit → Res) : Res :=
  inOrder s ((blockRanges k.frames k.state 64).all (s.readOrdered e.ref e.core e.t) && s.instanceFree false e.ref s.nextId e.pl.ctxNum slot k.ranges) f

/-- SKMERGE (R294): B names the destination, C the source. -/
def skmergeBody (x : Ops) (e : Env) (s : State) : Res :=
  let ctx := e.pl.ctxNum
  let d := x.b.toNat
  let c := x.c.toNat
  if e.worked d then .done s [] [] none
  else match s.bound ctx d, s.bound ctx c with
  | some kd, some kc =>
    if kd.state = kc.state then .trap .sketchMismatch 0 2 s
    else judging e s d kd fun _ => judging e s c kc fun _ =>
      if !(s.skNow kd).alike (s.skNow kc) then .trap .sketchMismatch 0 1 s
      else skWorkOp (.merge d c) d [kc.at_ 0, kd.at_ 0] (kc.ranges ++ kd.ranges) e s
  | _, _ => skFault 2 s

/-- SKFOLD (R295). -/
def skfoldBody (x : Ops) (e : Env) (s : State) : Res :=
  let slot := x.c.toNat
  if e.worked slot then .done s [] [] none
  else match s.bound e.pl.ctxNum slot with
  | none => skFault 2 s
  | some k =>
    judging e s slot k fun _ =>
      let p := s.skNow k
      if p.ty = 3 ∨ p.b = 4 then skFault 7 s else skWorkOp (.fold slot) slot [k.at_ 0] k.ranges e s

/-- SKCLR (R296). -/
def skclrBody (x : Ops) (e : Env) (s : State) : Res :=
  let slot := x.c.toNat
  if e.worked slot then .done s [] [] none
  else match s.bound e.pl.ctxNum slot with
  | none => skFault 2 s
  | some k => skWorkOp (.clear slot) slot [k.at_ 0] k.ranges e s

/-- SKBIND (R291). -/
def execSkbind (x : Ops) (clr : Bool) (s : State) : Host.Outcome State Fault Refusal := runInstr (.skbind x clr) (skbindBody clr) s

/-- SKFREE (R292). -/
def execSkfree (x : Ops) (s : State) : Host.Outcome State Fault Refusal := runInstr (.skfree x) skfreeBody s

/-- SKINS (R293). -/
def execSkins (x : Ops) (del : Bool) (s : State) : Host.Outcome State Fault Refusal := runInstr (.skins x del) (skinsBody del) s

/-- SKQRY (R293). -/
def execSkqry (x : Ops) (s : State) : Host.Outcome State Fault Refusal := runInstr (.skqry x) skqryBody s

/-- SKMERGE (R294). -/
def execSkmerge (x : Ops) (s : State) : Host.Outcome State Fault Refusal := runInstr (.skmerge x) skmergeBody s

/-- SKFOLD (R295). -/
def execSkfold (x : Ops) (s : State) : Host.Outcome State Fault Refusal := runInstr (.skfold x) skfoldBody s

/-- SKCLR (R296). -/
def execSkclr (x : Ops) (s : State) : Host.Outcome State Fault Refusal := runInstr (.skclr x) skclrBody s

/-- SKSTAT (R296). -/
def execSkstat (x : Ops) (s : State) : Host.Outcome State Fault Refusal := runInstr (.skstat x) skstatBody s

end Sys2Proof.Machine
end

