-- ==== Sys2Proof/Machine/Engine.lean ====
section
/-!
DEFINITION. What the engine instructions share: tile descriptors (R147 to R149), matrix contexts (R146), the places of the bytes an
operation reads and writes (R315, R317, R320), handles (R307), and the start of an operation (R245, R311, R320).
-/

namespace Sys2Proof.Machine

/-- The tile-conflict fault (R150). -/
def tileFault (code : Word) (s : State) : Res := .trap .tileConflict 0 code s

/-- BASE in bytes (R147). -/
def tileBase (t : Tile) : Nat := 256 * tileField t 0 0 12
/-- Rows (R147). -/
def tileRows (t : Tile) : Nat := tileField t 1 8 8 + 1
/-- Columns (R147). -/
def tileCols (t : Tile) : Nat := tileField t 1 16 9 + 1
/-- The tile carries scale words (R147). -/
def tileScaled (t : Tile) : Bool := decide (tileField t 1 6 1 = 1)
/-- Block length (R147). -/
def tileBl (t : Tile) : Nat := 16 * 2 ^ tileField t 1 4 2
/-- FMT (R147). -/
def tileFmt (t : Tile) : Nat := tileField t 1 0 4
/-- SOFF in bytes (R147). -/
def tileSoff (t : Tile) : Nat := 32 * tileField t 2 0 12
/-- The tile is valid (R147). -/
def tileValid (t : Tile) : Bool := decide (tileSize t ≠ 0)

/-- Bits of an element of a format (R148). -/
def fmtBits (f : Nat) : Nat :=
  match f with
  | 0 => 32
  | 1 | 2 => 16
  | 5 | 7 => 4
  | _ => 8

/-- The row pitch in bytes (R148). -/
def tilePitch (t : Tile) : Nat := ((tileCols t * fmtBits (tileFmt t) + 7) / 8 + 31) / 32 * 32

/-- Scale words of a row (R148). -/
def tileNb (t : Tile) : Nat := (tileCols t + tileBl t - 1) / tileBl t

/-- The descriptor is legal (R149); a SIZE above 512, which R147's values and R12's 128 KiB shut out and R149's list does not, is malformed too:
DESIGN CHOICE, log entry 59. -/
def tileLegal (t : Tile) : Bool :=
  decide (tileField t 0 26 6 = 0) && decide (tileField t 0 12 4 = 0) && decide (tileField t 1 25 7 = 0)
    && decide (tileField t 1 7 1 = 0) && decide (tileField t 2 12 20 = 0) && decide (tileField t 3 0 32 = 0)
    && decide (tileFmt t ≤ 7) && tileValid t && decide (tileSize t ≤ 512 * 256) && decide (tileBase t + tileSize t ≤ 2048 * 256)
    && decide (tileRows t * tilePitch t ≤ tileSize t)
    && (if tileScaled t then (decide (tileFmt t = 3) || decide (tileFmt t = 4) || decide (tileFmt t = 5))
          && decide (tileRows t * tilePitch t ≤ tileSoff t) && decide (tileSoff t + tileRows t * tileNb t ≤ tileSize t)
        else decide (tileField t 1 4 2 = 1) && decide (tileSoff t = 0))

/-- The reservation of a tile in its context's half (R147, R148). -/
def tileRange (core mc : Nat) (t : Tile) : Range := ⟨.oper core mc, tileBase t, tileBase t + tileSize t⟩

/-- The matrix context of the executing thread's team on its core. -/
def State.mcOf (s : State) (e : Env) : Option Nat := (s.core e.core).mcOf e.ref.team

/-- The operand pair of an MMA is accepted (R156). -/
def pairOk (a b : Tile) : Bool :=
  let fa := tileFmt a
  let fb := tileFmt b
  (decide (fa = fb) || (decide (fa = 3) && decide (fb = 4)) || (decide (fa = 4) && decide (fb = 3)))
    && decide (tileCols a = tileCols b) && decide (tileBl a = tileBl b) && (tileScaled a == tileScaled b)

/-- The checks of an MMA or a welt after the context's (R160): the first failing code. -/
def mmaCheck (m : MatCtx) (ta tb o : Nat) : Option Word :=
  let a := m.tile ta
  let b := m.tile tb
  if !tileValid a || !tileValid b then some 4
  else if !pairOk a b then some 3
  else if o % 32 ≠ 0 ∨ Config.accElems < o + tileRows a * tileRows b then some 5
  else none

/-- The free handle entry that has been free the longest, the lowest of several (R307). -/
def Core.freeHandle (c : Core) : Option Nat :=
  if c.handles.length < Config.handles then some c.handles.length
  else match c.freed with
    | [] => none
    | f :: l => some ((l.filter fun e => e.2 == f.2).foldl (fun m e => min m e.1) f.1)

/-- What a completion part of an engine word asks for: scope, and the word's offset and value (R311). -/
def completionPart (ctl idx val : Nat) : Scope × Option (Nat × Word) :=
  (match ctl / 16 % 8 with
    | 1 => .team
    | 2 => .die
    | 3 => .pkg
    | _ => .sys, if ctl % 2 = 1 then some (4 * idx, BitVec.ofNat 32 val) else none)

/-- The completion part of an instruction; an encoding without one has team scope (R162, R311). -/
def engineWord (x : Ops) : Scope × Option (Nat × Word) :=
  if x.len = .l then completionPart (x.ext.toNat / 2 ^ 24 % 256) (x.ext.toNat % 2 ^ 24) (x.ext.toNat / 2 ^ 32) else (.team, none)

/-- The completion word's offset lies in the team's scratchpad (R312). -/
def checkCw (e : Env) (cw : Option (Nat × Word)) (s : State) (k : Unit → Res) : Res :=
  match cw with
  | none => k ()
  | some (off, _) => match e.localCheck off 4 with
    | some c => .trap .accessViolation (BitVec.ofNat 64 off) c s
    | none => k ()

/-- The bounds of R222 on a range of addresses of a space (R320): the first fault. -/
def State.boundsFault (s : State) (e : Env) (sp : Space) (a n : Nat) : Option (DWord × Word) :=
  match sp with
  | .glb =>
    if !canonical a then some (BitVec.ofNat 64 a, 1)
    else if a < 2 ^ 55 ∧ 2 ^ 55 < a + n then some (BitVec.ofNat 64 (2 ^ 55), 1)
    else none
  | .loc => (e.localCheck a n).map fun c => (BitVec.ofNat 64 a, c)
  | .ws => match (s.parts.look e.pl.part).bind fun p => p.wsPlace (dieOf e.core) a n with
    | some _ => none
    | none => some (BitVec.ofNat 64 a, 5)

/-- Check a range's bounds. -/
def checkBounds (s : State) (e : Env) (sp : Space) (a n : Nat) (k : Unit → Res) : Res :=
  match s.boundsFault e sp a n with
  | some (ea, ei) => .trap .accessViolation ea ei s
  | none => k ()

/-- Record an engine operation with its handle (R307, R311): its register holds the token and is empty until it completes. `mk`
makes the operation from its number. -/
def startOp (d : Reg) (scope : Scope) (mk : Nat → Nat → EngOp) (after : Nat → State → State) (e : Env) (s : State) : Res :=
  let c := s.core e.core
  if Config.outstanding ≤ e.t.inFlight then .wait .limit s
  else match c.freeHandle with
    | none => .wait .handleEntry s
    | some slot =>
      let gen := ((c.handle slot).gen + 1) % 2 ^ 20
      let h : Handle := { gen := gen, pending := true, owner := e.ref.team, scope := scope, err := 0, rmask := 0 }
      let id := s.nextId
      let tok := tokenOf e.tcore gen slot
      let s := s.setCore e.core { c with handles := c.handles.put slot h, freed := c.freed.filter (fun k => k.1 != slot),
                                         ops := c.ops ++ [mk id slot] }
      let s := ({ s with nextId := id + 2 }).updThread e.ref fun t => { t with handleRegs := t.handleRegs ++ [(d, tok)] }
      .done (after id s) [(d, tok)] [d] none

/-- An operation about to be issued. -/
def Env.engOp (e : Env) (mc : Nat) (d : Reg) (scope : Scope) (cw : Option (Nat × Word)) (kind : EngKind) (owns : List Range)
    (id slot : Nat) : EngOp :=
  { id := id, ref := e.ref, tcore := e.tcore, mc := mc, slot := slot, dreg := d, pc := e.t.pc, einst := e.words, scope := scope, cw := cw,
    kind := kind, stage := .waiting, owns := owns, atHome := [], wrote := [], paused := none, rmask := 0, admitted := false, assembled := false, peers := [], order := 0 }

/-- The operation belongs to the matrix context of its team on the core. -/
def Core.ofMc (c : Core) (o : EngOp) (mc : Nat) : Bool :=
  match (c.mc mc).team with
  | some (n, _) => n == o.ref.team
  | none => false

end Sys2Proof.Machine
end

