-- ==== Sys2Proof/Machine/Matrix.lean ====
section
/-!
DEFINITION. Row 0x6 as threads issue it: tile registers, matrix contexts, matrix commands, tile copies, ELECT and MSYNC
(R146 to R169).
-/

namespace Sys2Proof.Machine

/-- The stage runs in redundant mode (R168, R350). -/
def Stage.red (st : Stage) : Bool := st.redundant || decide (st.flags / 16 % 2 = 1)

/-- The thread's matrix context, or tile conflict 6 (R150). -/
def withMc (e : Env) (s : State) (k : Nat → Res) : Res :=
  match s.mcOf e with
  | some m => k m
  | none => tileFault 6 s

/-- An operation names a tile (R151). -/
def EngOp.names (o : EngOp) (tile : Nat) : Bool :=
  match o.kind with
  | .tld _ _ t | .tst _ _ t => t == tile
  | .cpyw _ _ _ t ta tb _ _ => t == tile || ta == tile || tb == tile
  | .lin .. | .fill .. | .gather .. | .scatter .. | .accrd | .msync | .coll .. | .collSk .. => false

/-- A command names a tile (R151). -/
def MCmd.names (c : MCmd) (tile : Nat) : Bool :=
  match c.kind with
  | .mma ta tb _ _ _ _ _ => ta == tile || tb == tile
  | .accz .. | .accrd .. | .accwr .. => false

/-- A tile is in use: a queued command, a tile copy or a welted copy names it (R151). -/
def Core.tileBusy (c : Core) (mc tile : Nat) : Bool :=
  ((c.mc mc).queue.any fun q => q.names tile) || c.ops.any fun o => c.ofMc o mc && o.names tile

/-- Change a matrix context. -/
def State.updMc (s : State) (core mc : Nat) (f : MatCtx → MatCtx) : State :=
  s.updCore core fun c => c.setMc mc (f (c.mc mc))

/-- The reservation overlaps that of another valid tile of the context (R150). -/
def MatCtx.overlaps (m : MatCtx) (n : Nat) (t : Tile) : Bool :=
  m.tiles.any fun e => e.1 != n && tileValid e.2 && (tileRange 0 0 t).meets (tileRange 0 0 e.2)

/-- Set a descriptor after its checks (R151). -/
def setTile (mc n : Nat) (t : Tile) (e : Env) (s : State) : Res :=
  if !tileLegal t then tileFault 1 s
  else if ((s.core e.core).mc mc).overlaps n t then tileFault 2 s
  else .done (s.updMc e.core mc fun m => { m with tiles := m.tiles.put n t }) [] [] none

/-- TSHAPE in its three forms (R151): the wait on the tile comes first. -/
def tshapeBody (f : Nat → Env → State → Res) (x : Ops) (e : Env) (s : State) : Res :=
  withMc e s fun mc => if (s.core e.core).tileBusy mc x.d.toNat then .wait (.tile x.d.toNat) s else f mc e s

/-- TRD (R152). -/
def trdBody (x : Ops) (e : Env) (s : State) : Res :=
  withMc e s fun mc => .done s (wordsOf x.d 4 (((s.core e.core).mc mc).tile x.a.toNat).toNat) [] none

/-- MCTX's status word (R153). -/
def mctxStatus (e : Env) (s : State) : Word :=
  let red : Word := if e.st.red then 4 else 0
  match s.mcOf e with
  | some mc => red ||| 1 ||| (if mc = 1 then 2 else 0) ||| (if ((s.core e.core).mc mc).halt then 8 else 0)
  | none => red

/-- An operation of a matrix context: a tile copy, a drain or a synchronisation (R153). -/
def EngOp.ofContext (o : EngOp) : Bool :=
  match o.kind with
  | .tld .. | .tst .. | .cpyw .. | .accrd | .msync => true
  | .lin .. | .fill .. | .gather .. | .scatter .. | .coll .. | .collSk .. => false

/-- MCTX `.rel` (R153). -/
def mctxRelBody (x : Ops) (e : Env) (s : State) : Res :=
  match s.mcOf e with
  | none => .done s (w1 x.d (mctxStatus e s)) [] none
  | some mc =>
    let c := s.core e.core
    if !(c.mc mc).queue.isEmpty || (c.ops.any fun o => o.ref.team == e.ref.team && o.ofContext) then .wait .context s
    else
      let v := mctxStatus e s
      let s := s.updMc e.core mc fun m => { m with team := none }
      .done (s.updTeam e.ref.team fun tm => { tm with released := e.tcore :: tm.released }) (w1 x.d v) [] none

/-- The copies of a context that have landed, and whose welts wait for an entry of its queue (R154), in that order. -/
def Core.landed (c : Core) (mc : Nat) : List EngOp := c.ops.filter fun o => decide (o.stage = .landed) && c.ofMc o mc

/-- A context's queue takes a command (R154): it has an entry free, and no welt came before that still waits for one. -/
def Core.queueRoom (c : Core) (mc : Nat) : Bool := decide ((c.mc mc).queue.length < Config.commands) && (c.landed mc).isEmpty

/-- A command enters its context's queue, or the thread waits for an entry (R154). -/
def enqueue (mc : Nat) (kind : MKind) (e : Env) (s : State) : Res :=
  if !(s.core e.core).queueRoom mc then .wait .commandQueue s
  else
    let c : MCmd := { id := s.nextId, ref := e.ref, tcore := e.tcore, pc := e.t.pc, kind := kind, welt := none, einst := e.words }
    .done ((s.updMc e.core mc fun m => { m with queue := m.queue ++ [c] }).fresh) [] [] none

/-- The accepted MMA takes the context's next sequence number (R168). -/
def State.nextSeq (s : State) (core mc : Nat) : State := s.updMc core mc fun m => { m with seq := (m.seq + 1) % 2 ^ 32 }

/-- MMA (R160). -/
def mmaBody (z : Bool) (x : Ops) (e : Env) (s : State) : Res :=
  withMc e s fun mc =>
    let m := (s.core e.core).mc mc
    let o := (srcB x e.t).toNat
    match mmaCheck m x.d.toNat x.a.toNat o with
    | some c => tileFault c s
    | none =>
      if !(s.core e.core).queueRoom mc then .wait .commandQueue s
      else enqueue mc (.mma x.d.toNat x.a.toNat (m.tile x.d.toNat) (m.tile x.a.toNat) o z m.seq) e (s.nextSeq e.core mc)

/-- ACCZ (R161). -/
def acczBody (x : Ops) (e : Env) (s : State) : Res :=
  withMc e s fun mc =>
    let o := (e.t.rd x.a).toNat
    let n := (srcB x e.t).toNat
    if o % 32 ≠ 0 ∨ n % 32 ≠ 0 ∨ n < 32 ∨ Config.accElems < o + n then tileFault 5 s
    else enqueue mc (.accz o n) e s

/-- Bytes of an element of an ACCRD or ACCWR format (R162). -/
def accBytes (f : AccFmt) : Nat :=
  match f with
  | .b32 => 4
  | .f16 | .bf16 => 2
  | .n8 => 1

/-- Offset, rows, columns and pitch of an ACCRD or ACCWR (R162). -/
def accShape (f : AccFmt) (x : Ops) (t : Thread) : Nat × Nat × Nat × Nat :=
  let v := (t.rd x.c).toNat
  let cols := v / 256 % 256 + 1
  let p := v / 65536
  ((if x.len = .m then (imm32 x).toNat else (t.rd x.b).toNat), v % 256 + 1, cols, if p = 0 then cols * accBytes f else p)

/-- The checks of ACCRD and ACCWR (R162, R163), in the order code 5, misalignment with `eaddr` A for the address and the pitch alike, access violation,
completion word: DESIGN CHOICE, log entry 60; then the continuation with the offset, rows, columns and pitch. -/
def accChecks (f : AccFmt) (x : Ops) (e : Env) (s : State) (k : Nat → Nat → Nat → Nat → Res) : Res :=
  let (o, rows, cols, pitch) := accShape f x e.t
  let a := (e.t.rd x.a).toNat
  if o % 32 ≠ 0 ∨ Config.accElems < o + rows * cols then tileFault 5 s
  else if a % 4 ≠ 0 ∨ pitch % 4 ≠ 0 ∨ pitch < cols * accBytes f then .trap .misalignment (BitVec.ofNat 64 a) 0 s
  else match e.localCheck a ((rows - 1) * pitch + cols * accBytes f) with
    | some c => .trap .accessViolation (BitVec.ofNat 64 a) c s
    | none => checkCw e (engineWord x).2 s fun _ => k o rows cols pitch

/-- ACCRD (R162, R163): a command with a handle. -/
def accrdBody (f : AccFmt) (x : Ops) (e : Env) (s : State) : Res :=
  withMc e s fun mc => accChecks f x e s fun o rows cols pitch =>
    if !(s.core e.core).queueRoom mc then .wait .commandQueue s
    else
      let (sc, cw) := engineWord x
      let put (id : Nat) (s : State) : State := s.updMc e.core mc fun m => { m with queue := m.queue ++
        [{ id := id + 1, ref := e.ref, tcore := e.tcore, pc := e.t.pc, kind := .accrd f (e.t.rd x.a).toNat o rows cols pitch id,
           welt := none, einst := e.words }] }
      startOp x.d sc (e.engOp mc x.d sc cw .accrd []) put e s

/-- The scratchpad codes that ACCWR reads, row by row (R163). -/
def State.accCodes (s : State) (team a rows cols pitch n : Nat) : List Nat :=
  (List.range rows).flatMap fun i => (List.range cols).map fun j => s.load (localByte team (a + i * pitch + j * n)) n

/-- ACCWR (R162, R163): its scratchpad bytes are read before the next instruction issues. -/
def accwrBody (f : AccFmt) (x : Ops) (e : Env) (s : State) : Res :=
  withMc e s fun mc => accChecks f x e s fun o rows cols pitch =>
    let a := (e.t.rd x.a).toNat
    let n := accBytes f
    readingNow e s [(e.localPlace a).range ((rows - 1) * pitch + cols * n)] fun _ =>
      enqueue mc (.accwr f o rows cols (s.accCodes e.ref.team a rows cols pitch n) (engineWord x).2) e s

/-- The address of TLD and TST: the base, with OFF24 in the M form (R164). -/
def tileAddr (sp : Space) (x : Ops) (t : Thread) : Nat :=
  if x.len = .m then memAddr x sp 0 t else if sp = .glb then (t.pair x.a).toNat else (t.rd x.a).toNat

/-- The checks of TLD and TST (R164), then the continuation with the context, its tile and the address. -/
def tileCopy (sp : Space) (x : Ops) (e : Env) (s : State) (k : Nat → Tile → Nat → Res) : Res :=
  withMc e s fun mc =>
    let t := ((s.core e.core).mc mc).tile x.c.toNat
    let a := tileAddr sp x e.t
    if !tileValid t then tileFault 4 s
    else if a % 32 ≠ 0 then .trap .misalignment (BitVec.ofNat 64 a) 0 s
    else checkBounds s e sp a (tileSize t) fun _ => checkCw e (engineWord x).2 s fun _ => k mc t a

/-- TLD (R164). -/
def tldBody (sp : Space) (x : Ops) (e : Env) (s : State) : Res :=
  tileCopy sp x e s fun mc t a =>
    let (sc, cw) := engineWord x
    startOp x.d sc (e.engOp mc x.d sc cw (.tld sp a x.c.toNat) [tileRange e.core mc t]) (fun _ s => s) e s

/-- TST (R164). -/
def tstBody (sp : Space) (x : Ops) (e : Env) (s : State) : Res :=
  tileCopy sp x e s fun mc t a =>
    let (sc, cw) := engineWord x
    startOp x.d sc (e.engOp mc x.d sc cw (.tst sp a x.c.toNat) (s.ownRange e sp id a (tileSize t)))
      (fun _ s => s) e s

/-- ELECT (R165). -/
def electBody (core : Bool) (x : Ops) (e : Env) (s : State) : Res :=
  let here (t : Thread) : Bool := match t.loc with
    | .slot tc _ _ => e.tm.cores[tc]? == some e.core
    | .ring | .none => false
  let rivals := e.tm.threads.filter fun o => decide (o.1 < e.ref.tid) && decide (o.2.status ≠ .exited) && (!core || here o.2)
  .done s (w1 x.d (if rivals.isEmpty then 1 else 0)) [] none

/-- MSYNC (R166). -/
def msyncBody (x : Ops) (e : Env) (s : State) : Res :=
  withMc e s fun mc => startOp x.d .team (e.engOp mc x.d .team none .msync []) (fun _ s => s) e s

/-- TSHAPE (R151). -/
def execTshape (x : Ops) (s : State) : Host.Outcome State Fault Refusal :=
  runInstr (.tshape x) (fun x => tshapeBody (fun mc e s => setTile mc x.d.toNat (e.t.quad x.a) e s) x) s

/-- TSHAPE `.free` (R151). -/
def execTshapeFree (x : Ops) (s : State) : Host.Outcome State Fault Refusal :=
  runInstr (.tshapeFree x) (fun x => tshapeBody (fun mc e s =>
    .done (s.updMc e.core mc fun m => { m with tiles := m.tiles.drop x.d.toNat }) [] [] none) x) s

/-- TSHAPE `.rs` (R151). -/
def execTshapeRs (x : Ops) (s : State) : Host.Outcome State Fault Refusal :=
  runInstr (.tshapeRs x) (fun x => tshapeBody (fun mc e s =>
    let t := ((s.core e.core).mc mc).tile x.d.toNat
    if !tileValid t then tileFault 4 s
    else setTile mc x.d.toNat (t.extractLsb' 64 64 ++ imm32 x ++ t.extractLsb' 0 32) e s) x) s

/-- TRD (R152). -/
def execTrd (x : Ops) (s : State) : Host.Outcome State Fault Refusal := runInstr (.trd x) trdBody s

/-- TLD (R164). -/
def execTld (x : Ops) (sp : Space) (s : State) : Host.Outcome State Fault Refusal := runInstr (.tld x sp) (tldBody sp) s

/-- TST (R164). -/
def execTst (x : Ops) (sp : Space) (s : State) : Host.Outcome State Fault Refusal := runInstr (.tst x sp) (tstBody sp) s

/-- MMA (R160). -/
def execMma (x : Ops) (z : Bool) (s : State) : Host.Outcome State Fault Refusal := runInstr (.mma x z) (mmaBody z) s

/-- ACCZ (R161). -/
def execAccz (x : Ops) (s : State) : Host.Outcome State Fault Refusal := runInstr (.accz x) acczBody s

/-- ACCRD (R162, R163). -/
def execAccrd (x : Ops) (f : AccFmt) (s : State) : Host.Outcome State Fault Refusal := runInstr (.accrd x f) (accrdBody f) s

/-- ACCWR (R162, R163). -/
def execAccwr (x : Ops) (f : AccFmt) (s : State) : Host.Outcome State Fault Refusal := runInstr (.accwr x f) (accwrBody f) s

/-- MCTX (R153). -/
def execMctx (x : Ops) (s : State) : Host.Outcome State Fault Refusal :=
  runInstr (.mctx x) (fun x e s => .done s (w1 x.d (mctxStatus e s)) [] none) s

/-- MCTX `.rel` (R153). -/
def execMctxRel (x : Ops) (s : State) : Host.Outcome State Fault Refusal := runInstr (.mctxRel x) mctxRelBody s

/-- ELECT (R165). -/
def execElect (x : Ops) (core : Bool) (s : State) : Host.Outcome State Fault Refusal := runInstr (.elect x core) (electBody core) s

/-- MSYNC (R166). -/
def execMsync (x : Ops) (s : State) : Host.Outcome State Fault Refusal := runInstr (.msync x) msyncBody s

end Sys2Proof.Machine
end

