-- ==== Sys2Proof/Machine/Copies.lean ====
section
/-!
DEFINITION. Row 0xC: copies, collectives, handles and slots, as threads issue them (R307 to R331, R403 to R405).
-/

namespace Sys2Proof.Machine

/-- An address register of a space: a pair for GLOBAL (R316). -/
def spaceReg (sp : Space) (t : Thread) (r : Reg) : Nat := if sp = .glb then (t.pair r).toNat else (t.rd r).toNat

/-- Step 4 of R320: the first value that is not a multiple of its unit is a misalignment fault. -/
def checkAligned (unit : Nat) (l : List Nat) (s : State) (k : Unit → Res) : Res :=
  match l.find? fun a => a % unit != 0 with
  | some a => .trap .misalignment (BitVec.ofNat 64 a) 0 s
  | none => k ()

/-- Step 4 of R320: a length above its limit. -/
def checkLength (n limit : Nat) (s : State) (k : Unit → Res) : Res :=
  if limit < n then .trap .accessViolation 0 0x0A s else k ()

/-- Step 5 of R320 for a range: one of no bytes forms no address. -/
def checkRange (s : State) (e : Env) (sp : Space) (a n : Nat) (k : Unit → Res) : Res :=
  if n = 0 then k () else checkBounds s e sp a n k

/-- Step 5 of R320 for the dense side of a shaped copy, over the elements whose dense addresses the copy forms: in LOCAL the addresses are swizzled
(R315), and in WS they are formed modulo 2^32 (R222). -/
def State.denseFault (s : State) (e : Env) (sp : Space) (rec_ : Shape) (a : Nat) (els : List Nat) : Option (DWord × Word) :=
  els.findSome? fun i =>
    let d := a + i * rec_.n
    let x := match sp with
      | .loc => rec_.swizzle (d % 2 ^ 32) % 2 ^ 32
      | .ws => d % 2 ^ 32
      | .glb => d
    s.boundsFault e sp x rec_.n

/-- Step 5 of R320 for the record side: an element out of bounds with CLIP = 1, or an address that fails R222. -/
def State.recordFault (s : State) (e : Env) (sp : Space) (rec_ : Shape) : List (List Int) → Option (DWord × Word)
  | [] => none
  | k :: ks =>
    let a := elemAddr rec_ sp (rec_.addr k)
    if !rec_.inBounds k then (if rec_.clip = 1 then some (BitVec.ofNat 64 a, 7) else s.recordFault e sp rec_ ks)
    else match s.boundsFault e sp a rec_.n with
      | some f => some f
      | none => s.recordFault e sp rec_ ks

/-- A bounds fault, if there is one. -/
def orFault (f : Option (DWord × Word)) (s : State) (k : Unit → Res) : Res :=
  match f with
  | some (ea, ei) => .trap .accessViolation ea ei s
  | none => k ()

/-- Step 1 of R320: a record of `n` bytes is read with a relaxed load; the race detector sees it where the instruction takes place (R261, R276). -/
def readRecord (n a : Nat) (e : Env) (s : State) (k : List Byte → State → Res) : Res :=
  accessing e s .glb a n n .read 0 (noWindow a) fun t s =>
    let s := s.keepPage e
    readingNow e s [t.range n] fun _ =>
      if s.poisoned (t.range n) then .stop (s.poisonKill e.ref e.t.pc t)
      else (k (s.bytes t n) s).noting fun s => s.raceRead e a n t

/-- Steps 1 and 2 of R320 for a shape record. -/
def readShape (sp : Space) (a : Nat) (e : Env) (s : State) (k : Shape → State → Res) : Res :=
  readRecord 128 a e s fun d s =>
    if shapeOk d then k ((shapeOf d).based sp) s else .trap .accessViolation (BitVec.ofNat 64 a) 6 s

/-- Steps 7 and 8 of R320, and the start of the operation. -/
def startCopy (x : Ops) (cw : Scope × Option (Nat × Word)) (mc : Nat) (kind : EngKind) (owns : List Range) (e : Env) (s : State) : Res :=
  checkCw e cw.2 s fun _ => startOp x.d cw.1 (e.engOp mc x.d cw.1 cw.2 kind owns) (fun _ s => s) e s

/-- CPY (R317, R320). -/
def cpyBody (k : CpyKind) (dsp ssp : Space) (x : Ops) (e : Env) (s : State) : Res :=
  match k with
  | .lin =>
    let a := spaceReg dsp e.t x.a
    let b := spaceReg ssp e.t x.b
    let n := (e.t.rd x.c).toNat
    checkAligned 4 [a, b, n] s fun _ => checkLength n 0x40000000 s fun _ =>
      checkRange s e dsp a n fun _ => checkRange s e ssp b n fun _ =>
        startCopy x (engineWord x) 2 (.lin dsp ssp a b n) (s.ownRange e dsp id a n) e s
  | .fill =>
    let a := spaceReg dsp e.t x.a
    let n := (e.t.rd x.c).toNat
    checkAligned 4 [a, n] s fun _ => checkLength n 0x40000000 s fun _ =>
      checkRange s e dsp a n fun _ =>
        startCopy x (engineWord x) 2 (.fill dsp a (e.t.rd x.b) n) (s.ownRange e dsp id a n) e s
  | .gth =>
    readShape ssp (e.t.pair x.b).toNat e s fun rec_ s =>
      let a := spaceReg dsp e.t x.a
      let k0 := coordsAt e.t x.c rec_.rank
      checkAligned rec_.n [a] s fun _ =>
        orFault (s.denseFault e dsp rec_ a (List.range rec_.count)) s fun _ => orFault (s.recordFault e ssp rec_ (rec_.elements k0)) s fun _ =>
          startCopy x (engineWord x) 2 (.gather dsp ssp a rec_ k0) (s.ownRange e dsp rec_.swizzle a rec_.boxBytes) e s
  | .sct =>
    readShape dsp (e.t.pair x.a).toNat e s fun rec_ s =>
      let b := spaceReg ssp e.t x.b
      let k0 := coordsAt e.t x.c rec_.rank
      checkAligned rec_.n [b] s fun _ =>
        orFault (s.recordFault e dsp rec_ (rec_.elements k0)) s fun _ => orFault (s.denseFault e ssp rec_ b (rec_.scattered k0)) s fun _ =>
          startCopy x (engineWord x) 2 (.scatter dsp ssp rec_ b k0) (s.ownBox e dsp rec_ k0) e s

/-- Elements of a tile in a record element: two for the 4-bit formats (R318). -/
def tilePack (f : Nat) : Nat := if fmtBits f = 4 then 2 else 1

/-- A record fits a tile (R318). -/
def fitsTile (rec_ : Shape) (t : Tile) : Bool :=
  let f := tileFmt t
  let elog := if f = 0 then 2 else if f = 1 ∨ f = 2 then 1 else 0
  decide (rec_.fmt = f) && decide (rec_.elog = elog) && decide (rec_.box.headD 0 * tilePack f ≤ tileCols t)
    && decide (((rec_.box.take rec_.rank).drop 1).foldl (fun a b => a * b) 1 ≤ tileRows t)

/-- The completion part of CPYW's extra word (R318). -/
def weltWord (x : Ops) : Scope × Option (Nat × Word) :=
  let v := x.ext.toNat
  completionPart (v / 2 ^ 24 % 256) (v % 2 ^ 24) (v / 2 ^ 32 % 256)

/-- CPYW (R318, R320). -/
def cpywBody (ssp : Space) (x : Ops) (e : Env) (s : State) : Res :=
  readShape ssp (e.t.pair x.a).toNat e s fun rec_ s =>
    withMc e s fun mc =>
      let m := (s.core e.core).mc mc
      let t := m.tile x.c.toNat
      let v := x.ext.toNat
      let ta := v / 2 ^ 59
      let tb := v / 2 ^ 54 % 32
      let o := v / 2 ^ 41 % 2 ^ 13 * 32
      let k0 := coordsAt e.t x.b rec_.rank
      if !tileValid t then tileFault 4 s
      else if !fitsTile rec_ t then tileFault 7 s
      else match mmaCheck m ta tb o with
        | some c => tileFault c s
        | none => orFault (s.recordFault e ssp rec_ (rec_.elements k0)) s fun _ =>
          startCopy x (weltWord x) mc (.cpyw ssp rec_ k0 x.c.toNat ta tb o (x.ext.getLsbD 40)) [tileRange e.core mc t] e s

/-- CPYL (R319, R320). -/
def cpylBody (fill : Bool) (x : Ops) (e : Env) (s : State) : Res :=
  let a := (e.t.pair x.a).toNat
  let n := (e.t.pair x.c).toNat
  if fill then
    checkAligned 32 [a, n] s fun _ => checkLength n (2 ^ 40) s fun _ => checkRange s e .glb a n fun _ =>
      startCopy x (engineWord x) 2 (.fill .glb a (e.t.rd x.b) n) (s.ownRange e .glb id a n) e s
  else
    let b := (e.t.pair x.b).toNat
    checkAligned 32 [a, b, n] s fun _ => checkLength n (2 ^ 40) s fun _ =>
      checkRange s e .glb a n fun _ => checkRange s e .glb b n fun _ =>
        startCopy x (engineWord x) 2 (.lin .glb .glb a b n) (s.ownRange e .glb id a n) e s

/-- The fields of a collective record's 64 bytes (R322). -/
def collOf (d : List Byte) : CollRec :=
  { coord := [field d 0 1, field d 1 1, field d 2 1], die := field d 3 1, ext := [field d 4 1, field d 5 1, field d 6 1, field d 7 1],
    repl := field d 8 1, op := field d 9 1, kind := field d 10 1, slot := field d 11 1, lanes := field d 12 4, ebase := field d 16 8,
    run := field d 24 8, nelem := field d 32 8 }

/-- The sum over the fixed tree (R322): `.add.f32.det`. -/
def CollRec.det (r : CollRec) : Bool := decide (r.op = 0) && decide (r.kind = 0)

/-- A collective record is well-formed for an instruction (R404). -/
def collOk (sk : Bool) (d : List Byte) : Bool :=
  let r := collOf d
  zeros d 0x28 24
    && ((r.coord.zip r.ext).all fun c => decide (c.1 < c.2)) && decide (r.die < r.ext.getD 3 0)
    && ((r.ext.take 3).all fun v => decide (1 ≤ v ∧ v ≤ 64)) && decide (r.ext.getD 3 0 ≤ 4)
    && decide (1 ≤ r.repl ∧ r.repl ≤ 15) && decide (r.op ≤ 7) && decide (r.kind ≤ 2) && decide (r.slot ≤ 15)
    && decide (r.lanes ≤ 262144) && (decide (r.kind = 0) || decide (r.op = 0))
    && (if sk then decide (r.kind = 0) && decide (5 ≤ r.op) && decide (r.lanes = 0) else decide (r.op ≤ 4) && decide (r.lanes ≠ 0))
    && (if r.det then
          ((List.range 33).any fun k => r.run == 2 ^ k) && decide (r.ebase % r.run = 0) && decide (1 ≤ r.nelem ∧ r.nelem ≤ 2 ^ 40)
        else decide (r.ebase = 0) && decide (r.run = 0) && decide (r.nelem = 0))
    && decide (r.ranks ≤ 4096)

/-- The rank reads a source: in a broadcast, only rank 0 does (R325). -/
def CollRec.reads (r : CollRec) : Bool := decide (r.kind ≠ 1) || decide (r.rank = 0)

/-- The number of the operation that a rank's next issue on a slot for a group is part of (R405): its count on the slot, within
the stream of the slot. The slots of different dies make one stream by the order in which they are first used for the group, freed ones counted:
DESIGN CHOICE, log entry 61. -/
def Die.nextColl (x : Die) (slot : Nat) (g : List Nat) : Nat :=
  match (x.slots.look slot).bind fun k => k.issued.find? fun i => decide (i.1 = g) with
  | some i => i.2
  | none => x.begun g * 2 ^ 40

/-- The issue is counted (R405). -/
def CSlot.count (k : CSlot) (g : List Nat) (num : Nat) : CSlot :=
  { k with issued := (g, num + 1) :: k.issued.filter fun i => decide (i.1 ≠ g) }

/-- The issue of an operation on a slot is counted, and the first of a slot begins a stream (R405). -/
def Die.countColl (x : Die) (slot : Nat) (g : List Nat) (num : Nat) : Die :=
  { x with slots := x.slots.upd slot fun k => k.count g num
           uses := (g, max (x.begun g) (num / 2 ^ 40 + 1)) :: x.uses.filter fun u => decide (u.1 ≠ g) }

/-- A die's note of an abort has been met. -/
def State.forgetAbort (s : State) (die : Nat) (g : List Nat) (num : Nat) : State :=
  let d := s.die die
  s.setDie die { d with aborted := d.aborted.filter fun a => a != (g, num) }

/-- Start a rank's part: it is numbered, and ends at once where its operation has been aborted already (R329, R405). -/
def startColl (x : Ops) (r : CollRec) (mk : Nat → EngKind) (owns : List Range) (e : Env) (s : State) : Res :=
  let die := dieOf e.core
  let ctx := e.pl.ctxNum
  let g := r.group ctx
  let num := (s.die die).nextColl r.slot g
  let late := (s.die die).aborted.contains (g, num)
  let after (id : Nat) (s : State) : State :=
    let s := s.setDie die ((s.die die).countColl r.slot g num)
    if late then (s.forgetAbort die g num).updOp e.core id fun o => { o with stage := .failed 4 } else s
  let (sc, cw) := engineWord x
  checkCw e cw s fun _ => startOp x.d sc (e.engOp 2 x.d sc cw (mk num) owns) after e s

/-- Step 6 of R320: the slot is the context's, and the partition has weight on the die (R325, R346). -/
def checkSlot (r : CollRec) (a : Nat) (e : Env) (s : State) (k : Unit → Res) : Res :=
  let die := dieOf e.core
  let held := match (s.die die).slots.look r.slot with
    | some c => decide (c.ctx = e.pl.ctxNum)
    | none => false
  let weight := match s.parts.look e.pl.part with
    | some p => p.collWeight.getD die 0
    | none => 0
  if held && decide (weight ≠ 0) then k () else .trap .accessViolation (BitVec.ofNat 64 a) 9 s

/-- COLL (R320, R325, R328). With `.sk` it owns the units of the state against plain accesses and the issuer's later operations on the instance; other
threads' operations of the instance fall between its read and its write: DEDUCED, log entry 62. -/
def collBody (sk : Bool) (x : Ops) (e : Env) (s : State) : Res :=
  let ra := (e.t.pair x.c).toNat
  readRecord 64 ra e s fun d s =>
    let r := collOf d
    if !collOk sk d ∨ r.die ≠ dieOf e.core then .trap .accessViolation (BitVec.ofNat 64 ra) 8 s
    else if sk then
      checkSlot r ra e s fun _ =>
        let slot := (e.t.rd x.a).toNat
        match s.bound e.pl.ctxNum slot with
        | none => skFault 2 s
        | some k =>
          if (skParams k.desc).ty + 4 ≠ r.op then .trap .sketchMismatch 0 1 s
          else startColl x r (.collSk r slot) (s.bindUnits e.pl.ctxNum k) e s
    else
      let a := (e.t.pair x.a).toNat
      let b := (e.t.pair x.b).toNat
      checkAligned 4 [a, b] s fun _ =>
        checkRange s e .glb a (if r.reads then 4 * r.lanes else 0) fun _ => checkRange s e .glb b r.dstBytes fun _ =>
          checkSlot r ra e s fun _ => startColl x r (.coll r a b) (s.ownRange e .glb id b r.dstBytes) e s

/-- What a token names (R309): an entry of the core's table, or an operation completed long ago. -/
inductive Resolved where
  | entry (slot : Nat) (h : Handle)
  | stale
  | invalid
deriving DecidableEq, Repr

/-- Resolve a token (R309). -/
def State.resolveHandle (s : State) (e : Env) (tok : Word) : Resolved :=
  let v := tok.toNat
  if v / 2 ^ 30 ≠ e.tcore then .invalid
  else
    let h := (s.core e.core).handle (v % 1024)
    if h.gen = v / 1024 % 2 ^ 20 then (if h.owner = e.ref.team then .entry (v % 1024) h else .invalid) else .stale

/-- The status of a completed entry (R308). -/
def Handle.status (h : Handle) : Word × Word := (0x80000000 ||| BitVec.ofNat 32 (h.err * 2 ^ 24), h.rmask)

/-- HWAIT, and, without the wait, HTEST (R310). -/
def statusBody (waits : Bool) (x : Ops) (e : Env) (s : State) : Res :=
  let tok := e.t.rd x.a
  match s.resolveHandle e tok with
  | .invalid => .trap .invalidHandle (tok.setWidth 64) 0 s
  | .stale => .done s [(x.d, 0xC0000000), (x.d + 1, 0)] [] none
  | .entry _ h =>
    if h.pending then (if waits then .wait (.handle tok) s else .done s [(x.d, 0), (x.d + 1, 0)] [] none)
    else .done s [(x.d, h.status.1), (x.d + 1, h.status.2)] [] none

/-- The ACCRD is in its context's queue and not at its head (R403). -/
def MatCtx.behind (m : MatCtx) (op : Nat) : Bool :=
  (m.queue.drop 1).any fun c => match c.kind with
    | .accrd _ _ _ _ _ _ o => o == op
    | .mma .. | .accz .. | .accwr .. => false

/-- An ACCRD's command leaves the queue (R403). -/
def MatCtx.withoutOp (m : MatCtx) (op : Nat) : MatCtx :=
  { m with queue := m.queue.filter fun c => match c.kind with
      | .accrd _ _ _ _ _ _ o => o != op
      | .mma .. | .accz .. | .accwr .. => true }

/-- HCANCEL of a pending operation (R310, R329, R403): the state and the result. -/
def State.cancel (s : State) (core : Nat) (o : EngOp) : State × Word :=
  match o.kind with
  | .msync => (s, 0)
  | .accrd =>
    if ((s.core core).mc o.mc).behind o.id then ((s.updMc core o.mc fun m => m.withoutOp o.id).completeHandle core o 1 0, 1) else (s, 0)
  | .coll r _ _ num | .collSk r _ num =>
    let s' := s.abortGroup (r.group (s.ctxOf o.ref)) num none
    match o.stage with
    | .waiting => if o.admitted then (s', 1) else (s'.completeHandle core o 1 0, 1)
    | .reading _ | .begun _ | .exchanged _ _ => (s', 1)
    | .failed n => (s, if n = 1 ∨ n = 4 then 1 else 0)
    | .result _ _ => (s', 0)
    | .landed => (s, 0)
  | .lin .. | .fill .. | .gather .. | .scatter .. | .cpyw .. | .tld .. | .tst .. =>
    match o.stage with
    | .waiting => (s.completeHandle core o 1 0, 1)
    | .reading _ | .begun _ | .exchanged _ _ | .failed _ | .result _ _ | .landed => (s, 0)

/-- HCANCEL (R310). -/
def hcancelBody (x : Ops) (e : Env) (s : State) : Res :=
  let tok := e.t.rd x.a
  match s.resolveHandle e tok with
  | .invalid => .trap .invalidHandle (tok.setWidth 64) 0 s
  | .stale => .done s (w1 x.d 0) [] none
  | .entry slot h =>
    match h.pending, (s.core e.core).ops.find? fun o => o.slot == slot with
    | true, some o => let r := s.cancel e.core o; .done r.1 (w1 x.d r.2) [] none
    | _, _ => .done s (w1 x.d 0) [] none

/-- CSLOT (R324): which of the free slots it takes is open. With no slot free, a value of gA that names no algorithm gives 0xFFFF_FFFE all the same:
DESIGN CHOICE, log entry 75, since R324 gives both lines and no order. -/
def cslotBody (x : Ops) (e : Env) (s : State) : Res :=
  let die := dieOf e.core
  let d := s.die die
  let alg := (e.t.rd x.a).toNat
  let free := (List.range 16).filter fun k => (d.slots.look k).isNone
  if 2 < alg then .done s (w1 x.d 0xFFFFFFFE) [] none
  else match free with
    | [] => .done s (w1 x.d 0xFFFFFFFF) [] none
    | k :: ks =>
      let n := free.getD (Config.pick s.tick % (ks.length + 1)) k
      .done (s.setDie die { d with slots := d.slots.put n { ctx := e.pl.ctxNum, alg := alg, issued := [] } }) (w1 x.d (BitVec.ofNat 32 n)) [] none

/-- A collective of a die's slot is under way (R324). -/
def State.slotRuns (s : State) (die slot : Nat) : Bool :=
  s.allOps.any fun o => decide (dieOf o.1 = die) && match o.2.kind.coll? with
    | some (r, _) => r.slot == slot
    | none => false

/-- The slot carries the stream of a number for a group (R405). -/
def CSlot.carries (k : CSlot) (g : List Nat) (num : Nat) : Bool := k.issued.any fun i => decide (i.1 = g) && decide (i.2 / 2 ^ 40 = num / 2 ^ 40)

/-- CSLOT `.free` (R324): the notes of aborts in the streams that the slot carries go with it, since no COLL on it can meet them any more (R405). -/
def cslotFreeBody (x : Ops) (e : Env) (s : State) : Res :=
  let die := dieOf e.core
  let d := s.die die
  let n := (e.t.rd x.a).toNat
  match d.slots.look n with
  | none => .done s (w1 x.d 0xFFFFFFFF) [] none
  | some k =>
    if k.ctx ≠ e.pl.ctxNum then .done s (w1 x.d 0xFFFFFFFF) [] none
    else if s.slotRuns die n then .wait (.slot die n) s
    else
      .done (s.setDie die { d with slots := d.slots.drop n, aborted := d.aborted.filter fun a => !k.carries a.1 a.2 }) (w1 x.d 0) [] none

/-- CPY (R316, R317). -/
def execCpy (x : Ops) (k : CpyKind) (dsp ssp : Space) (s : State) : Host.Outcome State Fault Refusal :=
  runInstr (.cpy x k dsp ssp) (cpyBody k dsp ssp) s

/-- CPYW (R318). -/
def execCpyw (x : Ops) (ssp : Space) (s : State) : Host.Outcome State Fault Refusal := runInstr (.cpyw x ssp) (cpywBody ssp) s

/-- CPYL (R319). -/
def execCpyl (x : Ops) (fill : Bool) (s : State) : Host.Outcome State Fault Refusal := runInstr (.cpyl x fill) (cpylBody fill) s

/-- COLL (R325, R328). -/
def execColl (x : Ops) (sk : Bool) (s : State) : Host.Outcome State Fault Refusal := runInstr (.coll x sk) (collBody sk) s

/-- HWAIT (R310). -/
def execHwait (x : Ops) (s : State) : Host.Outcome State Fault Refusal := runInstr (.hwait x) (statusBody true) s

/-- HTEST (R310). -/
def execHtest (x : Ops) (s : State) : Host.Outcome State Fault Refusal := runInstr (.htest x) (statusBody false) s

/-- HCANCEL (R310). -/
def execHcancel (x : Ops) (s : State) : Host.Outcome State Fault Refusal := runInstr (.hcancel x) hcancelBody s

/-- HMOV (R310). -/
def execHmov (x : Ops) (s : State) : Host.Outcome State Fault Refusal :=
  runInstr (.hmov x) (fun x e s => .done s (w1 x.d (e.t.rd x.a)) [] none) s

/-- CSLOT (R324). -/
def execCslot (x : Ops) (s : State) : Host.Outcome State Fault Refusal := runInstr (.cslot x) cslotBody s

/-- CSLOT `.free` (R324). -/
def execCslotFree (x : Ops) (s : State) : Host.Outcome State Fault Refusal := runInstr (.cslotFree x) cslotFreeBody s

end Sys2Proof.Machine
end

