-- ==== Sys2Proof/Machine/System.lean ====
section
/-!
DEFINITION. Row 0xD: selectors, the feature words, ERET, translation maintenance and the numeric event registers (R190 to R193,
R359, R384, R393).
-/

namespace Sys2Proof.Machine

/-- An operation of the thread can still set a sticky flag (R192): a division or root, an FP32 or FP64 atomic, or a matrix
command or a welt. -/
def State.flagsPending (s : State) (r : ThreadRef) : Bool :=
  (match s.thread r with
    | some t => t.ops.any fun o => o.kind.flags
    | none => false)
    || s.cores.any fun c => c.2.mc0.queue.any (fun q => decide (q.ref = r)) || c.2.mc1.queue.any (fun q => decide (q.ref = r))
      || c.2.ops.any fun o => decide (o.ref = r) && match o.kind with
        | .cpyw .. => true
        | .lin .. | .fill .. | .gather .. | .scatter .. | .tld .. | .tst .. | .accrd | .msync | .coll .. | .collSk .. => false

/-- The selector `place` (R191). -/
def Env.place (e : Env) : Nat :=
  e.slot + e.bench * 2 ^ 10 + e.core * 2 ^ 12 + e.tcore * 2 ^ 20 + (e.tm.cores.length - 1) * 2 ^ 22

/-- A trap selector: it holds a value in handler mode only (R191). -/
def Thread.trapSel (t : Thread) (v : Nat) : Nat := if t.handler then v else 0

/-- The value of a selector (R191). -/
def State.selector (s : State) (e : Env) (sel : Nat) : Nat :=
  match sel with
  | 0x00 => e.ref.tid
  | 0x01 => e.tm.index
  | 0x02 => e.tm.stage
  | 0x03 => e.pl.launch
  | 0x04 => e.st.prio
  | 0x05 => e.st.nthreads
  | 0x06 => e.tm.maxTid
  | 0x07 => e.place
  | 0x08 => e.pl.part
  | 0x09 => e.t.mode.toNat
  | 0x0A => s.localClock e.core
  | 0x0B => s.wsPhase e.core
  | 0x0C => e.t.inFlight
  | 0x10 => e.t.trapSel e.t.cause.toNat
  | 0x11 => e.t.trapSel e.t.epc.toNat
  | 0x12 => e.t.trapSel e.t.eaddr.toNat
  | 0x13 => e.t.trapSel e.t.einfo.toNat
  | 0x14 => e.t.trapSel (e.t.einst.getD 0 0).toNat
  | 0x15 => e.t.trapSel (e.t.einst.getD 1 0).toNat
  | 0x16 => e.t.trapSel (e.t.einst.getD 2 0).toNat
  | 0x17 => e.t.trapSel (e.t.einst.getD 3 0).toNat
  | 0x18 => e.t.trapSel e.t.ectl.toNat
  | _ => 0

/-- SRD (R190 to R192). -/
def srdBody (x : Ops) (e : Env) (s : State) : Res :=
  let sel := x.c.toNat
  if sel = 9 ∧ s.flagsPending e.ref then .wait .flags s
  else .done s (wN (selWide sel) x.d (BitVec.ofNat 64 (s.selector e sel))) [] none

/-- A mode word that may be written (R84). -/
def modeOk (v : Word) : Bool := decide (v.toNat % 8 ≤ 3) && decide (v &&& 0xFFFF80E0 = 0)

/-- SWR (R190 to R193). -/
def swrBody (x : Ops) (e : Env) (s : State) : Res :=
  let v := e.t.rd x.a
  if x.c = 9 then
    if s.flagsPending e.ref then .wait .flags s
    else if modeOk v then .done (s.updThread e.ref fun t => { t with mode := v }) [] [] none
    else .trap .illegal 0 0 s
  else if 1 < v.toNat then .trap .illegal 0 0 s
  else .done (s.updThread e.ref fun t => if t.handler then { t with ectl := v } else t) [] [] none

/-- FEAT (R190): base version 1; the FQ-4 has no extension feature (R41). -/
def featBody (x : Ops) (_ : Env) (s : State) : Res := .done s (w1 x.d (if x.c = 0 then 1 else 0)) [] none

/-- ERET (R384). -/
def eretBody (e : Env) (s : State) : Res :=
  if e.t.handler then .stop (s.updThread e.ref Thread.leave) else .trap .illegal 0 0 s

/-- The translations of a context that an invalidation covers: of one address, or all (R359). -/
def Xlate.hit (x : Xlate) (va : Option Nat) : Bool :=
  match va with
  | some a => x.covers a
  | none => true

/-- A core without some translations of a context. -/
def Core.dropXlates (c : Core) (ctx : Nat) (va : Option Nat) : Core :=
  { c with tlb := c.tlb.filter fun t => !(t.ctx == ctx && t.x.hit va) }

/-- The place of a thread's watched word of GLOBAL whose address an invalidation may cover is translated afresh, and the thread waits on (R174, R211,
R359); where it cannot be reached any more, the wait ends with the look that finds so: DEDUCED, log entry 28. -/
def State.lookAgain (s : State) (ctx : Nat) (va : Option Nat) (t : Thread) : Thread :=
  match t.status with
  | .waiting (.address p a c ne sc) =>
    let covered := p.mem.isGlobal && (match va with
      | some b => decide (a.toNat % 2 ^ 56 / 2 ^ 30 = b % 2 ^ 56 / 2 ^ 30)
      | none => true)
    if !covered then t
    else match s.walk ctx a.toNat with
      | .ok x =>
        if x.r && x.sk.isNone then { t with status := .waiting (.address (x.place a.toNat) a c ne sc) }
        else { t with status := .runnable, resume := some (.address p a c ne sc) }
      | .error _ => { t with status := .runnable, resume := some (.address p a c ne sc) }
  | .waiting _ | .runnable | .exited => t

/-- The team is parked, and watches a word of GLOBAL (R185). -/
def Team.watches (tm : Team) : Bool :=
  decide (tm.phase = .parked) && tm.rack.any fun r => r.conds.any fun c => match c with
    | .address t => t.mem.isGlobal
    | .barrier _ | .rendezvous .. | .queue .. | .handle .. | .pageFault _ => false

/-- A team under an invalidation: its threads on some cores lose their last-page registers, and the words that they wait on are translated
afresh (R359). -/
def State.dropPages (s : State) (ctx : Nat) (va : Option Nat) (cores : List Nat) (tm : Team) : Team :=
  match tm.phase with
  | .resident | .chosen | .killed | .restoring =>
    { tm with threads := tm.threads.map fun (t : Nat × Thread) =>
        if cores.contains (tm.coreOf t.2) then (t.1, s.lookAgain ctx va { t.2 with lastPage := t.2.lastPage.filter fun x => !x.hit va })
        else t }
  | .parked => tm

/-- Invalidate translations of a context on a list of cores: TLB entries and last-page registers (R359). A parked team that watches a word is
restored, and translates afresh then (R185). -/
def State.invalidate (s : State) (ctx : Nat) (va : Option Nat) (cores : List Nat) : State :=
  let mine (tm : Team) : Bool := match s.pipeOf tm with
    | some p => decide (p.ctxNum = ctx)
    | none => false
  let s' : State := { s with
    cores := s.cores.map fun (c : Nat × Core) => if cores.contains c.1 then (c.1, c.2.dropXlates ctx va) else c
    teams := s.teams.map fun (tm : Nat × Team) => if mine tm.2 then (tm.1, s.dropPages ctx va cores tm.2) else tm }
  (s.teams.filter fun tm => mine tm.2 && tm.2.watches).foldl (fun s tm => s.fireRack tm.1) s'

/-- TLBI (R359). -/
def tlbiBody (all : Bool) (sc : Scope) (x : Ops) (e : Env) (s : State) : Res :=
  match e.t.resume with
  | some (.translations _ _ _) => .done s [] [] none
  | some _ | none =>
    awaiting s e.t.settled fun _ =>
      let s := s.released e.ref
      let a := (e.t.pair x.a).toNat
      let cores := scopeCores sc e
      if !all && !canonical a then .done s [] [] none
      else
        let s := s.invalidate e.pl.ctxNum (if all then none else some a) cores
        .wait (.translations s.nextId cores (if all then none else some (a % 2 ^ 56 / 2 ^ 30))) s

/-- The class and the field of an event operand (R393). -/
def evClass (x : Ops) : Nat := x.c.toNat % 8

/-- EVRD (R393). -/
def evrdBody (x : Ops) (e : Env) (s : State) : Res :=
  if e.t.dividing then .wait .divisions s
  else
    let c := s.core e.core
    let v := (c.event (evClass x)).roll c.clock
    let w : Word := match x.c.toNat / 16 with
      | 0 => v.cnt
      | 1 => v.thr
      | 2 => v.win
      | _ => BitVec.ofNat 32 (v.act + if e.pl.trapOk then 0 else 4)
    .done s (w1 x.d w) [] none

/-- EVCFG (R393): the class's window restarts from this write. -/
def evcfgBody (x : Ops) (e : Env) (s : State) : Res :=
  if e.t.dividing then .wait .divisions s
  else
    let c := s.core e.core
    let v := e.t.rd x.a
    let r := (c.event (evClass x)).roll c.clock
    let f := x.c.toNat / 16
    if f = 3 ∧ 3 < v.toNat then .trap .illegal 0 0 s
    else
      let r' := match f with
        | 0 => { r with cnt := v }
        | 1 => { r with thr := v }
        | 2 => { r with win := v }
        | _ => { r with act := v.toNat }
      let c' := { c with events := c.events.put (evClass x) { r' with start := c.clock, fired := false } }
      .done (s.setCore e.core c') [] [] none

/-- SRD (R190). -/
def execSrd (x : Ops) (s : State) : Host.Outcome State Fault Refusal := runInstr (.srd x) srdBody s

/-- SWR (R190). -/
def execSwr (x : Ops) (s : State) : Host.Outcome State Fault Refusal := runInstr (.swr x) swrBody s

/-- FEAT (R190). -/
def execFeat (x : Ops) (s : State) : Host.Outcome State Fault Refusal := runInstr (.feat x) featBody s

/-- ERET (R384). -/
def execEret (x : Ops) (s : State) : Host.Outcome State Fault Refusal := runInstr (.eret x) (fun _ => eretBody) s

/-- TLBI (R359). -/
def execTlbi (x : Ops) (all : Bool) (sc : Scope) (s : State) : Host.Outcome State Fault Refusal :=
  runInstr (.tlbi x all sc) (tlbiBody all sc) s

/-- EVRD (R393). -/
def execEvrd (x : Ops) (s : State) : Host.Outcome State Fault Refusal := runInstr (.evrd x) evrdBody s

/-- EVCFG (R393). -/
def execEvcfg (x : Ops) (s : State) : Host.Outcome State Fault Refusal := runInstr (.evcfg x) evcfgBody s

end Sys2Proof.Machine
end

