-- ==== Sys2Proof/Machine/Fetch.lean ====
section
/-!
DEFINITION. Fetch (R25 to R28, R43), the patterns that are no instruction (R41, R44), the held traps taken at a boundary
(R381), and the picker, which forms the stitches of each clock (R18, R21, R178, R179).
-/

namespace Sys2Proof.Machine

/-- What the issue of a thread comes to: an instruction to execute, with the state that the fetch leaves; or the fetch itself has
decided (a trap, a page fault, a kill); or the thread cannot issue. -/
inductive Issue where
  | run (i : Instr) (s : State)
  | over (s : State)
  | idle
deriving DecidableEq, Repr

/-- The 32-bit words of bytes, first word first. -/
def wordsIn : Nat → List Byte → List Word
  | 0, _ => []
  | n + 1, l => BitVec.ofNat 32 (leNat (l.take 4)) :: wordsIn n (l.drop 4)

/-- The words that a trap of what fetch has found reports (R401). -/
def fetchedWords (bs : List Byte) : List Word :=
  match decode bs with
  | .error .fetchBoundary => wordsIn (bs.length / 4) bs
  | .error _ => wordsIn (match Len.ofCode (leNat (bs.take 4) % 4) with
      | some n => n.bytes / 4
      | none => 1) bs
  | .ok .padWord => wordsIn 1 bs
  | .ok _ => wordsIn (leNat (bs.take 4) % 4 + 1) bs

/-- The bytes of the 32-byte block that holds a place: the core's instruction-cache copy, or memory (R27, R255). -/
def State.block (s : State) (core : Nat) (t : Target) : List Byte :=
  match (s.core core).icache.find? fun b => decide (b.1 = t) with
  | some b => b.2
  | none => s.bytes t 32

/-- The core keeps a copy of the block, unless it stands on a peer package (R239). -/
def State.cacheBlock (s : State) (core : Nat) (t : Target) : State :=
  if decide (t.mem = .peer) || (s.core core).icache.any fun b => decide (b.1 = t) then s
  else s.updCore core fun c => { c with icache := c.icache ++ [(t, s.bytes t 32)] }

/-- Fetch at the thread's program counter (R27): the bytes from there to the end of the block, or the state in which the fetch has
faulted; a remote page's come from the peer package, which must admit the read (R239, R368, R369). -/
def State.fetch (s : State) (e : Env) : Except State (List Byte × State) :=
  let pc := e.t.pc.toNat
  if !canonical pc then .error (preciseTrap e .accessViolation e.t.pc 1 s)
  else match s.translate e.core e.pl.ctxNum none pc with
  | (.error r, s) => .error (s.threadFault e 3 r pc)
  | (.ok x, s) =>
    if !x.grants .exec then .error (preciseTrap e .accessViolation e.t.pc 2 s)
    else
      let t := x.place pc
      let b : Target := { t with addr := t.addr / 32 * 32 }
      if s.linkDead b then .error (s.linkKill e.ref e.t.pc (Config.route b.addr))
      else if t.mem = .peer ∧ 3 ≤ Config.peerAnswer s.tick then .error (preciseTrap e .accessViolation e.t.pc 0x0B s)
      else if !((s.core e.core).icache.any fun k => decide (k.1 = b)) && s.poisoned (b.range 32) then .error (s.poisonKill e.ref e.t.pc b)
      else .ok ((s.block e.core b).drop (pc % 32), s.cacheBlock e.core b)

/-- A held trap that is taken at the thread's next boundary (R381, R383): any outside handler mode; a malformed interval, which is
deferred, in handler mode too. -/
def Thread.heldNow (t : Thread) : Option Trap :=
  match t.held with
  | [] => none
  | tr :: _ => if t.handler && decide (tr.cause ≠ .malformedInterval) then none else some tr

/-- The thread is between instructions: it is not in the midst of one whose dead reads have been counted (R89), and does not go on from a
push that its queue has accepted, or from a barrier that it has arrived at. -/
def Thread.atBoundary (t : Thread) : Bool :=
  decide (t.phase = 0) && match t.resume with
    | some (.push _) | some (.barrier _ _) => false
    | some _ | none => true

/-- A trap that was kept until the thread could take it is taken now (R95, R385). -/
def State.takeLate (s : State) (r : ThreadRef) (tr : Trap) : State := (s.updThread r fun t => { t with late := none }).takeTrap r tr

/-- The thread issues (R43): a trap that it still has to take first, then a held trap (R381); a page fault that was denied next (R361); then it
fetches and decodes. -/
def State.issueThread (s : State) (r : ThreadRef) : Issue :=
  let c : Current := { ref := r, words := [] }
  match s.env c with
  | none => .idle
  | some e =>
    if e.t.yieldTo.isSome then .idle
    else if e.t.late.isSome then .over (if e.t.dividing then s.wait r .divisions else (e.t.late.map (s.takeLate r)).getD s)
    else if e.t.heldNow.isSome && e.t.atBoundary then .run (.heldTrap r) { s with cur := some c }
    else
      let f := s.fetch e
      match e.t.denied with
      | some va =>
        let ws := match f with
          | .ok (bs, _) => if va = e.t.pc then [] else fetchedWords bs
          | .error _ => []
        .over (preciseTrap { e with words := ws } .accessViolation va 0x0C s)
      | none =>
        match f with
        | .error s' => .over s'
        | .ok (bs, s') =>
          let ws := fetchedWords bs
          match decode bs with
          | .ok i => .run i { s' with cur := some { ref := r, words := ws } }
          | .error .fetchBoundary => let e' := { e with words := ws }; .over (preciseTrap e' .fetchBoundary 0 0 s')
          | .error _ => .run .nonInstruction { s' with cur := some { ref := r, words := ws } }

/-- An action of the executing thread's hardware; there must be one. -/
def withEnv (f : Env → State → State) (s : State) : Host.Outcome State Fault Refusal :=
  match s.cur with
  | none => .fault .noThread
  | some c => match s.env c with
    | some e => .next (f e s)
    | none => .fault .noThread

/-- The issue class of an instruction (R21): 0 A, 1 B, 2 C. A pad word, which has no row of the opcode map, issues on class C as a decode fault does
(R178); DESIGN CHOICE, log entry 67. -/
def issueClass (i : Instr) : Nat :=
  match i.row with
  | none => 2
  | some r => opClass r.opc r.mod

/-- The class on which a thread's next instruction issues; a decode fault and a trap issue on class C (R178). -/
def State.nextClass (s : State) (e : Env) : Nat :=
  if e.t.heldNow.isSome || e.t.denied.isSome || e.t.late.isSome then 2
  else match s.fetch e with
    | .error _ => 2
    | .ok (bs, _) => match decode bs with
      | .ok i => issueClass i
      | .error _ => 2

/-- A progress key (R170), as numbers compared in order. -/
def State.key (s : State) (r : ThreadRef) : List Nat :=
  match s.team r.team with
  | none => []
  | some tm =>
    [15 - (match s.stageOf tm with
        | some st => st.prio
        | none => 0),
      (match s.pipeOf tm with
        | some p => p.launch
        | none => 0), tm.stage, tm.index, r.tid]

/-- One key compares lower than another (R170). -/
def keyLess : List Nat → List Nat → Bool
  | a :: l, b :: m => decide (a < b) || (decide (a = b) && keyLess l m)
  | [], _ :: _ => true
  | _, [] => false

/-- The lowest-keyed of a list of threads. -/
def State.lowestKey (s : State) (l : List ThreadRef) : Option ThreadRef :=
  l.foldl (fun m r => match m with
    | none => some r
    | some b => if keyLess (s.key r) (s.key b) then some r else some b) none

/-- The instruction does nothing but take its registers: what tells whether it would wait on one. -/
def idleBody (_ : Env) (s : State) : Res := .done s [] [] none

/-- A thread waits on registers. -/
def State.onRegs (s : State) (r : ThreadRef) : Bool :=
  match s.thread r with
  | some t => match t.status with
    | .waiting (.regs _) => true
    | .waiting _ | .runnable | .exited => false
  | none => false

/-- A thread's next instruction would wait on an empty register (R178): the thread is in the waiting state, not in Rd. -/
def State.stalls (s : State) (e : Env) : Bool :=
  !(e.t.heldNow.isSome && e.t.atBoundary) && e.t.denied.isNone && e.t.late.isNone && e.t.yieldTo.isNone
    && match s.fetch e with
      | .error _ => false
      | .ok (bs, s') => match decode bs with
        | .error _ => false
        | .ok i => match i.row, i.ops with
          | some r, some x => (pipeline e r x idleBody s').onRegs e.ref
          | _, _ => false

/-- The resident runnable threads of a core. -/
def State.runnableOn (s : State) (core : Nat) : List Env :=
  s.teams.flatMap fun tm => tm.2.threads.filterMap fun t =>
    match s.env { ref := { team := tm.1, tid := t.1 }, words := [] } with
    | some e => if e.core == core then some e else none
    | none => none

/-- The runnable threads of a bench whose next instruction issues on a class (R179): a thread that would wait on an empty register is waiting
(R178). -/
def State.classEnvs (s : State) (core bench cls : Nat) : List Env :=
  (s.runnableOn core).filter fun e => e.bench == bench && s.nextClass e == cls && !s.stalls e

/-- The threads in Rd of a bench whose next instruction issues on a class, as they stand: YIELD takes its thread out of Rd (R178, R199). -/
def State.readyEnvs (s : State) (core bench cls : Nat) : List Env := (s.classEnvs core bench cls).filter fun e => e.t.yieldTo.isNone

/-- The lowest-keyed runnable thread of a bench whose next instruction issues on a class (R179). -/
def State.lowestOf (s : State) (core bench cls : Nat) : Option ThreadRef := s.lowestKey ((s.classEnvs core bench cls).map fun e => e.ref)

/-- The threads in Rd of a bench whose next instruction issues on a class (R178). -/
def State.ready (s : State) (core bench cls : Nat) : List ThreadRef := (s.readyEnvs core bench cls).map fun e => e.ref

/-- Since which clock a thread has been in Rd, if it has. -/
def Core.rdSince (c : Core) (r : ThreadRef) : Nat :=
  match c.rd.find? fun e => decide (e.1 = r) with
  | some e => e.2
  | none => c.clock

/-- The tracked thread of a bench and class, and since which clock it has been in Rd (R179): while it yields, it is not in Rd. The override of another
thread ends. -/
def State.retrack (s : State) (core bench cls : Nat) : State :=
  let c := s.core core
  let k := bench * 3 + cls
  match s.lowestOf core bench cls with
  | none => s.setCore core { c with track := c.track.drop k, forced := c.forced.drop k }
  | some r => s.setCore core { c with
      track := c.track.put k (r, c.rdSince r)
      forced := if c.forced.look k = some r then c.forced else c.forced.drop k }

/-- The threads of a core in Rd, each with the clock since which it is there: one that has left Rd begins anew (R179). -/
def State.restamp (s : State) (core : Nat) : State :=
  let c := s.core core
  let now := (List.range 12).flatMap fun k => s.ready core (k / 3) (k % 3)
  s.setCore core { c with rd := now.map fun r => (r, c.rdSince r) }

/-- The tracked threads of every bench and class of a core. -/
def State.retrackAll (s : State) (core : Nat) : State :=
  (List.range 4).foldl (fun s b => (List.range 3).foldl (fun s k => s.retrack core b k) s) (s.restamp core)

/-- A thread is older (R178): it became resident on an earlier clock, or on the same one in a lower slot. -/
def Env.older (a b : Env) : Bool := decide (a.t.born < b.t.born) || (decide (a.t.born = b.t.born) && decide (a.slot < b.slot))

/-- A thread put before the first that it is older than. -/
def insertOlder (e : Env) : List Env → List Env
  | [] => [e]
  | f :: l => if f.older e then f :: insertOlder e l else e :: f :: l

/-- Oldest first. -/
def oldestFirst (l : List Env) : List Env := l.foldr insertOlder []

/-- The home lane of a slot (R10, R175). -/
def laneOf (slot : Nat) : Nat := slot % 32

/-- Gather threads in order, while there is room and no two share a home lane (R18, R178). -/
def gatherLanes : List Env → Nat → List Nat → List Env
  | [], _, _ => []
  | e :: l, room, lanes =>
    if room = 0 || lanes.contains (laneOf e.slot) then gatherLanes l room lanes
    else e :: gatherLanes l (room - 1) (laneOf e.slot :: lanes)

/-- Where a thread of Rd stands for the picker: its program counter and its context. -/
def Env.at_ (e : Env) : DWord × Nat := (e.t.pc, e.pl.ctxNum)

/-- The stitch of one issue slot from its Rd (R178): at the overriding thread's program counter, or greedily at the slot's last one, or at
the oldest thread's; oldest first, 32 threads at most, no home lane twice. -/
def stitchOf (rd : List Env) (last : Option (DWord × Nat)) (forced : Option Env) : List Env :=
  let old := oldestFirst rd
  match forced with
  | some l => l :: gatherLanes ((old.filter fun e => decide (e.at_ = l.at_)).filter fun e => decide (e.ref ≠ l.ref)) 31 [laneOf l.slot]
  | none =>
    match old with
    | [] => []
    | o :: _ =>
      let p := match last with
        | some q => if old.any fun e => decide (e.at_ = q) then q else o.at_
        | none => o.at_
      gatherLanes (old.filter fun e => decide (e.at_ = p)) 32 []

/-- A thread put into its place by home lane. -/
def insertLane (e : Env) : List Env → List Env
  | [] => [e]
  | f :: l => if laneOf f.slot < laneOf e.slot then f :: insertLane e l else e :: f :: l

/-- The instruction is an FP64 form of rows 0x2 and 0x3, or an `.iv64` form of row 0x4: 16 lanes in a clock (R21, R126). -/
def isFp64 (i : Instr) : Bool :=
  match i.row with
  | none => false
  | some r =>
    if 0x40 ≤ r.opc then decide (r.opc < 0x50) && decide (r.mod % 2 = 1)
    else decide (0x20 ≤ r.opc)
      && (if r.opc = 0x32 then [0, 1, 6, 7].contains (r.mod / 8) else decide (r.opc ≤ 0x35) && decide (r.mod / 8 % 2 = 1))

/-- A thread's next instruction is an FP64 form. -/
def State.nextFp64 (s : State) (e : Env) : Bool :=
  match s.fetch e with
  | .error _ => false
  | .ok (bs, _) => match decode bs with
    | .ok i => isFp64 i
    | .error _ => false

/-- One issue slot of a bench, 0 to 3 for A0, A1, B and C, forms its stitch (R178); an FP64 stitch of more than 16 threads occupies
slot B for a second clock (R21). -/
def State.formSlot (core bench : Nat) (s : State) (slot : Nat) : State :=
  let c := s.core core
  let k := bench * 4 + slot
  if c.busy.contains k then s.setCore core { c with busy := c.busy.filter fun n => n != k }
  else
    let rd := (s.readyEnvs core bench (slot - 1)).filter fun e => !c.stitch.any fun t => decide (t.1 = e.ref)
    let forced := (c.forced.look (bench * 3 + (slot - 1))).bind fun r => rd.find? fun e => decide (e.ref = r)
    let st := stitchOf rd (c.last.look k) forced
    match st with
    | [] => s
    | e :: _ => s.setCore core { c with
        stitch := c.stitch ++ (st.foldr insertLane []).map fun e => (e.ref, slot)
        last := c.last.put k e.at_
        busy := if slot = 2 && decide (16 < st.length) && s.nextFp64 e then k :: c.busy else c.busy }

/-- The benches of a core form their stitches on a clock, each in the order A0, A1, B, C (R18, R178). -/
def State.formStitches (s : State) (core : Nat) : State :=
  (List.range 4).foldl (fun s bench => (List.range 4).foldl (State.formSlot core bench) s) s

/-- The override of a bench and class is due and has not been made: its tracked thread has been in Rd for 256 clocks (R179). -/
def State.overrideDue (s : State) (core k : Nat) : Bool :=
  let c := s.core core
  match c.track.look k with
  | some (r, since) => decide (since + 255 ≤ c.clock) && decide (s.lowestOf core (k / 3) (k % 3) = some r)
      && (s.ready core (k / 3) (k % 3)).contains r && decide (c.forced.look k ≠ some r)
  | none => false

/-- A thread only enters the waiting state: its next instruction would wait on an empty register (R178). While events of its own are still to be
counted at the end of this clock it does not begin that instruction: the trap that they may give it comes first (R91). -/
def State.entersWait (s : State) (e : Env) : Bool := s.stalls e && !(s.core e.core).arisen.any fun a => decide (a.by_.ref = e.ref)

/-- A thread is the next of its core's stitches to issue (R91, R178). -/
def Core.isNext (c : Core) (r : ThreadRef) : Bool := c.stitch.head?.any fun t => decide (t.1 = r)

/-- A thread may issue: it is the next of its core's stitches, or it only enters a wait on an empty register (R178). -/
def State.picked (s : State) (e : Env) : Bool := (s.core e.core).isNext e.ref || s.entersWait e

/-- A thread has issued: it has left its stitch and Rd, and is no longer forced (R179). -/
def Core.issued (c : Core) (r : ThreadRef) : Core :=
  { c with stitch := if c.isNext r then c.stitch.drop 1 else c.stitch
           rd := c.rd.filter fun e => decide (e.1 ≠ r)
           track := c.track.filter fun t => decide (t.2.1 ≠ r)
           forced := c.forced.filter fun t => decide (t.2 ≠ r) }

/-- PAD_WORD (R25): the program counter advances to the next block, which in the last block below 2^55 is at the canonical address that
`advance` gives (R27; DESIGN CHOICE, log entry 56). -/
def execPadWord (s : State) : Host.Outcome State Fault Refusal :=
  withEnv (fun e s => s.updThread e.ref fun t => { t with pc := advance (t.pc &&& ~~~31) 32, phase := 0, resume := none }) s

/-- NON_INSTRUCTION (R44). -/
def execNonInstruction (s : State) : Host.Outcome State Fault Refusal := withEnv (fun e s => preciseTrap e .illegal 0 0 s) s

/-- EXTENSION_SLOT (R41): every extension feature is absent. -/
def execExtensionSlot (n : BitVec 4) (s : State) : Host.Outcome State Fault Refusal :=
  withEnv (fun e s => preciseTrap e .emulation 0 (0xE0 + n.setWidth 32) s) s

/-- HELD_TRAP (R381): the first of the thread's held traps is taken at the boundary. -/
def execHeldTrap (r : ThreadRef) (s : State) : Host.Outcome State Fault Refusal :=
  match s.env { ref := r, words := [] } with
  | none => .fault .notEnabled
  | some e => match e.t.heldNow with
    | none => .fault .notEnabled
    | some tr =>
      if !e.t.atBoundary then .fault .notEnabled
      else if e.t.dividing then .next (s.wait r .divisions)
      else .next ((s.updThread r fun t => { t with held := t.held.drop 1 }).takeTrap r tr)

/-- PICKER_OVERRIDE (R179): the thread that has been in Rd for 256 clocks is forced into the next slot of its class. -/
def execPickerOverride (core bench cls : Nat) (s : State) : Host.Outcome State Fault Refusal :=
  let c := s.core core
  let k := bench * 3 + cls
  match c.track.look k with
  | some (r, _) =>
    if decide (cls < 3) && s.overrideDue core k then .next (s.setCore core { c with forced := c.forced.put k r }) else .fault .notEnabled
  | none => .fault .notEnabled

/-- YIELD_EXPIRY (R199). -/
def execYieldExpiry (r : ThreadRef) (s : State) : Host.Outcome State Fault Refusal :=
  match (s.thread r).bind fun t => t.yieldTo with
  | some k =>
    if k ≤ s.clockOf r then .next (s.updThread r fun t => { t with yieldTo := none }) else .fault .notEnabled
  | none => .fault .notEnabled

/-- EVENT_WINDOW_RESTART (R90). -/
def execEventWindowRestart (core cls : Nat) (s : State) : Host.Outcome State Fault Refusal :=
  let c := s.core core
  let e := c.event cls
  if e.due c.clock then .next (s.setCore core { c with events := c.events.put cls (e.roll c.clock) }) else .fault .notEnabled

end Sys2Proof.Machine
end

