-- ==== Sys2Proof/Machine/Spawn.lean ====
section
/-!
DEFINITION. The creation of a child thread, as SPAWN and IVSPLIT share it (R139, R140, R181, R182).
-/

namespace Sys2Proof.Machine

/-- What the creation of a child comes to. -/
inductive Spawned where
  /-- the child exists -/
  | ok (s : State)
  /-- the spawn-overflow fault, with its code (R380) -/
  | overflow (einfo : Word)
  /-- the ring write faults at an address: for a reason of R360, or, without one, for want of permission -/
  | fault (va : Nat) (reason : Option Nat)
deriving DecidableEq, Repr

/-- The team with a child taken up (R140, R181). -/
def Team.adopt (tm : Team) (child : Thread) (inRing : Bool) : Team :=
  { tm with threads := tm.threads.put (tm.maxTid + 1) child, maxTid := tm.maxTid + 1, spawns := tm.spawns + 1,
            ring := if inRing then tm.ring ++ [(tm.maxTid + 1, false)] else tm.ring }

/-- Create a child of the executing thread (R139, R181): resident where the ring is empty and a seat is free, otherwise at the
ring's tail. -/
def State.newThread (s : State) (e : Env) (child : Thread) : Spawned :=
  let tm := e.tm
  if 65535 < tm.maxTid + 1 then .overflow 3
  else if e.st.spawnsMax < tm.spawns + 1 then .overflow 2
  else
    let seat := if tm.ring.isEmpty then s.seatIn tm e.st.gran (tm.benchesFrom e.tcore e.bench) else none
    match seat with
    | some (tc, b, k) =>
      let now := (s.core (tm.cores.getD tc 0)).clock
      let s := s.updTeam e.ref.team fun tm => tm.adopt { child with loc := .slot tc b k, born := now } false
      .ok ((s.released e.ref).testSync e.ref.team)
    | none =>
      if 2 ^ e.st.srlog ≤ tm.ring.length then .overflow 1
      else
        let c := { child with loc := .ring }
        match s.writeRing e.pl.ctxNum e.st (tm.ringHead + tm.ring.length) c (tm.maxTid + 1) false with
        | .error (va, r) => .fault va r
        | .ok s =>
          let s := s.updTeam e.ref.team fun tm => tm.adopt c true
          .ok ((s.released e.ref).testSync e.ref.team)

/-- The mode word of a child: RM, DRP and IEP of its parent, every flag 0 (R84). -/
def childMode (t : Thread) : Word := t.mode &&& 0x1F

/-- The registers of the granules that a mask names are copied; every other register is dead and full (R198). -/
def copyGranules (mask : BitVec 16) (t : Thread) : Vector RegCell 256 :=
  Vector.ofFn fun i => if mask.getLsbD (i.val / 16) then { t.regs[i] with full := true } else .dead

/-- A child's registers (R140, R198): those of the granules of a mask as its parent leaves them, absent ones filled from the save area first (R176); every
other register is dead and full. -/
def childOf (e : Env) (marks : List Reg) (ws : List (Reg × Word)) (mask : BitVec 16) (child : Thread) (s : State) (k : Thread → Res) : Res :=
  match s.filled e mask with
  | .error s' => .stop s'
  | .ok t => k { child with regs := copyGranules mask (finishThread t marks ws [] 0) }

/-- The result of a creation: the child's identifier goes to the parent as its writes say. -/
def spawnedRes (e : Env) (s : State) (sp : Spawned) (ws : List (Reg × Word)) : Res :=
  match sp with
  | .ok s' => .done s' ws [] none
  | .overflow n => .trap .spawnOverflow 0 n s
  | .fault va (some r) => .stop (s.threadFault e 1 r va)
  | .fault va none => .trap .accessViolation (BitVec.ofNat 64 va) 2 s

end Sys2Proof.Machine
end

