-- ==== Sys2Proof/Machine/Interval.lean ====
section
/-!
DEFINITION. Row 0x4: intervals with outward rounding, three-valued comparison and splitting (R124 to R140).
-/

namespace Sys2Proof.Machine

/-- An interval value: empty, or two bounds with lo ≤ hi (R125). -/
inductive Iv where
  | empty
  | mk (lo hi : FVal)
deriving DecidableEq, Repr

/-- a ≤ b for two values that are no NaN. -/
def FVal.leq (a b : FVal) : Bool := decide (a.cmp b ≠ .gt)
/-- a < b for two values that are no NaN. -/
def FVal.ltn (a b : FVal) : Bool := decide (a.cmp b = .lt)
/-- a = b for two values that are no NaN, −0 equal to +0. -/
def FVal.eqn (a b : FVal) : Bool := decide (a.cmp b = .eq)
/-- The lesser. -/
def FVal.least (a b : FVal) : FVal := if a.leq b then a else b
/-- The greater. -/
def FVal.most (a b : FVal) : FVal := if a.leq b then b else a
/-- Zero. -/
def FVal.zero : FVal := .fin false 0 0

/-- Two bounds as an interval; `none` when they are malformed (R125, R129). -/
def ivOf (lo hi : FVal) : Option Iv :=
  if lo = .inf false ∧ hi = .inf true then some .empty
  else if lo.isNan || hi.isNan || decide (lo = .inf false) || decide (hi = .inf true) || !lo.leq hi then none
  else some (.mk lo hi)

/-- Two bound codes as an interval (R124, R125). -/
def FFmt.iv (f : FFmt) (lo hi : Nat) : Option Iv := ivOf (f.value lo) (f.value hi)

/-- The interval in a pair of registers or a quad (R124). -/
def rdIv (w : Bool) (t : Thread) (r : Reg) : Option Iv :=
  if w then f64.iv (t.pair r).toNat (t.pair (r + 2)).toNat else f32.iv (t.rd r).toNat (t.rd (r + 1)).toNat

/-- A bound's code, rounded in the mode; a zero is +0 (R127). -/
def FFmt.bound (f : FFmt) (mode : RMode) (v : FVal) : Nat :=
  let c := match v with
    | .nan _ => f.nanCode
    | .inf n => f.signed n f.infCode
    | .fin n m e => (f.roundExact mode n m e).1
  if c % f.signW = 0 then 0 else c

/-- The codes of an interval's bounds, rounded outward (R127). -/
def FFmt.ivCodes (f : FFmt) : Iv → Nat × Nat
  | .empty => (f.infCode, f.signed true f.infCode)
  | .mk lo hi => (f.bound .rdn lo, f.bound .rup hi)

/-- The writes of an interval result from its bounds' codes (R124). -/
def wIv (w : Bool) (r : Reg) (c : Nat × Nat) : List (Reg × Word) :=
  wN w r (BitVec.ofNat 64 c.1) ++ wN w (if w then r + 2 else r + 1) (BitVec.ofNat 64 c.2)

/-- The sum of two lower or of two upper bounds: an infinite one gives the limit (R127). -/
def addB (a b : FVal) : FVal :=
  match a, b with
  | .inf n, _ => .inf n
  | _, .inf n => .inf n
  | _, _ => (a.dyadic.add b.dyadic).val

/-- The product of two bounds: 0 times an infinite bound is 0 (R127). -/
def mulB (a b : FVal) : FVal :=
  if a.isZero || b.isZero then .zero
  else if a.isInf || b.isInf then .inf (a.neg != b.neg)
  else (a.dyadic.mul b.dyadic).val

/-- {x + y} (R130). -/
def Iv.add : Iv → Iv → Iv
  | .mk a b, .mk c d => .mk (addB a c) (addB b d)
  | _, _ => .empty

/-- {−x} (R130). -/
def Iv.negate : Iv → Iv
  | .mk a b => .mk b.negate a.negate
  | .empty => .empty

/-- {x × y} (R130). -/
def Iv.mul : Iv → Iv → Iv
  | .mk a b, .mk c d =>
    let p := mulB a c
    let q := mulB a d
    let r := mulB b c
    let s := mulB b d
    .mk ((p.least q).least (r.least s)) ((p.most q).most (r.most s))
  | _, _ => .empty

/-- {x²} (R130). -/
def Iv.sqr : Iv → Iv
  | .mk a b =>
    let p := mulB a a
    let q := mulB b b
    .mk (if a.leq .zero && FVal.zero.leq b then .zero else p.least q) (p.most q)
  | .empty => .empty

/-- {|x|} (R130). -/
def Iv.abs : Iv → Iv
  | .mk a b =>
    if FVal.zero.leq a then .mk a b
    else if b.leq .zero then .mk b.negate a.negate
    else .mk .zero (a.negate.most b)
  | .empty => .empty

/-- The intersection (R132). -/
def Iv.meet : Iv → Iv → Iv
  | .mk a b, .mk c d => if (a.most c).leq (b.least d) then .mk (a.most c) (b.least d) else .empty
  | _, _ => .empty

/-- The hull (R132). -/
def Iv.hull : Iv → Iv → Iv
  | .mk a b, .mk c d => .mk (a.least c) (b.most d)
  | .empty, y => y
  | x, .empty => x

/-- The bounds' codes of a quotient by an interval of positive numbers (R127, R131). -/
def FFmt.ivDivPos (f : FFmt) (a b c d : FVal) : Nat × Nat :=
  let q (m : RMode) (x y : FVal) : Nat := let r := (f.divV m x y).1; if r % f.signW = 0 then 0 else r
  (q .rdn a (if FVal.zero.leq a then d else c), q .rup b (if FVal.zero.leq b then c else d))

/-- IVDIV: the zero rule first; a division by negative numbers is that of the negated operands (R131). `none` is empty. -/
def FFmt.ivDiv (f : FFmt) : Iv → Iv → Option (Nat × Nat)
  | .mk a b, .mk c d =>
    some (if c.leq .zero && FVal.zero.leq d then (f.signed true f.infCode, f.infCode)
      else if FVal.zero.ltn c then f.ivDivPos a b c d
      else f.ivDivPos b.negate a.negate d.negate c.negate)
  | _, _ => none

/-- A root's code in a mode (R130). -/
def FFmt.rootB (f : FFmt) (mode : RMode) (v : FVal) : Nat :=
  match v with
  | .nan _ => f.nanCode
  | .inf _ => f.infCode
  | .fin _ m e => if m = 0 then 0 else
    let (r, q, st) := sqrtMag f m e
    (f.round mode false r q st).1

/-- IVSQRT (R130). -/
def FFmt.ivSqrt (f : FFmt) : Iv → Option (Nat × Nat)
  | .mk a b => if b.ltn .zero then none else some (f.rootB .rdn (a.most .zero), f.rootB .rup b)
  | .empty => none

/-- The midpoint of a nonempty interval (R133). -/
def FFmt.ivMid (f : FFmt) (lo hi : FVal) : Nat :=
  let maxF := f.maxCode
  let m := if lo = .inf true ∧ hi = .inf false then 0
    else if lo = .inf true then f.signed true maxF
    else if hi = .inf false then maxF
    else
      let s := lo.dyadic.add hi.dyadic
      (f.roundDy .rne ⟨s.m, s.e - 1⟩ false).1
  let v := f.value m
  let v := if lo.ltn v && v.ltn hi then v else if lo = .inf true then hi else lo
  f.bound .rne v

/-- The width (R134). -/
def FFmt.ivWid (f : FFmt) : Iv → Nat
  | .mk lo hi => if lo.isInf || hi.isInf then f.infCode else f.bound .rup (hi.dyadic.sub lo.dyadic).val
  | .empty => f.nanCode

/-- A three-valued predicate from when it is true and when it is false (R81). -/
def pTri (t f : Bool) : Word := if t then pTrue else if f then pFalse else pUndecided

/-- IVCMP of two intervals (R135, R136). -/
def ivCmp (r : IvRel) : Iv → Iv → Word
  | .mk a b, .mk c d =>
    match r with
    | .lt => pTri (b.ltn c) (d.leq a)
    | .le => pTri (b.leq c) (d.ltn a)
    | .gt => pTri (d.ltn a) (b.leq c)
    | .ge => pTri (d.leq a) (b.ltn c)
    | .eq => pTri (a.eqn b && b.eqn c && c.eqn d) (b.ltn c || d.ltn a)
    | .ne => pTri (b.ltn c || d.ltn a) (a.eqn b && b.eqn c && c.eqn d)
    | .sub => pOf (c.leq a && b.leq d)
    | .int => pOf ((c.ltn a || (decide (a = .inf true) && decide (c = .inf true)))
                && (b.ltn d || (decide (b = .inf false) && decide (d = .inf false))))
    | .dis => pOf (b.ltn c || d.ltn a)
    | .seq => pOf (a.eqn c && b.eqn d)
    | .clt => pOf (b.ltn c)
    | .cle => pOf (b.leq c)
    | .plt => pOf (a.ltn d)
    | .ple => pOf (a.leq d)
  | x, y =>
    match r with
    | .lt | .le | .gt | .ge | .eq | .ne => pUndecided
    | .sub | .int => pOf (decide (x = .empty))
    | .dis => pTrue
    | .seq => pOf (decide (x = y))
    | .clt | .cle | .plt | .ple => pFalse

/-- IVTEST (R137); `v` is the member. -/
def ivTest (t : IvTest) (x : Iv) (v : FVal) : Bool :=
  match x with
  | .empty => decide (t = .empty)
  | .mk a b =>
    match t with
    | .empty => false
    | .entire => decide (a = .inf true) && decide (b = .inf false)
    | .bnd => !a.isInf && !b.isInf
    | .pt => a.eqn b
    | .zero => a.leq .zero && FVal.zero.leq b
    | .mem => !v.isNan && a.leq v && v.leq b

/-- The malformed-interval fault (R125). -/
def malformed (s : State) : Res := .trap .malformedInterval 0 0 s

/-- An empty interval is consumed or produced: EI, the event, and the fault under the strict policy without `.e` (R128). -/
def emptyRule (x : Bool) (e : Env) (s : State) (k : State → Res) : Res :=
  let s' := (s.setFlags e.ref flagEI).count e.counter [4]
  if !x && !e.t.lenient then .trap .emptyInterval 0 0 s' else k s'

/-- Apply the rule when it is called for. -/
def withEmpty (hit ex : Bool) (e : Env) (s : State) (k : State → Res) : Res := if hit then emptyRule ex e s k else k s

/-- An instruction over one interval: `f` gives the writes and whether an empty interval is produced (R125, R128). -/
def ivBody1 (ex w : Bool) (f : FFmt → Iv → List (Reg × Word) × Bool) (x : Ops) (e : Env) (s : State) : Res :=
  match rdIv w e.t x.a with
  | none => malformed s
  | some a =>
    let r := f (fmtW w) a
    withEmpty (decide (a = .empty) || r.2) ex e s fun s => .done s r.1 [] none

/-- An instruction over two intervals (R125, R128). -/
def ivBody2 (ex w : Bool) (f : FFmt → Iv → Iv → List (Reg × Word) × Bool) (x : Ops) (e : Env) (s : State) : Res :=
  match rdIv w e.t x.a, rdIv w e.t x.b with
  | some a, some b =>
    let r := f (fmtW w) a b
    withEmpty (decide (a = .empty) || decide (b = .empty) || r.2) ex e s fun s => .done s r.1 [] none
  | _, _ => malformed s

/-- The writes of an exact interval result, and whether it is empty. -/
def ivOut (w : Bool) (d : Reg) (f : FFmt) (r : Iv) : List (Reg × Word) × Bool := (wIv w d (f.ivCodes r), decide (r = .empty))

/-- The writes of a rounded interval result; `none` is empty. -/
def ivOut? (w : Bool) (d : Reg) (f : FFmt) (r : Option (Nat × Nat)) : List (Reg × Word) × Bool :=
  (wIv w d (r.getD (f.ivCodes .empty)), r.isNone)

/-- IVMK (R129). -/
def ivmkBody (k : IvmkKind) (ex w : Bool) (x : Ops) (e : Env) (s : State) : Res :=
  let f := fmtW w
  let bVal : FVal := f.value (if x.len = .s then (rdN w e.t x.b).toNat
    else if w then widenImm (imm32 x).toNat else (imm32 x).toNat)
  let make (iv : Option Iv) : Res :=
    match iv with
    | none => malformed s
    | some v => let r := ivOut w x.d f v
      withEmpty r.2 ex e s fun s => .done s r.1 [] none
  match k with
  | .bounds => make (ivOf (f.value (rdN w e.t x.a).toNat) bVal)
  | .pt =>
    let v := if x.len = .s then f.value (rdN w e.t x.a).toNat else bVal
    make (if v.isNan || v.isInf then none else some (.mk v v))
  | .cvt => make (rdIv (!w) e.t x.a)

/-- IVSPLIT (R138 to R140). -/
def ivsplitBody (i : Instr) (ex w : Bool) (x : Ops) (e : Env) (s : State) : Res :=
  if !(regRange 0 (16 * e.st.gran)).all e.t.full then .wait .allRegs s
  else
    match rdIv w e.t x.a with
    | none => malformed s
    | some .empty => emptyRule ex e s fun s => .done s (wIv w x.d ((fmtW w).ivCodes .empty) ++ w1 x.c 2) [] none
    | some (.mk lo hi) =>
      let f := fmtW w
      let m := f.ivMid lo hi
      let v := f.value m
      if !(lo.ltn v && v.ltn hi) then .done s (wIv w x.d (f.ivCodes (.mk lo hi)) ++ w1 x.c 2) [] none
      else
        let mine := wIv w x.d (f.bound .rdn lo, m) ++ w1 x.c 0
        let marks := match i.row with
          | some r => rowMarks r x
          | none => []
        let own : BitVec 16 := BitVec.ofNat 16 (2 ^ e.st.gran - 1)
        childOf e marks mine own (Thread.fresh (advance e.t.pc 8) (childMode e.t)) s fun child => releasing e s fun _ => spawnedRes e s (s.newThread e (child.wrs (wIv w x.d (m, f.bound .rup hi) ++ w1 x.c 1))) mine

/-- IVMK (R129). -/
def execIvmk (x : Ops) (k : IvmkKind) (ex : Bool) (w : Bool) (s : State) : Host.Outcome State Fault Refusal :=
  runInstr (.ivmk x k ex w) (ivmkBody k ex w) s

/-- IVADD (R130). -/
def execIvadd (x : Ops) (ex : Bool) (w : Bool) (s : State) : Host.Outcome State Fault Refusal :=
  runInstr (.ivadd x ex w) (fun x => ivBody2 ex w (fun f a b => ivOut w x.d f (Iv.add a b)) x) s

/-- IVSUB (R130). -/
def execIvsub (x : Ops) (ex : Bool) (w : Bool) (s : State) : Host.Outcome State Fault Refusal :=
  runInstr (.ivsub x ex w) (fun x => ivBody2 ex w (fun f a b => ivOut w x.d f (Iv.add a b.negate)) x) s

/-- IVMUL (R130). -/
def execIvmul (x : Ops) (ex : Bool) (w : Bool) (s : State) : Host.Outcome State Fault Refusal :=
  runInstr (.ivmul x ex w) (fun x => ivBody2 ex w (fun f a b => ivOut w x.d f (Iv.mul a b)) x) s

/-- IVDIV (R130, R131). -/
def execIvdiv (x : Ops) (ex : Bool) (w : Bool) (s : State) : Host.Outcome State Fault Refusal :=
  runInstr (.ivdiv x ex w) (fun x => ivBody2 ex w (fun f a b => ivOut? w x.d f (f.ivDiv a b)) x) s

/-- IVSQR (R130). -/
def execIvsqr (x : Ops) (ex : Bool) (w : Bool) (s : State) : Host.Outcome State Fault Refusal :=
  runInstr (.ivsqr x ex w) (fun x => ivBody1 ex w (fun f a => ivOut w x.d f a.sqr) x) s

/-- IVSQRT (R130). -/
def execIvsqrt (x : Ops) (ex : Bool) (w : Bool) (s : State) : Host.Outcome State Fault Refusal :=
  runInstr (.ivsqrt x ex w) (fun x => ivBody1 ex w (fun f a => ivOut? w x.d f (f.ivSqrt a)) x) s

/-- IVNEG (R130). -/
def execIvneg (x : Ops) (ex : Bool) (w : Bool) (s : State) : Host.Outcome State Fault Refusal :=
  runInstr (.ivneg x ex w) (fun x => ivBody1 ex w (fun f a => ivOut w x.d f a.negate) x) s

/-- IVABS (R130). -/
def execIvabs (x : Ops) (ex : Bool) (w : Bool) (s : State) : Host.Outcome State Fault Refusal :=
  runInstr (.ivabs x ex w) (fun x => ivBody1 ex w (fun f a => ivOut w x.d f a.abs) x) s

/-- IVMEET (R132). -/
def execIvmeet (x : Ops) (ex : Bool) (w : Bool) (s : State) : Host.Outcome State Fault Refusal :=
  runInstr (.ivmeet x ex w) (fun x => ivBody2 ex w (fun f a b => ivOut w x.d f (a.meet b)) x) s

/-- IVJOIN (R132). -/
def execIvjoin (x : Ops) (ex : Bool) (w : Bool) (s : State) : Host.Outcome State Fault Refusal :=
  runInstr (.ivjoin x ex w) (fun x => ivBody2 ex w (fun f a b => ivOut w x.d f (a.hull b)) x) s

/-- IVMID (R133). -/
def execIvmid (x : Ops) (ex : Bool) (w : Bool) (s : State) : Host.Outcome State Fault Refusal :=
  runInstr (.ivmid x ex w) (fun x => ivBody1 ex w (fun f a => (wN w x.d (BitVec.ofNat 64 (match a with
    | .empty => f.nanCode
    | .mk lo hi => f.ivMid lo hi)), false)) x) s

/-- IVWID (R134). -/
def execIvwid (x : Ops) (ex : Bool) (w : Bool) (s : State) : Host.Outcome State Fault Refusal :=
  runInstr (.ivwid x ex w) (fun x => ivBody1 ex w (fun f a => (wN w x.d (BitVec.ofNat 64 (f.ivWid a)), false)) x) s

/-- IVCMP (R135, R136). -/
def execIvcmp (x : Ops) (r : IvRel) (ex : Bool) (w : Bool) (s : State) : Host.Outcome State Fault Refusal :=
  runInstr (.ivcmp x r ex w) (fun x => ivBody2 ex w (fun _ a b => (w1 x.d (ivCmp r a b), false)) x) s

/-- IVSPLIT (R138 to R140). -/
def execIvsplit (x : Ops) (ex : Bool) (w : Bool) (s : State) : Host.Outcome State Fault Refusal :=
  runInstr (.ivsplit x ex w) (ivsplitBody (.ivsplit x ex w) ex w) s

/-- IVTEST (R137). -/
def execIvtest (x : Ops) (t : IvTest) (w : Bool) (s : State) : Host.Outcome State Fault Refusal :=
  runInstr (.ivtest x t w) (fun x e s =>
    match rdIv w e.t x.a with
    | none => malformed s
    | some a => .done s (w1 x.d (pOf (ivTest t a ((fmtW w).value (rdN w e.t x.b).toNat)))) [] none) s

end Sys2Proof.Machine
end

