-- ==== Sys2Proof/Machine/Queues.lean ====
section
/-!
DEFINITION. Stage queues: the instructions (R213 to R219) and what their units do for them.
-/

namespace Sys2Proof.Machine

/-- A queue of a context. -/
def State.queue (s : State) (ctx q : Nat) : Option Queue := (s.context ctx).queues.look q

/-- Set a queue. -/
def State.setQueue (s : State) (ctx q : Nat) (x : Queue) : State :=
  let c := s.context ctx
  s.setContext ctx { c with queues := c.queues.put q x }

/-- A queue that is bound to a running pipeline (R219). -/
def State.boundQueue (s : State) (ctx q : Nat) : Option Queue :=
  (s.queue ctx q).filter fun x => match x.pipe with
    | some p => (s.pipes.look p).isSome
    | none => false

/-- Items leased (R217). -/
def Queue.leased (x : Queue) : Nat := (x.leases.map fun l => l.items.length).sum

/-- An access violation of a queue instruction (R219). -/
def queueFault (code : Word) (s : State) : Res := .trap .accessViolation 0 code s

/-- The sectors' scratchpad range of a queue instruction: misalignment, then code 0x26 (R219). -/
def Env.queueRange (e : Env) (a n : Nat) : Except (Cause × DWord × Word) Range :=
  let ea := BitVec.ofNat 64 a
  if a % 16 ≠ 0 then .error (.misalignment, ea, 0)
  else match e.localCheck a n with
    | some _ => .error (.accessViolation, ea, 0x26)
    | none => .ok ((e.localPlace a).range n)

/-- Append an item (R213, R214): its arrival sequence, and the key's count, which stays at its maximum. -/
def Queue.append (x : Queue) (i : Item) : Queue :=
  { x with items := x.items ++ [{ i with seq := x.nextSeq }], nextSeq := x.nextSeq + 1,
           counts := x.counts.put i.key (min ((x.counts.look i.key).getD 0 + 1) 0xFFFFFFFF) }

/-- The item that a thread pushes, with its key and its N at the push, which is a release, for the race detector (R275). -/
def State.itemOf (s : State) (r : ThreadRef) (key : Nat) (data : List Byte) : Item :=
  { seq := 0, key := key, data := data, from_ := (s.thread r).map fun t => (s.raceKey r, (t.raceN + 1) % 2 ^ 16) }

/-- A status result, which only the `.nb` form writes (R214). -/
def pushStatus (nb : Bool) (d : Reg) (v : Word) : List (Reg × Word) := if nb then w1 d v else []

/-- Push to a queue on a peer package, which answers (R214, R369). -/
def remotePush (ctx q : Nat) (key : Nat) (data : List Byte) (nb : Bool) (x : Ops) (e : Env) (s : State) : Res :=
  let port := Config.routeQueue ctx q
  if (s.port port).down then .stop (s.linkKill e.ref e.t.pc port)
  else match Config.peerAnswer s.tick with
  | 0 =>
    let s := s.released e.ref
    .done { s with sent := s.sent ++ [{ ctx := ctx, queue := q, key := key, data := data }] } (pushStatus nb x.d 0) [] none
  | 1 => if nb then .done s (pushStatus nb x.d 1) [] none else .wait (.push q) s
  | 2 => if nb then .done s (pushStatus nb x.d 2) [] none else queueFault 0x23 s
  | _ => queueFault 0x0B s

/-- The pending QPOP of a thread whose team is on its cores: a unit passes over that of a parked team (R213, R216). -/
def State.popOf (s : State) (r : ThreadRef) : Option Pending :=
  match s.team r.team with
  | none => none
  | some tm =>
    if tm.phase = .parked ∨ tm.phase = .restoring then none
    else ((Tbl.look tm.threads r.tid).bind fun t => t.pend).filter fun p => match p.kind with
      | .qpop _ _ => true
      | .rvx | .rvred _ => false

/-- What a unit answers to a QPOP: the items and the result pair (R215, R216). -/
structure PopAnswer where
  items : List Item
  count : Word
  info : Word
deriving DecidableEq, Repr

/-- The first `n` items of a key, in their order. -/
def takeKey (key : Nat) : Nat → List Item → List Item
  | 0, _ => []
  | _, [] => []
  | n + 1, i :: l => if i.key = key then i :: takeKey key n l else takeKey key (n + 1) l

/-- The answer to a QPOP, if it can be answered now (R216). -/
def Queue.answerTo (u : Queue) (p : Pending) : Option PopAnswer :=
  match u.items with
  | y :: _ => let l := takeKey y.key p.arg u.items; some ⟨l, BitVec.ofNat 32 l.length, BitVec.ofNat 32 y.key⟩
  | [] =>
    if u.closed && u.leases.isEmpty then some ⟨[], 0, 0x80000000⟩
    else match p.kind with
      | .qpop _ true => some ⟨[], 0, 0⟩
      | .qpop _ false | .rvx | .rvred _ => none

/-- The earliest request that the unit can answer (R213). -/
def State.popReady (s : State) (u : Queue) : Option (ThreadRef × Pending × PopAnswer) :=
  u.pops.findSome? fun r => (s.popOf r).bind fun p => (u.answerTo p).map fun a => (r, p, a)

/-- The queue after it has answered a thread's QPOP: the items are leased to the thread's team (R217). -/
def Queue.served (u : Queue) (r : ThreadRef) (a : PopAnswer) : Queue :=
  { u with
    items := u.items.filter fun i => !(a.items.any fun j => j.seq == i.seq)
    pops := u.pops.filter fun x => x != r
    leases := if a.items.isEmpty then u.leases else u.leases ++ [{ team := r.team, tid := r.tid, items := a.items }] }

/-- The acquire of a QPOP, as the race detector records it (R275). -/
def raceTake (tab : List (RaceKey × Nat)) (l : List Item) : List (RaceKey × Nat) :=
  l.foldl (fun tab i => match i.from_ with
    | some f => raceNote tab f.1 f.2
    | none => tab) tab

/-- A QPOP is answered (R216, R217): the items are written into the scratchpad, then the pair becomes full. -/
def State.servePop (s : State) (ctx q : Nat) (r : ThreadRef) (p : Pending) (a : PopAnswer) : State :=
  match s.queue ctx q with
  | none => s
  | some u =>
    let s := (s.setQueue ctx q (u.served r a)).writeBytes .package (localByte r.team p.val.toNat) (a.items.flatMap fun i => i.data)
    (s.updThread r fun t => { t with raceTab := raceTake t.raceTab a.items }).answer r [(p.dst, a.count), (p.dst + 1, a.info)]

/-- The first waiting push is accepted; its thread goes on (R214). -/
def State.acceptPush (s : State) (ctx q : Nat) (r : ThreadRef) : State :=
  match s.queue ctx q with
  | none => s
  | some u => match u.pushes with
    | [] => s
    | w :: l => (s.setQueue ctx q (({ u with pushes := l } : Queue).append w.2)).updThread r fun t =>
        { t with status := .runnable, resume := some (.push q) }

/-- A request that a queue unit serves. -/
inductive Request where
  | pop (r : ThreadRef) (p : Pending) (a : PopAnswer)
  | push (r : ThreadRef)
deriving DecidableEq, Repr

/-- The request that the unit serves next: of those that it can serve now, the one that arrived first (R213). -/
def State.nextRequest (s : State) (ctx q : Nat) : Option Request :=
  match s.boundQueue ctx q with
  | none => none
  | some u =>
    let push := if u.closed || decide (u.cap ≤ u.items.length) then none else u.pushes.head?
    match s.popReady u, push with
    | some (r, p, a), some w => some (if p.id < w.2.seq then .pop r p a else .push w.1)
    | some (r, p, a), none => some (.pop r p a)
    | none, some w => some (.push w.1)
    | none, none => none

/-- The unit serves up to `n` requests in their order. -/
def State.serveSome (ctx q : Nat) : Nat → State → State
  | 0, s => s
  | n + 1, s => match s.nextRequest ctx q with
    | some (.pop r p a) => State.serveSome ctx q n (s.servePop ctx q r p a)
    | some (.push r) => State.serveSome ctx q n (s.acceptPush ctx q r)
    | none => s

/-- The unit serves every request that came before a new one, as far as it can (R213). -/
def State.serveAll (s : State) (ctx q : Nat) : State :=
  match s.queue ctx q with
  | some u => State.serveSome ctx q (u.pops.length + u.pushes.length) s
  | none => s

/-- Push to a queue of this package (R213, R214); the requests that came before it are served first, and one that waits has its number among them. -/
def localPush (ctx q : Nat) (u : Queue) (key : Nat) (data : List Byte) (nb : Bool) (x : Ops) (e : Env) (s : State) : Res :=
  let s := s.serveAll ctx q
  let u := (s.queue ctx q).getD u
  if u.closed then (if nb then .done s (pushStatus nb x.d 2) [] none else queueFault 0x23 s)
  else if decide (u.items.length < u.cap) && u.pushes.isEmpty then
    .done ((s.setQueue ctx q (u.append (s.itemOf e.ref key data))).released e.ref) (pushStatus nb x.d 0) [] none
  else if nb then .done s (pushStatus nb x.d 1) [] none
  else .wait (.push q) (s.fresh.setQueue ctx q { u with pushes := u.pushes ++ [(e.ref, { s.itemOf e.ref key data with seq := s.nextId })] })

/-- A push whose checks have passed and whose item is known. -/
def pushItem (ctx q : Nat) (u : Queue) (key : Nat) (data : List Byte) (nb : Bool) (x : Ops) (e : Env) (s : State) : Res :=
  if u.remote then remotePush ctx q key data nb x e s else localPush ctx q u key data nb x e s

/-- QPUSH (R214); a push that its queue has accepted goes on from its wait. -/
def qpushBody (nb w : Bool) (x : Ops) (e : Env) (s : State) : Res :=
  let q := x.c.toNat
  let ctx := e.pl.ctxNum
  if e.t.resume = some (.push q) then .done (s.released e.ref) (pushStatus nb x.d 0) [] none
  else match s.boundQueue ctx q with
  | none => queueFault 0x20 s
  | some u =>
    let key := (srcB x e.t).toNat
    if u.isize ≠ (if w then 64 else 16) then queueFault 0x22 s
    else if u.keys ≤ key then queueFault 0x21 s
    else if w then
      let a := (e.t.rd x.a).toNat
      match e.queueRange a 64 with
      | .error (c, ea, ei) => .trap c ea ei s
      | .ok r => readingNow e s [r] fun _ => releasing e s fun _ => pushItem ctx q u key (s.bytes (e.localPlace a) 64) nb x e s
    else releasing e s fun _ => pushItem ctx q u key (leBytes 16 (e.t.quad x.a).toNat) nb x e s

/-- The lease of a thread on a queue ends (R217). -/
def Queue.endLease (x : Queue) (r : ThreadRef) : Queue :=
  { x with leases := x.leases.filter fun l => !(l.team == r.team && l.tid == r.tid) }

/-- QPOP (R216): the thread's lease on the queue ends when it issues, before the wait for the thread's earlier request (R205, R217). -/
def qpopBody (grp nb : Bool) (x : Ops) (e : Env) (s : State) : Res :=
  let q := x.c.toNat
  let ctx := e.pl.ctxNum
  match s.boundQueue ctx q with
  | none => queueFault 0x20 s
  | some u =>
    let n := if grp then (srcB x e.t).toNat else 1
    let a := (e.t.rd x.a).toNat
    if u.remote then queueFault 0x24 s
    else if n = 0 || decide (256 < n) then queueFault 0x25 s
    else match e.queueRange a (n * u.isize) with
      | .error (c, ea, ei) => .trap c ea ei s
      | .ok r =>
        if Config.outstanding ≤ e.t.inFlight then .wait .limit s
        else
          let u := u.endLease e.ref
          let s := s.setQueue ctx q u
          if e.t.pend.isSome then .wait .request s
          else readingNow e s [r] fun _ =>
          let p : Pending := { id := s.nextId, kind := .qpop grp nb, dst := x.d, size := q, val := e.t.rd x.a, arg := n, pc := e.t.pc, einst := e.words }
          let s := s.setQueue ctx q { u with pops := u.pops ++ [e.ref] }
          .done (s.fresh.updThread e.ref fun t => { t with pend := some p }) [] [x.d, x.d + 1] none

/-- QCNT (R218). -/
def qcntBody (rst : Bool) (x : Ops) (e : Env) (s : State) : Res :=
  let q := x.c.toNat
  let ctx := e.pl.ctxNum
  match s.boundQueue ctx q with
  | none => queueFault 0x20 s
  | some u =>
    let key := (e.t.rd x.a).toNat
    if u.remote then queueFault 0x24 s
    else if u.keys ≤ key then queueFault 0x21 s
    else
      let s := s.serveAll ctx q
      let u := (s.queue ctx q).getD u
      let v := (u.counts.look key).getD 0
      .done (if rst then s.setQueue ctx q { u with counts := u.counts.put key 0 } else s) (w1 x.d (BitVec.ofNat 32 v)) [] none

/-- A queue closes: waiting pushes are refused (R214, R218). -/
def Queue.close (x : Queue) : Queue := { x with closed := true, pushes := [] }

/-- A queue is closed, once the requests before have been served as far as they can be (R213, R218). -/
def State.closeQueue (s : State) (ctx q : Nat) : State :=
  let s := s.serveAll ctx q
  match s.queue ctx q with
  | some u => s.setQueue ctx q u.close
  | none => s

/-- QCLOSE (R218). -/
def qcloseBody (x : Ops) (e : Env) (s : State) : Res :=
  let q := x.c.toNat
  let ctx := e.pl.ctxNum
  match s.boundQueue ctx q with
  | none => queueFault 0x20 s
  | some u => if u.remote then queueFault 0x24 s else .done (s.closeQueue ctx q) [] [] none

/-- A count as a field of QSTAT's pair shows it (R218). The fields give 0 to 65,536; leases, and items that a kill returns to a full queue, can exceed that,
and R218 states nothing there: a free value of the field, log entry 76. -/
def statCount (n : Nat) : Word := if n ≤ 65536 then BitVec.ofNat 32 n else (Config.overCount n).setWidth 32

/-- QSTAT's pair (R218). -/
def Queue.stat (x : Queue) : Word × Word :=
  if x.remote then (0, 0x40000000)
  else (statCount x.items.length, (if x.closed then 0x80000000 else 0) ||| statCount x.leased)

/-- QSTAT (R218). -/
def qstatBody (x : Ops) (e : Env) (s : State) : Res :=
  let q := x.c.toNat
  let ctx := e.pl.ctxNum
  match s.boundQueue ctx q with
  | none => queueFault 0x20 s
  | some u =>
    let s := s.serveAll ctx q
    let v := ((s.queue ctx q).getD u).stat
    .done s [(x.d, v.1), (x.d + 1, v.2)] [] none

/-- QPUSH (R214). -/
def execQpush (x : Ops) (nb w : Bool) (s : State) : Host.Outcome State Fault Refusal := runInstr (.qpush x nb w) (qpushBody nb w) s

/-- QPOP (R216). -/
def execQpop (x : Ops) (grp nb : Bool) (s : State) : Host.Outcome State Fault Refusal :=
  runInstr (.qpop x grp nb) (qpopBody grp nb) s

/-- QCNT (R218). -/
def execQcnt (x : Ops) (rst : Bool) (s : State) : Host.Outcome State Fault Refusal := runInstr (.qcnt x rst) (qcntBody rst) s

/-- QCLOSE (R218). -/
def execQclose (x : Ops) (s : State) : Host.Outcome State Fault Refusal := runInstr (.qclose x) qcloseBody s

/-- QSTAT (R218). -/
def execQstat (x : Ops) (s : State) : Host.Outcome State Fault Refusal := runInstr (.qstat x) qstatBody s

end Sys2Proof.Machine
end

