-- ==== Sys2Proof/Machine/Rendezvous.lean ====
section
/-!
DEFINITION. Barriers, rendezvous and the wait on memory (R201 to R212).
-/

namespace Sys2Proof.Machine

/-- The thread has arrived in the current generation of a barrier (R202). -/
def State.arrived (s : State) (e : Env) (n : Nat) : Bool :=
  match s.team e.ref.team with
  | some tm => (tm.barrier n).arrived.contains e.ref.tid
  | none => false

/-- The current generation of a barrier. -/
def State.gen (s : State) (team n : Nat) : Nat :=
  match s.team team with
  | some tm => (tm.barrier n).gen
  | none => 0

/-- The thread arrives at a barrier, which is tested (R201, R202). -/
def State.arriveAt (s : State) (e : Env) (n : Nat) : State :=
  let now := (s.core (e.tm.cores.headD 0)).clock
  ((s.released e.ref).updTeam e.ref.team fun tm => tm.arrive n e.ref.tid now).testSync e.ref.team

/-- BARA (R202). -/
def baraBody (x : Ops) (e : Env) (s : State) : Res :=
  let n := x.c.toNat
  let g := s.gen e.ref.team n
  if s.arrived e n then .wait (.barrier n g) s
  else releasing e s fun _ => .done (s.arriveAt e n) (w1 x.d (BitVec.ofNat 32 g)) [] none

/-- BARW (R202). -/
def barwBody (x : Ops) (e : Env) (s : State) : Res :=
  let n := x.c.toNat
  let tok := (e.t.rd x.a).toNat
  if s.gen e.ref.team n = tok then .wait (.barrier n tok) s else .done s [] [] none

/-- BAR (R202): a BAR that has waited goes on from the generation it waited for. -/
def barBody (x : Ops) (e : Env) (s : State) : Res :=
  let n := x.c.toNat
  let g := s.gen e.ref.team n
  match e.t.resume with
  | some (.barrier m h) =>
    if m = n then (if g = h then .wait (.barrier n h) s else .done s [] [] none)
    else .done s [] [] none
  | some _ | none =>
    if s.arrived e n then .wait (.barrier n g) s
    else releasing e s fun _ =>
      let s' := s.arriveAt e n
      if s'.gen e.ref.team n = g then .wait (.barrier n g) s' else .done s' [] [] none

/-- A rendezvous request is made (R205, R206): it waits for the thread's earlier request and for room among the outstanding
operations. -/
def requestBody (p : Pending) (e : Env) (s : State) : Res :=
  if e.t.pend.isSome then .wait .request s
  else if Config.outstanding ≤ e.t.inFlight then .wait .limit s
  else releasing e s fun _ =>
    let s := s.released e.ref
    let now := (s.core (e.tm.cores.headD 0)).clock
    let base := e.ref.tid / 2 ^ p.size * 2 ^ p.size
    let s := s.updTeam e.ref.team fun tm =>
      if tm.rdvAges.any fun a => a.base == base && a.size == p.size then tm
      else { tm with rdvAges := tm.rdvAges ++ [{ base := base, size := p.size, elapsed := 0, since := now, fired := false }] }
    .done (s.fresh.updThread e.ref fun t => { t with pend := some p }) [] [p.dst] none

/-- RVX (R208). -/
def rvxBody (x : Ops) (e : Env) (s : State) : Res :=
  requestBody { id := s.nextId, kind := .rvx, dst := x.d, size := x.c.toNat, val := e.t.rd x.a, arg := (e.t.rd x.b).toNat, pc := e.t.pc,
                einst := e.words } e s

/-- RVRED (R209). -/
def rvredBody (op : RvOp) (x : Ops) (e : Env) (s : State) : Res :=
  requestBody { id := s.nextId, kind := .rvred op, dst := x.d, size := x.c.toNat, val := e.t.rd x.a, arg := 0, pc := e.t.pc, einst := e.words } e s

/-- The relation of WAITA (R211). -/
def waitHolds (ne : Bool) (v c : Word) : Bool := if ne then decide (v ≠ c) else decide (v = c)

/-- WAITA (R211, R212, R260): each look translates the address afresh, and goes to the peer package for a remote word (R368, R369). -/
def waitaBody (sc : Scope) (sp : Space) (ne : Bool) (x : Ops) (e : Env) (s : State) : Res :=
  let a := if sp = .glb then (e.t.pair x.a).toNat else (e.t.rd x.a).toNat
  match s.resolve e sp a 4 4 .read with
  | (.fault c ea ei, s') => .trap c ea ei s'
  | (.pageFault r, s') => .stop (s'.threadFault e 0 r a)
  | (.window _ _ _, s') => .trap .sketchAccess (BitVec.ofNat 64 a) 1 s'
  | (.at_ t _, s') =>
    let s' := s'.keepPage e
    let c := srcB x e.t
    let again (s : State) : Res := .wait (.address t (BitVec.ofNat 64 a) c ne sc) s
    if s'.linkDead t then .stop (s'.linkKill e.ref e.t.pc (Config.route t.addr))
    else if t.mem = .peer ∧ 3 ≤ Config.peerAnswer s'.tick then .trap .accessViolation (BitVec.ofNat 64 a) 0x0B s'
    else if !s'.readReady e.ref e.core e.t (t.range 4) then again s'
    else if s'.poisoned (t.range 4) then .stop (s'.poisonKill e.ref e.t.pc t)
    else
      let v : Word := BitVec.ofNat 32 (s'.load t 4)
      if waitHolds ne v c then
        .done (s'.raceAccess { ref := e.ref, core := e.core, pc := e.t.pc, einst := e.words, va := BitVec.ofNat 64 a, at_ := t, size := 4, write := false,
                               atomic := false, ord := .acq, scope := sc, n := 0 }) (w1 x.d v) [] none
      else again s'

/-- BAR (R202). -/
def execBar (x : Ops) (s : State) : Host.Outcome State Fault Refusal := runInstr (.bar x) barBody s

/-- BARA (R202). -/
def execBara (x : Ops) (s : State) : Host.Outcome State Fault Refusal := runInstr (.bara x) baraBody s

/-- BARW (R202). -/
def execBarw (x : Ops) (s : State) : Host.Outcome State Fault Refusal := runInstr (.barw x) barwBody s

/-- RVX (R204 to R208): the instance is tested when the arrival has been made. -/
def execRvx (x : Ops) (s : State) : Host.Outcome State Fault Refusal := andThen State.testCur (runInstr (.rvx x) rvxBody s)

/-- RVRED (R204 to R207, R209, R210). -/
def execRvred (x : Ops) (op : RvOp) (s : State) : Host.Outcome State Fault Refusal :=
  andThen State.testCur (runInstr (.rvred x op) (rvredBody op) s)

/-- WAITA (R211, R212). -/
def execWaita (x : Ops) (sc : Scope) (sp : Space) (ne : Bool) (s : State) : Host.Outcome State Fault Refusal :=
  runInstr (.waita x sc sp ne) (waitaBody sc sp ne) s

end Sys2Proof.Machine
end

