-- ==== Sys2Proof/Machine/Threads.lean ====
section
/-!
DEFINITION. Steps of a thread's own hardware and of the homes: accesses are performed, producers complete, waits end
(R172, R174, R177, R224, R244, R257 to R259, R289, R298, R375).
-/

namespace Sys2Proof.Machine

/-- An exited thread's slot is freed once none of its producers is in flight (R197). -/
def Thread.settle (t : Thread) : Thread := if t.status = .exited ∧ t.producing = false then { t with loc := .none } else t

/-- An operation of a thread is over. -/
def Thread.dropOp (t : Thread) (id : Nat) : Thread := ({ t with ops := t.ops.filter fun o => o.id != id } : Thread).settle

/-- An operation of a thread. -/
def State.memOp (s : State) (r : ThreadRef) (id : Nat) : Option (Thread × MemOp) :=
  (s.thread r).bind fun t => (t.ops.find? fun o => o.id == id).map fun o => (t, o)

/-- The operation that has an access. -/
def State.accessOf (s : State) (r : ThreadRef) (id : Nat) : Option (Thread × MemOp × Access) :=
  (s.thread r).bind fun t => (t.ops.findSome? fun o => (o.accs.find? fun a => a.id == id && a.done.isNone).map fun a => (o, a)).map fun p =>
    (t, p.1, p.2)

/-- An access has taken a value, for good or early, with conditions. -/
def MemOp.perform (o : MemOp) (id v : Nat) (early : Bool) (c : Conds) : MemOp :=
  { o with accs := o.accs.map (fun a => if a.id = id then { a with done := some v, early := early } else a), conds := o.conds.join c }

/-- The counter of an operation's events: the issuing core (R159, R259). -/
def MemOp.counter (o : MemOp) (r : ThreadRef) : Counter := { core := o.core, ref := r, pc := o.pc, einst := o.einst }

/-- An acquire may synchronise with an agent in its scope instance that has written its location since its issue (R263, R264). -/
def MemOp.mayHear (o : MemOp) (r : ThreadRef) : Bool := ordAcquires o.ord && o.seen.any fun g => scopeHolds o.scope r o.core g

/-- What an acquire that has been performed means for the accesses of later operations that took their values early: they take them again where it
may synchronise, and otherwise they stand, unless another acquire before them has still to be performed (R263, R264); an acquire that stands now has been
performed itself, and means the same for those after it. `open_` tells whether an acquire has still to be performed. -/
def settleEarly (r : ThreadRef) (again open_ : Bool) : List MemOp → List MemOp
  | [] => []
  | p :: l =>
    let f (a : Access) : Access :=
      if !a.early then a else if again then { a with done := none, early := false } else { a with early := open_ }
    let p' := { p with accs := p.accs.map f }
    p' :: settleEarly r (again || (!p.isDone && p'.isDone && p.mayHear r)) (open_ || (ordAcquires p.ord && !p'.isDone)) l

/-- The thread's operations once one of them has moved on. -/
def Thread.setOp (t : Thread) (r : ThreadRef) (o : MemOp) : Thread :=
  let before := t.before o.id
  let after := (t.ops.dropWhile fun p => p.id != o.id).drop 1
  { t with ops := before ++ o :: (if ordAcquires o.ord && o.isDone then settleEarly r (o.mayHear r) (before.any fun p => ordAcquires p.ord && !p.isDone) after
                                  else after) }

/-- The access of an operation has been performed; one without a destination reports and is over (R249, R259). -/
def State.performed (s : State) (r : ThreadRef) (o : MemOp) (id v : Nat) (c : Conds) : State :=
  let o' := o.perform id v false c
  let s := s.updThread r fun t => t.setOp r o'
  if o'.dstN = 0 && o'.isDone then (s.raise (o.counter r) [o'.conds]).updThread r fun t => t.dropOp o.id else s

/-- The access of an operation has taken its value early. -/
def State.tookEarly (s : State) (r : ThreadRef) (o : MemOp) (id v : Nat) : State := s.updThread r fun t => t.setOp r (o.perform id v true {})

/-- The race detector sees an access of an operation that writes or does not, with the thread's N in program order (R275). -/
def State.raceOp (s : State) (r : ThreadRef) (o : MemOp) (a : Access) (write : Bool) : State :=
  s.raceAccess { ref := r, core := o.core, pc := o.pc, einst := o.einst, va := o.va + BitVec.ofNat 64 (a.at_.addr - (o.accs.headD a).at_.addr), at_ := a.at_,
                 size := a.size, write := write, atomic := o.kind.reads && o.kind.writes, ord := o.ord, scope := o.scope,
                 n := o.n }

/-- The stack of a physical HBM address (R14). -/
def stackOf (pa : Nat) : Nat := 3 * (pa / Config.dieHbm) + pa % Config.dieHbm / 4096 % 3

/-- The home sends a tagged packet to the stack's controller for an access to HBM (R233). -/
def State.sendTag (s : State) (a : Access) : State :=
  match a.at_.mem with
  | .hbm => let k := s.stack (stackOf a.at_.addr); s.setStack (stackOf a.at_.addr) { k with tags := k.tags ++ [a.id] }
  | .host | .peer | .ws | .spad .. | .oper .. | .acc .. | .kept .. => s

/-- The home still waits for the stack's reply to an access of an operation (R233). -/
def State.awaitsReply (s : State) (o : MemOp) : Bool := o.accs.any fun a => s.hbm.any fun k => k.2.tags.contains a.id

/-- The access reaches a weight-store bank in refresh: it waits. Bank b is in refresh while the phase lies in b × 512 to b × 512 + 511 (R192, R231). A
line that the core's L1 holds does not reach it (R232). -/
def State.inRefresh (s : State) (core : Nat) (t : Target) : Bool :=
  match t.mem with
  | .ws => decide (s.wsPhase core / 512 = t.addr / 4096 % 64) && !((s.core core).l1.any fun l => decide (l.line = lineOf t))
  | .hbm | .host | .peer | .spad .. | .oper .. | .acc .. | .kept .. => false

/-- An access over a port that is down: it is performed for nobody. -/
def State.deadAccess (s : State) (r : ThreadRef) (o : MemOp) (a : Access) : State :=
  (s.performed r o a.id 0 {}).linkKill r o.pc (Config.route a.at_.addr)

/-- What the home does for an operation. -/
def OpKind.use : OpKind → HomeUse
  | .load _ | .loadIv _ | .skQuery .. | .skStat _ | .arith => .read
  | .store | .skInsert .. | .skWork _ => .write
  | .atomic _ | .atomicF _ | .compare => .atomic

/-- A release that is performed before earlier stores of its thread leaves a mark on what it touches (R263). -/
def State.noteAhead (s : State) (r : ThreadRef) (t : Thread) (o : MemOp) (a : Access) : State :=
  if orderReady (t.before o.id) o a then s
  else { s with marks := s.marks ++ (o.spans a).map fun x => { range := x, ref := r, op := o.id, scope := o.scope, core := o.core } }

/-- The thread still issues in this clock of its core. -/
def State.inStitch (s : State) (core : Nat) (r : ThreadRef) : Bool := (s.core core).stitch.any fun t => decide (t.1 = r)

/-- HOME_REQUEST (R224, R229, R244, R249): one access of a load or a store is performed at its home or port; a load may take its value before an
acquire that orders it for narrower scopes only (R263). -/
def execHomeRequest (r : ThreadRef) (id : Nat) (s : State) : Host.Outcome State Fault Refusal :=
  match s.accessOf r id with
  | none => .fault .notEnabled
  | some (t, o, a) =>
    let ready := s.accessReady r t o a
    if !(ready || s.accessEarly r t o a) || s.inRefresh o.core a.at_ || !s.cacheRoom o.cp o.core a.at_ o.kind.use o.hint then .fault .notEnabled
    else
      match o.kind with
      | .load _ | .loadIv _ =>
        if s.linkDead a.at_ then .next (s.deadAccess r o a)
        else
          let s' := ((s.coherent o.grain o.cp o.core a.at_ .read o.hint).raceOp r o a false).sendTag a
          if s.poisoned a.range then .next ((s'.performed r o id 0 {}).poisonKill r o.pc a.at_)
          else if ready then .next (s'.performed r o id (s.load a.at_ a.size) {})
          else .next (s'.tookEarly r o id (s.load a.at_ a.size))
      | .store =>
        if s.linkDead a.at_ then .next (s.deadAccess r o a)
        else
          let s' := ((s.coherent o.grain o.cp o.core a.at_ .write o.hint).raceOp r o a true).sendTag a
          let s' := (s'.writeData (.thread r o.core) false a.at_ a.size a.data).noteAhead r t o a
          .next (s'.performed r o id 0 {})
      | .atomic _ | .atomicF _ | .compare | .skQuery .. | .skInsert .. | .skStat _ | .skWork _ | .arith => .fault .notEnabled

/-- A number of `n` bytes as a signed one. -/
def signedN (n v : Nat) : Int := if v < 2 ^ (8 * n - 1) then (v : Int) else (v : Int) - 2 ^ (8 * n)

/-- The new value of an atomic (R257). -/
def atomicNew (op : AOp) (n m b : Nat) : Nat :=
  match op with
  | .add | .addI64 => (m + b) % 2 ^ (8 * n)
  | .and => m &&& b
  | .or => m ||| b
  | .xor => m ^^^ b
  | .exch => b
  | .min => if signedN n m ≤ signedN n b then m else b
  | .max => if signedN n m ≤ signedN n b then b else m
  | .minZ => min m b
  | .maxZ => max m b
  | .addF32 => (f32.add .rne m b).1

/-- The new value of a float atomic, with its conditions (R257, R259). -/
def atomicFNew (op : AfOp) (m b : Nat) : Nat × Conds :=
  match op with
  | .addF32 => f32.add .rne m b
  | .minF32 => f32.minMax false false m b
  | .maxF32 => f32.minMax true false m b
  | .addF64 => f64.add .rne m b
  | .minF64 => f64.minMax false false m b
  | .maxF64 => f64.minMax true false m b

/-- What an atomic writes at its home, if it writes, and its conditions (R258). -/
def MemOp.rmw (o : MemOp) (a : Access) (m : Nat) : Option Nat × Conds :=
  match o.kind with
  | .atomic op => (some (atomicNew op a.size m a.data), {})
  | .atomicF op => let r := atomicFNew op m a.data; (some r.1, r.2)
  | .compare => (if m = o.cmp then some a.data else none, {})
  | .load _ | .loadIv _ | .store | .skQuery .. | .skInsert .. | .skStat _ | .skWork _ | .arith => (none, {})

/-- The operation is an atomic of row 0xA. -/
def OpKind.isAtomic : OpKind → Bool
  | .atomic _ | .atomicF _ | .compare => true
  | .load _ | .loadIv _ | .store | .skQuery .. | .skInsert .. | .skStat _ | .skWork _ | .arith => false

/-- HOME_ATOMIC (R258, R259): one indivisible read-modify-write at the home. One that can raise conditions is not performed between the issues of its
core's stitches and its own thread's (R91). -/
def execHomeAtomic (r : ThreadRef) (id : Nat) (s : State) : Host.Outcome State Fault Refusal :=
  match s.accessOf r id with
  | none => .fault .notEnabled
  | some (t, o, a) =>
    if !o.kind.isAtomic || !s.accessReady r t o a || !s.cacheRoom o.cp o.core a.at_ .atomic o.hint || (o.kind.flags && s.inStitch o.core r) then
      .fault .notEnabled
    else if s.linkDead a.at_ then .next (s.deadAccess r o a)
    else
      let m := s.load a.at_ a.size
      let w := o.rmw a m
      let s' := ((s.coherent o.grain o.cp o.core a.at_ .atomic o.hint).raceOp r o a w.1.isSome).sendTag a
      if s.poisoned a.range then .next ((s'.performed r o id 0 {}).poisonKill r o.pc a.at_)
      else
        let s' := match w.1 with
          | some v => s'.writeData (.thread r o.core) true a.at_ a.size v
          | none => s'
        .next ((s'.noteAhead r t o a).performed r o id m w.2)

/-- A sketch operation is free of engines and, where it reads, of releases performed ahead (R245, R263, R272). -/
def State.sketchFree (s : State) (r : ThreadRef) (o : MemOp) (a : Access) (slot : Nat) (k : Bind) : Bool :=
  s.instanceFree false r a.id (s.ctxOf r) slot k.ranges
    && (!o.kind.reads || (o.spans a).all fun x => !s.markHolds (.thread r o.core) x)

/-- A sketch operation may be performed: in the thread's order, or a release ahead of earlier stores. -/
def State.sketchReady (s : State) (r : ThreadRef) (t : Thread) (o : MemOp) (a : Access) (slot : Nat) (k : Bind) : Bool :=
  s.mayPerform r t o a && s.sketchFree r o a slot k

/-- A query may be answered before an acquire that orders it for narrower scopes only (R263). -/
def State.sketchEarly (s : State) (r : ThreadRef) (t : Thread) (o : MemOp) (a : Access) (slot : Nat) (k : Bind) : Bool :=
  s.mayTakeEarly r t o a && s.sketchFree r o a slot k

/-- The slot whose instance an access of an operation acts on: a merge reads its source, then writes its destination (R294). -/
def MemOp.skSlot (o : MemOp) (a : Access) : Option Nat :=
  match o.kind with
  | .skQuery k _ | .skInsert k _ _ | .skStat k | .skWork (.fold k) | .skWork (.clear k) | .skWork (.free k) => some k
  | .skWork (.merge d c) => some (if (o.accs.headD a).id = a.id then c else d)
  | .load _ | .loadIv _ | .store | .atomic _ | .atomicF _ | .compare | .arith => none

/-- The bytes of a state whose poison ends an operation (R375): SKCLR reads DESC alone and writes the body whole, SKFREE reads nothing. -/
def Bind.readBy (k : Bind) (o : MemOp) : List Range :=
  match o.kind with
  | .skWork (.clear _) => blockRanges k.frames k.state 64
  | .skWork (.free _) => []
  | .skQuery .. | .skInsert .. | .skStat _ | .skWork (.fold _) | .skWork (.merge ..) | .load _ | .loadIv _ | .store | .atomic _ | .atomicF _
  | .compare | .arith => k.ranges

/-- The unit reads a poisoned state (R375): the issuing thread is killed; if it has exited, the operation is dropped and recorded. -/
def State.skPoisoned (s : State) (r : ThreadRef) (o : MemOp) (at_ : Target) : State :=
  let gone : Bool := match s.thread r with
    | some t => decide (t.status = .exited)
    | none => true
  let s' := s.updThread r fun t => t.dropOp o.id
  if gone then
    match s.team r.team with
    | some tm => s'.logStage tm { s.errFor tm r.tid 2 with unit := at_.mem.unit, pc := o.pc, addr := at_.addr }
    | none => s'
  else s'.poisonKill r o.pc at_

/-- Every SKFREE of a slot is over (R292): of two that found the slot bound, the first unbinds it and both end without a fault; DESIGN CHOICE, log entry 74. -/
def State.freed (s : State) (ctx slot : Nat) : State :=
  let s := s.setBind ctx slot none
  { s with teams := s.teams.map fun tm => match s.pipeOf tm.2 with
      | some p => if p.ctxNum = ctx then
          (tm.1, { tm.2 with threads := tm.2.threads.map fun t => (t.1, { t.2 with ops := t.2.ops.filter fun o => decide (o.kind ≠ .skWork (.free slot)) }) })
        else tm
      | none => tm }

/-- SKETCH_OPERATION (R283 to R286, R289, R294 to R296, R298): the sketch unit performs one operation of a bound instance, or one half of a merge. -/
def execSketchOperation (r : ThreadRef) (id : Nat) (s : State) : Host.Outcome State Fault Refusal :=
  match s.accessOf r id with
  | none => .fault .notEnabled
  | some (t, o, a) =>
    match (o.skSlot a).bind fun k => (s.bound (s.ctxOf r) k).map fun b => (k, b) with
    | none => .fault .notEnabled
    | some (slot, k) =>
      let ready := s.sketchReady r t o a slot k
      if !(ready || s.sketchEarly r t o a slot k) then .fault .notEnabled
      else match (k.readBy o).find? fun g => s.poisoned g with
        | some g => .next (s.skPoisoned r o ⟨g.mem, g.lo⟩)
        | none =>
          let seen (i : State × Bool) : State :=
            let s' := (i.1.skWrote (.thread r o.core) k).performed r o id 0 {}
            if i.2 then s'.count (o.counter r) [6] else s'
          let answer (v : Nat) : State := if ready then s.performed r o id v {} else s.tookEarly r o id v
          match o.kind with
          | .skQuery _ key => .next (answer (s.skQuery k key).toNat)
          | .skStat _ => .next (answer (s.skStat k))
          | .skInsert _ key v => .next (seen ((s.noteAhead r t o a).skInsert k key v))
          | .skWork (.fold _) => .next (seen (s.skFold k))
          | .skWork (.clear _) => .next (seen (s.skClear k, false))
          | .skWork (.free _) => if s.slotBusy (s.ctxOf r) slot then .fault .notEnabled else .next (s.freed (s.ctxOf r) slot)
          | .skWork (.merge ..) =>
            match o.accs with
            | [b, c] =>
              if b.id = id then .next (s.performed r o id (leNat (s.skBytes k 0 (64 + (s.skNow k).body))) {})
              else if c.id = id then match b.done with
                | some v => .next (seen (s.skMerge k (leBytes (64 + (s.skNow k).body) v)))
                | none => .fault .notEnabled
              else .fault .notEnabled
            | _ => .fault .notEnabled
          | .load _ | .loadIv _ | .store | .atomic _ | .atomicF _ | .compare | .arith => .fault .notEnabled

/-- The value that the accesses of an operation have given, the first least significant (R224). -/
def MemOp.value (o : MemOp) : Nat :=
  o.accs.foldr (fun a v => a.done.getD 0 + 2 ^ (8 * a.size) * v) 0

/-- A small load sign-extended (R249). -/
def extendLoad (sx : Bool) (size v : Nat) : Nat :=
  if sx then (match size with
    | 1 => ((BitVec.ofNat 8 v).signExtend 32).toNat
    | 2 => ((BitVec.ofNat 16 v).signExtend 32).toNat
    | _ => v) else v

/-- The number that a producer writes into its destination. -/
def MemOp.result (o : MemOp) : Nat :=
  match o.kind with
  | .load sx => extendLoad sx (match o.accs with
      | [a] => a.size
      | _ => 8) o.value
  | .loadIv _ | .store | .atomic _ | .atomicF _ | .compare | .skQuery .. | .skInsert .. | .skStat _ | .skWork _ | .arith =>
    match o.accs with
    | [a] => a.done.getD 0
    | _ => o.value

/-- An interval load has brought a malformed value (R125, R250). -/
def MemOp.malformed (o : MemOp) : Bool :=
  match o.kind with
  | .loadIv true => (f64.iv (o.result % 2 ^ 64) (o.result / 2 ^ 64)).isNone
  | .loadIv false => (f32.iv (o.result % 2 ^ 32) (o.result / 2 ^ 32)).isNone
  | .load _ | .store | .atomic _ | .atomicF _ | .compare | .skQuery .. | .skInsert .. | .skStat _ | .skWork _ | .arith => false

/-- PRODUCER_COMPLETION (R95, R177, R250, R259): the destination is written and full, the conditions are raised, not between the issues of its core's
stitches and its own thread's (R91). -/
def execProducerCompletion (r : ThreadRef) (op : Nat) (s : State) : Host.Outcome State Fault Refusal :=
  match s.memOp r op with
  | none => .fault .notEnabled
  | some (_, o) =>
    if o.dstN = 0 || !o.isDone || s.awaitsReply o || (decide (o.conds ≠ {}) && s.inStitch o.core r) then .fault .notEnabled
    else
      let s := s.updThread r fun t => if t.status = .exited then t.dropOp op else (t.dropOp op).wrs (wordsOf o.dst o.dstN o.result)
      let s := s.raise (o.counter r) [o.conds]
      .next (if o.malformed then
          s.hold r { cause := .malformedInterval, deferred := true, epc := o.pc, eaddr := o.va, einfo := 0, einst := o.einst }
        else s)

/-- The granule registers of a kernel. -/
def granRegs (gran : Nat) : List Reg := (List.range (16 * gran)).map (BitVec.ofNat 8)

/-- A translation maintenance covers an access that has not been performed (R359). -/
def MemOp.covered (o : MemOp) (before : Nat) (cores : List Nat) (region : Option Nat) : Bool :=
  decide (o.id < before) && !o.isDone && cores.contains o.core && (o.accs.any fun a => a.at_.mem.isGlobal)
    && (match region with
      | some g => decide (o.va.toNat % 2 ^ 56 / 2 ^ 30 = g)
      | none => true)

/-- Every access of a context that a translation maintenance covers has been performed (R359). -/
def State.translationsDone (s : State) (ctx before : Nat) (cores : List Nat) (region : Option Nat) : Bool :=
  s.teams.all fun tm => match s.pipeOf tm.2 with
    | some p => decide (p.ctxNum ≠ ctx) || tm.2.threads.all fun t => t.2.ops.all fun o => !o.covered before cores region
    | none => true

/-- The condition of a wait holds (R172). -/
def State.waitOver (s : State) (e : Env) (t : Thread) (w : Wait) : Bool :=
  match w with
  | .regs rs => rs.all t.full
  | .limit => decide (t.inFlight < Config.outstanding)
  | .allRegs => (granRegs e.st.gran).all t.full
  | .exit => !t.producing
  | .handle tok => match s.resolveHandle e tok with
    | .entry _ h => !h.pending
    | .stale | .invalid => true
  | .handleEntry => (s.core e.core).freeHandle.isSome
  | .tile n => match s.mcOf e with
    | some mc => !(s.core e.core).tileBusy mc n
    | none => true
  | .commandQueue => match s.mcOf e with
    | some mc => (s.core e.core).queueRoom mc
    | none => true
  | .context => match s.mcOf e with
    | some mc => ((s.core e.core).mc mc).queue.isEmpty && !((s.core e.core).ops.any fun o => o.ref.team == e.ref.team && o.ofContext)
    | none => true
  | .accesses all => if all then t.settled else t.readsDone
  | .translations before cores region => s.translationsDone e.pl.ctxNum before cores region
  | .acquires before cores => !s.acquiring before cores
  | .sketch slot => t.skReady slot
  | .flags => !s.flagsPending e.ref
  | .divisions => !t.dividing
  | .address at_ _ c ne _ => s.readReady e.ref e.core t (at_.range 4) && (s.poisoned (at_.range 4) || waitHolds ne (BitVec.ofNat 32 (s.load at_ 4)) c)
  | .barrier n gen => decide (s.gen e.ref.team n ≠ gen)
  | .request => t.pend.isNone
  | .push q => match s.queue e.pl.ctxNum q with
    | some u => !(u.pushes.any fun p => decide (p.1 = e.ref))
    | none => true
  | .pageFault seq _ => !((s.context e.pl.ctxNum).faults.any fun f => f.seq == seq)
  | .slot die n => !s.slotRuns die n

/-- The environment of a waiting thread in a slot of a team on its cores. -/
def State.waitEnv (s : State) (r : ThreadRef) : Option (Env × Wait) :=
  match s.thread r with
  | none => none
  | some t => match t.status with
    | .waiting w => ((s.setThread r { t with status := .runnable }).env { ref := r, words := [] }).map fun e => (e, w)
    | .runnable | .exited => none

/-- What a wait that has ended leaves with the thread: a push that its queue has not accepted is made again (R214), and after a page fault
the instruction goes on as before it (R261). -/
def Thread.resumed (t : Thread) (w : Wait) : Option Wait :=
  match w with
  | .push _ => none
  | .pageFault .. => t.resume
  | _ => some w

/-- WAIT_END (R174): the thread is runnable and goes on with its instruction, or with a trap that it takes there (R95, R385). -/
def execWaitEnd (r : ThreadRef) (s : State) : Host.Outcome State Fault Refusal :=
  match s.waitEnv r with
  | none => .fault .notEnabled
  | some (e, w) =>
    if s.waitOver e e.t w || (e.t.late.isSome && !e.t.dividing) then .next (s.updThread r fun t => { t with status := .runnable, resume := t.resumed w })
    else .fault .notEnabled

end Sys2Proof.Machine
end

