-- ==== Sys2Proof/Machine/Copier.lean ====
section
/-!
DEFINITION. The copy engine: the beginning of an operation, which reads its source, and the writing of its payload (R154, R155, R164,
R167, R245, R311 to R321, R375, R403).
-/

namespace Sys2Proof.Machine

/-- The accesses that the issuer made before an operation have been performed (R270). -/
def State.issuerDone (s : State) (r : ThreadRef) (id : Nat) : Bool :=
  match s.thread r with
  | some t => t.ops.all fun p => decide (id < p.id) || p.isDone
  | none => true

/-- The page fault that paused an operation is still outstanding (R320). -/
def State.isPaused (s : State) (o : EngOp) : Bool :=
  match o.paused with
  | some n => (s.context (s.ctxOf o.ref)).faults.any fun f => f.seq == n
  | none => false

/-- Places, none of them missing. -/
def present (l : Except (Nat × Option Nat) (List Target)) : Except (Nat × Option Nat) (List (Option Target)) :=
  match l with
  | .ok l => .ok (l.map some)
  | .error x => .error x

/-- The places of a tile's bytes from its base on. -/
def State.tileSpan (s : State) (core : Nat) (o : EngOp) (t : Tile) (n : Nat) : List Target :=
  (⟨(s.tileHome core o).1, tileBase t⟩ : Target).span n

/-- The places of the dense elements that a scatter reads, in dense order, whose addresses in WS are formed modulo 2^32 (R222); `none` for the bytes of
one that it does not read (R317). -/
def State.densePlaces (s : State) (r : Reach) (sp : Space) (rec_ : Shape) (b : Nat) (els : List Nat) :
    List Nat → Except (Nat × Option Nat) (List (Option Target))
  | [] => .ok []
  | i :: l =>
    match s.densePlaces r sp rec_ b els l with
    | .error x => .error x
    | .ok rest =>
      if els.contains i then
        let d := b + i * rec_.n
        match s.places r sp .read rec_.swizzle (if sp = .ws then d % 2 ^ 32 else d) rec_.n with
        | .error x => .error x
        | .ok ps => .ok (ps.map some ++ rest)
      else .ok (List.replicate rec_.n none ++ rest)

/-- The places that a copy reads, in dense order (R315, R317, R318). -/
def State.srcPlaces (s : State) (r : Reach) (o : EngOp) : Except (Nat × Option Nat) (List (Option Target)) :=
  match o.kind with
  | .lin _ ssp _ b n => present (s.places r ssp .read id b n)
  | .gather _ ssp _ rec_ k0 | .cpyw ssp rec_ k0 _ _ _ _ _ => s.boxPlaces r ssp .read rec_ (rec_.elements k0)
  | .scatter _ ssp rec_ b k0 => s.densePlaces r ssp rec_ b (rec_.scattered k0) (List.range rec_.count)
  | .tld sp a t => present (s.places r sp .read id a (tileSize (s.tileOf r.core o t)))
  | .tst _ _ t => let d := s.tileOf r.core o t; .ok ((s.tileSpan r.core o d (tileSize d)).map some)
  | .coll rec_ src _ _ => if rec_.reads then present (s.places r .glb .read id src (4 * rec_.lanes)) else .ok []
  | .fill .. | .accrd | .msync | .collSk .. => .ok []

/-- The rows of a tile's data area that a welted copy writes (R318): dense bytes where an element lands, zeros elsewhere. -/
def tileBytes (t : Tile) (rec_ : Shape) (l : List Byte) : List Byte :=
  let w := rec_.box.headD 0 * rec_.n
  (List.range (tileRows t)).flatMap fun r =>
    (List.range (tilePitch t)).map fun c => if c < w then l.getD (r * w + c) 0 else 0

/-- The bytes to write, from the bytes read, in the order of the places written (R315, R317, R318). -/
def State.payload (s : State) (core : Nat) (o : EngOp) (l : List Byte) : List Byte :=
  match o.kind with
  | .gather _ _ _ rec_ _ => xfGather rec_.xf l
  | .scatter _ _ rec_ _ _ => xfScatter rec_.xf l
  | .cpyw _ rec_ _ t _ _ _ _ => tileBytes (s.tileOf core o t) rec_ (xfGather rec_.xf l)
  | .fill _ _ pat n => (List.range n).map fun i => BitVec.ofNat 8 (pat.toNat / 2 ^ (8 * (i % 4)))
  | .lin .. | .tld .. | .tst .. | .accrd | .msync | .coll .. | .collSk .. => l

/-- The places that an operation writes (R315, R317, R318, R325). -/
def State.dstPlaces (s : State) (r : Reach) (o : EngOp) : Except (Nat × Option Nat) (List (Option Target)) :=
  match o.kind with
  | .lin dsp _ a _ n | .fill dsp a _ n => present (s.places r dsp .write id a n)
  | .gather dsp _ a rec_ _ => present (s.places r dsp .write rec_.swizzle a rec_.boxBytes)
  | .scatter dsp _ rec_ _ k0 => s.boxPlaces r dsp .write rec_ (rec_.elements k0)
  | .cpyw _ _ _ t _ _ _ _ => let d := s.tileOf r.core o t; .ok ((s.tileSpan r.core o d (tileRows d * tilePitch d)).map some)
  | .tld _ _ t => let d := s.tileOf r.core o t; .ok ((s.tileSpan r.core o d (tileSize d)).map some)
  | .tst sp a t => present (s.places r sp .write id a (tileSize (s.tileOf r.core o t)))
  | .coll rec_ _ dst _ => present (s.places r .glb .write id dst rec_.dstBytes)
  | .accrd | .msync | .collSk .. => .ok []

/-- The ranges that cover the places. -/
def rangesAt (l : List (Option Target)) : List Range := coverRanges (l.filterMap fun t => t.map fun t => t.range 1)

/-- An operation will end with an error; a collective's is broadcast (R329). -/
def State.engineFail (s : State) (core : Nat) (o : EngOp) (err : Nat) : State :=
  let s := s.updOp core o.id fun o => { o with stage := .failed err, paused := none }
  match o.kind.coll? with
  | some (r, n) => s.abortGroup (r.group (s.ctxOf o.ref)) n none
  | none => s

/-- An operation meets a page that it cannot use (R320, R360): an unmapped one pauses it; one without permission ends it with ERR 2,
and is recorded. -/
def State.engineStop (s : State) (core : Nat) (o : EngOp) (x : Nat × Option Nat) : State :=
  let va := BitVec.ofNat 64 x.1
  match x.2 with
  | some reason =>
    let (s, n) := s.newFault (s.ctxOf o.ref) (.engine core o.id) 4 reason core va ((s.core core).token o).toNat
    s.updOp core o.id fun o => { o with paused := some n }
  | none =>
    let s := s.engineFail core o 2
    match s.team o.ref.team with
    | some tm => s.logStage tm { s.errFor tm o.ref.tid Config.permSource with core := core, clock := s.localClock core, pc := o.pc, addr := x.1 }
    | none => s

/-- The GLOBAL ranges, by address and length, that an operation reads. -/
def State.readSpans (s : State) (core : Nat) (o : EngOp) : List (Nat × Nat) :=
  match o.kind with
  | .lin _ .glb _ b n => [(b, n)]
  | .gather _ .glb _ rec_ k0 | .cpyw .glb rec_ k0 _ _ _ _ _ => ((rec_.elements k0).filter fun k => rec_.inBounds k).map fun k => (rec_.elemIn .glb k, rec_.n)
  | .scatter _ .glb rec_ b k0 => (rec_.scattered k0).map fun i => (b + i * rec_.n, rec_.n)
  | .coll rec_ src _ _ => if rec_.reads then [(src, 4 * rec_.lanes)] else []
  | .tld .glb a t => [(a, tileSize (s.tileOf core o t))]
  | .lin .. | .gather .. | .cpyw .. | .scatter .. | .fill .. | .tld .. | .tst .. | .accrd | .msync | .collSk .. => []

/-- The walks of an engine's accesses have filled its core's TLB (R358), with those of its pages of 4 KiB that it had not. -/
def State.walked (s : State) (core ctx : Nat) (l : List (Nat × Nat)) : State :=
  l.foldl (fun s r => (List.range ((r.1 % 4096 + r.2 + 4095) / 4096)).foldl (fun s i => (s.translate core ctx none (r.1 / 4096 * 4096 + 4096 * i)).2) s) s

/-- A peer package does not admit an access (R369). -/
def State.peerRefuses (s : State) (l : List (Option Target)) : Bool :=
  (l.any fun t => match t with
    | some t => decide (t.mem = .peer)
    | none => false) && decide (3 ≤ Config.peerAnswer s.tick)

/-- A place is reached over a port that is down (R368). -/
def State.portGone (s : State) (l : List (Option Target)) : Bool :=
  l.any fun t => match t with
    | some t => s.linkDead t
    | none => false

/-- What an operation has read of its source; none once it has read all of it. -/
def EngOp.soFar (o : EngOp) : Option (List Byte) :=
  match o.stage with
  | .waiting => some []
  | .reading l => some l
  | .begun _ | .exchanged _ _ | .result _ _ | .failed _ | .landed => none

/-- The ranges that an operation has still to read. -/
def State.unread (s : State) (core : Nat) (o : EngOp) : List Range :=
  match o.soFar, s.reach core o with
  | some d, some r => match s.srcPlaces r o with
    | .ok l => rangesAt (l.drop d.length)
    | .error _ => []
  | _, _ => []

/-- Two operations are parts of one collective. -/
def State.partners (s : State) (a b : EngOp) : Bool :=
  match a.kind.coll? with
  | some (r, n) => s.inGroup b (r.group (s.ctxOf a.ref)) n
  | none => false

/-- Accesses that the issuer of an operation made before it, and that have still to be performed. -/
def State.accessesBefore (s : State) (r : ThreadRef) (id : Nat) : List Range :=
  match s.thread r with
  | some t => (t.ops.filter fun p => decide (p.id < id)).flatMap fun p => (p.accs.filter fun a => !a.isDone).map Access.range
  | none => []

/-- The tile ranges that a command reads. -/
def MCmd.reads (c : MCmd) (core mc : Nat) : List Range :=
  match c.kind with
  | .mma _ _ da db _ _ _ => [tileRange core mc da, tileRange core mc db]
  | .accz .. | .accrd .. | .accwr .. => []

/-- The tile bytes that a TST has still to read. -/
def State.tileUnread (s : State) (core : Nat) (o : EngOp) : List Range :=
  match o.kind with
  | .tst _ _ t => if o.soFar.isSome then let d := s.tileOf core o t; [⟨(s.tileHome core o).1, tileBase d, tileBase d + tileSize d⟩] else []
  | .lin .. | .fill .. | .gather .. | .scatter .. | .cpyw .. | .tld .. | .accrd | .msync | .coll .. | .collSk .. => []

/-- What a copy into a tile waits for behind the matrix commands that have still to read the tile (R155): the tiles that these and the commands before them
read, and the accesses that come before those. -/
def State.behindCommands (s : State) (p : Nat × EngOp) (owned : List Range) : List (Nat × Range) :=
  [0, 1].flatMap fun k =>
    let q := ((s.core p.1).mc k).queue.filter fun c => decide (c.id < p.2.id)
    let reads (c : MCmd) : Bool := (c.reads p.1 k).any fun g => owned.any g.meets
    let n := ((List.range q.length).filter fun i => (q[i]?).any reads).foldl (fun m i => max m (i + 1)) 0
    (q.take n).flatMap fun c => (c.reads p.1 k).map (fun g => (c.id, g)) ++ (s.accessesBefore c.ref c.id).map fun g => (s.nextId, g)

/-- An operation `p` waits for another, `o`, to write what that owns, or to read a tile (R155, R245, R321): its source, its destination behind an earlier
request, a reader of the tile that it writes, an access that comes before it, or the other parts of its collective. -/
def State.waitsFor (s : State) (p o : Nat × EngOp) : Bool :=
  let owned := s.owned o.1 o.2
  let mine := s.owned p.1 p.2
  let meets (l : List Range) : Bool := l.any fun g => owned.any g.meets
  decide (p.2.id ≠ o.2.id)
    && (s.partners p.2 o.2 || meets (s.unread p.1 p.2) || (decide (o.2.id < p.2.id) && meets mine) || meets (s.accessesBefore p.2.ref p.2.id)
      || (decide (o.2.id < p.2.id) && (s.tileUnread o.1 o.2).any fun g => mine.any g.meets)
      || (s.behindCommands p mine).any fun c => decide (o.2.id < c.1) && owned.any c.2.meets)

/-- The operations that wait for one of some, directly or through others. -/
def State.waiters (s : State) : Nat → List (Nat × EngOp) → List (Nat × EngOp)
  | 0, l => l
  | n + 1, l =>
    match s.allOps.filter fun p => (l.all fun q => decide (q.2.id ≠ p.2.id)) && l.any fun q => s.waitsFor p q with
    | [] => l
    | new => s.waiters n (l ++ new)

/-- No other engine operation owns a unit of a source (R321), whether it was issued before or after. One issued later that itself waits for the operation
has still its request queued, or neither would ever come to an end, and the parts of one collective wait for no part of it: DEDUCED, log entry 68. Tile
bytes go by issue: only a copy issued before holds up their reader (R155). -/
def State.sourceFree (s : State) (core : Nat) (o : EngOp) (rs : List Range) : Bool :=
  s.allOps.all fun e => decide (e.2.id = o.id) || s.partners o e.2
    || (s.owned e.1 e.2).all (fun g => !(rs.any g.meets) || (g.mem.isTile && decide (o.id < e.2.id)))
    || (decide (o.id < e.2.id) && (s.waiters s.allOps.length [(core, o)]).any fun p => decide (p.2.id = e.2.id))

/-- An operation reads its source once, as it stands then (R245, R317, R321, R375): all of it, or as far as no bank is in refresh, and the rest when that has
ended (R231). -/
def State.readSource (s : State) (r : Reach) (o : EngOp) (d : List Byte) : Option State :=
  match s.srcPlaces r o with
  | .error x => some (s.engineStop r.core o x)
  | .ok l =>
    if s.portGone l then some (s.engineFail r.core o 3)
    else if s.peerRefuses l then some (s.engineFail r.core o 2)
    else
      let left := l.drop d.length
      let now := left.takeWhile fun t => !(t.any (s.inRefresh r.core))
      let rs := rangesAt now
      if (now.isEmpty && !left.isEmpty) || !s.sourceFree r.core o rs then none
      else if rs.any s.poisoned then some (s.engineFail r.core o 3)
      else
        let got := d ++ s.bytesAt now
        some ((s.walked r.core r.ctx (s.readSpans r.core o)).updOp r.core o.id fun o => { o with stage := if now.length = left.length then .begun got else .reading got, paused := none })

/-- The copy engine begins a copy that reads a source, or goes on with its reading; `none` while it cannot. -/
def State.beginCopy (s : State) (core : Nat) (o : EngOp) : Option State :=
  if s.isPaused o ∨ !s.issuerDone o.ref o.id then none
  else match o.kind with
    | .fill .. | .accrd | .msync | .coll .. | .collSk .. => none
    | .lin .. | .gather .. | .scatter .. | .cpyw .. | .tld .. | .tst .. => o.soFar.bind fun d => (s.reach core o).bind fun r => s.readSource r o d

/-- The queued commands and the tile copies issued before an operation that still have to read a range of a tile memory (R155). -/
def State.tileRead (s : State) (core mc id : Nat) (g : Range) : Bool :=
  let c := s.core core
  ((c.mc mc).queue.any fun q => decide (q.id < id) && match q.kind with
      | .mma _ _ da db _ _ _ => (tileRange core mc da).meets g || (tileRange core mc db).meets g
      | .accz .. | .accrd .. | .accwr .. => false)
    || c.ops.any fun p => decide (p.id < id) && p.soFar.isSome && c.ofMc p mc && match p.kind with
      | .tst _ _ t => (tileRange core mc ((c.mc mc).tile t)).meets g
      | .lin .. | .fill .. | .gather .. | .scatter .. | .cpyw .. | .tld .. | .accrd | .msync | .coll .. | .collSk .. => false

/-- The ranges may be written: no engine operation issued earlier owns them, and no command or TST issued earlier has still to read
them (R155, R245, R321). -/
def State.mayWrite (s : State) (o : EngOp) (rs : List Range) : Bool :=
  rs.all fun g => s.unowned o.id g && match g.mem with
    | .oper c k => !s.tileRead c k o.id g
    | .hbm | .host | .peer | .ws | .spad .. | .acc .. | .kept .. => true

/-- The completion word of an operation that ends with ERR 0, written as a release (R312). -/
def State.completionWord (s : State) (g : Agent) (team : Nat) (cw : Option (Nat × Word)) : State :=
  match cw with
  | some (off, v) => s.writeData g false (localByte team off) 4 v.toNat
  | none => s

/-- The end of an operation with ERR 0, its payload written (R312): the completion word, a release that comes after the payload and the accesses before the
operation, so at any scope (R270), then the handle. -/
def State.finishOp (s : State) (core : Nat) (o : EngOp) (rmask : Word) : State :=
  (s.completionWord (o.scopeAgent core) o.ref.team o.cw).completeHandle core o 0 rmask

/-- The operation's team has been killed, or is gone (R376). -/
def State.orphan (s : State) (o : EngOp) : Bool :=
  match s.team o.ref.team with
  | some tm => decide (tm.phase = .killed)
  | none => true

/-- The welt of a copy that has landed enters the queue, and its handle completes (R154, R167): what that orders comes after the welt. -/
def State.enterWelt (s : State) (core : Nat) (o : EngOp) : State :=
  match o.kind with
  | .cpyw _ _ _ _ ta tb a z =>
    let m := (s.core core).mc o.mc
    let c : MCmd := { id := s.nextId, ref := o.ref, tcore := o.tcore, pc := o.pc,
                      kind := .mma ta tb (m.tile ta) (m.tile tb) a z m.seq, welt := some o.id, einst := o.einst }
    (s.fresh.updMc core o.mc fun m => { m with queue := m.queue ++ [c], seq := (m.seq + 1) % 2 ^ 32 }).completeHandle core o 0 o.rmask
  | .lin .. | .fill .. | .gather .. | .scatter .. | .tld .. | .tst .. | .accrd | .msync | .coll .. | .collSk .. => s.completeHandle core o 0 o.rmask

/-- The last byte of a copy has landed (R154, R167): the completion word is written, which waits for no welt (R318); the welt enters the queue, or is the last
of those that wait for an entry; one of a killed team is discarded (R376). -/
def State.land (s : State) (core : Nat) (o : EngOp) : State :=
  match o.kind with
  | .cpyw .. =>
    let s := s.completionWord (o.scopeAgent core) o.ref.team o.cw
    if s.orphan o then s.completeHandle core o 0 o.rmask
    else if (s.core core).queueRoom o.mc then s.enterWelt core o
    else (s.updCore core fun c => { c with ops := (c.ops.filter fun p => p.id != o.id) ++ [{ o with stage := .landed, owns := [], atHome := [] }] }).reown
  | .lin .. | .fill .. | .gather .. | .scatter .. | .tld .. | .tst .. | .accrd | .msync | .coll .. | .collSk .. => s.finishOp core o o.rmask

/-- Write those bytes of the payload, with their places, that a test picks; `none` while a destination may not be written (R245, R320). -/
def State.writePart (s : State) (r : Reach) (o : EngOp) (l : List Byte) (pick : Target → Bool) (after : State → State) : Option State :=
  match s.dstPlaces r o with
  | .error x => some (s.engineStop r.core o x)
  | .ok all =>
    let ps := all.map fun t => t.filter pick
    let rs := rangesAt ps
    if s.portGone all then some (s.engineFail r.core o 3)
    else if s.peerRefuses all then some (s.engineFail r.core o 2)
    else if !s.mayWrite o rs then none
    else some (after (rs.foldl State.l2Results (((s.walked r.core r.ctx (s.writeSpans r.core o)).putAt ps l).homeWrote (o.scopeAgent r.core) rs)))

/-- Write what is left of the payload and end the operation (R245, R312, R320): each unit is written once (`State.writeUnit`). -/
def State.writePayload (s : State) (r : Reach) (o : EngOp) (l : List Byte) (after : State → State) : Option State :=
  s.writePart r o l (fun t => o.wrote.all fun g => !g.meets (t.range 1)) fun s => after (s.land r.core o)

/-- The `k`-th unit of an operation is taken at its home (R240, R241, R245): every copy is recalled, its line stands in the L2, and the engine's agent holds it,
behind an earlier operation that does; where every line of the slice is an engine's, the request still waits. -/
def State.ownUnit (s : State) (core op k : Nat) : Option State :=
  ((s.core core).op op).bind fun o => (s.unitsOf core o)[k]?.bind fun u =>
    let s1 := (s.l2Engine u fun _ => 0).recall [u]
    if !(s.owned core o).isEmpty && (o.wrote ++ o.atHome).all (fun g => !g.meets u) && u.lines.all fun t => (s1.l2At t).isSome then
      some (s1.updOp core op fun o => { o with atHome := u :: o.atHome })
    else none

/-- The `k`-th unit that an operation holds is written, once, and released (R245, R246). -/
def State.writeUnit (s : State) (r : Reach) (o : EngOp) (l : List Byte) (k : Nat) : Option State :=
  o.held[k]?.bind fun u => s.writePart r o l (fun t => u.meets (t.range 1)) fun s =>
    s.updOp r.core o.id fun o => { o with atHome := o.atHome.filter fun g => decide (g ≠ u), wrote := u :: o.wrote }

/-- WELT_ENQUEUE (R154, R167): the first of a context's welts that wait enters the queue once that has an entry free. -/
def execWeltEnqueue (core op : Nat) (s : State) : Host.Outcome State Fault Refusal :=
  match (s.core core).op op with
  | none => .fault .notEnabled
  | some o =>
    let c := s.core core
    if o.stage ≠ .landed then .fault .notEnabled
    else if s.orphan o then .next (s.completeHandle core o 0 o.rmask)
    else if ((c.landed o.mc).headD o).id ≠ op ∨ Config.commands ≤ (c.mc o.mc).queue.length then .fault .notEnabled
    else .next (s.enterWelt core o)

end Sys2Proof.Machine
end

