-- ==== Sys2Proof/Machine/Float.lean ====
section
/-!
DEFINITION. Rows 0x2 and 0x3: floating-point arithmetic, roots, elementary functions, comparison (R105 to R112), conversions and
exponent operations (R113 to R115), packed 16-bit arithmetic, FDOT2 (R116, R117) and narrow packing (R118 to R121).
-/

namespace Sys2Proof.Machine

/-- A rounding mode; DYN takes RM of the mode word (R39, R82). -/
def rmode (t : Thread) (r : Rnd) : RMode :=
  match r with
  | .rne => .rne
  | .rtz => .rtz
  | .rup => .rup
  | .rdn => .rdn
  | .dyn => match t.rm with
    | 1 => .rtz
    | 2 => .rup
    | 3 => .rdn
    | _ => .rne

/-- Source B of row 0x2: a register, a binary32 immediate, widened bit for bit when W = 1, or IMM64 (R105). -/
def srcF (x : Ops) (w : Bool) (t : Thread) : Nat :=
  match x.len with
  | .s => (rdN w t x.b).toNat
  | .m => if w then widenImm (imm32 x).toNat else (imm32 x).toNat
  | .l => x.ext.toNat

/-- The effect of a floating-point result of 32 or 64 bits. -/
def fpOut (w : Bool) (d : Reg) (r : Nat × Conds) : Eff := { ws := wN w d (BitVec.ofNat 64 r.1), conds := [r.2] }

/-- A two-operand instruction of row 0x2 (R106, R107). -/
def fpEff (x : Ops) (w : Bool) (f : FFmt → Thread → Nat → Nat → Nat × Conds) (t : Thread) : Eff :=
  fpOut w x.d (f (fmtW w) t (rdN w t x.a).toNat (srcF x w t))

/-- A one-operand instruction of row 0x2 (R108, R109). -/
def fpEff1 (x : Ops) (w : Bool) (f : FFmt → Thread → Nat → Nat × Conds) (t : Thread) : Eff :=
  fpOut w x.d (f (fmtW w) t (rdN w t x.a).toNat)

/-- FDIV and FSQRT at FP64: a long-latency producer, whose result and conditions are written when it completes (R95, R177). -/
def divBody (x : Ops) (f : Thread → Nat × Conds) (e : Env) (s : State) : Res :=
  if Config.outstanding ≤ e.t.inFlight then .wait .limit s
  else
    let r := f e.t
    let op : MemOp :=
      { id := s.nextId, kind := .arith, accs := [{ id := s.nextId, at_ := ⟨.hbm, 0⟩, size := 8, data := 0, done := some r.1, early := false }],
        ord := .rlx, scope := .thr, cmp := 0, dst := x.d, dstN := 2, core := e.core, pc := e.t.pc,
        va := 0, conds := r.2, einst := e.words, hint := 0, seen := [], area := [], grain := 32, cp := 0, n := 0 }
    .done (s.fresh.updThread e.ref fun t => { t with ops := t.ops ++ [op] }) [] [x.d, x.d + 1] none

/-- An integer type's value from a register or a pair (R114). -/
def ityVal (ty : ITy) (t : Thread) (r : Reg) : Int :=
  if ty.wide then (if ty.unsigned then ((t.pair r).toNat : Int) else (t.pair r).toInt)
  else if ty.unsigned then ((t.rd r).toNat : Int) else (t.rd r).toInt

/-- Bits of an integer type. -/
def ityBits (ty : ITy) : Nat := if ty.wide then 64 else 32

/-- The formats of CVTFF: destination and source (R115). -/
def ffFmts (k : FfCode) : FFmt × FFmt :=
  match k with
  | .f32f64 => (f32, f64)
  | .f64f32 => (f64, f32)
  | .f16f32 => (f16, f32)
  | .f32f16 => (f32, f16)
  | .bf16f32 => (b16, f32)
  | .f32bf16 => (f32, b16)
  | .f16f64 => (f16, f64)
  | .f64f16 => (f64, f16)

/-- F16 or B16 (R113). -/
def fmtH (bf : Bool) : FFmt := if bf then b16 else f16

/-- Lane `i` of a packed 16-bit register (R116). -/
def lane (v : Word) (i : Nat) : Nat := v.toNat / 2 ^ (16 * i) % 2 ^ 16

/-- A packed 16-bit instruction on two lanes (R116). -/
def packEff (x : Ops) (f : Thread → Nat → Nat → Nat → Nat × Conds) (t : Thread) : Eff :=
  let a := t.rd x.a
  let b := srcB x t
  let c := t.rd x.c
  let r0 := f t (lane a 0) (lane b 0) (lane c 0)
  let r1 := f t (lane a 1) (lane b 1) (lane c 1)
  { ws := w1 x.d (BitVec.ofNat 32 (r0.1 + 2 ^ 16 * r1.1)), conds := [r0.2, r1.2] }

/-- FDOT2 (R117): the special operands, then the exact sum of both products and the addend, rounded once. -/
def dot2 (f : FFmt) (mode : RMode) (a b c : Word) : Nat × Conds :=
  let a0 := f.value (lane a 0)
  let a1 := f.value (lane a 1)
  let b0 := f.value (lane b 0)
  let b1 := f.value (lane b 1)
  let z := f32.value c.toNat
  let ops := [a0, a1, b0, b1, z]
  let infZero (p q : FVal) : Bool := (p.isInf && q.isZero) || (p.isZero && q.isInf)
  let iz := infZero a0 b0 || infZero a1 b1
  let nan := ops.any FVal.isNan
  let terms := [(a0.isInf || b0.isInf, a0.neg != b0.neg), (a1.isInf || b1.isInf, a1.neg != b1.neg), (z.isInf, z.neg)]
  let infs := (terms.filter fun p => p.1).map fun p => p.2
  let opposite := infs.contains true && infs.contains false
  if nan || iz then f32.nanOf (iz || ops.any FVal.isSnan)
  else if opposite then f32.nanOf true
  else match infs with
    | n :: _ => (f32.signed n f32.infCode, {})
    | [] =>
      let v := ((a0.dyadic.mul b0.dyadic).add (a1.dyadic.mul b1.dyadic)).add z.dyadic
      let zs := [(a0.isZero || b0.isZero, a0.neg != b0.neg), (a1.isZero || b1.isZero, a1.neg != b1.neg), (z.isZero, z.neg)]
      let allZero := zs.all fun p => p.1
      let zneg := if allZero && zs.all (fun p => p.2) then true
        else if allZero && zs.all (fun p => !p.2) then false
        else decide (mode = .rdn)
      f32.roundDy mode v zneg

/-- Bits of an element of a packed format (R119). -/
def pkBits (k : PkCode) : Nat := 32 / k.elems

/-- PCVT (R120): elements from the blocks of A and B. -/
def pcvtEff (x : Ops) (mode : Thread → RMode) (k : PkCode) (t : Thread) : Eff :=
  let n := k.elems
  let rs := (List.range n).map fun i =>
    let r : Reg := if i < n / 2 then x.a + BitVec.ofNat 8 i else x.b + BitVec.ofNat 8 (i - n / 2)
    PkCode.encode k (mode t) (f32.value (t.rd r).toNat)
  { ws := w1 x.d (BitVec.ofNat 32 (rs.foldr (fun r acc => r.1 % 2 ^ pkBits k + 2 ^ pkBits k * acc) 0)), conds := rs.map fun r => r.2 }

/-- UPCVT (R121). -/
def upcvtEff (x : Ops) (k : PkCode) (t : Thread) : Eff :=
  let c := (t.rd x.a).toNat / 2 ^ (pkBits k * x.c.toNat) % 2 ^ pkBits k
  fpOut false x.d (widen32 (PkCode.value k c))

/-- FADD (R106). -/
def execFadd (x : Ops) (w : Bool) (r : Rnd) (s : State) : Host.Outcome State Fault Refusal :=
  runInstr (.fadd x w r) (fun x => pureBody (fpEff x w fun f t a b => f.add (rmode t r) a b)) s

/-- FSUB (R106). -/
def execFsub (x : Ops) (w : Bool) (r : Rnd) (s : State) : Host.Outcome State Fault Refusal :=
  runInstr (.fsub x w r) (fun x => pureBody (fpEff x w fun f t a b => f.sub (rmode t r) a b)) s

/-- FMUL (R106). -/
def execFmul (x : Ops) (w : Bool) (r : Rnd) (s : State) : Host.Outcome State Fault Refusal :=
  runInstr (.fmul x w r) (fun x => pureBody (fpEff x w fun f t a b => f.mul (rmode t r) a b)) s

/-- FFMA (R106). -/
def execFfma (x : Ops) (w : Bool) (r : Rnd) (s : State) : Host.Outcome State Fault Refusal :=
  runInstr (.ffma x w r) (fun x => pureBody (fun t => fpOut w x.d ((fmtW w).fma (rmode t r) (rdN w t x.a).toNat (srcF x w t) (rdN w t x.c).toNat))) s

/-- FMIN (R107). -/
def execFmin (x : Ops) (w : Bool) (nan : Bool) (s : State) : Host.Outcome State Fault Refusal :=
  runInstr (.fmin x w nan) (fun x => pureBody (fpEff x w fun f _ a b => f.minMax false nan a b)) s

/-- FMAX (R107). -/
def execFmax (x : Ops) (w : Bool) (nan : Bool) (s : State) : Host.Outcome State Fault Refusal :=
  runInstr (.fmax x w nan) (fun x => pureBody (fpEff x w fun f _ a b => f.minMax true nan a b)) s

/-- FDIV (R95, R106). -/
def execFdiv (x : Ops) (w : Bool) (r : Rnd) (s : State) : Host.Outcome State Fault Refusal :=
  runInstr (.fdiv x w r) (fun x => if w then divBody x fun t => f64.div (rmode t r) (t.pair x.a).toNat (srcF x true t)
    else pureBody (fpEff x false fun f t a b => f.div (rmode t r) a b)) s

/-- FSQRT (R95, R108). -/
def execFsqrt (x : Ops) (w : Bool) (r : Rnd) (s : State) : Host.Outcome State Fault Refusal :=
  runInstr (.fsqrt x w r) (fun x => if w then divBody x fun t => f64.sqrt (rmode t r) (t.pair x.a).toNat
    else pureBody (fpEff1 x false fun f t a => f.sqrt (rmode t r) a)) s

/-- FRCP (R108). -/
def execFrcp (x : Ops) (w : Bool) (r : Rnd) (s : State) : Host.Outcome State Fault Refusal :=
  runInstr (.frcp x w r) (fun x => pureBody (fpEff1 x w fun f t a => f.rcp (rmode t r) a)) s

/-- FRSQ (R108). -/
def execFrsq (x : Ops) (w : Bool) (r : Rnd) (s : State) : Host.Outcome State Fault Refusal :=
  runInstr (.frsq x w r) (fun x => pureBody (fpEff1 x w fun f t a => f.rsq (rmode t r) a)) s

/-- FEXP2 (R109). -/
def execFexp2 (x : Ops) (w : Bool) (s : State) : Host.Outcome State Fault Refusal :=
  runInstr (.fexp2 x w) (fun x => pureBody (fpEff1 x w fun f _ a => f.exp2 a)) s

/-- FLOG2 (R109). -/
def execFlog2 (x : Ops) (w : Bool) (s : State) : Host.Outcome State Fault Refusal :=
  runInstr (.flog2 x w) (fun x => pureBody (fpEff1 x w fun f _ a => f.lg2 a)) s

/-- FSINPI (R109). -/
def execFsinpi (x : Ops) (w : Bool) (s : State) : Host.Outcome State Fault Refusal :=
  runInstr (.fsinpi x w) (fun x => pureBody (fpEff1 x w fun f _ a => f.sinpi a)) s

/-- FCOSPI (R109). -/
def execFcospi (x : Ops) (w : Bool) (s : State) : Host.Outcome State Fault Refusal :=
  runInstr (.fcospi x w) (fun x => pureBody (fpEff1 x w fun f _ a => f.cospi a)) s

/-- FCMP (R110, R111). -/
def execFcmp (x : Ops) (w : Bool) (rel : FRel) (u : Bool) (s : State) : Host.Outcome State Fault Refusal :=
  runInstr (.fcmp x w rel u) (fun x => pureBody (fun t => let r := (fmtW w).fcmp rel u (rdN w t x.a).toNat (srcF x w t); { ws := w1 x.d r.1, conds := [r.2] })) s

/-- FCLASS (R112). -/
def execFclass (x : Ops) (w : Bool) (s : State) : Host.Outcome State Fault Refusal :=
  runInstr (.fclass x w) (fun x => pureBody (fun t => { ws := w1 x.d ((fmtW w).fclass (rdN w t x.a).toNat) })) s

/-- CVTFI (R86, R114). -/
def execCvtfi (x : Ops) (r : Rnd) (w : Bool) (ty : ITy) (s : State) : Host.Outcome State Fault Refusal :=
  runInstr (.cvtfi x r w ty) (fun x => pureBody (fun t =>
    let v := ((fmtW w).value (rdN w t x.a).toNat).toInt (rmode t r) (ityBits ty) ty.unsigned
    { ws := wN ty.wide x.d (BitVec.ofInt 64 v.1), conds := [v.2] })) s

/-- CVTIF (R87, R114). -/
def execCvtif (x : Ops) (r : Rnd) (w : Bool) (ty : ITy) (s : State) : Host.Outcome State Fault Refusal :=
  runInstr (.cvtif x r w ty) (fun x => pureBody (fun t => fpOut w x.d ((fmtW w).ofInt (rmode t r) (ityVal ty t x.a)))) s

/-- CVTFF (R86, R115). -/
def execCvtff (x : Ops) (r : Rnd) (k : FfCode) (s : State) : Host.Outcome State Fault Refusal :=
  runInstr (.cvtff x r k) (fun x => pureBody (fun t =>
    let f := ffFmts k
    let a := (rdN (decide (f.2 = f64)) t x.a).toNat % 2 ^ f.2.width
    fpOut (decide (f.1 = f64)) x.d (convFF f.2 f.1 (rmode t r) a))) s

/-- FRND (R114). -/
def execFrnd (x : Ops) (r : Rnd) (w : Bool) (s : State) : Host.Outcome State Fault Refusal :=
  runInstr (.frnd x r w) (fun x => pureBody (fpEff1 x w fun f t a => f.rint (rmode t r) a)) s

/-- FSCALB (R114). -/
def execFscalb (x : Ops) (r : Rnd) (w : Bool) (s : State) : Host.Outcome State Fault Refusal :=
  runInstr (.fscalb x r w) (fun x => pureBody (fun t => fpOut w x.d ((fmtW w).scalb (rmode t r) (rdN w t x.a).toNat (srcB x t).toInt))) s

/-- FEXPN (R114). -/
def execFexpn (x : Ops) (w : Bool) (s : State) : Host.Outcome State Fault Refusal :=
  runInstr (.fexpn x w) (fun x => pureBody (fun t => let r := (fmtW w).expn (rdN w t x.a).toNat; { ws := w1 x.d r.1, conds := [r.2] })) s

/-- HADD2 (R116). -/
def execHadd2 (x : Ops) (r : Rnd) (bf : Bool) (s : State) : Host.Outcome State Fault Refusal :=
  runInstr (.hadd2 x r bf) (fun x => pureBody (packEff x fun t a b _ => (fmtH bf).add (rmode t r) a b)) s

/-- HMUL2 (R116). -/
def execHmul2 (x : Ops) (r : Rnd) (bf : Bool) (s : State) : Host.Outcome State Fault Refusal :=
  runInstr (.hmul2 x r bf) (fun x => pureBody (packEff x fun t a b _ => (fmtH bf).mul (rmode t r) a b)) s

/-- HFMA2 (R116). -/
def execHfma2 (x : Ops) (r : Rnd) (bf : Bool) (s : State) : Host.Outcome State Fault Refusal :=
  runInstr (.hfma2 x r bf) (fun x => pureBody (packEff x fun t a b c => (fmtH bf).fma (rmode t r) a b c)) s

/-- PCVT (R118 to R120). -/
def execPcvt (x : Ops) (r : Rnd) (k : PkCode) (s : State) : Host.Outcome State Fault Refusal :=
  runInstr (.pcvt x r k) (fun x => pureBody (pcvtEff x (fun t => rmode t r) k)) s

/-- UPCVT (R121). -/
def execUpcvt (x : Ops) (k : PkCode) (s : State) : Host.Outcome State Fault Refusal :=
  runInstr (.upcvt x k) (fun x => pureBody (upcvtEff x k)) s

/-- FDOT2 (R117). -/
def execFdot2 (x : Ops) (r : Rnd) (bf : Bool) (s : State) : Host.Outcome State Fault Refusal :=
  runInstr (.fdot2 x r bf) (fun x => pureBody (fun t => fpOut false x.d (dot2 (fmtH bf) (rmode t r) (t.rd x.a) (srcB x t) (t.rd x.c)))) s

end Sys2Proof.Machine
end

