-- ==== Sys2Proof/Machine/Int.lean ====
section
/-!
DEFINITION. Rows 0x0 and 0x1 and the predicate instructions: moves, integer arithmetic, bit operations, comparison, selection,
addresses (R92 to R104) and three-valued logic (R122, R123).
-/

namespace Sys2Proof.Machine

/-- A word read as Z32 or I32 (R97). -/
def ext32 (u : Bool) (v : Word) : Int := if u then (v.toNat : Int) else v.toInt

/-- A pair read as Z64 or I64 (R98). -/
def ext64 (u : Bool) (v : DWord) : Int := if u then (v.toNat : Int) else v.toInt

/-- MOD[1] of an integer instruction: the operands are unsigned (R96). -/
def satU (m : SatMode) : Bool :=
  match m with
  | .satU => true
  | .wrap | .sat => false

/-- Wrap or clamp an exact value to `w` bits, with the condition of a clamp (R88, R96). -/
def satTo (m : SatMode) (w : Nat) (v : Int) : BitVec w × Conds :=
  match m with
  | .wrap => (BitVec.ofInt w v, {})
  | .sat => let r := satInt (intLo w false) (intHi w false) v; (BitVec.ofInt w r.1, { ns := r.2 })
  | .satU => let r := satInt (intLo w true) (intHi w true) v; (BitVec.ofInt w r.1, { ns := r.2 })

/-- A 32-bit integer instruction: `f` gives the exact value from the extended operands (R97). -/
def intEff (x : Ops) (m : SatMode) (f : Int → Int → Int → Int) (t : Thread) : Eff :=
  let u := satU m
  let r := satTo m 32 (f (ext32 u (t.rd x.a)) (ext32 u (srcB x t)) (ext32 u (t.rd x.c)))
  { ws := w1 x.d r.1, conds := [r.2] }

/-- A 64-bit integer instruction (R98). -/
def intEff64 (x : Ops) (m : SatMode) (f : Int → Int → Int) (t : Thread) : Eff :=
  let u := satU m
  let r := satTo m 64 (f (ext64 u (t.pair x.a)) (ext64 u (srcB64 x t)))
  { ws := w2 x.d r.1, conds := [r.2] }

/-- Source B of AND, OR, XOR and ANDN: with W = 1 the immediate is sign-extended (R99). -/
def srcBit (x : Ops) (w : Bool) (t : Thread) : DWord :=
  if x.len = .s then rdN w t x.b else if w then (imm32 x).signExtend 64 else (imm32 x).setWidth 64

/-- A bitwise instruction (R99). -/
def bitEff (x : Ops) (w : Bool) (f : DWord → DWord → DWord) (t : Thread) : Eff :=
  { ws := wN w x.d (f (rdN w t x.a) (srcBit x w t)) }

/-- The shifts: `f` takes the operand and the count (R99). -/
def shiftEff (x : Ops) (w : Bool) (f32 : Word → Nat → Word) (f64 : DWord → Nat → DWord) (t : Thread) : Eff :=
  let n := (srcB x t).toNat
  { ws := if w then w2 x.d (f64 (t.pair x.a) n) else w1 x.d (f32 (t.rd x.a) n) }

/-- Bits of a number, counted over `n` bits. -/
def popCount (v : Nat) : Nat → Nat
  | 0 => 0
  | n + 1 => v % 2 + popCount (v / 2) n

/-- Leading zero bits of a `w`-bit number (R99). -/
def clzNat (w v : Nat) : Nat := if v = 0 then w else w - 1 - v.log2

/-- A number of `n` bits with its bits reversed (R99). -/
def revNat (v : Nat) : Nat → Nat
  | 0 => 0
  | n + 1 => v % 2 * 2 ^ n + revNat (v / 2) n

/-- The position, the length clipped to the word, and the mask of a bit field; none when it is empty (R100). -/
def bitField (b : Word) : Option (Nat × Nat) :=
  let p := b.toNat % 256
  let n := b.toNat / 256 % 256
  if 31 < p ∨ n = 0 then none else some (p, min n (32 - p))

/-- BFE (R100). -/
def bfeVal (u : Bool) (a b : Word) : Word :=
  match bitField b with
  | none => 0
  | some (p, n) =>
    let f := a.toNat / 2 ^ p % 2 ^ n
    if u || decide (f < 2 ^ (n - 1)) then BitVec.ofNat 32 f else BitVec.ofInt 32 ((f : Int) - 2 ^ n)

/-- BFI (R100). -/
def bfiVal (a b c : Word) : Word :=
  match bitField b with
  | none => a
  | some (p, n) =>
    let m : Word := BitVec.ofNat 32 ((2 ^ n - 1) * 2 ^ p)
    (a &&& ~~~m) ||| ((c <<< p) &&& m)

/-- The relations of ICMP (R101). -/
def irel (r : IRel) (a b : Int) : Bool :=
  match r with
  | .eq => decide (a = b)
  | .ne => decide (a ≠ b)
  | .lt => decide (a < b)
  | .le => decide (a ≤ b)
  | .gt => decide (b < a)
  | .ge => decide (b ≤ a)

/-- Source B of ICMP: with W = 1 the immediate is zero-extended when U = 1 and sign-extended otherwise (R101). -/
def icmpB (x : Ops) (ty : ITy) (t : Thread) : Int :=
  if x.len = .s then (if ty.wide then ext64 ty.unsigned (t.pair x.b) else ext32 ty.unsigned (t.rd x.b))
  else ext32 ty.unsigned (imm32 x)

/-- Kleene's conjunction (R122). -/
def triAnd (a b : Tri) : Tri :=
  match a, b with
  | .f, _ | _, .f => .f
  | .t, .t => .t
  | _, _ => .u

/-- Kleene's negation (R122). -/
def triNot (a : Tri) : Tri :=
  match a with
  | .f => .t
  | .t => .f
  | .u => .u

/-- Kleene's disjunction (R122). -/
def triOr (a b : Tri) : Tri := triNot (triAnd (triNot a) (triNot b))

/-- Kleene's exclusive or (R122). -/
def triXor (a b : Tri) : Tri :=
  match a, b with
  | .u, _ | _, .u => .u
  | .f, .t | .t, .f => .t
  | .f, .f | .t, .t => .f

/-- The encoding of a predicate (R81). -/
def triWord (a : Tri) : Word :=
  match a with
  | .f => pFalse
  | .t => pTrue
  | .u => pUndecided

/-- NOP (R40). -/
def execNop (x : Ops) (s : State) : Host.Outcome State Fault Refusal :=
  runInstr (.nop x) (fun _ => pureBody (fun _ => { ws := [] })) s

/-- MOV (R104). -/
def execMov (x : Ops) (s : State) : Host.Outcome State Fault Refusal :=
  runInstr (.mov x) (fun x => pureBody (fun t => { ws := w1 x.d (if x.len = .s then t.rd x.a else imm32 x) })) s

/-- MOVW (R104). -/
def execMovw (x : Ops) (s : State) : Host.Outcome State Fault Refusal :=
  runInstr (.movw x) (fun x => pureBody (fun t => { ws := w2 x.d (if x.len = .s then t.pair x.a else x.ext) })) s

/-- IADD (R96, R97). -/
def execIadd (x : Ops) (m : SatMode) (s : State) : Host.Outcome State Fault Refusal :=
  runInstr (.iadd x m) (fun x => pureBody (intEff x m fun a b _ => a + b)) s

/-- ISUB (R96, R97). -/
def execIsub (x : Ops) (m : SatMode) (s : State) : Host.Outcome State Fault Refusal :=
  runInstr (.isub x m) (fun x => pureBody (intEff x m fun a b _ => a - b)) s

/-- IMUL (R96, R97). -/
def execImul (x : Ops) (m : SatMode) (s : State) : Host.Outcome State Fault Refusal :=
  runInstr (.imul x m) (fun x => pureBody (intEff x m fun a b _ => a * b)) s

/-- IMULH: the high word of the exact product (R96, R97). -/
def execImulh (x : Ops) (u : Bool) (s : State) : Host.Outcome State Fault Refusal :=
  runInstr (.imulh x u) (fun x => pureBody (fun t => { ws := w1 x.d (BitVec.ofInt 32 (ext32 u (t.rd x.a) * ext32 u (srcB x t) / 2 ^ 32)) })) s

/-- IMAD (R96, R97). -/
def execImad (x : Ops) (m : SatMode) (s : State) : Host.Outcome State Fault Refusal :=
  runInstr (.imad x m) (fun x => pureBody (intEff x m fun a b c => a * b + c)) s

/-- IADD64 (R98). -/
def execIadd64 (x : Ops) (m : SatMode) (s : State) : Host.Outcome State Fault Refusal :=
  runInstr (.iadd64 x m) (fun x => pureBody (intEff64 x m fun a b => a + b)) s

/-- ISUB64 (R98). -/
def execIsub64 (x : Ops) (m : SatMode) (s : State) : Host.Outcome State Fault Refusal :=
  runInstr (.isub64 x m) (fun x => pureBody (intEff64 x m fun a b => a - b)) s

/-- IMUL64 (R98). -/
def execImul64 (x : Ops) (m : SatMode) (s : State) : Host.Outcome State Fault Refusal :=
  runInstr (.imul64 x m) (fun x => pureBody (intEff64 x m fun a b => a * b)) s

/-- IMAD64W (R98). -/
def execImad64w (x : Ops) (u : Bool) (s : State) : Host.Outcome State Fault Refusal :=
  runInstr (.imad64w x u) (fun x => pureBody (fun t => { ws := w2 x.d (BitVec.ofInt 64 (ext32 u (t.rd x.a) * ext32 u (t.rd x.b) + ext64 u (t.pair x.c))) })) s

/-- IMIN (R96). -/
def execImin (x : Ops) (u : Bool) (s : State) : Host.Outcome State Fault Refusal :=
  runInstr (.imin x u) (fun x => pureBody (fun t => let a := t.rd x.a; let b := srcB x t; { ws := w1 x.d (if ext32 u a ≤ ext32 u b then a else b) })) s

/-- IMAX (R96). -/
def execImax (x : Ops) (u : Bool) (s : State) : Host.Outcome State Fault Refusal :=
  runInstr (.imax x u) (fun x => pureBody (fun t => let a := t.rd x.a; let b := srcB x t; { ws := w1 x.d (if ext32 u a ≤ ext32 u b then b else a) })) s

/-- IABS (R96, R97). -/
def execIabs (x : Ops) (sat : Bool) (s : State) : Host.Outcome State Fault Refusal :=
  runInstr (.iabs x sat) (fun x => pureBody (fun t => let r := satTo (if sat then .sat else .wrap) 32 ((t.rd x.a).toInt.natAbs : Int); { ws := w1 x.d r.1, conds := [r.2] })) s

/-- INEG (R96, R97). -/
def execIneg (x : Ops) (sat : Bool) (s : State) : Host.Outcome State Fault Refusal :=
  runInstr (.ineg x sat) (fun x => pureBody (fun t => let r := satTo (if sat then .sat else .wrap) 32 (-(t.rd x.a).toInt); { ws := w1 x.d r.1, conds := [r.2] })) s

/-- AND (R99). -/
def execAnd (x : Ops) (w : Bool) (s : State) : Host.Outcome State Fault Refusal :=
  runInstr (.and x w) (fun x => pureBody (bitEff x w fun a b => a &&& b)) s

/-- OR (R99). -/
def execOr (x : Ops) (w : Bool) (s : State) : Host.Outcome State Fault Refusal :=
  runInstr (.or x w) (fun x => pureBody (bitEff x w fun a b => a ||| b)) s

/-- XOR (R99). -/
def execXor (x : Ops) (w : Bool) (s : State) : Host.Outcome State Fault Refusal :=
  runInstr (.xor x w) (fun x => pureBody (bitEff x w fun a b => a ^^^ b)) s

/-- ANDN (R99). -/
def execAndn (x : Ops) (w : Bool) (s : State) : Host.Outcome State Fault Refusal :=
  runInstr (.andn x w) (fun x => pureBody (bitEff x w fun a b => a &&& ~~~b)) s

/-- SHL (R99). -/
def execShl (x : Ops) (w : Bool) (s : State) : Host.Outcome State Fault Refusal :=
  runInstr (.shl x w) (fun x => pureBody (shiftEff x w (fun a n => if n < 32 then a <<< n else 0) (fun a n => if n < 64 then a <<< n else 0))) s

/-- SHR (R99). -/
def execShr (x : Ops) (w : Bool) (s : State) : Host.Outcome State Fault Refusal :=
  runInstr (.shr x w) (fun x => pureBody (shiftEff x w (fun a n => a >>> n) (fun a n => a >>> n))) s

/-- SAR (R99). -/
def execSar (x : Ops) (w : Bool) (s : State) : Host.Outcome State Fault Refusal :=
  runInstr (.sar x w) (fun x => pureBody (shiftEff x w (fun a n => a.sshiftRight n) (fun a n => a.sshiftRight n))) s

/-- ROT (R99). -/
def execRot (x : Ops) (w : Bool) (s : State) : Host.Outcome State Fault Refusal :=
  runInstr (.rot x w) (fun x => pureBody (shiftEff x w (fun a n => a.rotateLeft n) (fun a n => a.rotateLeft n))) s

/-- POPC (R99). -/
def execPopc (x : Ops) (w : Bool) (s : State) : Host.Outcome State Fault Refusal :=
  runInstr (.popc x w) (fun x => pureBody (fun t => { ws := w1 x.d (BitVec.ofNat 32 (popCount (rdN w t x.a).toNat 64)) })) s

/-- CLZ (R99). -/
def execClz (x : Ops) (w : Bool) (s : State) : Host.Outcome State Fault Refusal :=
  runInstr (.clz x w) (fun x => pureBody (fun t => { ws := w1 x.d (BitVec.ofNat 32 (clzNat (if w then 64 else 32) (rdN w t x.a).toNat)) })) s

/-- BREV (R99). -/
def execBrev (x : Ops) (w : Bool) (s : State) : Host.Outcome State Fault Refusal :=
  runInstr (.brev x w) (fun x => pureBody (fun t => { ws := wN w x.d (BitVec.ofNat 64 (revNat (rdN w t x.a).toNat (if w then 64 else 32))) })) s

/-- BFE (R100). -/
def execBfe (x : Ops) (u : Bool) (s : State) : Host.Outcome State Fault Refusal :=
  runInstr (.bfe x u) (fun x => pureBody (fun t => { ws := w1 x.d (bfeVal u (t.rd x.a) (srcB x t)) })) s

/-- BFI (R100). -/
def execBfi (x : Ops) (s : State) : Host.Outcome State Fault Refusal :=
  runInstr (.bfi x) (fun x => pureBody (fun t => { ws := w1 x.d (bfiVal (t.rd x.a) (srcB x t) (t.rd x.c)) })) s

/-- SEL (R102). -/
def execSel (x : Ops) (w : Bool) (s : State) : Host.Outcome State Fault Refusal :=
  runInstr (.sel x w) (fun x => pureBody (fun t => { ws := wN w x.d (if triOf (t.rd x.c) = .t then rdN w t x.a else rdN w t x.b) })) s

/-- ICMP (R101). -/
def execIcmp (x : Ops) (r : IRel) (ty : ITy) (s : State) : Host.Outcome State Fault Refusal :=
  runInstr (.icmp x r ty) (fun x => pureBody (fun t => { ws := w1 x.d (pOf (irel r (if ty.wide then ext64 ty.unsigned (t.pair x.a) else ext32 ty.unsigned (t.rd x.a)) (icmpB x ty t))) })) s

/-- LEA (R103). -/
def execLea (x : Ops) (sh : BitVec 3) (u : Bool) (s : State) : Host.Outcome State Fault Refusal :=
  runInstr (.lea x sh u) (fun x => pureBody (fun t => { ws := w2 x.d (t.pair x.a + ((if u then (srcB x t).setWidth 64 else (srcB x t).signExtend 64) <<< sh.toNat)) })) s

/-- PAND (R122). -/
def execPand (x : Ops) (s : State) : Host.Outcome State Fault Refusal :=
  runInstr (.pand x) (fun x => pureBody (fun t => { ws := w1 x.d (triWord (triAnd (triOf (t.rd x.a)) (triOf (t.rd x.b)))) })) s

/-- POR (R122). -/
def execPor (x : Ops) (s : State) : Host.Outcome State Fault Refusal :=
  runInstr (.por x) (fun x => pureBody (fun t => { ws := w1 x.d (triWord (triOr (triOf (t.rd x.a)) (triOf (t.rd x.b)))) })) s

/-- PNOT (R122). -/
def execPnot (x : Ops) (s : State) : Host.Outcome State Fault Refusal :=
  runInstr (.pnot x) (fun x => pureBody (fun t => { ws := w1 x.d (triWord (triNot (triOf (t.rd x.a)))) })) s

/-- PXOR (R122). -/
def execPxor (x : Ops) (s : State) : Host.Outcome State Fault Refusal :=
  runInstr (.pxor x) (fun x => pureBody (fun t => { ws := w1 x.d (triWord (triXor (triOf (t.rd x.a)) (triOf (t.rd x.b)))) })) s

/-- PRES (R123). -/
def execPres (x : Ops) (ut : Bool) (s : State) : Host.Outcome State Fault Refusal :=
  runInstr (.pres x ut) (fun x => pureBody (fun t => { ws := w1 x.d (match triOf (t.rd x.a) with | .t => pTrue | .f => pFalse | .u => pOf ut) })) s

end Sys2Proof.Machine
end

