-- ==== Sys2Proof/Machine/Dot.lean ====
section
/-!
DEFINITION. The narrow dot products and PSCL (R142 to R145).
-/

namespace Sys2Proof.Machine

/-- Element `i` of `w` bits of a register (R75). -/
def elemOf (w : Nat) (v : Word) (i : Nat) : Nat := v.toNat / 2 ^ (w * i) % 2 ^ w

/-- The exact sum of the exact products of `n` elements (R144). -/
def dotSum (va vb : Nat → Dyadic) (n : Nat) : Dyadic :=
  (List.range n).foldl (fun s i => s.add ((va i).mul (vb i))) ⟨0, 0⟩

/-- An integer element, signed unless `z` (R143). -/
def intElem (z : Bool) (w : Nat) (v : Word) (i : Nat) : Dyadic :=
  let c := elemOf w v i
  ⟨if z then (c : Int) else (BitVec.ofNat w c).toInt, 0⟩

/-- DOTI8 and DOTI4 (R144): one clamp. -/
def dotInt (x : Ops) (w : Nat) (za zb : Bool) (t : Thread) : Eff :=
  let s := dotSum (intElem za w (t.rd x.a)) (intElem zb w (t.rd x.b)) (32 / w)
  let r := satTo .sat 32 ((t.rd x.c).toInt + s.m)
  { ws := w1 x.d r.1, conds := [r.2] }

/-- The sum of an FP32 addend and an exact dot product, with one rounding (R144); `nan` when an element is a NaN. -/
def dotAdd (addend : Nat) (s : Dyadic) (nan : Bool) : Nat × Conds :=
  let c := f32.value addend
  if nan || c.isNan then f32.nanOf c.isSnan else f32.addV .rne c s.val

/-- DOTN8 and DOTN4 (R144): `va` and `vb` give the elements' values. -/
def dotFp (x : Ops) (w : Nat) (va vb : Nat → FVal) (t : Thread) : Eff :=
  let n := 32 / w
  let a := fun i => va (elemOf w (t.rd x.a) i)
  let b := fun i => vb (elemOf w (t.rd x.b) i)
  let nan := (List.range n).any fun i => (a i).isNan || (b i).isNan
  let r := dotAdd (t.rd x.c).toNat (dotSum (fun i => (a i).dyadic) (fun i => (b i).dyadic) n) nan
  { ws := w1 x.d (BitVec.ofNat 32 r.1), conds := [r.2] }

/-- PSCL (R145). -/
def psclEff (x : Ops) (r : Rnd) (t : Thread) : Eff :=
  let c := elemOf 8 (t.rd x.b) x.c.toNat
  if c = 0xFF then { ws := w1 x.d (BitVec.ofNat 32 f32.nanCode) }
  else
    let v := f32.mulV (rmode t r) (f32.value (t.rd x.a).toNat) (s8Value c)
    { ws := w1 x.d (BitVec.ofNat 32 v.1), conds := [v.2] }

/-- DOTI8 (R143, R144). -/
def execDoti8 (x : Ops) (za zb : Bool) (s : State) : Host.Outcome State Fault Refusal :=
  runInstr (.doti8 x za zb) (fun x => pureBody (dotInt x 8 za zb)) s

/-- DOTI4 (R143, R144). -/
def execDoti4 (x : Ops) (s : State) : Host.Outcome State Fault Refusal :=
  runInstr (.doti4 x) (fun x => pureBody (dotInt x 4 false false)) s

/-- DOTN8 (R143, R144). -/
def execDotn8 (x : Ops) (wa wb : Bool) (s : State) : Host.Outcome State Fault Refusal :=
  runInstr (.dotn8 x wa wb) (fun x => pureBody (dotFp x 8 (nfmtW wa).value (nfmtW wb).value)) s

/-- DOTN4 (R143, R144). -/
def execDotn4 (x : Ops) (s : State) : Host.Outcome State Fault Refusal :=
  runInstr (.dotn4 x) (fun x => pureBody (dotFp x 4 n4Value n4Value)) s

/-- PSCL (R145). -/
def execPscl (x : Ops) (r : Rnd) (s : State) : Host.Outcome State Fault Refusal :=
  runInstr (.pscl x r) (fun x => pureBody (psclEff x r)) s

end Sys2Proof.Machine
end

