-- ==== Sys2Proof/Machine/MatrixUnit.lean ====
section
/-!
DEFINITION. The matrix engine: how a context executes its commands (R148, R154 to R159, R161 to R163, R168).
-/

namespace Sys2Proof.Machine

/-- The code of element (row, column) of a tile (R148). -/
def State.tileElem (s : State) (core mc : Nat) (t : Tile) (row col : Nat) : Nat :=
  let w := fmtBits (tileFmt t)
  let base := tileBase t + row * tilePitch t
  if w = 4 then s.load ⟨.oper core mc, base + col / 2⟩ 1 / 2 ^ (4 * (col % 2)) % 16 else s.load ⟨.oper core mc, base + col * (w / 8)⟩ (w / 8)

/-- The scale value of a row's block, 1 without scale words (R148, R157). -/
def State.tileScale (s : State) (core mc : Nat) (t : Tile) (row kb : Nat) : FVal :=
  if tileScaled t then s8Value (s.load ⟨.oper core mc, tileBase t + tileSoff t + row * tileNb t + kb⟩ 1) else .fin false 1 0

/-- The value of an element's code in a tile format (R147, R148). -/
def fmtValue (f c : Nat) : FVal :=
  match f with
  | 0 => f32.value c
  | 1 => f16.value c
  | 2 => b16.value c
  | 3 => n8.value c
  | 4 => n8w.value c
  | 5 => n4Value c
  | 6 => PkCode.value .i8 c
  | _ => PkCode.value .i4 c

/-- The accumulator of a format is I32 (R156). -/
def fmtInt (f : Nat) : Bool := decide (6 ≤ f)

/-- The value of a floating-point block and the condition that it raises itself: the first case of R158 that applies. -/
def blockValue (l : List (FVal × FVal)) (sa sb : FVal) : FVal × Conds :=
  let inf (n : Bool) : Bool := l.any fun p => (p.1.isInf || p.2.isInf) && (p.1.neg != p.2.neg) == n
  if sa.isNan || sb.isNan then (.nan false, {})
  else if l.any fun p => p.1.isNan || p.2.isNan then (.nan false, .ifInvalid (l.any fun p => p.1.isSnan || p.2.isSnan))
  else if l.any fun p => (p.1.isInf && p.2.isZero) || (p.1.isZero && p.2.isInf) then (.nan false, .invalid)
  else if inf true && inf false then (.nan false, .invalid)
  else if inf true || inf false then (if sa.isZero || sb.isZero then (.nan false, .invalid) else (.inf (inf true), {}))
  else
    let d := l.foldl (fun (d : Dyadic) p => d.add (p.1.dyadic.mul p.2.dyadic)) ⟨0, 0⟩
    (((d.mul sa.dyadic).mul sb.dyadic).val, {})

/-- One block added to an accumulator element (R157): one rounding, or one clamp. -/
def addBlock (int : Bool) (acc : Nat) (l : List (FVal × FVal)) (sa sb : FVal) : Nat × Conds :=
  let b := blockValue l sa sb
  if int then
    let r := satTo .sat 32 ((BitVec.ofNat 32 acc).toInt + (l.foldl (fun (n : Int) p => n + p.1.dyadic.m * p.2.dyadic.m) 0))
    (r.1.toNat, r.2)
  else
    let r := f32.addV .rne (f32.value acc) b.1
    (r.1, b.2.join r.2)

/-- The blocks of a row of A and a row of B: element pairs and scales (R157). -/
def State.blocksOf (s : State) (core mc : Nat) (a b : Tile) (i j : Nat) : List (List (FVal × FVal) × FVal × FVal) :=
  let bl := tileBl a
  (List.range (tileNb a)).map fun kb =>
    ((List.range (min bl (tileCols a - kb * bl))).map fun k =>
        (fmtValue (tileFmt a) (s.tileElem core mc a i (kb * bl + k)), fmtValue (tileFmt b) (s.tileElem core mc b j (kb * bl + k))),
      s.tileScale core mc a i kb, s.tileScale core mc b j kb)

/-- One accumulator element of a product, with the conditions of all its blocks (R157, R159). -/
def State.mmaElem (s : State) (core mc : Nat) (a b : Tile) (i j acc : Nat) : Nat × Conds :=
  (s.blocksOf core mc a b i j).foldl (fun (r : Nat × Conds) x =>
    let v := addBlock (fmtInt (tileFmt a)) r.1 x.1 x.2.1 x.2.2
    (v.1, r.2.join v.2)) (acc, {})

/-- The place of an accumulator element (R157). -/
def accAt (core mc e : Nat) : Target := ⟨.acc core mc, 4 * e⟩

/-- Every element of a product, in element order: its number, value and conditions (R157). -/
def State.product (s : State) (core mc : Nat) (a b : Tile) (o : Nat) (z : Bool) : List (Nat × Nat × Conds) :=
  (List.range (tileRows a)).flatMap fun i => (List.range (tileRows b)).map fun j =>
    let e := o + i * tileRows b + j
    (e, s.mmaElem core mc a b i j (if z then 0 else s.load (accAt core mc e) 4))

/-- Write accumulator elements. -/
def State.setAcc (s : State) (core mc : Nat) (l : List (Nat × Nat × Conds)) : State :=
  l.foldl (fun s e => s.store (accAt core mc e.1) 4 e.2.1) s

/-- The packed format of an ACCRD or ACCWR, unless it moves raw bits (R162). -/
def accCode (f : AccFmt) : Option PkCode :=
  match f with
  | .b32 => none
  | .f16 => some .f16
  | .bf16 => some .bf16
  | .n8 => some .n8

/-- An element that ACCRD writes (R163). -/
def accOut (f : AccFmt) (v : Nat) : Nat × Conds :=
  match accCode f with
  | none => (v, {})
  | some k => PkCode.encode k .rne (f32.value v)

/-- An element that ACCWR writes (R163). -/
def accIn (f : AccFmt) (c : Nat) : Nat × Conds :=
  match accCode f with
  | none => (c, {})
  | some k => widen32 (PkCode.value k c)

/-- What ACCRD writes: scratchpad offset, code and conditions of each element, in element order (R163). -/
def State.drain (s : State) (core mc : Nat) (f : AccFmt) (a o rows cols pitch : Nat) : List (Nat × Nat × Conds) :=
  (List.range rows).flatMap fun i => (List.range cols).map fun j =>
    (a + i * pitch + j * accBytes f, accOut f (s.load (accAt core mc (o + i * cols + j)) 4))

/-- The counter of a command's events: the core that executes it, and its issuer (R159). -/
def MCmd.counter (c : MCmd) (core : Nat) : Counter := { core := core, ref := c.ref, pc := c.pc, einst := c.einst }

/-- The head command leaves the queue, and the context is served (R154). -/
def State.popCommand (s : State) (core mc : Nat) : State :=
  s.updCore core fun c => { c.setMc mc { c.mc mc with queue := (c.mc mc).queue.drop 1 } with lastMc := mc }

/-- The command at the head of a context may begin (R154, R155); one that writes the scratchpad, ACCRD or an ACCWR with a completion word, which is a release,
after its issuer's earlier accesses (R163, R270). -/
def State.commandReady (s : State) (core mc : Nat) : Option MCmd :=
  match ((s.core core).mc mc).queue with
  | [] => none
  | c :: _ =>
    let after : Bool := match c.kind with
      | .accrd .. => s.issuerDone c.ref c.id
      | .accwr _ _ _ _ _ cw => cw.isNone || s.issuerDone c.ref c.id
      | .mma .. | .accz .. => true
    if after && (c.reads core mc).all (s.unowned c.id) then some c else none

/-- A redundancy mismatch (R168, R378, R381): the context halts; the issuer takes the trap at a boundary, or a record is written, and the
floor of R373 kills its team. -/
def State.mismatch (s : State) (core mc : Nat) (c : MCmd) (seq : Nat) : State :=
  let s := s.updMc core mc fun m => { m with halt := true, haltAt := c.id }
  match s.team c.ref.team with
  | none => s
  | some tm =>
    let gone : Bool := match tm.threads.look c.ref.tid with
      | some t => decide (t.status = .exited)
      | none => true
    if gone then
      s.kill c.ref 1 { s.errFor tm c.ref.tid 6 with core := core, pc := c.pc, info := seq, clock := s.localClock core }
    else
      s.hold c.ref { cause := .redundancy, deferred := true, epc := c.pc, eaddr := 0, einfo := BitVec.ofNat 32 seq, einst := c.einst }

/-- The stage of a command's issuer runs in redundant mode (R168). -/
def State.isRedundant (s : State) (c : MCmd) : Bool :=
  match (s.team c.ref.team).bind s.stageOf with
  | some st => st.red
  | none => false

/-- The effect of a command (R157, R161 to R163, R168); `agree` says whether the two computations of redundant mode agree. -/
def State.runCommand (s : State) (core mc : Nat) (c : MCmd) (agree : Bool) : State :=
  match c.kind with
  | .mma _ _ da db o z seq =>
    if s.isRedundant c && !agree then s.mismatch core mc c seq
    else
      let l := s.product core mc da db o z
      (s.setAcc core mc l).raiseLast (c.counter core) (l.map fun e => e.2.2)
  | .accz o n => (List.range n).foldl (fun s e => s.store (accAt core mc (o + e)) 4 0) s
  | .accrd f a o rows cols pitch op =>
    match (s.core core).op op with
    | none => s
    | some p =>
      let l := s.drain core mc f a o rows cols pitch
      let s := l.foldl (fun s e => s.writeData (.copier c.ref.team core) false (localByte c.ref.team e.1) (accBytes f) e.2.1) s
      (s.raiseLast (c.counter core) (l.map fun e => e.2.2)).finishOp core p 0
  | .accwr f o _ _ data cw =>
    let l := ((List.range data.length).zip data).map fun e => (o + e.1, accIn f e.2)
    let s := s.setAcc core mc l
    (s.completionWord (.copier c.ref.team core) c.ref.team cw).raiseLast (c.counter core) (l.map fun e => e.2.2)

/-- A command of a halted context is discarded (R168): an ACCRD's handle completes with ERR 7. -/
def State.discard (s : State) (core : Nat) (c : MCmd) : State :=
  match c.kind with
  | .accrd _ _ _ _ _ _ op => match (s.core core).op op with
    | some p => s.completeHandle core p 7 0
    | none => s
  | .mma .. | .accz .. | .accwr .. => s

/-- MATRIX_COMMAND_EXECUTE (R154): the next command of a context; the two contexts are served alternately while both are ready. It completes after
the issue of its thread on that clock, so that a trap is taken at the next boundary (R159). -/
def execMatrixCommandExecute (core mc : Nat) (agree : Bool) (s : State) : Host.Outcome State Fault Refusal :=
  if 1 < mc then .fault .notEnabled
  else match s.commandReady core mc with
  | none => .fault .notEnabled
  | some c =>
    if (s.commandReady core (1 - mc)).isSome ∧ (s.core core).lastMc = mc ∨ s.inStitch core c.ref then .fault .notEnabled
    else
      let s' := s.popCommand core mc
      if ((s.core core).mc mc).halt then .next (s'.discard core c) else .next (s'.runCommand core mc c agree)

end Sys2Proof.Machine
end

