-- ==== Sys2Proof/Machine/Collective.lean ====
section
/-!
DEFINITION. The collective engine (R322 to R331, R405), and the completion of every engine operation (R166, R312).
-/

namespace Sys2Proof.Machine

/-- The parts of a group's operation on this package, each with its core. -/
def State.partsOf (s : State) (g : List Nat) (num : Nat) : List (Nat × EngOp) := s.allOps.filter fun e => s.inGroup e.2 g num

/-- The algorithm of the slot that a part names (R324). -/
def State.algOf (s : State) (core : Nat) (r : CollRec) : Nat :=
  match (s.die (dieOf core)).slots.look r.slot with
  | some k => k.alg
  | none => 0

/-- What the ranks must agree on (R323): KIND, OP, LANES, NELEM and the algorithm. -/
structure CollKey where
  kind : Nat
  op : Nat
  lanes : Nat
  nelem : Nat
  alg : Nat
deriving DecidableEq, Repr

/-- The key of a part on this package. -/
def State.collKey (s : State) (core : Nat) (r : CollRec) : CollKey := ⟨r.kind, r.op, r.lanes, r.nelem, s.algOf core r⟩

/-- The key of a peer's part. -/
def peerKey (p : PeerRank) : CollKey := ⟨p.kind, p.op, p.lanes, p.nelem, p.alg⟩

/-- Elements of a run below N. -/
def runSpan (n : Nat) (r : Nat × Nat) : Nat := min (r.1 + r.2) n - min r.1 n

/-- The runs are pairwise disjoint, and together they contain [0, N) (R323). -/
def runsCover (n : Nat) (l : List (Nat × Nat)) : Bool :=
  (((List.range l.length).zip l).all fun a => ((List.range l.length).zip l).all fun b =>
      a.1 == b.1 || decide (a.2.1 + a.2.2 ≤ b.2.1) || decide (b.2.1 + b.2.2 ≤ a.2.1))
    && decide ((l.map (runSpan n)).sum = n)

/-- The records of parts. -/
def recsOf (l : List (Nat × EngOp)) : List (Nat × CollRec) := l.filterMap fun e => e.2.kind.coll?.map fun c => (e.1, c.1)

/-- The ranks of parts and peers are those of the group, each once; a peer's rank is of another package (R323). -/
def groupFull (r : CollRec) (recs : List (Nat × CollRec)) (peers : List PeerRank) : Bool :=
  let ed := (r.axis 0).2
  decide (sortNat (recs.map (fun x => x.2.rank) ++ peers.map (fun p => p.index)) = List.range r.ranks)
    && peers.all fun p => decide (p.index / ed ≠ r.rank / ed)

/-- The ranks agree (R323). -/
def State.groupAgrees (s : State) (core : Nat) (r : CollRec) (recs : List (Nat × CollRec)) (peers : List PeerRank) : Bool :=
  (recs.all fun x => decide (s.collKey x.1 x.2 = s.collKey core r)) && (peers.all fun p => decide (peerKey p = s.collKey core r))
    && (!r.det || runsCover r.nelem (recs.map (fun x => (x.2.ebase, x.2.run)) ++ peers.map fun p => (p.ebase, p.run)))

/-- The first part on a die's slot whose group has not assembled. -/
def State.unassembled (s : State) (die slot : Nat) : Option (Nat × EngOp) :=
  firstIssued (s.allOps.filter fun e => decide (dieOf e.1 = die) && decide (e.2.stage = .waiting) && !e.2.assembled &&
    match e.2.kind.coll? with
    | some (r, _) => r.slot == slot
    | none => false)

/-- Ranks of a group on one package, and all its ranks: a group names its context, REPL, the extents x, y, z and of dies, and coordinates (R323). -/
def groupRanks (g : List Nat) : Nat × Nat :=
  let axis (bit i : Nat) : Nat := if g.getD 1 0 / 2 ^ bit % 2 = 1 then g.getD i 1 else 1
  let dies := axis 0 5
  (dies, dies * axis 1 2 * axis 2 3 * axis 3 4)

/-- The traffic of a group that spans packages needs a port that is down (R368). -/
def State.cutOff (s : State) (g : List Nat) : Bool :=
  decide ((groupRanks g).1 < (groupRanks g).2) && s.ports.any fun p => p.2.down && Config.collOver g p.1

/-- GROUP_ASSEMBLY (R323): the group has the issues of all its ranks, those of other packages among them; it begins, or every rank ends
with ERR 5. `order` is the order in which the roots reach the engine (R327). -/
def execGroupAssembly (die slot : Nat) (peers : List PeerRank) (order : Nat) (s : State) : Host.Outcome State Fault Refusal :=
  match s.unassembled die slot with
  | none => .fault .notEnabled
  | some (core, o) => match o.kind.coll? with
    | none => .fault .notEnabled
    | some (r, num) =>
      let parts := s.partsOf (r.group (s.ctxOf o.ref)) num
      let recs := recsOf parts
      if !groupFull r recs peers || (!peers.isEmpty && s.cutOff (r.group (s.ctxOf o.ref))) then .fault .notEnabled
      else
        let ok := s.groupAgrees core r recs peers
        .next (parts.foldl (fun s e => s.updOp e.1 e.2.id fun o =>
          if ok then { o with assembled := true, peers := peers, order := order } else { o with stage := .failed 5 }) s)

/-- COLL_ABORT (R329): an abort that a rank on another package has started reaches this package, for any operation of a group that spans packages, whether or
not its ranks here have issued it; `received` are the ranks of other packages that have the whole result, none of which can have it before every part
here has read its source. -/
def execCollAbort (group : List Nat) (num : Nat) (received : List Nat) (s : State) : Host.Outcome State Fault Refusal :=
  let n := groupRanks group
  let mine := s.partsOf group num
  let early (e : Nat × EngOp) : Bool := match e.2.stage with
    | .waiting | .reading _ => true
    | .begun _ | .exchanged _ _ | .result _ _ | .failed _ | .landed => false
  let local_ := (recsOf mine).map fun e => e.2.rank
  if n.2 ≤ n.1 || (!received.isEmpty && (mine.length < n.1 || mine.any early || received.any local_.contains)) then .fault .notEnabled
  else .next (s.abortGroup group num (some received))

/-- Bytes of the engine's staging that a part takes (R330). -/
def State.staging (s : State) (o : EngOp) : Nat :=
  match o.kind with
  | .coll r _ _ _ => 4 * r.lanes
  | .collSk _ slot _ => match s.bound (s.ctxOf o.ref) slot with
    | some k => 64 + (s.skNow k).body
    | none => 0
  | .lin .. | .fill .. | .gather .. | .scatter .. | .cpyw .. | .tld .. | .tst .. | .accrd | .msync => 0

/-- The part occupies staging: its slot has begun the operation, and it has not ended. -/
def EngOp.staged (o : EngOp) : Bool :=
  o.admitted && match o.stage with
    | .waiting | .reading _ | .begun _ | .exchanged _ _ | .result _ _ => true
    | .failed _ | .landed => false

/-- Staging is free on a die for parts of an operation (R330). -/
def State.stagingFree (s : State) (die : Nat) (parts : List (Nat × EngOp)) : Bool :=
  let here := (parts.filter fun e => dieOf e.1 == die).map fun e => s.staging e.2
  here.isEmpty || decide (((s.allOps.filter fun e => dieOf e.1 == die && e.2.staged).map fun e => s.staging e.2).sum + here.sum ≤ 2 ^ 21)

/-- The part is the first of its slot: a slot runs its operations in issue order (R330). -/
def State.firstOfSlot (s : State) (core : Nat) (o : EngOp) (slot : Nat) : Bool :=
  s.allOps.all fun e => decide (o.id ≤ e.2.id) || decide (dieOf e.1 ≠ dieOf core) || match e.2.kind.coll? with
    | some (r, _) => r.slot != slot
    | none => true

/-- The state that a sketch part reads: what R294 compares, then the rest of the state as it stands (R328). -/
def State.skWhole (s : State) (k : Bind) : List Byte :=
  let p := s.skNow k
  leBytes 1 p.ty ++ leBytes 1 p.b ++ leBytes 1 p.dk ++ leBytes 1 p.cw ++ leBytes 4 p.seed ++ s.skBytes k 8 (56 + p.body)

/-- The slots begin the operation of an assembled group on every die of the package at once (R330, R403), each in its issue order, when staging is free
on all of them: so no two operations hold staging that the other waits for. -/
def State.admitGroup (s : State) (o : EngOp) (r : CollRec) (num : Nat) : Option State :=
  let mine := s.partsOf (r.group (s.ctxOf o.ref)) num
  let first (e : Nat × EngOp) : Bool := match e.2.kind.coll? with
    | some (q, _) => s.firstOfSlot e.1 e.2 q.slot
    | none => false
  if !o.assembled || !(mine.all fun e => decide (e.2.stage = .waiting) && first e) || !(List.range 4).all (s.stagingFree · mine) then none
  else some (mine.foldl (fun s e => s.updOp e.1 e.2.id fun o => { o with admitted := true }) s)

/-- A part whose slot has begun the operation reads its source (R325, R328). -/
def State.beginPart (s : State) (core : Nat) (o : EngOp) : Option State :=
  if s.isPaused o || !s.issuerDone o.ref o.id then none
  else match o.kind with
    | .collSk _ slot _ => (s.bound (s.ctxOf o.ref) slot).bind fun k =>
      if !s.instanceFree true o.ref o.id (s.ctxOf o.ref) slot k.ranges then none
      else if k.ranges.any s.poisoned then some (s.engineFail core o 3)
      else some (s.updOp core o.id fun o => { o with stage := .begun (s.skWhole k) })
    | .coll .. => o.soFar.bind fun d => (s.reach core o).bind fun x => s.readSource x o d
    | .lin .. | .fill .. | .gather .. | .scatter .. | .cpyw .. | .tld .. | .tst .. | .accrd | .msync => none

/-- What a rank contributes: its index, EBASE, RUN, lanes and bytes. -/
structure Part where
  rank : Nat
  ebase : Nat
  run : Nat
  data : List Byte
deriving DecidableEq, Repr

/-- The part of a rank on this package that has read its source. -/
def EngOp.part (o : EngOp) : Option Part :=
  match o.stage, o.kind.coll? with
  | .begun d, some (r, _) => some ⟨r.rank, r.ebase, r.run, d⟩
  | _, _ => none

/-- The part of a rank on another package. -/
def peerPart (sk : Bool) (p : PeerRank) : Part := ⟨p.index, p.ebase, p.run, if sk then p.state else p.data.flatMap fun w => leBytes 4 w.toNat⟩

/-- A part put into rank order. -/
def insertPart (a : Part) : List Part → List Part
  | [] => [a]
  | b :: l => if a.rank ≤ b.rank then a :: b :: l else b :: insertPart a l

/-- Lane `i` of a part. -/
def Part.lane (p : Part) (i : Nat) : Word := BitVec.ofNat 32 (leNat ((p.data.drop (4 * i)).take 4))

/-- The node of the fixed tree over 2^level indices from `start` (R326), from the runs that lie in it, each with its first index and its length: the
value of the run that covers it exactly, +0.0 where it covers no run, and otherwise the sum of its two halves. -/
def detNode : Nat → Nat → List (Nat × Nat × Word) → Word × Conds
  | 0, start, l => (match l.find? fun r => r.1 == start with
    | some r => r.2.2
    | none => 0, {})
  | n + 1, start, l =>
    let l := l.filter fun r => decide (start ≤ r.1) && decide (r.1 < start + 2 ^ (n + 1))
    if l.isEmpty then (0, {})
    else match l.find? fun r => r.1 == start && r.2.1 == 2 ^ (n + 1) with
      | some r => (r.2.2, {})
      | none =>
        let a := detNode n start l
        let b := detNode n (start + 2 ^ n) (l.filter fun r => decide (start + 2 ^ n ≤ r.1))
        let v := rvApply .addF32 a.1 b.1
        (v.1, (a.2.join b.2).join v.2)

/-- The levels of the tree: for the least power of two that is at least N, or for a longer run from 0 on, which covers it. -/
def detLevels (n : Nat) (runs : List (Nat × Nat)) : Nat :=
  runs.foldl (fun m r => if r.1 = 0 then max m r.2.log2 else m) (if n ≤ 1 then 0 else (n - 1).log2 + 1)

/-- A FP32 result carries canonical NaNs (R325). -/
def canon32 (w : Word) : Word := if (f32.value w.toNat).isNan then BitVec.ofNat 32 f32.nanCode else w

/-- The `k`-th order of a list. -/
def permute {α : Type} : Nat → Nat → List α → List α
  | 0, _, l => l
  | _, _, [] => []
  | n + 1, k, a :: l =>
    let i := k % (l.length + 1)
    match (a :: l)[i]? with
    | some x => x :: permute n (k / (l.length + 1)) ((a :: l).eraseIdx i)
    | none => a :: l

/-- Values combined one after another, with all conditions. -/
def foldWords (f : Word → Word → Word × Conds) : List Word → Word × Conds
  | [] => (0, {})
  | a :: l => l.foldl (fun (r : Word × Conds) b => let v := f r.1 b; (v.1, r.2.join v.2)) (a, {})

/-- The reduction of lane `i` over the group, in rank order or, for `.arr`, in the order of arrival (R325 to R327). -/
def reduceLane (op nelem order : Nat) (ps : List Part) (i : Nat) : Word × Conds :=
  let ws := ps.map fun p => p.lane i
  match op with
  | 0 =>
    let v := detNode (detLevels nelem (ps.map fun p => (p.ebase, p.run))) 0 (ps.map fun p => (p.ebase, p.run, p.lane i))
    (canon32 v.1, v.2)
  | 1 => let v := foldWords (rvApply .addF32) (permute ws.length order ws); (canon32 v.1, v.2)
  | 2 => foldWords (rvApply .addI32) ws
  | 3 => let v := foldWords (rvApply .minF32) ws; (canon32 v.1, v.2)
  | _ => let v := foldWords (rvApply .maxF32) ws; (canon32 v.1, v.2)

/-- The result that every rank receives, from the parts in rank order: bytes, and the conditions of each lane (R325). -/
def collResult (r : CollRec) (order : Nat) (ps : List Part) : List Byte × List Conds :=
  match r.kind with
  | 0 =>
    let l := (List.range r.lanes).map (reduceLane r.op r.nelem order ps)
    (l.flatMap fun v => leBytes 4 v.1.toNat, l.map fun v => v.2)
  | 1 => ((ps.headD ⟨0, 0, 0, []⟩).data, [])
  | _ => (ps.flatMap fun p => p.data, [])

/-- The sketch states that the ranks read have equal parameters, and so equal lengths (R328). -/
def sketchesAgree (ps : List Part) : Bool :=
  match ps with
  | [] => true
  | p :: l => l.all fun q => decide (q.data.take 8 = p.data.take 8) && decide (q.data.length = p.data.length)

/-- The parts meet, once every rank of the package has read its source (R325, R328): every rank will receive the result, or end with
ERR 6. -/
def State.exchange (s : State) (o : EngOp) (r : CollRec) (num : Nat) : Option State :=
  let mine := s.partsOf (r.group (s.ctxOf o.ref)) num
  let sk : Bool := match o.kind with
    | .collSk .. => true
    | .coll .. | .lin .. | .fill .. | .gather .. | .scatter .. | .cpyw .. | .tld .. | .tst .. | .accrd | .msync => false
  let parts := mine.filterMap fun e => e.2.part
  if parts.length ≠ mine.length then none
  else
    let ps := (parts ++ o.peers.map (peerPart sk)).foldr insertPart []
    let mask := rankBits (List.range r.ranks)
    let give (s : State) (e : Nat × EngOp) : State :=
      let v : List Byte × List Conds := match sk, e.2.kind.coll? with
        | true, some (q, _) => ((ps.filter fun p => p.rank != q.rank).flatMap fun p => p.data, [])
        | _, _ => collResult r o.order ps
      s.updOp e.1 e.2.id fun o => { o with stage := .exchanged v.1 v.2, rmask := mask }
    if sk && !sketchesAgree ps then some (mine.foldl (fun s e => s.updOp e.1 e.2.id fun o => { o with stage := .failed 6 }) s)
    else some (mine.foldl give s)

/-- A collective's part goes on (R325, R403): it reads its source once its slots have begun the operation; the parts then meet, and each rank receives the
whole result. -/
def State.partMove (s : State) (core : Nat) (o : EngOp) (r : CollRec) (n : Nat) : Option State :=
  match o.stage with
  | .waiting | .reading _ => if o.admitted then s.beginPart core o else s.admitGroup o r n
  | .begun _ => s.exchange o r n
  | .exchanged d c => some (s.updOp core o.id fun o => { o with stage := .result d c })
  | .result _ _ | .failed _ | .landed => none

/-- ENGINE BEGINS: an operation reads its source, or a collective's part goes on; one that needs a port which is down ends with ERR 3 (R368, R373). -/
def State.engineBegin (s : State) (core op : Nat) : Option State :=
  ((s.core core).op op).bind fun o =>
    match o.kind.coll? with
    | none => s.beginCopy core o
    | some (r, n) => if o.losing.isSome && s.cutOff (r.group (s.ctxOf o.ref)) then some (s.engineFail core o 3) else s.partMove core o r n

/-- Pieces of a length, in order. -/
def piecesOf (n : Nat) : Nat → List Byte → List (List Byte)
  | 0, _ => []
  | k + 1, l => l.take n :: piecesOf n k (l.drop n)

/-- The other ranks' states are applied to an instance, as one write (R294, R328). -/
def State.mergeAll (s : State) (k : Bind) (l : List Byte) : State × Bool :=
  let n := 64 + (s.skNow k).body
  (piecesOf n (l.length / n) l).foldl (fun (r : State × Bool) src => let q := r.1.skMerge k src; (q.1, r.2 || q.2)) (s, false)

/-- Every rank of the package has its result or has failed. -/
def State.groupSettled (s : State) (o : EngOp) (r : CollRec) (num : Nat) : Bool :=
  (s.partsOf (r.group (s.ctxOf o.ref)) num).all fun e => e.2.losing.isNone

/-- The counter of an engine operation's events (R325). -/
def EngOp.counter (o : EngOp) (core : Nat) : Counter := { core := core, ref := o.ref, pc := o.pc, einst := o.einst }

/-- A collective writes its result and ends (R312, R325, R328); its lanes' conditions are raised with the handle's completion. -/
def State.finishColl (s : State) (core : Nat) (o : EngOp) (l : List Byte) (cs : List Conds) : Option State :=
  match o.kind with
  | .collSk _ slot _ => (s.bound (s.ctxOf o.ref) slot).bind fun k =>
    if !s.instanceFree true o.ref o.id (s.ctxOf o.ref) slot k.ranges then none
    else if k.ranges.any s.poisoned then some (s.engineFail core o 3)
    else
      let m := s.mergeAll k l
      let s := ((k.ranges.foldl State.l2Results m.1).skWrote (o.scopeAgent core) k).finishOp core o o.rmask
      some (if m.2 then s.count (o.counter core) [6] else s)
  | .coll .. => (s.reach core o).bind fun r =>
    s.writePayload r o l fun s => if cs.all fun c => decide (c = {}) then s else s.raise (o.counter core) cs
  | .lin .. | .fill .. | .gather .. | .scatter .. | .cpyw .. | .tld .. | .tst .. | .accrd | .msync => none

/-- An MSYNC completes (R166): every command that entered the queue before it has completed, and every welt of a copy that the team
issued on the core before it has completed or been discarded. -/
def State.msyncDone (s : State) (core : Nat) (o : EngOp) : Bool :=
  let c := s.core core
  (match c.mcOf o.ref.team with
    | none => true
    | some k => (c.mc k).queue.all fun q => !decide (q.id < o.id) && match q.welt with
      | some w => !decide (w < o.id)
      | none => true)
    && c.ops.all fun p => match p.kind with
      | .cpyw .. => decide (p.ref.team ≠ o.ref.team) || decide (o.id < p.id)
      | .lin .. | .fill .. | .gather .. | .scatter .. | .tld .. | .tst .. | .accrd | .msync | .coll .. | .collSk .. => true

/-- An MSYNC issued after the command whose mismatch halted its context ends with ERR 7 (R168). -/
def State.msyncErr (s : State) (core : Nat) (o : EngOp) : Nat :=
  let m := (s.tileHome core o).2
  if m.halt && decide (m.haltAt < o.id) then 7 else 0

/-- The completion of an operation that is ready for it. -/
def State.completeOp (s : State) (core : Nat) (o : EngOp) : Option State :=
  match o.stage, o.kind with
  | .failed n, _ => some (s.completeHandle core o n o.rmask)
  | .landed, _ => none
  | .waiting, .msync =>
    if s.msyncDone core o then some (s.completeHandle core o (s.msyncErr core o) 0) else none
  | .waiting, .fill .. =>
    if s.isPaused o || !s.issuerDone o.ref o.id then none
    else (s.reach core o).bind fun r => s.writePayload r o (s.payload core o []) id
  | .begun d, .lin .. | .begun d, .gather .. | .begun d, .scatter .. | .begun d, .cpyw .. | .begun d, .tld .. | .begun d, .tst .. =>
    if s.isPaused o then none else (s.reach core o).bind fun r => s.writePayload r o (s.payload core o d) id
  | .result d c, .coll r _ _ n | .result d c, .collSk r _ n =>
    if s.isPaused o || !s.groupSettled o r n then none else s.finishColl core o d c
  | _, _ => none

/-- The payload of an operation that may write it, unit by unit (R245): its source has been read, or its result received. -/
def State.writing (s : State) (core : Nat) (o : EngOp) : Option (List Byte) :=
  if s.isPaused o then none
  else match o.stage, o.kind with
  | .waiting, .fill .. => if s.issuerDone o.ref o.id then some (s.payload core o []) else none
  | .begun d, .lin .. | .begun d, .gather .. | .begun d, .scatter .. | .begun d, .tst .. => some (s.payload core o d)
  | .result d _, .coll r _ _ n => if s.groupSettled o r n then some d else none
  | _, _ => none

/-- ENGINE WRITES: the `k`-th unit that an operation holds is written and released (R245). -/
def State.engineWrite (s : State) (core op k : Nat) : Option State :=
  ((s.core core).op op).bind fun o => (s.writing core o).bind fun l => (s.reach core o).bind fun r => s.writeUnit r o l k

/-- ENGINE_COMPLETION (R312): payload, then completion word, then handle; an operation that has failed completes its handle only. -/
def execEngineCompletion (core op : Nat) (s : State) : Host.Outcome State Fault Refusal :=
  match ((s.core core).op op).bind (s.completeOp core) with
  | some s' => .next s'
  | none => .fault .notEnabled

end Sys2Proof.Machine
end

