-- ==== Sys2Proof/Machine/Atomics.lean ====
section
/-!
DEFINITION. Row 0xA: atomics, issued here and performed at the location's home (R256 to R260).
-/

namespace Sys2Proof.Machine

/-- An atomic with its operand, its compare value and its destination registers, none when D is g0 (R256, R258). -/
def atomBody (kind : OpKind) (sp : Space) (n b c : Nat) (dstN : Nat) (x : Ops) (e : Env) (s : State) : Res :=
  let a := memAddr x sp 0 e.t
  let dn := if x.d = 0 then 0 else dstN
  accessing e s sp a n n .both 2 (noWindow a) fun t s =>
    let o := e.memOp s.nextId kind (splitAccess s.nextId t n b) (memOrd x) (memScope x) x.hint c x.d dn a
    if dn = 0 then .done (s.issue e o) [] [] none else produce e s o

/-- An operand of 4 or 8 bytes. -/
def operand (n : Nat) (t : Thread) (r : Reg) : Nat := if n = 8 then (t.pair r).toNat else (t.rd r).toNat

/-- Bytes of a RED (R256). -/
def redBytes (op : AOp) : Nat := if op = .addI64 then 8 else 4

/-- RED `.add.f32` reports its conditions as ATOMF does (R259). -/
def redKind (op : AOp) : OpKind := if op = .addF32 then .atomicF .addF32 else .atomic op

/-- ATOM (R256 to R258). -/
def execAtom (x : Ops) (op : AOp) (sp : Space) (s : State) : Host.Outcome State Fault Refusal :=
  runInstr (.atom x op sp) (fun x e s => atomBody (.atomic op) sp 4 (operand 4 e.t x.b) 0 1 x e s) s

/-- ATOMC (R258). -/
def execAtomc (x : Ops) (sp : Space) (s : State) : Host.Outcome State Fault Refusal :=
  runInstr (.atomc x sp) (fun x e s => atomBody .compare sp 4 (operand 4 e.t x.b) (operand 4 e.t x.c) 1 x e s) s

/-- RED (R256 to R259). -/
def execRed (x : Ops) (op : AOp) (sp : Space) (s : State) : Host.Outcome State Fault Refusal :=
  runInstr (.red x op sp) (fun x e s => atomBody (redKind op) sp (redBytes op) (operand (redBytes op) e.t x.b) 0 0 x e s) s

/-- ATOMF (R257 to R259). -/
def execAtomf (x : Ops) (op : AfOp) (sp : Space) (s : State) : Host.Outcome State Fault Refusal :=
  runInstr (.atomf x op sp) (fun x e s =>
    let n := if op.wide then 8 else 4
    atomBody (.atomicF op) sp n (operand n e.t x.b) 0 (n / 4) x e s) s

/-- ATOM64 (R256 to R258). -/
def execAtom64 (x : Ops) (op : AOp) (sp : Space) (s : State) : Host.Outcome State Fault Refusal :=
  runInstr (.atom64 x op sp) (fun x e s => atomBody (.atomic op) sp 8 (operand 8 e.t x.b) 0 2 x e s) s

/-- ATOMC64 (R258). -/
def execAtomc64 (x : Ops) (sp : Space) (s : State) : Host.Outcome State Fault Refusal :=
  runInstr (.atomc64 x sp) (fun x e s => atomBody .compare sp 8 (operand 8 e.t x.b) (operand 8 e.t x.c) 2 x e s) s

end Sys2Proof.Machine
end

