-- ==== Sys2Proof/Machine/Placement.lean ====
section
/-!
DEFINITION. Placement of teams and the stage arbiter (R146, R153, R175, R180, R186 to R189, R225, R352, R354, R387).
-/

namespace Sys2Proof.Machine

/-- What teams hold of a node's budgets (R352). -/
structure Usage where
  cores : Nat
  threads : Nat
  grans : Nat
  spad : Nat
deriving DecidableEq, Repr

/-- Two teams' holdings together. -/
def Usage.add (a b : Usage) : Usage := ⟨a.cores + b.cores, a.threads + b.threads, a.grans + b.grans, a.spad + b.spad⟩

/-- The team is on its cores: a parked one is not (R184). -/
def Team.placed (tm : Team) : Bool := decide (tm.phase ≠ .parked)

/-- Threads of a team in slots. -/
def Team.seated (tm : Team) : Nat :=
  (tm.threads.filter fun t => match t.2.loc with
    | .slot .. => true
    | .ring | .none => false).length

/-- What a team holds (R352). -/
def State.usageOf (s : State) (tm : Team) : Usage :=
  match s.stageOf tm with
  | some st => if tm.placed then ⟨tm.cores.length, tm.seated, tm.seated * st.gran, tm.cores.length * st.spad⟩ else ⟨0, 0, 0, 0⟩
  | none => ⟨0, 0, 0, 0⟩

/-- What the teams of a node hold. -/
def State.usage (s : State) (node : Team → Bool) : Usage :=
  (s.teams.filter fun t => node t.2).foldl (fun u t => u.add (s.usageOf t.2)) ⟨0, 0, 0, 0⟩

/-- A placement keeps every node's count within its budget (R352): the stage, its pipeline, its context and its partition. -/
def State.affords (s : State) (pn : Nat) (p : Pipeline) (k : Nat) (st : Stage) (need : Usage) : Bool :=
  let ok (u : Usage) (cores threads grans spad : Nat) : Bool :=
    decide (u.cores ≤ cores) && decide (u.threads ≤ threads) && decide (u.grans ≤ grans) && decide (u.spad ≤ spad)
  let node (n : Nat) (f : Team → Bool) : Bool :=
    match p.budgets[n]? with
    | some b => ok ((s.usage f).add need) b.cmax b.threads b.grans b.spad
    | none => true
  let pipeIs (f : Pipeline → Bool) (tm : Team) : Bool := match s.pipeOf tm with
    | some q => f q
    | none => false
  ok ((s.usage fun tm => decide (tm.pipe = pn ∧ tm.stage = k)).add need) st.cmax st.threadsMax st.gransMax st.spadMax
    && node 0 (fun tm => decide (tm.pipe = pn)) && node 1 (pipeIs fun q => decide (q.ctxNum = p.ctxNum))
    && node 2 (pipeIs fun q => decide (q.part = p.part))

/-- The teams on a core. -/
def State.teamsOn (s : State) (core : Nat) : List Team :=
  (s.teams.map fun t => t.2).filter fun tm => tm.placed && tm.cores.contains core

/-- A kernel's split (R225). -/
def Stage.split (st : Stage) : Nat := (st.spad + 262143) / 262144

/-- Scratchpad bytes taken on a core (R225). -/
def State.spadUsed (s : State) (core : Nat) : Nat :=
  ((s.teamsOn core).map fun tm => match s.stageOf tm with
    | some st => st.spad
    | none => 0).sum

/-- A WSLOAD of a partition for a die that is in progress (R273, R365). -/
def Packet.loads (k : Packet) (part die : Nat) : Bool :=
  decide (field k.bytes 0 1 = 3) && decide (k.code = 0) && decide (ctxPart k.ctx = part) && decide (field k.bytes 0x14 1 = die)

/-- A core can take a team (R187, R188, R225): the split is the kernel's, or no team remains on the core; SPAD bytes are free; a
matrix context is free where the team needs one; and no WSLOAD of the partition is under way on the die (R273). -/
def State.coreTakes (s : State) (part : Nat) (st : Stage) (mc : Bool) (core : Nat) : Bool :=
  let c := s.core core
  (decide (c.split = st.split) || (s.teamsOn core).isEmpty)
    && decide (s.spadUsed core + st.spad ≤ 262144 * st.split)
    && (!mc || c.mc0.team.isNone || c.mc1.team.isNone)
    && !(s.packets.any fun k => k.loads part (dieOf core))

/-- A seat for one thread on a team core: the first of the benches that has a slot for it. -/
def seatOne (gran : Nat) (seats : List (Nat × Nat × Nat)) (benches : List Nat) : Option (Nat × Nat) :=
  benches.findSome? fun b => (seatOn seats gran b).map fun k => (b, k)

/-- Seats for threads, one after another: each thread with its team core and its benches in order; `ss` are the seats taken on
each team core. -/
def seatThreads (gran : Nat) : List (Nat × Nat × List Nat) → List (List (Nat × Nat × Nat)) → Option (List (Nat × Loc))
  | [], _ => some []
  | (tid, tc, bs) :: l, ss =>
    match seatOne gran (ss.getD tc []) bs with
    | none => none
    | some (b, k) => (seatThreads gran l (ss.modify tc fun x => x ++ [(b, k, gran)])).map fun r => (tid, .slot tc b k) :: r

/-- The first identifier of a team core (R180). -/
def firstOf (cores n c : Nat) : Nat := (c * n + cores - 1) / cores

/-- The initial threads of a team, each with its team core and its bench (R180). -/
def initialSeats (cores n : Nat) : List (Nat × Nat × List Nat) :=
  (List.range n).map fun i =>
    let c := i * cores / n
    (i, c, [(i - firstOf cores n c) % 4])

/-- An initial thread (R354). -/
def Stage.thread (st : Stage) (args : DWord) (tid : Nat) : Thread :=
  let sp : DWord := if st.stack = 0 then 0 else st.stack + BitVec.ofNat 64 (st.stksz * (tid + 1))
  (Thread.fresh st.entry (BitVec.ofNat 32 st.mode)).wrs (w2 2 sp ++ w2 6 args)

/-- A memory takes the place of another. -/
def State.moveMem (s : State) (src dst : MemId) : State := (s.setMem dst (s.mem src)).clearMem src

/-- The team acquires a free matrix context on a core, filled with zeros and with every descriptor invalid, or with what it kept
while it was parked (R23, R146, R169). -/
def State.acquire (s : State) (n tc core : Nat) (kept : Option MatCtx) : State :=
  let c := s.core core
  let k := if c.mc0.team.isNone then 0 else 1
  match kept with
  | none =>
    (((s.clearMem (.oper core k)).clearMem (.acc core k))).setCore core (c.setMc k { MatCtx.fresh with team := some (n, tc) })
  | some m =>
    ((s.moveMem (.kept n tc false) (.oper core k)).moveMem (.kept n tc true) (.acc core k)).setCore core
      (c.setMc k { m with team := some (n, tc) })

/-- The team core positions, each with its core. -/
def positions (cores : List Nat) : List (Nat × Nat) := (List.range cores.length).zip cores

/-- The lowest free save slot of a stage (R389). -/
def State.saveSlot (s : State) (pn k : Nat) : Nat :=
  let used := (s.teams.filter fun t => decide (t.2.pipe = pn ∧ t.2.stage = k ∧ t.2.phase ≠ .killed)).map fun t => t.2.saveSlot
  ((List.range (used.length + 1)).find? fun i => !used.contains i).getD 0

/-- A core takes a kernel's split, by the steps of R226 where it changes (R188). -/
def State.toSplit (s : State) (core split : Nat) : State := if (s.core core).split = split then s else s.changeSplit core split

/-- The clock by which a team's waits are aged (R385): that of its team core 0, or, while it is parked, that of the partition's
lowest-numbered core. -/
def State.ageClock (s : State) (tm : Team) (p : Pipeline) : Nat :=
  if tm.placed then (s.core (tm.cores.headD 0)).clock
  else match s.parts.look p.part with
    | some q => (s.core (4 * (sortNat q.clusters).headD 0)).clock
    | none => 0

/-- The ages of a team go over from one clock to another (R385). -/
def Team.rebase (tm : Team) (old new : Nat) : Team :=
  let age (a : Age) : Age := { a with elapsed := a.elapsed + (old - a.since), since := new }
  { tm with
    barriers := tm.barriers.map fun (b : Nat × Barrier) => (b.1, { b.2 with elapsed := b.2.elapsed + (old - b.2.since), since := new })
    rdvAges := tm.rdvAges.map age
    collAges := tm.collAges.map age }

/-- Put a team of a stage on cores for the first time, or again after a kill (R180, R377), if it fits. -/
def State.placeNew (s : State) (pn k : Nat) (cores : List Nat) : Option State :=
  match s.pipes.look pn with
  | none => none
  | some p => match p.stages[k]? with
    | none => none
    | some st =>
      let n := st.nthreads
      let need : Usage := ⟨cores.length, n, n * st.gran, cores.length * st.spad⟩
      if !(cores.all (s.coreTakes p.part st st.matrix)) || !s.affords pn p k st need then none
      else match seatThreads st.gran (initialSeats cores.length n) (cores.map s.seats) with
        | none => none
        | some locs =>
          let id := s.nextId
          let index := st.again.headD st.next
          let born (l : Loc) : Nat := match l with
            | .slot tc _ _ => (s.core (cores.getD tc 0)).clock
            | .ring | .none => 0
          let tm : Team :=
            { pipe := pn, stage := k, index := index, phase := .resident, cores := cores,
              threads := locs.map fun l => (l.1, { st.thread p.args l.1 with loc := l.2, born := born l.2 }),
              maxTid := n - 1, spawns := 0, barriers := [], raceB := 0, ring := [], ringHead := 0, released := [],
              saveSlot := s.saveSlot pn k, kept := [], rack := none, rdvAges := [], collAges := [], relaunch := false, spared := false }
          let s := s.fresh.setTeam id tm
          let s := s.updStage pn k fun st => if st.again.isEmpty then { st with next := st.next + 1 } else { st with again := st.again.drop 1 }
          some ((positions cores).foldl (fun s c =>
            let s := s.toSplit c.2 st.split
            let s := s.setBytes ⟨.spad id c.1, 0⟩ st.image
            if st.matrix then s.acquire id c.1 c.2 none else s) s)

/-- The thread is to take a slot again at a restore. -/
def Thread.returns (t : Thread) : Bool := decide (t.status ≠ .exited) && decide (t.loc ≠ .ring)

/-- The save area of a parked team records a handle that was outstanding when the team was parked (R186). -/
def Team.bound (tm : Team) : Bool := match tm.rack with
  | some r => r.bound
  | none => false

/-- The benches that a restored thread tries: its old one first (R175). -/
def Loc.benches : Loc → Nat × List Nat
  | .slot tc b _ => (tc, b :: [0, 1, 2, 3].filter fun x => x != b)
  | .ring | .none => (0, [0, 1, 2, 3])

/-- Put a parked team on cores again (R186), if it fits: its save area is read next. -/
def State.placeBack (s : State) (n : Nat) (cores : List Nat) : Option State :=
  match s.team n with
  | none => none
  | some tm => match s.pipeOf tm, s.stageOf tm with
    | some p, some st =>
      let back := tm.threads.filter fun t => t.2.returns
      let mc (c : Nat × Nat) : Bool := st.matrix && !tm.released.contains c.1
      let need : Usage := ⟨cores.length, back.length, back.length * st.gran, cores.length * st.spad⟩
      if (tm.bound && decide (cores ≠ tm.cores)) || !((positions cores).all fun c => s.coreTakes p.part st (mc c) c.2)
          || !s.affords tm.pipe p tm.stage st need then none
      else match seatThreads st.gran (back.map fun t => (t.1, t.2.loc.benches)) (cores.map s.seats) with
        | none => none
        | some locs =>
          let seat (t : Nat × Thread) : Nat × Thread := match Tbl.look locs t.1 with
            | some l => (t.1, { t.2 with loc := l })
            | none => t
          let now := (s.core (cores.headD 0)).clock
          let s := s.setTeam n ({ tm with phase := .restoring, cores := cores, rack := none, kept := [], threads := tm.threads.map seat }.rebase
            (s.ageClock tm p) now)
          some ((positions cores).foldl (fun s c =>
            let s := s.toSplit c.2 st.split
            if mc c then s.acquire n c.1 c.2 (some ((tm.kept.look c.1).getD .fresh)) else s) s)
    | _, _ => none

/-- The sublists of a length, in order. -/
def sublistsOf : Nat → List Nat → List (List Nat)
  | 0, _ => [[]]
  | _ + 1, [] => []
  | k + 1, a :: l => ((sublistsOf k l).map fun r => a :: r) ++ sublistsOf (k + 1) l

/-- The sets of cores of one cluster of a partition (R10). -/
def coreSets (clusters : List Nat) (k : Nat) : List (List Nat) :=
  (sortNat clusters).flatMap fun c => sublistsOf k [4 * c, 4 * c + 1, 4 * c + 2, 4 * c + 3]

/-- A drained queue (R216). -/
def Queue.drained (q : Queue) : Bool := q.items.isEmpty && decide (q.leased = 0)

/-- The queue of a context is closed and drained. -/
def State.queueDone (s : State) (ctx q : Nat) : Bool :=
  match s.queue ctx q with
  | some u => u.closed && u.drained
  | none => true

/-- A stage has a team to start (R189): a team killed and to be relaunched, or a new one. -/
def State.hasNew (s : State) (p : Pipeline) (st : Stage) : Bool :=
  !st.killed && (!st.again.isEmpty ||
    (match st.persistent, st.inq with
      | true, some q => !s.queueDone p.ctxNum q
      | _, _ => decide (st.next < st.teams)))

/-- The teams of a stage. -/
def State.teamsOf (s : State) (pn k : Nat) : List (Nat × Team) := s.teams.filter fun t => decide (t.2.pipe = pn ∧ t.2.stage = k)

/-- Cores that a stage's teams hold. -/
def State.coresOf (s : State) (pn k : Nat) : Nat := (s.usage fun tm => decide (tm.pipe = pn ∧ tm.stage = k)).cores

/-- The restore candidates of a stage (R186), lowest team index first. -/
def State.candidatesBack (s : State) (pn k : Nat) : List Nat :=
  let l := (s.teamsOf pn k).filter fun t => decide (t.2.phase = .parked) && (match t.2.rack with
    | some r => r.fired
    | none => false)
  (sortNat (l.map fun t => t.2.index)).filterMap fun i => (l.find? fun t => t.2.index == i).map fun t => t.1

/-- A new team may start, as far as the stage goes (R187, R389). -/
def State.mayStart (s : State) (pn : Nat) (p : Pipeline) (k : Nat) (st : Stage) : Bool :=
  s.hasNew p st && decide (s.coresOf pn k < st.cmax)
    && decide (((s.teamsOf pn k).filter fun t => decide (t.2.phase ≠ .killed)).length < st.cmax)

/-- An output queue of the stage is full (R187). -/
def State.outFull (s : State) (p : Pipeline) (st : Stage) : Bool :=
  st.outq.any fun q => match s.queue p.ctxNum q with
    | some u => !u.remote && decide (u.cap ≤ u.items.length)
    | none => false

/-- A stage's place among the candidates (R187): numbers compared in order. -/
def State.stageKey (s : State) (pn : Nat) (p : Pipeline) (k : Nat) (st : Stage) : List Nat :=
  let score := st.weight * (match st.inq with
    | some q => (match s.queue p.ctxNum q with
      | some u => u.items.length
      | none => 0)
    | none => st.teams - st.next)
  [15 - st.prio, if s.coresOf pn k < st.cmin then 0 else 1, if (s.candidatesBack pn k).isEmpty then 1 else 0, 2 ^ 64 - score, p.launch, k]

/-- A candidate put into the order. -/
def insertCand (a : List Nat × Nat × Nat) : List (List Nat × Nat × Nat) → List (List Nat × Nat × Nat)
  | [] => [a]
  | b :: l => if keyLess b.1 a.1 then b :: insertCand a l else a :: b :: l

/-- The candidates of a partition in order: pipeline and stage (R187). -/
def State.candidates (s : State) (part : Nat) : List (List Nat × Nat × Nat) :=
  (s.pipes.flatMap fun e => if e.2.part != part then [] else
    (List.range e.2.stages.length).filterMap fun k => match e.2.stages[k]? with
      | none => none
      | some st =>
        let back := !(s.candidatesBack e.1 k).isEmpty
        if back || (s.mayStart e.1 e.2 k st && !s.outFull e.2 st) then some (s.stageKey e.1 e.2 k st, e.1, k) else none).foldr insertCand []

/-- Every way of placing the next team of a candidate stage. -/
def State.placements (s : State) (part pn k : Nat) : List State :=
  match s.parts.look part, (s.pipes.look pn).bind fun p => p.stages[k]? with
  | some pt, some st =>
    match s.candidatesBack pn k with
    | n :: _ =>
      let cores := match s.team n with
        | some tm => tm.cores.length
        | none => 0
      (coreSets pt.clusters cores).filterMap (s.placeBack n)
    | [] => (coreSets pt.clusters st.cores).filterMap (s.placeNew pn k)
  | _, _ => []

/-- One placement of a pass: the first candidate whose next team fits; where several sets of cores would do, a free choice. -/
def State.placeOne (s : State) (part choice : Nat) : Option State :=
  (s.candidates part).findSome? fun c =>
    let l := s.placements part c.2.1 c.2.2
    l[choice % l.length]?

/-- A pass: placements until none fits (R187); `n` bounds them by the number of slots of the package. -/
def State.passFrom (s : State) (part : Nat) : Nat → Nat → State
  | 0, _ => s
  | n + 1, choice => match s.placeOne part choice with
    | some s' => s'.passFrom part n (choice / 64)
    | none => s

/-- The package as it would be without a team on its cores. -/
def State.without (s : State) (n : Nat) : State :=
  let s := s.updTeam n fun tm => { tm with phase := .parked }
  { s with cores := s.cores.map fun (c : Nat × Core) =>
      let free (m : MatCtx) : MatCtx := match m.team with
        | some (k, _) => if k = n then { m with team := none } else m
        | none => m
      (c.1, { c.2 with mc0 := free c.2.mc0, mc1 := free c.2.mc1 }) }

/-- A team's progress key (R170). -/
def State.teamKey (s : State) (n : Nat) : List Nat := (s.key { team := n, tid := 0 }).take 4

/-- The teams that pre-emption would take on a cluster, highest key first, until a candidate fits there (R387): `none` if it never
does. -/
def victims (fits : State → Bool) : List Nat → State → Option (List Nat)
  | l, s => if fits s then some [] else match l with
    | [] => none
    | n :: rest => (victims fits rest (s.without n)).map fun r => n :: r

/-- Teams of a cluster of lower priority than a candidate's, highest key first (R387), without those whose save has failed (R392). -/
def State.lower (s : State) (part prio cluster : Nat) : List Nat :=
  let l := s.teams.filter fun t => decide (t.2.phase = .resident) && !t.2.spared && (match s.pipeOf t.2, s.stageOf t.2 with
    | some p, some st => decide (p.part = part) && decide (st.prio < prio)
    | _, _ => false) && decide (t.2.cores.headD 0 / 4 = cluster)
  ((l.map fun t => (s.teamKey t.1, t.1, 0)).foldr insertCand []).reverse.map fun x => x.2.1

/-- Pre-emption is over: every team may be chosen again. -/
def State.unspare (s : State) (part : Nat) : State :=
  { s with teams := s.teams.map fun (t : Nat × Team) => match s.pipeOf t.2 with
      | some p => if p.part = part then (t.1, { t.2 with spared := false }) else t
      | none => t }

/-- Pre-emption starts (R387, R388): teams are chosen, and their issue stops. -/
def State.preempt (s : State) (part : Nat) : State :=
  match s.candidates part, s.parts.look part with
  | c :: _, some pt =>
    match (s.pipes.look c.2.1).bind fun p => p.stages[c.2.2]? with
    | none => s.unspare part
    | some st =>
      let going := (s.teams.filter fun t => decide (t.2.phase = .chosen)).map fun t => t.1
      let s0 := going.foldl State.without s
      let fitsOn (cl : Nat) (x : State) : Bool :=
        !(State.placements { x with parts := x.parts.put part { pt with clusters := [cl] } } part c.2.1 c.2.2).isEmpty
      if pt.clusters.any fun cl => fitsOn cl s0 then s.unspare part
      else
        let plans := (sortNat pt.clusters).filterMap fun cl => victims (fitsOn cl) (s.lower part st.prio cl) s0
        match plans with
        | [] => s
        | p :: ps =>
          let best := ps.foldl (fun b q => if q.length < b.length then q else b) p
          best.foldl (fun s n => s.updTeam n fun tm => { tm with phase := .chosen }) s
  | _, _ => s.unspare part

/-- A stage has finished (R189). -/
def State.stageDone (s : State) (pn : Nat) (p : Pipeline) (k : Nat) (st : Stage) : Bool :=
  (s.teamsOf pn k).isEmpty && !s.hasNew p st

/-- The queues that the hardware closes: each is an output of some stage, and every stage whose output it is has finished (R189). -/
def State.closable (s : State) (pn : Nat) (p : Pipeline) : List Nat :=
  p.queues.filter fun q =>
    let outs := (positions (List.range p.stages.length)).filterMap fun i => (p.stages[i.1]?).bind fun st =>
      if st.outq.contains q then some (s.stageDone pn p i.1 st) else none
    !outs.isEmpty && outs.all id

/-- Close the queues of a pipeline whose producers have finished (R189). -/
def State.closeQueues (s : State) (pn : Nat) : State :=
  match s.pipes.look pn with
  | none => s
  | some p => (s.closable pn p).foldl (fun s q => match s.queue p.ctxNum q with
      | some u => if u.remote then s else s.closeQueue p.ctxNum q
      | none => s) s

/-- The cores of a partition (R10, R346). -/
def Partition.cores (pt : Partition) : List Nat := pt.clusters.flatMap fun c => (List.range 4).map fun i => 4 * c + i

/-- A pass is made: none is due, and the next comes within 65,536 clocks of each core (R187). -/
def State.passMade (s : State) (part : Nat) (pt : Partition) : State :=
  pt.cores.foldl (fun s k => s.updCore k fun c => { c with passAt := c.clock }) { s with parts := s.parts.put part { pt with passDue := false } }

/-- No pass of the arbiter has to come before the next clock of a core (R187). -/
def State.passHeld (s : State) (core : Nat) : Bool :=
  match s.partOfCore core with
  | some (_, pt) => pt.passDue || decide ((s.core core).passAt + 65536 ≤ (s.core core).clock)
  | none => false

/-- ARBITER_PASS (R185, R187, R387): entries that overflowed fire; teams are placed until none fits; pre-emption may start. -/
def execArbiterPass (part choice : Nat) (s : State) : Host.Outcome State Fault Refusal :=
  match s.parts.look part with
  | none => .fault .notEnabled
  | some pt =>
    let s := s.passMade part pt
    let mine := (s.pipes.filter fun e => e.2.part == part).map fun e => e.1
    let s := { s with teams := s.teams.map fun (t : Nat × Team) =>
      if mine.contains t.2.pipe then (t.1, { t.2 with rack := t.2.rack.map fun r => if r.overflow then { r with fired := true } else r })
      else t }
    let s := mine.foldl State.closeQueues s
    .next ((s.passFrom part (Config.cores * 4 * Config.slots) choice).preempt part)

end Sys2Proof.Machine
end

