-- ==== Sys2Proof/Machine/Memories.lean ====
section
/-!
DEFINITION. Steps of the memories themselves: the stacks' controllers (R233, R234, R237), the weight stores' refresh (R231) and the
split of a core's local store (R226).
-/

namespace Sys2Proof.Machine

/-- Stacks of the package (R12). -/
def hbmStacks : Nat := 12

/-- HBM_REPLY (R233): a tagged reply comes back, in any order. -/
def execHbmReply (stack tag : Nat) (s : State) : Host.Outcome State Fault Refusal :=
  let k := s.stack stack
  if k.tags.contains tag then .next (s.setStack stack { k with tags := k.tags.filter fun t => t != tag }) else .fault .notEnabled

/-- SCRUB_PASS (R234): a pass, which changes no value, while the controller's occupancy is below the firmware's threshold. -/
def execScrubPass (stack : Nat) (s : State) : Host.Outcome State Fault Refusal :=
  let k := s.stack stack
  if decide (stack < hbmStacks) && decide (k.tags.length < k.scrubBelow) then
    .next (s.setStack stack { k with scrubs := k.scrubs + 1, scrubPri := 0 })
  else .fault .notEnabled

/-- SCRUB_ESCALATION (R234): one step of priority, up to parity with bulk traffic. -/
def execScrubEscalation (stack : Nat) (s : State) : Host.Outcome State Fault Refusal :=
  let k := s.stack stack
  if stack < hbmStacks then .next (s.setStack stack { k with scrubPri := min (k.scrubPri + 1) Config.scrubParity }) else .fault .notEnabled

/-- The frame in which the bytes of a frame's addresses stand (R237). -/
def Stack.frameOf (k : Stack) (f : Nat) : Nat :=
  match k.remap.find? fun e => e.1 == f with
  | some e => e.2
  | none => f

/-- A frame can take the bytes of another: none stands in it, and it is that frame's own place, or its own bytes stand elsewhere, or no
partition owns it. -/
def State.frameFree (s : State) (k : Stack) (src f : Nat) : Bool :=
  (k.remap.all fun e => e.2 != f)
    && (decide (src = f) || decide (k.frameOf f ≠ f) || s.parts.all fun p => !p.2.owns (4096 * f))

/-- FRAME_MIGRATION (R237): a frame moves to a free one of the same controller; every address reads as before. -/
def execFrameMigration (stack src dst : Nat) (s : State) : Host.Outcome State Fault Refusal :=
  let k := s.stack stack
  if decide (stack < hbmStacks) && decide (stackOf (4096 * src) = stack) && decide (stackOf (4096 * dst) = stack) && decide (k.frameOf src ≠ dst)
      && s.frameFree k src dst then
    .next (s.setStack stack { k with remap := (if src = dst then [] else [(src, dst)]) ++ k.remap.filter fun e => e.1 != src })
  else .fault .notEnabled

/-- WS_REFRESH (R231): the bank of the die's phase, as its first core counts it, goes into refresh; the one before has ended. -/
def execWsRefresh (die : Nat) (s : State) : Host.Outcome State Fault Refusal :=
  let d := s.die die
  let bank := s.wsPhase (64 * die) / 512
  if decide (die < 4) && decide (d.refresh ≠ some bank) then .next (s.setDie die { d with refresh := some bank })
  else .fault .notEnabled

/-- SPLIT_CHANGE (R226): a core without a team converts between scratchpad and L1; where scratchpad grows, the lines of those ways
are written back and leave. -/
def execSplitChange (core split : Nat) (s : State) : Host.Outcome State Fault Refusal :=
  let c := s.core core
  if decide (core < Config.cores) && decide (split ≤ 7) && decide (split ≠ c.split) && (s.teamsOn core).isEmpty then
    .next (s.changeSplit core split)
  else .fault .notEnabled

end Sys2Proof.Machine
end

