-- ==== Sys2Proof/Machine/Errors.lean ====
section
/-!
DEFINITION. Page-fault records (R360) and the errors that the hardware detects (R372 to R379).
-/

namespace Sys2Proof.Machine

/-- The place of an entry of a context's fault ring, in host memory (R349, R360). -/
def Context.ringEntry (c : Context) (k : Nat) : Target := ⟨.host, c.fring + 32 * (k % 2 ^ c.frlog)⟩

/-- The bytes of a page-fault record (R360). -/
def FaultRec.bytes (f : FaultRec) : List Byte :=
  leBytes 4 f.seq ++ leBytes 1 f.kind ++ leBytes 1 f.reason ++ leBytes 2 f.core ++ leBytes 8 f.va.toNat ++ leBytes 8 f.who ++ leBytes 7 0
    ++ leBytes 1 1

/-- VALID of a fault-ring entry. -/
def State.entryValid (s : State) (c : Context) (k : Nat) : Bool :=
  let t := c.ringEntry k
  s.byte t.mem (t.addr + 31) != 0

/-- The first record that still has to be written goes into the next entry, if that is clear (R360). -/
def State.writeFault (s : State) (ctx : Nat) : Option State :=
  let c := s.context ctx
  match c.faults.find? fun f => f.slot.isNone with
  | none => none
  | some f =>
    if s.entryValid c c.faultPos then none
    else
      let mark (g : FaultRec) : FaultRec := if g.seq = f.seq then { g with slot := some (c.faultPos % 2 ^ c.frlog) } else g
      let s := s.setContext ctx { c with faults := c.faults.map mark, faultPos := c.faultPos + 1 }
      let s := s.writeBytes .package (c.ringEntry c.faultPos) f.bytes
      some (if fdomFw c.fdom then { s with irqs := s.irqs ++ [{ part := ctxPart ctx, vector := 0 }] } else s)

/-- FAULT_RECORD (R360): a page-fault record is written into the fault ring. -/
def execFaultRecord (ctx : Nat) (s : State) : Host.Outcome State Fault Refusal :=
  match s.writeFault ctx with
  | some s' => .next s'
  | none => .fault .notEnabled

/-- FAULT_RING_ENTRY_CLEARED (R360): the service clears VALID of an entry; a record that waits for it is written. -/
def execFaultRingEntryCleared (ctx entry : Nat) (s : State) : Host.Outcome State Fault Refusal :=
  let c := s.context ctx
  if decide (entry < 2 ^ c.frlog) && s.entryValid c entry then
    let t := c.ringEntry entry
    let s := s.writeBytes .host ⟨t.mem, t.addr + 31⟩ [0]
    .next ((s.writeFault ctx).getD s)
  else .fault .notEnabled

/-- The report target that a partition's region control block names: FDOM in effect there (R350, R378). -/
def State.partFw (s : State) (part : Nat) : Bool :=
  match s.parts.look part with
  | some p => fdomFw (s.load ⟨.hbm, p.rcb + 0x33⟩ 1)
  | none => false

/-- The partition that owns a physical HBM address. -/
def State.ownerOf (s : State) (pa : Nat) : Option Nat := (s.parts.find? fun p => p.2.owns pa).map fun p => p.1

/-- The partition that owns an offset of a die's weight store. -/
def State.wsOwner (s : State) (die off : Nat) : Option Nat :=
  (s.parts.find? fun p => p.2.wsUnits.contains (die, off / 2 ^ 26)).map fun p => p.1

/-- A record about a partition's resource that concerns no stage and no context (R378); what belongs to no partition is recorded in the firmware's own
log (log entry 46). -/
def State.logPart (s : State) (part : Option Nat) (src unit addr info : Nat) : State :=
  match part with
  | some p => s.logErr { ErrRec.blank with part := p, src := src, unit := unit, addr := addr, info := info } (s.partFw p)
  | none => s.logErr { ErrRec.blank with part := noPart, src := src, unit := unit, addr := addr, info := info } true

/-- The partition of a team. -/
def State.partOf (s : State) (tm : Team) : Option Nat := (s.pipeOf tm).map fun p => p.part

/-- The operation that occupies staging for a slot of a die (R330). -/
def State.stagedOp (s : State) (die slot : Nat) : Option (Nat × EngOp) :=
  s.allOps.find? fun o => decide (dieOf o.1 = die) && o.2.staged && match o.2.kind.coll? with
    | some (r, _) => r.slot == slot
    | none => false

/-- Where an error is: the unit of R378, which of its instances (R379), the address that the record gives, the reporting core, and the partition. -/
structure Site where
  unit : Nat
  inst : Nat
  addr : Nat
  core : Nat
  part : Option Nat
deriving DecidableEq, Repr

/-- The lowest core of a partition. -/
def State.firstCore (s : State) (part : Option Nat) : Nat :=
  match part.bind s.parts.look with
  | some p => 4 * (sortNat p.clusters).headD 0
  | none => 0

/-- The partition of the context that holds a slot of a die. -/
def State.slotOwner (s : State) (die slot : Nat) : Option Nat := ((s.die die).slots.look slot).map fun k => ctxPart k.ctx

/-- The lowest core whose L1 holds a place dirty, if one does (R240). -/
def State.dirtyCore (s : State) (t : Target) : Option Nat :=
  (s.dir.find? fun d => (t.range 1).within d.unit && d.isDirty).bind fun d =>
    (sortNat ((d.holders.filter fun h => h.2.isDirty && decide (h.1 < Config.cores)).map fun h => h.1)).head?

/-- A line of host memory is dirty in an L1 (unit 3) or at its home in the L2 (unit 4) (R239, R373). -/
def State.hostDirty (s : State) (u pa : Nat) : Bool :=
  if u = 3 then (s.dirtyCore ⟨.host, pa⟩).isSome
  else decide (u = 4) && (s.l2At ⟨.host, pa⟩).any fun l => l.dirty.getLsbD (pa % 512 / 32)

/-- The instance of an L1, an L2 slice or an HBM stack in which a word stands. -/
def State.memInstance (s : State) (u : Nat) (t : Target) : Nat :=
  if u = 3 then (s.dirtyCore t).getD 0 else if u = 4 then homeOf t else stackOf t.addr

/-- The site of an error, if there is one: a thread or team that is there, a core, a memory word, a dirty line of host memory, a slot in use. -/
def State.site (s : State) (e : ErrSite) : Option Site :=
  match e with
  | .regFile r => (s.team r.team).bind fun tm => (Tbl.look tm.threads r.tid).bind fun t =>
      if t.status = .exited then none
      else some ⟨1, 4 * tm.coreOf t + (match t.loc with
        | .slot _ b _ => b
        | .ring | .none => 0), 0, tm.coreOf t, s.partOf tm⟩
  | .scratchpad n tc => (s.team n).bind fun tm =>
      if tm.placed then (tm.cores[tc]?).map fun c => ⟨2, c, 0, c, s.partOf tm⟩ else none
  | .matrixStore n tc acc => (s.team n).bind fun tm =>
      if tm.placed then (tm.cores[tc]?).bind fun c => ((s.core c).mcOf n).map fun k => ⟨if acc then 8 else 7, 2 * c + k, 0, c, s.partOf tm⟩ else none
  | .cleanLine c => if c < Config.cores then some ⟨3, c, 0, c, (s.partOfCore c).map fun p => p.1⟩ else none
  | .memWord u pa =>
      if (u = 3 ∨ u = 4 ∨ u = 5) ∧ pa < 4 * Config.dieHbm then
        some ⟨u, s.memInstance u ⟨.hbm, pa⟩, pa, s.firstCore (s.ownerOf pa), s.ownerOf pa⟩
      else none
  | .hostLine u pa =>
      let core := s.dirtyCore ⟨.host, pa⟩
      let part := core.bind fun c => (s.partOfCore c).map fun p => p.1
      if s.hostDirty u pa then some ⟨u, s.memInstance u ⟨.host, pa⟩, pa, core.getD (64 * (homeOf ⟨.host, pa⟩ / 32)), part⟩ else none
  | .wsWord d off =>
      if d < 4 ∧ off < Config.dieWs then some ⟨6, d, off, s.firstCore (s.wsOwner d off), s.wsOwner d off⟩ else none
  | .collStaging d k =>
      if (s.stagedOp d k).isSome then some ⟨9, d, 0, s.firstCore (s.slotOwner d k), s.slotOwner d k⟩ else none
  | .saveArea n => (s.team n).bind fun tm => if tm.phase = .restoring then some ⟨11, n, 0, tm.cores.headD 0, s.partOf tm⟩ else none

/-- A clean line is refetched (R373): an instruction-cache copy leaves, so that the next fetch takes the block from its memory, or a clean L1 line,
which has no data of its own; which of them it was is free. -/
def State.refetch (s : State) (core : Nat) : State := s.updCore core fun c => { c with icache := c.icache.eraseIdx (Config.refetched s.tick) }

/-- CORRECTED_ERROR (R379): the correction is counted; a record of a unit instance at most once per 65,536 clocks of the reporting core, by what that
core's clock was when the last record was written, whichever core reported it (R13). -/
def State.correct (s : State) (x : Site) : State :=
  let is (c : Corrected) : Bool := decide (c.unit = x.unit) && decide (c.inst = x.inst)
  let old := (s.corrected.find? is).getD { unit := x.unit, inst := x.inst, count := 0, last := none }
  let now := (s.core x.core).clock
  let due := match old.last with
    | some k => decide ((k.look x.core).getD 0 + 65536 ≤ now)
    | none => true
  let clocks : Tbl Nat := s.cores.map fun (c : Nat × Core) => (c.1, c.2.clock)
  let new : Corrected := if due then { unit := x.unit, inst := x.inst, count := 0, last := some clocks } else { old with count := old.count + 1 }
  let s := { s with corrected := new :: s.corrected.filter fun c => !is c }
  if due then
    match x.part with
    | some p => s.logErr { ErrRec.blank with part := p, src := 3, unit := x.unit, core := x.core, addr := x.addr, info := old.count + 1,
                                              clock := s.localClock x.core } (s.partFw p)
    | none => s.logErr { ErrRec.blank with part := noPart, src := 3, unit := x.unit, core := x.core, addr := x.addr, info := old.count + 1,
                                           clock := s.localClock x.core } true
  else s

/-- CORRECTED_ERROR (R373, R379). -/
def execCorrectedError (e : ErrSite) (s : State) : Host.Outcome State Fault Refusal :=
  match s.site e with
  | some x => .next (s.correct x)
  | none => .fault .notEnabled

/-- The grain unit that holds a physical address (R242, R373): the one that the directory knows, or the smallest. -/
def State.unitOf (s : State) (t : Target) : Range :=
  match s.dir.find? fun d => (t.range 1).within d.unit with
  | some d => d.unit
  | none => ⟨t.mem, t.addr / 32 * 32, t.addr / 32 * 32 + 32⟩

/-- A unit is poisoned at its home (R373, R375). -/
def State.poisonUnit (s : State) (r : Range) : State := if s.poison.contains r then s else { s with poison := s.poison ++ [r] }

/-- Contain an error in a team: the record first, then the kill (R372, R373). -/
def State.contain (s : State) (r : ThreadRef) (floor src unit : Nat) : State :=
  match s.team r.team with
  | some tm => s.killAs true r floor { s.errFor tm r.tid src with unit := unit }
  | none => s

/-- The record of an error in the staging of an operation concerns the stage whose thread issued it, and its context (R378). -/
def State.logStaging (s : State) (part : Option Nat) (core : Nat) (o : EngOp) : State :=
  match s.team o.ref.team with
  | some tm => s.logStage tm { s.errFor tm o.ref.tid 2 with unit := 9, core := core, clock := s.localClock core, pc := o.pc }
  | none => s.logPart part 2 9 0 0

/-- UNCORRECTABLE_ERROR (R372, R373): contained, recorded, and handled by the fault domain. -/
def execUncorrectableError (e : ErrSite) (s : State) : Host.Outcome State Fault Refusal :=
  match s.site e with
  | none => .fault .notEnabled
  | some x =>
    match e with
    | .regFile r => .next (s.contain r 0 2 1)
    | .scratchpad n _ => .next (s.contain ⟨n, 0⟩ 1 2 2)
    | .matrixStore n _ acc => .next (s.contain ⟨n, 0⟩ 1 2 (if acc then 8 else 7))
    | .cleanLine c => .next ((s.refetch c).correct x)
    | .memWord u pa => .next ((s.poisonUnit (s.unitOf ⟨.hbm, pa⟩)).logPart x.part 2 u pa 0)
    | .hostLine u pa => .next ((s.poisonUnit (s.unitOf ⟨.host, pa⟩)).logPart x.part 2 u pa 0)
    | .wsWord d off => .next ((s.poisonUnit (s.unitOf ⟨.ws, d * Config.dieWs + off⟩)).logPart x.part 2 6 off 0)
    | .collStaging d k =>
      match s.stagedOp d k with
      | none => .fault .notEnabled
      | some (core, o) => .next ((s.engineFail core o 3).logStaging x.part core o)
    | .saveArea n => .next (s.contain ⟨n, 0⟩ 1 10 11)

end Sys2Proof.Machine
end

