-- ==== Sys2Proof/Machine/VfRegs.lean ====
section
/-!
DEFINITION. The registers of a virtual function, as the host writes them (R348, R359, R361, R364).
-/

namespace Sys2Proof.Machine

/-- Change a virtual function. -/
def State.updVf (s : State) (vf : Nat) (f : Vf → Vf) : State := { s with vfs := s.vfs.upd vf f }

/-- The number of a context of a virtual function (log entry 63). -/
def Vf.ctxNum (v : Vf) (vf ctx : Nat) : Nat := ctxNumber v.part vf ctx

/-- The partition runs a pipeline (R348). -/
def State.running (s : State) (part : Nat) : Bool := s.pipes.any fun p => p.2.part == part

/-- A write to a register of a virtual function that takes effect only while the partition runs no pipeline (R348): otherwise it is
ignored and STATUS bit 0 is set. -/
def State.writeIdle (s : State) (vf : Nat) (ok : Vf → Bool) (f : Vf → Vf) : Host.Outcome State Fault Refusal :=
  match s.vfs.look vf with
  | none => .fault .notEnabled
  | some v => .next (s.updVf vf fun w => if s.running v.part || !ok v then { w with err := true } else f w)

/-- CTXTAB (R348). -/
def execCtxtab (vf : Nat) (v : DWord) (s : State) : Host.Outcome State Fault Refusal :=
  s.writeIdle vf (fun _ => true) fun w => { w with ctxtab := v.toNat }

/-- CTXCNT (R348). -/
def execCtxcnt (vf : Nat) (v : DWord) (s : State) : Host.Outcome State Fault Refusal :=
  s.writeIdle vf (fun _ => true) fun w => { w with ctxcnt := v.toNat }

/-- QTAB (R348). A queue's indices and its error stay as they are when a table or a count is written, and nothing clears an error: DESIGN CHOICE, log entry 41. -/
def execQtab (vf : Nat) (v : DWord) (s : State) : Host.Outcome State Fault Refusal :=
  s.writeIdle vf (fun _ => true) fun w => { w with qtab := v.toNat }

/-- The queue descriptors of the other virtual functions of a partition. -/
def State.otherQueues (s : State) (vf part : Nat) : Nat :=
  ((s.vfs.filter fun x => x.1 != vf && x.2.part == part).map fun x => x.2.qcount).sum

/-- QCOUNT (R348): ignored above 4,096 descriptors in all. -/
def execQcount (vf : Nat) (v : DWord) (s : State) : Host.Outcome State Fault Refusal :=
  s.writeIdle vf (fun w => decide (s.otherQueues vf w.part + v.toNat ≤ 4096)) fun w => { w with qcount := v.toNat }

/-- A user queue's state (R364). -/
def Vf.queue (v : Vf) (q : Nat) : UserQueue := (v.queues.look q).getD { wr := 0, rd := 0, err := false }

/-- A user queue's descriptor (R364): its physical address, and its fields. -/
structure QDesc where
  pa : Nat
  base : Nat
  logN : Nat
  ctx : Nat
  enabled : Bool
deriving DecidableEq, Repr

/-- The descriptor of a queue, in the units of the partition (R364). A LOG2N outside 4 to 16, a BASE that is not 64-byte aligned and a QTAB that is not 32-byte
aligned are used as they stand: DESIGN CHOICE, log entry 77, since R348 and R364 give no fate for them. -/
def State.queueDesc (s : State) (v : Vf) (q : Nat) : Option QDesc :=
  let pa := v.qtab + 32 * q
  match s.parts.look v.part with
  | some p =>
    if decide (q < v.qcount) && p.ownsAll pa 32 then
      let d := s.bytes ⟨.hbm, pa⟩ 32
      some { pa := pa, base := field d 0 8, logN := field d 8 1, ctx := field d 9 1, enabled := decide (field d 10 1 % 2 = 1) }
    else none
  | none => none

/-- The queue is in error and stops (R364, R366): the flag in its descriptor is set too. -/
def State.stopQueue (s : State) (vf q : Nat) (d : QDesc) : State :=
  let s := s.updVf vf fun v => { v with queues := v.queues.put q { v.queue q with err := true } }
  (s.store ⟨.hbm, d.pa + 10⟩ 1 (s.load ⟨.hbm, d.pa + 10⟩ 1 ||| 2)).homeWrote .package [⟨.hbm, d.pa + 10, d.pa + 11⟩]

/-- The record of a sequence number that is outstanding in a context (R361). -/
def Context.fault (c : Context) (seq : Nat) : Option FaultRec := c.faults.find? fun f => f.seq == seq

/-- A record is outstanding no longer. -/
def Context.dropFault (c : Context) (seq : Nat) : Context := { c with faults := c.faults.filter fun f => f.seq != seq }

/-- A requester of a record that is denied (R361, R366): a thread takes the fault next, at its own address, an engine operation ends
with ERR 2, a packet fails, and a queue whose next packet cannot be read stops. -/
def State.denyOne (s : State) (seq : Nat) (q : Requester) : State :=
  match q with
  | .thread r => s.updThread r fun t => match t.status with
    | .waiting (.pageFault n va) => if n = seq then { t with denied := some va } else t
    | .waiting _ | .runnable | .exited => t
  | .engine core op => match (s.core core).op op with
    | some o => s.engineFail core o 2
    | none => s
  | .packet vf queue index =>
    if s.packets.any fun p => p.vf == vf && p.queue == queue && p.index == index then
      { s with packets := s.packets.map fun p => if p.vf = vf ∧ p.queue = queue ∧ p.index = index then { p with denied := true } else p }
    else match (s.vfs.look vf).bind fun v => s.queueDesc v queue with
      | some d => s.stopQueue vf queue d
      | none => s.updVf vf fun v => { v with queues := v.queues.upd queue fun u => { u with err := true } }

/-- FRESUME (R361): every requester of the record goes on; a number that names no record is ignored. -/
def execFresume (vf ctx seq : Nat) (s : State) : Host.Outcome State Fault Refusal :=
  match s.vfs.look vf with
  | none => .fault .notEnabled
  | some v => .next (s.setContext (v.ctxNum vf ctx) ((s.context (v.ctxNum vf ctx)).dropFault seq))

/-- FRESUME with DENY (R361). -/
def execFresumeDeny (vf ctx seq : Nat) (s : State) : Host.Outcome State Fault Refusal :=
  match s.vfs.look vf with
  | none => .fault .notEnabled
  | some v =>
    let c := s.context (v.ctxNum vf ctx)
    match c.fault seq with
    | none => .next s
    | some f => .next (f.requesters.foldl (fun s q => s.denyOne seq q) (s.setContext (v.ctxNum vf ctx) (c.dropFault seq)))

/-- Every core of the package. -/
def allCores : List Nat := List.range Config.cores

/-- TLBINV for a page (R348, R359): the write completes when the accesses that used an invalidated translation have been performed. -/
def execTlbinvVa (vf ctx : Nat) (va : DWord) (s : State) : Host.Outcome State Fault Refusal :=
  match s.vfs.look vf with
  | none => .fault .notEnabled
  | some v =>
    let a := va.toNat / 2 ^ 12 * 2 ^ 12
    if !canonical a then .next s
    else if s.translationsDone (v.ctxNum vf ctx) s.nextId allCores (some (a % 2 ^ 56 / 2 ^ 30)) then
      .next (s.invalidate (v.ctxNum vf ctx) (some a) allCores)
    else .fault .notEnabled

/-- TLBINV for a whole context (R348, R359). -/
def execTlbinvAll (vf ctx : Nat) (s : State) : Host.Outcome State Fault Refusal :=
  match s.vfs.look vf with
  | none => .fault .notEnabled
  | some v =>
    if s.translationsDone (v.ctxNum vf ctx) s.nextId allCores none then .next (s.invalidate (v.ctxNum vf ctx) none allCores)
    else .fault .notEnabled

/-- DOORBELL (R364): a lower index is ignored; one too far beyond RDIDX stops the queue. A queue without a descriptor has no doorbell. -/
def execDoorbell (vf queue : Nat) (v : DWord) (s : State) : Host.Outcome State Fault Refusal :=
  match s.vfs.look vf with
  | none => .fault .notEnabled
  | some w =>
    match s.queueDesc w queue with
    | none => .next s
    | some d =>
      let u := w.queue queue
      if v.toNat < u.wr then .next s
      else if u.rd + 2 ^ d.logN < v.toNat then .next (s.stopQueue vf queue d)
      else .next (s.updVf vf fun w => { w with queues := w.queues.put queue { u with wr := v.toNat } })

/-- The offset of a register of a virtual function (R348). -/
def listedOffset (off : Nat) : Bool :=
  decide (off % 8 = 0) && (decide (off ≤ 0x30) || (decide (0x1000 ≤ off) && decide (off < 0x1000 + 8 * 4096)))

/-- UNLISTED_REGISTER_WRITE (R348): ignored. -/
def execUnlistedRegisterWrite (vf off : Nat) (_ : DWord) (s : State) : Host.Outcome State Fault Refusal :=
  match s.vfs.look vf with
  | none => .fault .notEnabled
  | some _ => if listedOffset off && off != 0x30 then .fault .notEnabled else .next s

/-- STATUS (R348): bit 0, a queue is in error or a write was not taken; bit 1, the fault ring of some context is full: its next entry
still has VALID, so that a record would wait (R360). -/
def State.status (s : State) (v : Vf) : Nat :=
  let full := s.contexts.any fun c => decide (ctxPart c.1 = v.part) && s.entryValid c.2 c.2.faultPos
  (if v.err || v.queues.any fun q => q.2.err then 1 else 0) + if full then 2 else 0

/-- What a read of an offset of a virtual function's register space gives (R348): 0 for an offset that is not listed, and for a register that is only
written, which is no read register of the table; DESIGN CHOICE, log entry 41. -/
def State.registerValue (s : State) (v : Vf) (off : Nat) : Nat :=
  match off with
  | 0x00 => v.ctxtab
  | 0x08 => v.ctxcnt
  | 0x10 => v.qtab
  | 0x18 => v.qcount
  | 0x30 => s.status v
  | _ => 0

/-- The host reads a register of a virtual function (R348). -/
def State.readRegister (s : State) (vf off : Nat) : Option State :=
  (s.vfs.look vf).map fun v => { s with hostData := leBytes 8 (s.registerValue v off) }

end Sys2Proof.Machine
end

