-- ==== Sys2Proof/Machine/Launch.lean ====
section
/-!
DEFINITION. What a LAUNCH reads and checks before its pipeline runs: region control blocks, the pipeline record and kernel descriptors
(R70, R71, R349 to R353, R366).
-/

namespace Sys2Proof.Machine

/-- Why a packet cannot go on: a page fault at an address for a reason, or a failure code (R366). -/
inductive Halt where
  | fault (va reason : Nat)
  | code (n : Nat)
deriving DecidableEq, Repr

/-- Read bytes of the context's memory; a page without permission is failure code 5 (R366). -/
def State.vread (s : State) (ctx va n : Nat) : Except Halt (List Byte) :=
  match s.readGlobal ctx va n with
  | .ok l => .ok l
  | .error (a, some r) => .error (.fault a r)
  | .error (_, none) => .error (.code 5)

/-- Read several pieces of the context's memory. -/
def State.vreads (s : State) (ctx : Nat) : List (Nat × Nat) → Except Halt (List (List Byte))
  | [] => .ok []
  | (va, n) :: l => match s.vread ctx va n with
    | .error h => .error h
    | .ok b => match s.vreads ctx l with
      | .error h => .error h
      | .ok bs => .ok (b :: bs)

/-- The inheritable fields with a single value, by number: offset and bytes (R350, R351). -/
def rcbPlace (k : Nat) : Nat × Nat :=
  match k with
  | 0 => (0x01, 1)
  | 1 => (0x02, 2)
  | 2 => (0x10, 2)
  | 3 => (0x12, 2)
  | 4 => (0x14, 4)
  | 5 => (0x18, 4)
  | 6 => (0x1C, 4)
  | 7 => (0x20, 4)
  | 8 => (0x24, 4)
  | 9 => (0x28, 4)
  | 10 => (0x2C, 4)
  | 11 => (0x30, 2)
  | 12 => (0x32, 1)
  | 13 => (0x33, 1)
  | 14 => (0x38, 8)
  | _ => (0x58, 8)

/-- A node's own value of an inheritable field. -/
def rcbField (b : List Byte) (k : Nat) : Nat := field b (rcbPlace k).1 (rcbPlace k).2

/-- The node sets an inheritable field itself (R351). -/
def rcbSets (b : List Byte) (k : Nat) : Bool := decide (field b 0 1 = 1) || decide (field b 4 4 / 2 ^ k % 2 = 1)

/-- The value in effect in the first node of a chain, whose last node is the partition's (R351). -/
def rcbEff : List (List Byte) → Nat → Nat
  | [], _ => 0
  | [b], k => rcbField b k
  | b :: c :: l, k => if rcbSets b k then rcbField b k else rcbEff (c :: l) k

/-- The values of an inheritable field (R350). -/
def rcbRange (k v : Nat) : Bool :=
  match k with
  | 0 => decide (v ≤ 15)
  | 1 => decide (v < 64)
  | 2 => decide (v ≤ 256)
  | 3 => decide (1 ≤ v ∧ v ≤ 256)
  | 4 => decide (1 ≤ v ∧ v ≤ 786432)
  | 8 => decide (v ≤ 2 ^ 22)
  | 12 => decide (v < 32) && decide (v % 8 ≤ 3)
  | 13 => decide (v < 8)
  | 14 => decide (v % 4 = 0)
  | 15 => decide (v % 16 = 0)
  | _ => true

/-- A region control block of a level is well-formed (R350, R351): its fields within their values as far as it sets them. Reserved bytes are ignored
(R8), and the fields of a stage's node are read only there; what else is malformed is DESIGN CHOICE, log entry 64. -/
def rcbOk (kind parent : Nat) (b : List Byte) : Bool :=
  decide (field b 0 1 = kind) && decide (field b 4 4 < 2 ^ 16) && decide (field b 8 8 = parent)
    && ((List.range 16).all fun k => !rcbSets b k || rcbRange k (rcbField b k))
    && (if kind = 4 then decide (field b 0x40 8 % 512 = 0) && decide (field b 0x48 8 % 64 = 0) && decide (field b 0x50 1 ≤ 16)
          && decide (field b 0x68 8 % 16 = 0) && decide (field b 0x70 4 % 16 = 0)
        else true)

/-- A pipeline record is well-formed (R71): reserved bytes are ignored (R8). -/
def pipeRecOk (b : List Byte) : Bool :=
  decide (1 ≤ field b 4 1 ∧ field b 4 1 ≤ 8) && decide (field b 5 1 ≤ 64)

/-- A stage record of a pipeline with a number of queues is well-formed (R71): one whose INQ or OUTQ names a queue that the pipeline does not have is
malformed; DESIGN CHOICE, log entry 64, since R71 does not say so. -/
def stageRecOk (nq : Nat) (b : List Byte) : Bool :=
  (decide (field b 4 1 < nq) || decide (field b 4 1 = 0xFF)) && decide (field b 5 1 ≤ 3) && decide (1 ≤ field b 6 2)
    && decide (field b 8 8 < 2 ^ nq)

/-- A queue record is well-formed (R71). -/
def queueRecOk (b : List Byte) : Bool :=
  decide (1 ≤ field b 4 4 ∧ field b 4 4 ≤ 65536) && decide (1 ≤ field b 8 2 ∧ field b 8 2 ≤ 4096)
    && (decide (field b 10 1 = 16) || decide (field b 10 1 = 64)) && decide (field b 11 1 ≤ 1)

/-- A kernel descriptor is well-formed (R70). An ENTRY that is no multiple of 4 is accepted: the thread starts there, and fetches and decodes from
the bytes at that address; DESIGN CHOICE, log entry 64, since R24, R70 and R366 give it no fate. -/
def kernelOk (b : List Byte) : Bool :=
  decide (field b 4 4 ≤ 3) && decide (1 ≤ field b 0x10 1 ∧ field b 0x10 1 ≤ 16) && decide (1 ≤ field b 0x11 1 ∧ field b 0x11 1 ≤ 4)
    && decide (1 ≤ field b 0x12 2 ∧ field b 0x12 2 ≤ 12288) && decide (field b 0x14 4 % 256 = 0) && decide (field b 0x14 4 ≤ 1835008)
    && (decide (field b 0x18 4 = 0) || decide (4096 ≤ field b 0x18 4))

/-- A queue record describes a queue on a peer package (R71). -/
def isRemote (b : List Byte) : Bool := decide (field b 11 1 = 1)

/-- The capacities of the local queues of a pipeline (R352). -/
def localItems (qs : List (List Byte)) : Nat := ((qs.filter fun q => !isRemote q).map fun q => field q 4 4).sum

/-- What a LAUNCH has read: chains of nodes from the pipeline's up, the stages' nodes, the records and the kernel descriptors. -/
structure Plan where
  chain : List (List Byte)
  stages : List (List Byte)
  recs : List (List Byte)
  queues : List (List Byte)
  kernels : List (List Byte)
deriving DecidableEq, Repr

/-- The budgets in effect in a node are at most those in effect in its parent, and CMIN is at most CMAX (R352). -/
def budgetOk (node : List (List Byte)) : Bool :=
  ([0, 3, 4, 5, 6, 7, 8].all fun k => decide (rcbEff node k ≤ rcbEff (node.drop 1) k) || node.length == 1)
    && decide (rcbEff node 2 ≤ rcbEff node 3)

/-- Every chain of the plan: the stages', the pipeline's and its ancestors'. -/
def Plan.chains (p : Plan) : List (List (List Byte)) :=
  p.stages.map (fun b => b :: p.chain) ++ [p.chain, p.chain.drop 1, p.chain.drop 2]

/-- Queue capacities that other running pipelines of a node have bound (R352). -/
def State.boundItems (s : State) (node : Pipeline → Bool) : Nat := ((s.pipes.filter fun p => node p.2).map fun p => p.2.qitems).sum

/-- The checks of R352: failure code 2. -/
def State.budgetsOk (s : State) (ctx : Nat) (p : Plan) : Bool :=
  let mine := localItems p.queues
  (p.chains.all budgetOk) && decide (mine ≤ rcbEff p.chain 8)
    && decide (mine + s.boundItems (fun x => x.ctxNum == ctx) ≤ rcbEff (p.chain.drop 1) 8)
    && decide (mine + s.boundItems (fun x => x.part == ctxPart ctx) ≤ rcbEff (p.chain.drop 2) 8)

/-- The wait thresholds are at least the partition's floor (R184, R352): failure code 3 otherwise. -/
def Plan.floorOk (p : Plan) (floor : Nat) : Bool :=
  (p.chains.all fun c => decide (floor ≤ rcbEff c 9))
    && p.kernels.all fun k => decide (field k 0x18 4 = 0) || decide (floor ≤ field k 0x18 4)

/-- The records and kernel descriptors are well-formed: failure code 4 otherwise. -/
def Plan.formOk (p : Plan) : Bool :=
  (p.recs.all (stageRecOk p.queues.length)) && p.queues.all queueRecOk && p.kernels.all kernelOk

/-- The context queue numbers that the pipeline's queues get: the lowest that no running pipeline of the context has bound. -/
def State.queueNumbers (s : State) (ctx n : Nat) : Option (List Nat) :=
  let free := (List.range 64).filter fun q => (s.boundQueue ctx q).isNone
  if n ≤ free.length then some (free.take n) else none

/-- The address of a context's region control block (R349), from its table entry. -/
def entryRcb (e : List Byte) : Nat := field e 0 8

/-- Read what a LAUNCH needs (R352, R365, R366). `e` is the context's table entry. The nodes of the partition and of the context are read at physical
addresses, those of the pipeline and its stages at virtual ones: DESIGN CHOICE, log entry 42, since R349 does not say which RCB is. -/
def State.readPlan (s : State) (ctx : Nat) (e : List Byte) (pt : Partition) (pk : List Byte) : Except Halt Plan :=
  let prcb := field pk 8 8
  let prec := field pk 16 8
  let top := s.bytes ⟨.hbm, pt.rcb⟩ 128
  let mid := s.bytes ⟨.hbm, entryRcb e⟩ 128
  match s.vreads ctx [(prcb, 128), (prec, 16)] with
  | .error h => .error h
  | .ok l =>
    let node := l.getD 0 []
    let rec_ := l.getD 1 []
    if !(rcbOk 1 0 top && pt.owns (entryRcb e) && rcbOk 2 pt.rcb mid && rcbOk 3 (entryRcb e) node && pipeRecOk rec_)
        || prcb % 128 != 0 || entryRcb e % 128 != 0 then .error (.code 4)
    else
      let ns := field rec_ 4 1
      let nq := field rec_ 5 1
      let r := List.range ns
      match s.vreads ctx (r.map fun i => (prcb + 128 * (1 + i), 128)), s.vreads ctx (r.map fun i => (prec + 16 + 32 * i, 32)),
        s.vreads ctx ((List.range nq).map fun i => (prec + 16 + 32 * ns + 16 * i, 16)) with
      | .error h, _, _ => .error h
      | _, .error h, _ => .error h
      | _, _, .error h => .error h
      | .ok st, .ok rs, .ok qs =>
        if !(st.all (rcbOk 4 prcb)) then .error (.code 4)
        else match s.vreads ctx (st.map fun b => (field b 0x60 8, 64)) with
          | .error h => .error h
          | .ok ks => .ok { chain := [node, mid, top], stages := st, recs := rs, queues := qs, kernels := ks }

/-- What the loader has loaded last for a kernel descriptor of a context. -/
def State.kernelImage (s : State) (ctx kernel : Nat) : Option Loaded := s.loaded.find? fun l => l.ctx == ctx && l.kernel == kernel

/-- The loader loads an image: what it reads of it is known of each of its kernel descriptors from then on (R60, R65); how the loader comes by the bytes is the
outside world's, log entry 47. -/
def State.loadKernel (s : State) (l : Loaded) : State :=
  { s with loaded := l :: s.loaded.filter fun k => !(k.ctx == l.ctx && k.kernel == l.kernel) }

/-- A kernel of the pipeline is of an image whose FEATMASK has a bit: FEAT reports no extension feature, so it needs an absent one (R41, R65). -/
def Plan.needsExtension (p : Plan) (image : Nat → Option Loaded) : Bool :=
  p.stages.any fun b => (image (field b 0x60 8)).any fun l => decide (l.featmask ≠ 0)

/-- The scratchpad image of a kernel (R60): none without a `.scratch` section, and no more than its scratchpad holds. -/
def scratchOf (image : Nat → Option Loaded) (kdesc index spad : Nat) : List Byte :=
  if index = 0 then [] else match image kdesc with
    | some l => l.scratch.take spad
    | none => []

/-- A stage of the pipeline to be (R60, R70, R71, R350, R351); `image` gives what has been loaded for a kernel descriptor. -/
def Plan.stage (p : Plan) (image : Nat → Option Loaded) (nums : List Nat) (i : Nat) : Stage :=
  let b := p.stages.getD i []
  let r := p.recs.getD i []
  let k := p.kernels.getD i []
  let c := b :: p.chain
  let eff := rcbEff c
  let spad := field k 0x14 4
  { prio := eff 0 % 16, flags := eff 1, cmin := eff 2, cmax := eff 3, threadsMax := eff 4, gransMax := eff 5, spadMax := eff 6,
    spawnsMax := eff 7, waitth := if field k 0x18 4 = 0 then eff 9 else field k 0x18 4, barwd := eff 10, weight := eff 11,
    mode := eff 12, fdom := eff 13, traph := BitVec.ofNat 64 (eff 14), rshadow := eff 15,
    save := BitVec.ofNat 64 (field b 0x40 8), sring := BitVec.ofNat 64 (field b 0x48 8), srlog := field b 0x50 1,
    stack := BitVec.ofNat 64 (field b 0x68 8), stksz := field b 0x70 4,
    matrix := decide (field k 4 4 % 2 = 1), idem := decide (field k 4 4 / 2 % 2 = 1) && decide (eff 1 % 2 = 1),
    entry := BitVec.ofNat 64 (field k 8 8), gran := field k 0x10 1, cores := field k 0x11 1, nthreads := field k 0x12 2, spad := spad,
    image := scratchOf image (field b 0x60 8) (field k 0x1C 2) spad,
    inq := if field r 4 1 = 0xFF then none else nums[field r 4 1]?,
    outq := ((List.range nums.length).filter fun q => decide (field r 8 8 / 2 ^ q % 2 = 1)).map fun q => nums.getD q 0,
    persistent := decide (field r 5 1 % 2 = 1), redundant := decide (field r 5 1 / 2 % 2 = 1), teams := field r 6 2,
    next := 0, again := [], kills := [], killed := false }

/-- The budgets of a node (R352). -/
def budgetOf (c : List (List Byte)) : Budget :=
  { prio := rcbEff c 0, cmax := rcbEff c 3, threads := rcbEff c 4, grans := rcbEff c 5, spad := rcbEff c 6, spawns := rcbEff c 7,
    qitems := rcbEff c 8 }

/-- A queue at its pipeline's launch (R213). -/
def launchQueue (pipe : Nat) (b : List Byte) : Queue :=
  { pipe := some pipe, cap := field b 4 4, keys := field b 8 2, isize := field b 10 1, remote := isRemote b, closed := false, items := [],
    nextSeq := 1, counts := [], leases := [], pops := [], pushes := [] }

/-- The pipeline starts (R213, R352, R353). -/
def State.startPipe (s : State) (pk : Packet) (p : Plan) (nums : List Nat) : State :=
  let id := s.nextId
  let top := p.chain.getD 2 []
  let pl : Pipeline :=
    { part := ctxPart pk.ctx, ctx := pk.ctx % 256, launch := pk.launch, vf := pk.vf, queue := pk.queue, packet := pk.index,
      args := BitVec.ofNat 64 (field pk.bytes 0x18 8), stages := (List.range p.stages.length).map (p.stage (s.kernelImage pk.ctx) nums), queues := nums,
      qitems := localItems p.queues, budgets := [budgetOf p.chain, budgetOf (p.chain.drop 1), budgetOf (p.chain.drop 2)],
      killed := false, partRelaunch := decide (rcbField top 1 / 8 % 2 = 1), trapOk := decide (rcbField top 1 / 32 % 2 = 1) }
  let s := { s.fresh with pipes := s.pipes.put id pl }
  (nums.zip p.queues).foldl (fun s q => s.setQueue pk.ctx q.1 (launchQueue id q.2)) s

/-- The checks of a LAUNCH and the start of its pipeline (R65, R352, R366), in an order of the model's own (log entry 64). -/
def State.tryLaunch (s : State) (e : List Byte) (pt : Partition) (pk : Packet) : Except Halt State :=
  match s.readPlan pk.ctx e pt pk.bytes with
  | .error h => .error h
  | .ok p =>
    if !p.formOk then .error (.code 4)
    else if field pk.bytes 0x30 1 % 2 = 0 ∧ p.needsExtension (s.kernelImage pk.ctx) = true then .error (.code 6)
    else if !s.budgetsOk pk.ctx p then .error (.code 2)
    else if !p.floorOk pt.waitFloor then .error (.code 3)
    else match s.queueNumbers pk.ctx p.queues.length with
      | none => .error (.code 4)
      | some nums => .ok (s.startPipe pk p nums)

end Sys2Proof.Machine
end

