-- ==== Sys2Proof/Machine/Packets.lean ====
section
/-!
DEFINITION. The packet processor (R364 to R366): packets are consumed and started, and completed.
-/

namespace Sys2Proof.Machine

/-- TYPE of a packet's bytes. -/
def packetType (b : List Byte) : Nat := field b 0 1

/-- A scope code of a packet's header is not reserved (R365). -/
def packetScope (v : Nat) : Bool := [0, 3, 4].contains v

/-- Reserved values, bytes and bits of a packet (R365): failure code 1 otherwise. -/
def packetForm (b : List Byte) : Bool :=
  let h := field b 1 1
  packetScope (h / 2 % 8) && packetScope (h / 16 % 8) && decide (h < 128) && zeros b 2 2
    && (match packetType b with
      | 1 => decide (field b 0x30 1 ≤ 1) && zeros b 0x31 15 && decide (field b 0x20 8 % 8 = 0)
      | 2 => zeros b 0x18 40 && decide (field b 8 8 % 8 = 0)
      | 3 => zeros b 0x15 3 && zeros b 0x30 16 && decide (field b 0x20 8 % 8 = 0)
      | 4 => zeros b 0x14 4 && zeros b 0x30 16 && decide (field b 0x20 8 % 8 = 0)
      | 5 => zeros b 0x30 16 && decide (field b 0x20 8 % 8 = 0)
      | _ => false)

/-- The fields of a WSLOAD, FILL or COPY obey R365: failure code 8 otherwise. -/
def packetRules (pt : Partition) (b : List Byte) : Bool :=
  let a := field b 8 8
  let n := field b 0x18 8
  match packetType b with
  | 3 =>
    let off := field b 0x10 4
    let die := field b 0x14 1
    decide (a % 32 = 0) && decide (off % 512 = 0) && decide (n % 512 = 0) && decide (die ≤ 3) && (pt.wsPlace die off n).isSome
  | 4 => decide (a % 32 = 0) && decide (n % 32 = 0)
  | 5 => decide (a % 32 = 0) && decide (field b 0x10 8 % 32 = 0) && decide (n % 32 = 0)
  | _ => true

/-- A packet's SIGNAL (R365). -/
def packetSignal (b : List Byte) : Nat := if packetType b = 2 then field b 8 8 else field b 0x20 8

/-- The same packet. -/
def Packet.is (p : Packet) (vf queue index : Nat) : Bool := p.vf == vf && p.queue == queue && p.index == index

/-- Change a packet. -/
def State.updPacket (s : State) (p : Packet) (f : Packet → Packet) : State :=
  { s with packets := s.packets.map fun q => if q.is p.vf p.queue p.index then f q else q }

/-- A packet is finished: it is gone, and its pipeline with it. -/
def State.dropPacket (s : State) (p : Packet) : State :=
  { s with
    packets := s.packets.filter fun q => !q.is p.vf p.queue p.index
    pipes := match p.pipe with
      | some n => s.pipes.drop n
      | none => s.pipes }

/-- The record of a failed packet (R366, R378). -/
def State.logPacket (s : State) (p : Packet) (code : Nat) : State :=
  s.logErr { ErrRec.blank with part := ctxPart p.ctx, src := 8, ctx := p.ctx % 256,
                               launch := if packetType p.bytes = 1 then p.launch else 0, tag := field p.bytes 4 4, info := code }
    (fdomFw (s.context p.ctx).fdom)

/-- A packet fails: it is recorded, and its completion writes the failure code (R366). -/
def State.failPacket (s : State) (p : Packet) (code : Nat) : State :=
  (s.updPacket p fun q => { q with code := code, started := true, paused := none, denied := false }).logPacket p code

/-- A packet waits on a page fault of the processor (R360, R366). -/
def State.pausePacket (s : State) (p : Packet) (va reason : Nat) : State :=
  let (s, n) := s.newFault p.ctx (.packet p.vf p.queue p.index) 5 reason 0xFFFF (BitVec.ofNat 64 va) 0
  s.updPacket p fun q => { q with paused := some n }

/-- The page fault of a packet is outstanding. -/
def State.packetPaused (s : State) (p : Packet) : Bool :=
  match p.paused with
  | some n => (s.context p.ctx).faults.any fun f => f.seq == n
  | none => false

/-- A context's table entry (R348, R349), where the context exists. -/
def State.ctxEntry (s : State) (v : Vf) (ctx : Nat) : Option (List Byte) :=
  let pa := v.ctxtab + 64 * ctx
  match s.parts.look v.part with
  | some p =>
    let e := s.bytes ⟨.hbm, pa⟩ 64
    if decide (ctx < v.ctxcnt) && p.ownsAll pa 64 && decide (field e 0x19 1 = 1) then some e else none
  | none => none

/-- A context takes what its table entry and its node give: page tables, fault ring and FDOM (R349, R350, R353); a node outside the partition's memory is not
read (R345), and the partition's own FDOM is in effect. An FRLOG outside 4 to 16, a PTBASE that is not 1 MiB aligned, an FRING that is not 32-byte aligned and
a CTXTAB that is not 64-byte aligned are used as they stand: DESIGN CHOICE, log entry 77, since R348 and R349 give no fate for them. -/
def State.loadContext (s : State) (n : Nat) (pt : Partition) (e : List Byte) : State :=
  let own := if pt.owns (entryRcb e) && decide (entryRcb e % 128 = 0) then [s.bytes ⟨.hbm, entryRcb e⟩ 128] else []
  let chain := own ++ [s.bytes ⟨.hbm, pt.rcb⟩ 128]
  s.setContext n { s.context n with ptbase := field e 8 8, fring := field e 0x10 8, frlog := field e 0x18 1, fdom := rcbEff chain 13 }

/-- Start a packet, or try again after a page fault (R366). -/
def State.startPacket (s : State) (p : Packet) (pt : Partition) (e : List Byte) : State :=
  let b := p.bytes
  if p.denied then s.failPacket p 5
  else if !packetForm b then s.failPacket p 1
  else if !packetRules pt b then s.failPacket p 8
  else match packetType b with
    | 1 => match s.tryLaunch e pt p with
      | .ok s' => s'.updPacket p fun q => { q with started := true, pipe := some s.nextId, paused := none }
      | .error (.fault a r) => s.pausePacket p a r
      | .error (.code n) => s.failPacket p n
    | 3 => match s.vread p.ctx (field b 8 8) (field b 0x18 8) with
      | .ok l => s.updPacket p fun q => { q with started := true, data := l, paused := none }
      | .error (.fault a r) => s.pausePacket p a r
      | .error (.code n) => s.failPacket p n
    | 5 => match s.vread p.ctx (field b 0x10 8) (field b 0x18 8) with
      | .ok l => s.updPacket p fun q => { q with started := true, data := l, paused := none }
      | .error (.fault a r) => s.pausePacket p a r
      | .error (.code n) => s.failPacket p n
    | _ => s.updPacket p fun q => { q with started := true }

/-- What the processor needs to serve a queue: the virtual function, its partition, the descriptor, the queue's state and the context's
table entry; the queue is enabled and not in error. -/
structure Served where
  v : Vf
  pt : Partition
  d : QDesc
  u : UserQueue
  e : List Byte
deriving DecidableEq, Repr

/-- The queue that the processor can serve. -/
def State.served (s : State) (vf queue : Nat) : Option Served :=
  (s.vfs.look vf).bind fun v => (s.parts.look v.part).bind fun pt => (s.queueDesc v queue).bind fun d =>
    (s.ctxEntry v d.ctx).bind fun e => if d.enabled && !(v.queue queue).err then some ⟨v, pt, d, v.queue queue, e⟩ else none

/-- The packet of a queue that has been consumed and has not started. -/
def State.unstarted (s : State) (vf queue : Nat) : Option Packet := s.packets.find? fun p => p.vf == vf && p.queue == queue && !p.started

/-- Consume the next packet (R364, R365): it is copied, RDIDX advances, and a LAUNCH takes the partition's next number (R170). -/
def State.consume (s : State) (x : Served) (vf queue : Nat) (b : List Byte) : State × Packet :=
  let isLaunch := decide (packetType b = 1)
  let p : Packet := { vf := vf, queue := queue, index := x.u.rd, bytes := b, ctx := x.v.ctxNum vf x.d.ctx,
                      launch := if isLaunch then x.pt.launches else 0, started := false, pipe := none, code := 0, data := [],
                      written := false, paused := none, denied := false }
  let s := s.updVf vf fun v => { v with queues := v.queues.put queue { x.u with rd := x.u.rd + 1 } }
  let s := s.writeBytes .package ⟨.hbm, x.d.pa + 0x10⟩ (leBytes 8 (x.u.rd + 1))
  let s := { s with packets := s.packets ++ [p] }
  (if isLaunch then { s with parts := s.parts.put x.v.part { x.pt with launches := (x.pt.launches + 1) % 2 ^ 32 } } else s, p)

/-- The next packet of a queue may begin (R366): there is one, no earlier one is still to start, and with BAR all earlier ones have
completed. -/
def State.mayBegin (s : State) (x : Served) (vf queue : Nat) (b : List Byte) : Bool :=
  decide (field b 1 1 % 2 = 0) || !s.packets.any fun p => decide (p.vf = vf ∧ p.queue = queue ∧ p.index < x.u.rd)

/-- The processor's next action on a queue for packets of some types: an unstarted packet is tried again, or the next one is consumed
and started; a ring page that is not mapped is a page fault of the processor. -/
def State.serveQueue (s : State) (vf queue : Nat) (ty : Nat → Bool) (start : Served → Packet → State → State) : Option State :=
  (s.served vf queue).bind fun x =>
    match s.unstarted vf queue with
    | some p => if ty (packetType p.bytes) && !s.packetPaused p then some (start x p s) else none
    | none =>
      let n := x.v.ctxNum vf x.d.ctx
      let s := s.loadContext n x.pt x.e
      if x.u.wr ≤ x.u.rd ∨ ((s.context n).faults.any fun f => f.requesters.contains (.packet vf queue x.u.rd)) = true then none
      else match s.readGlobal n (x.d.base + 64 * (x.u.rd % 2 ^ x.d.logN)) 64 with
        | .error (a, some r) => some (s.newFault n (.packet vf queue x.u.rd) 5 r 0xFFFF (BitVec.ofNat 64 a) 0).1
        | .error (_, none) => some (s.stopQueue vf queue x.d)
        | .ok b =>
          if ty (packetType b) && s.mayBegin x vf queue b then let r := s.consume x vf queue b; some (start x r.2 r.1) else none

/-- Start a packet of one type. -/
def State.serveType (s : State) (vf queue ty : Nat) : Host.Outcome State Fault Refusal :=
  orNotEnabled (s.serveQueue vf queue (fun t => t == ty) fun x p s => s.startPacket p x.pt x.e)

/-- LAUNCH (R352, R365, R366). -/
def execLaunch (vf queue : Nat) (s : State) : Host.Outcome State Fault Refusal := s.serveType vf queue 1

/-- WAIT (R365, R366). -/
def execWait (vf queue : Nat) (s : State) : Host.Outcome State Fault Refusal := s.serveType vf queue 2

/-- WSLOAD (R273, R365, R366). -/
def execWsload (vf queue : Nat) (s : State) : Host.Outcome State Fault Refusal := s.serveType vf queue 3

/-- FILL (R365, R366). -/
def execFill (vf queue : Nat) (s : State) : Host.Outcome State Fault Refusal := s.serveType vf queue 4

/-- COPY (R365, R366). -/
def execCopy (vf queue : Nat) (s : State) : Host.Outcome State Fault Refusal := s.serveType vf queue 5

/-- RESERVED_TYPE_PACKET (R366): the packet fails, and its queue stops. -/
def execReservedTypePacket (vf queue : Nat) (s : State) : Host.Outcome State Fault Refusal :=
  orNotEnabled (s.serveQueue vf queue (fun t => t == 0 || decide (5 < t)) fun x p s => (s.failPacket p 1).stopQueue vf queue x.d)

/-- Write 8 bytes of a signal; SIGNAL 0 is none (R366). The failure code of a packet whose SIGNAL is not 8-byte aligned is written at that address all the same:
DESIGN CHOICE, log entry 42. -/
def State.putSignal (s : State) (p : Packet) (v : Nat) : Except (Nat × Option Nat) State :=
  if packetSignal p.bytes = 0 then .ok s else s.writeGlobal p.ctx (packetSignal p.bytes) (leBytes 8 v)

/-- Write the completion of a packet and drop it; an unmapped signal page pauses it. -/
def State.signalPacket (s : State) (p : Packet) (v : Nat) : State :=
  match s.putSignal p v with
  | .ok s' => s'.dropPacket p
  | .error (a, some r) => s.pausePacket p a r
  | .error (_, none) => (s.logPacket p 5).dropPacket p

/-- A release performed ahead of its thread's stores holds up a read of the signal (R263, R366): what the processor does after a WAIT is after those stores. -/
def State.signalHeld (s : State) (ctx va : Nat) : Bool := (s.ownRanges ctx va 8).any (s.markHolds .package)

/-- A packet's failure code is written (R366). -/
def State.signalCode (s : State) (p : Packet) (code : Nat) : State := s.signalPacket p (2 ^ 63 + code)

/-- No team of a partition is on a die (R366). -/
def State.dieClear (s : State) (part die : Nat) : Bool :=
  s.teams.all fun t => !t.2.placed || decide (t.2.cores.headD 0 / 64 ≠ die) || match s.pipeOf t.2 with
    | some p => p.part != part
    | none => false

/-- Write bytes into a partition's weight-store units, 512 bytes at a time (R346, R366). -/
def State.wsWrite (s : State) (pt : Partition) (die off : Nat) (l : List Byte) : State :=
  (piecesOf 512 (l.length / 512) l).zip (List.range (l.length / 512)) |>.foldl (fun s c =>
    match pt.wsPlace die (off + 512 * c.2) 512 with
    | some t => s.writeBytes .package t c.1
    | none => s) s

/-- Every line of a partition's weight store leaves the L1 of every core of a die (R232). -/
def State.dropWs (s : State) (pt : Partition) (die : Nat) : State :=
  let mine (l : L1Line) : Bool :=
    decide (l.line.mem = .ws) && decide (l.line.addr / Config.dieWs = die) && (pt.wsOn die).contains (l.line.addr % Config.dieWs / 2 ^ 26)
  { s with cores := s.cores.map fun (c : Nat × Core) =>
      if dieOf c.1 = die then (c.1, { c.2 with l1 := c.2.l1.filter fun l => !mine l }) else c }

/-- The bytes that a FILL or COPY writes (R365). -/
def Packet.fillBytes (p : Packet) : List Byte :=
  if packetType p.bytes = 4 then (List.range (field p.bytes 0x18 8)).map fun i => BitVec.ofNat 8 (field p.bytes 0x10 4 / 2 ^ (8 * (i % 4)))
  else p.data

/-- Every stage of a pipeline has finished (R189). -/
def State.pipeDone (s : State) (pn : Nat) (p : Pipeline) : Bool :=
  (List.range p.stages.length).all fun k => match p.stages[k]? with
    | some st => s.stageDone pn p k st
    | none => true

/-- The completion of a packet that has started, has no failure and is not paused (R366). A LAUNCH whose pipeline was killed writes code 7 to SIGNAL and no
record of SRC 8: DESIGN CHOICE, log entry 78, since R366 asks for the record of a packet that is not executed, and the kill has its own. -/
def State.finishPacket (s : State) (p : Packet) : Option State :=
  let b := p.bytes
  let v := field b 0x28 8
  let wrote (s : State) : State := s.updPacket p fun q => { q with written := true }
  match packetType b with
  | 1 => match p.pipe.bind fun n => (s.pipes.look n).map fun x => (n, x) with
    | none => none
    | some (n, x) =>
      if !s.pipeDone n x then none
      else if x.killed then some (s.signalCode p 7)
      else some (s.signalPacket p v)
  | 2 => match s.readGlobal p.ctx (packetSignal b) 8 with
    | .ok l => if !s.signalHeld p.ctx (packetSignal b) && decide (field b 0x10 8 ≤ leNat l) then some (s.dropPacket p) else none
    | .error (a, some r) => some (s.pausePacket p a r)
    | .error (_, none) => some (s.failPacket p 5)
  | 3 => match s.parts.look (ctxPart p.ctx) with
    | none => none
    | some pt =>
      if p.written then some (s.signalPacket p v)
      else if s.dieClear (ctxPart p.ctx) (field b 0x14 1) then
        some ((wrote ((s.wsWrite pt (field b 0x14 1) (field b 0x10 4) p.data).dropWs pt (field b 0x14 1))).signalPacket p v)
      else none
  | _ => if p.written then some (s.signalPacket p v) else match s.writeGlobal p.ctx (field b 8 8) p.fillBytes with
    | .ok s' => some ((wrote s').signalPacket p v)
    | .error (a, some r) => some (s.pausePacket p a r)
    | .error (_, none) => some (s.failPacket p 5)

/-- PACKET_COMPLETION (R366): VALUE or a failure code is written to SIGNAL, and the packet is finished. A packet whose page fault was
denied fails; if its failure code cannot be written either, it ends without. -/
def State.completePacket (s : State) (p : Packet) : Option State :=
  if !p.started || s.packetPaused p then none
  else if p.denied then (if p.code = 0 then some (s.failPacket p 5) else some (s.dropPacket p))
  else if p.code ≠ 0 then some (s.signalCode p p.code)
  else s.finishPacket p

/-- PACKET_COMPLETION (R366). -/
def execPacketCompletion (vf queue index : Nat) (s : State) : Host.Outcome State Fault Refusal :=
  orNotEnabled ((s.packets.find? fun p => p.is vf queue index).bind s.completePacket)

end Sys2Proof.Machine
end

