-- ==== Sys2Proof/Machine/Fabric.lean ====
section
/-!
DEFINITION. The host's memory port, the CXL.cache agent and Koriery Link (R239, R367 to R369).
-/

namespace Sys2Proof.Machine

/-- The host may reach a physical HBM address over CXL.mem (R346, R367): an HDM range of the firmware's decodes it, and no partition owns its unit, or
the unit is host-visible. -/
def State.hostReaches (s : State) (pa : Nat) : Bool :=
  decide (pa < 4 * Config.dieHbm) && (s.firmware.hdm.any fun r => decide (r.1 ≤ pa) && decide (pa < r.1 + r.2))
    && s.parts.all fun p => !p.2.owns pa || p.2.visible.contains (pa / 2 ^ 30)

/-- The host agent's number (R244). -/
def hostAgent : Nat := 260

/-- The host may read or write a range now: no engine owns a unit of it (R245), and no release that is ahead of its thread's stores holds it up
(R263). -/
def State.hostMay (s : State) (r : Range) : Bool := s.noEngine r && !s.markHolds .host r

/-- The host's own copy of the unit of a place that it reads or writes at its home (R239 to R241, R274): the home's L2 has the line of what the host holds; the
package's copies of what it writes are recalled first. Where every line of the slice is an engine's, the host keeps no copy. -/
def State.hostUnit (s : State) (write : Bool) (t : Target) : State :=
  let u := s.unitOf t
  let sec := sectorsOf (lineOf t) u
  let s := s.l2Bring t sec (if write then sec else 0) 0 0
  if (s.l2At t).isNone then (if write then s.recall [u] else s)
  else if write then s.holdWrite u hostAgent else s.holdRead u hostAgent

/-- The host's copies of the units of a range, of which each has a 32-byte part of its own (R242). -/
def State.hostUnits (s : State) (write : Bool) (t : Target) (n : Nat) : State :=
  (List.range ((t.addr % 32 + n + 31) / 32)).foldl (fun s i => s.hostUnit write { t with addr := t.addr / 32 * 32 + 32 * i }) s

/-- HOST_MEM_ACCESS (R240, R274, R367): a read or a write of host-reachable memory; outside it, a read gives all ones, a write is discarded, and the
access is recorded. While the dies are held there is no such access: the package shows no more than PCIe configuration space (R370). An access of more than 8
bytes is one step too, though R274 makes only one of up to 8 bytes indivisible: DESIGN CHOICE, log entry 71. -/
def execHostMemAccess (write : Bool) (pa size data : Nat) (s : State) : Host.Outcome State Fault Refusal :=
  let t : Target := ⟨.hbm, pa⟩
  if s.firmware.held then .fault .notEnabled
  else if s.hostReaches pa && s.hostReaches (pa + size - 1) then
    if !s.hostMay (t.range size) then .fault .notEnabled
    else
      let s' := s.hostUnits write t size
      .next (if write then s'.writeData .host false t size data else { s' with hostData := s.bytes t size })
  else
    let s' := s.logPart (s.ownerOf pa) Config.permSource 0 pa 0
    .next (if write then s' else { s' with hostData := List.replicate size 0xFF })

/-- The permission of the slice that is home to a line of host memory, after the host has taken its part (R239): 0, none, or 1, to read. -/
def State.hostPermit (s : State) (t : Target) (perm : Nat) : State :=
  { s with l2 := s.l2.put (homeOf t) ((s.slice (homeOf t)).filterMap fun l =>
      if l.line = t then (if perm = 0 then none else some { l with dirty := 0, perm := min l.perm perm }) else some l) }

/-- HOST_CXL_CACHE_SNOOP (R239): the host takes a line of its memory back, with its new bytes, or reads it: the package's dirty bytes go back, and
what copies are left may only be read. -/
def execHostCxlCacheSnoop (line : Nat) (invalidate : Bool) (data : List Byte) (s : State) : Host.Outcome State Fault Refusal :=
  let t : Target := ⟨.host, 512 * line⟩
  let r := t.range 512
  if s.firmware.held || 512 < data.length || !s.hostMay r then .fault .notEnabled
  else if invalidate then
    let s := (s.recall [r]).hostPermit t 0
    .next (if data.isEmpty then s else s.writeBytes .host t data)
  else
    let shared (d : DirEntry) : DirEntry :=
      if d.unit.meets r then { d with holders := d.holders.map fun (h : Nat × Moesi) => (h.1, Moesi.s) } else d
    .next (({ s with dir := s.dir.map shared } : State).hostPermit t 1)

/-- Koriery Link ports (R12). -/
def ports : Nat := 16

/-- Set a port. -/
def State.setPort (s : State) (n : Nat) (p : Port) : State := { s with ports := s.ports.put n p }

/-- A flit reaches a port (R368): a bad one, and every later one until the retry, is dropped; the retry begins with the failed flit. -/
def Port.receive (p : Port) (good : Bool) (seq : Nat) : Port :=
  if seq ≠ p.got then { p with dropping := true }
  else if good then { p with got := p.got + 1, dropping := false, retries := 0 }
  else { p with dropping := true, retries := if p.dropping then p.retries + 1 else p.retries }

/-- FLIT_RECEIVE (R368). -/
def execFlitReceive (port : Nat) (good : Bool) (seq : Nat) (s : State) : Host.Outcome State Fault Refusal :=
  let p := s.port port
  if decide (port < ports) && !p.down then .next (s.setPort port (p.receive good seq)) else .fault .notEnabled

/-- A place lies in peer memory that is reached over a port. -/
def onPort (port : Nat) (t : Option Target) : Bool :=
  match t with
  | some t => decide (t.mem = .peer) && decide (Config.route t.addr = port)
  | none => false

/-- A thread's operation has an access outstanding over a port (R368). -/
def MemOp.overPort (o : MemOp) (port : Nat) : Bool := o.accs.any fun a => !a.isDone && onPort port (some a.at_)

/-- A thread waits to push to a remote queue over a port (R214, R368). -/
def State.pushOverPort (s : State) (ctx : Nat) (t : Thread) (port : Nat) : Bool :=
  match t.status with
  | .waiting (.push q) => (match s.queue ctx q with
    | some u => u.remote
    | none => false) && decide (Config.routeQueue ctx q = port)
  | .waiting _ | .runnable | .exited => false

/-- A thread waits on a word of peer memory over a port (R211, R368). -/
def Thread.watchOverPort (t : Thread) (port : Nat) : Bool :=
  match t.status with
  | .waiting (.address at_ _ _ _ _) => onPort port (some at_)
  | .waiting _ | .runnable | .exited => false

/-- The accesses of a thread over a port end (R368, R373). -/
def Thread.dropPort (t : Thread) (port : Nat) : Thread :=
  ({ t with ops := t.ops.filter fun o => !o.overPort port } : Thread).settle

/-- The threads with a remote operation outstanding over a port. -/
def State.threadsOnPort (s : State) (port : Nat) : List (ThreadRef × DWord) :=
  s.teams.flatMap fun tm => match s.pipeOf tm.2 with
    | none => []
    | some p => tm.2.threads.filterMap fun t =>
      match t.2.ops.find? fun o => o.overPort port with
      | some o => some (⟨tm.1, t.1⟩, o.pc)
      | none => if s.pushOverPort p.ctxNum t.2 port || t.2.watchOverPort port then some (⟨tm.1, t.1⟩, t.2.pc) else none

/-- A part of a collective still needs the traffic of its group over a port (R368). -/
def State.collOnPort (s : State) (o : EngOp) (port : Nat) : Bool :=
  o.losing.isSome && match o.kind.coll? with
    | some (r, _) => let g := r.group (s.ctxOf o.ref); decide ((groupRanks g).1 < (groupRanks g).2) && Config.collOver g port
    | none => false

/-- An engine operation reads or writes peer memory, or exchanges with ranks on other packages, over a port (R368). -/
def State.engineOnPort (s : State) (core : Nat) (o : EngOp) (port : Nat) : Bool :=
  let onIt (l : Except (Nat × Option Nat) (List (Option Target))) : Bool := match l with
    | .ok l => l.any (onPort port)
    | .error _ => false
  s.collOnPort o port || match o.stage, s.reach core o with
  | .waiting, some r | .reading _, some r => onIt (s.srcPlaces r o) || onIt (s.dstPlaces r o)
  | .begun _, some r | .exchanged _ _, some r | .result _ _, some r => onIt (s.dstPlaces r o)
  | _, _ => false

/-- The partitions that use a port. -/
def State.partsOnPort (s : State) (port : Nat) : List Nat :=
  (s.parts.filter fun p => decide (p.2.linkWeight.getD port 0 ≠ 0)).map fun p => p.1

/-- LINK_DOWN (R368, R373): a port that has failed 16 consecutive retries goes down; its outstanding remote operations end as
uncorrectable errors. -/
def execLinkDown (port : Nat) (s : State) : Host.Outcome State Fault Refusal :=
  let p := s.port port
  if decide (ports ≤ port) || p.down || decide (p.retries < 16) then .fault .notEnabled
  else
    let s := s.setPort port { p with down := true }
    let s := (s.partsOnPort port).foldl (fun s n => s.logPart (some n) 9 10 port 0) s
    let s := (s.allOps.filter fun e => s.engineOnPort e.1 e.2 port).foldl (fun s e => s.engineFail e.1 e.2 3) s
    .next ((s.threadsOnPort port).foldl (fun s t => (s.updThread t.1 fun th => th.dropPort port).linkKill t.1 t.2 port) s)

/-- The partition that a peer's request is admitted to (R369), with the units it may reach. -/
def State.admitted (s : State) (peer part : Nat) : Option (Nat × Partition × List Nat) :=
  s.parts.findSome? fun p => (p.2.admits.find? fun a => decide (a.1 = peer ∧ a.2.1 = part)).map fun a => (p.1, p.2, a.2.2)

/-- An admitted request may reach the bytes of an access. -/
def unitsReach (pt : Partition) (us : List Nat) (pa n : Nat) : Bool :=
  [pa, pa + n - 1].all fun a => us.contains (a / 2 ^ 30) && pt.owns a

/-- A remote access may take effect: no engine owns a unit that it touches (R245). -/
def State.peerMay (s : State) (r : Range) : Bool := s.noEngine r && !s.markHolds .peer r

/-- A remote access takes effect at the home, as one access of the requester (R239). -/
def State.remoteWrite (s : State) (atomic : Bool) (t : Target) (n v : Nat) : State :=
  ((s.recall [t.range n]).l2Wrote [t.range n]).writeData .peer atomic t n v

/-- A remote push (R214): appended where the queue is open and has room, and the key and the item's size are the queue's; the requests that came before it are
served first (R213). -/
def State.remoteAppend (s : State) (ctx q key : Nat) (data : List Byte) : State :=
  let s := s.serveAll ctx q
  match s.boundQueue ctx q with
  | none => s
  | some u =>
    if u.remote || u.closed || decide (u.cap ≤ u.items.length) || !u.pushes.isEmpty || decide (u.keys ≤ key) || decide (u.isize ≠ data.length) then s
    else s.setQueue ctx q (u.append { seq := 0, key := key, data := data, from_ := none })

/-- Bytes of a float atomic's operand (R257). -/
def afBytes : AfOp → Nat
  | .addF32 | .minF32 | .maxF32 => 4
  | .addF64 | .minF64 | .maxF64 => 8

/-- The bytes that a peer's request reaches. -/
def reachOf (r : PeerReq) : Option (Nat × Nat) :=
  match r with
  | .load pa size => some (pa, size)
  | .store pa data => some (pa, data.length)
  | .atomic _ pa size _ | .compare pa size _ _ => some (pa, size)
  | .atomicF op pa _ => some (pa, afBytes op)
  | .push .. => none

/-- An admitted request takes effect (R214, R239). -/
def State.serveRemote (s : State) (part : Nat) (r : PeerReq) : State :=
  match r with
  | .load _ _ => s
  | .store pa data => s.remoteWrite false ⟨.hbm, pa⟩ data.length (leNat data)
  | .atomic op pa size data => s.remoteWrite true ⟨.hbm, pa⟩ size (atomicNew op size (s.load ⟨.hbm, pa⟩ size) data)
  | .atomicF op pa data => s.remoteWrite true ⟨.hbm, pa⟩ (afBytes op) (atomicFNew op (s.load ⟨.hbm, pa⟩ (afBytes op)) data).1
  | .compare pa size cmp data => if s.load ⟨.hbm, pa⟩ size = cmp then s.remoteWrite true ⟨.hbm, pa⟩ size data else s
  | .push ctx q key data => s.remoteAppend (part * 16384 + ctx % 16384) q key data

/-- REMOTE_REQUEST (R239, R369): admitted, it takes effect here, once no engine owns what it touches (R245); otherwise it is refused, and nothing
changes. -/
def execRemoteRequest (peer part : Nat) (r : PeerReq) (s : State) : Host.Outcome State Fault Refusal :=
  match s.admitted peer part with
  | none => .next s
  | some (n, pt, us) =>
    match reachOf r with
    | none => .next (s.serveRemote n r)
    | some (pa, k) =>
      if !unitsReach pt us pa k then .next s
      else if s.peerMay ((⟨.hbm, pa⟩ : Target).range k) then .next (s.serveRemote n r)
      else .fault .notEnabled

end Sys2Proof.Machine
end

