-- ==== Sys2Proof/Machine/Signature.lean ====
section
/-!
DEFINITION. The checks of a firmware image (R2, R370): SHA-512 as FIPS 180-4 defines it, and the verification of an Ed25519 signature as RFC 8032
defines it.
-/

namespace Sys2Proof.Machine

/-- The largest number below 2 ^ `bits` whose `k`-th power is at most `n`. -/
def rootBelow (k n bits : Nat) : Nat :=
  (List.range bits).reverse.foldl (fun r i => if (r + 2 ^ i) ^ k ≤ n then r + 2 ^ i else r) 0

/-- A number is prime. -/
def isPrime (n : Nat) : Bool := decide (2 ≤ n) && (List.range n).all fun d => decide (d < 2) || decide (n % d ≠ 0)

/-- The first 80 primes. -/
def firstPrimes : List Nat := (List.range 410).filter isPrime

/-- The first 64 bits of the fractional part of the cube root of a prime: a constant of a round (FIPS 180-4, 4.2.3). -/
def shaK (p : Nat) : DWord := BitVec.ofNat 64 (rootBelow 3 (p * 2 ^ 192) 68)

/-- The first 64 bits of the fractional part of the square root of a prime: a word of the initial hash value (FIPS 180-4, 5.3.5). -/
def shaH (p : Nat) : DWord := BitVec.ofNat 64 (rootBelow 2 (p * 2 ^ 128) 68)

/-- The number whose big-endian bytes these are. -/
def beNat (l : List Byte) : Nat := leNat l.reverse

/-- Pieces of `n` elements, `count` of them. -/
def cutInto {α : Type} (n : Nat) : Nat → List α → List (List α)
  | 0, _ => []
  | count + 1, l => l.take n :: cutInto n count (l.drop n)

/-- The message padded to whole blocks of 128 bytes (FIPS 180-4, 5.1.2). -/
def shaPad (m : List Byte) : List Byte :=
  m ++ 0x80#8 :: List.replicate ((239 - m.length % 128) % 128) 0 ++ (leBytes 16 (8 * m.length)).reverse

/-- The message schedule grows by `n` words; the latest stands first (FIPS 180-4, 6.4.2). -/
def shaSchedule : Nat → List DWord → List DWord
  | 0, w => w
  | n + 1, w =>
    let a := w.getD 14 0
    let b := w.getD 1 0
    let s0 := a.rotateRight 1 ^^^ a.rotateRight 8 ^^^ (a >>> 7)
    let s1 := b.rotateRight 19 ^^^ b.rotateRight 61 ^^^ (b >>> 6)
    shaSchedule n ((s1 + w.getD 6 0 + s0 + w.getD 15 0) :: w)

/-- One round, of a constant and a word of the schedule; the working variables are a to h (FIPS 180-4, 6.4.2). -/
def shaRound (v : List DWord) (kw : DWord × DWord) : List DWord :=
  let x (i : Nat) : DWord := v.getD i 0
  let t1 := x 7 + ((x 4).rotateRight 14 ^^^ (x 4).rotateRight 18 ^^^ (x 4).rotateRight 41) + ((x 4 &&& x 5) ^^^ (~~~(x 4) &&& x 6)) + kw.1 + kw.2
  let t2 := ((x 0).rotateRight 28 ^^^ (x 0).rotateRight 34 ^^^ (x 0).rotateRight 39) + ((x 0 &&& x 1) ^^^ (x 0 &&& x 2) ^^^ (x 1 &&& x 2))
  [t1 + t2, x 0, x 1, x 2, x 3 + t1, x 4, x 5, x 6]

/-- One block goes into the hash value. -/
def shaBlock (h : List DWord) (b : List Byte) : List DWord :=
  let w := (shaSchedule 64 ((cutInto 8 16 b).map fun x => BitVec.ofNat 64 (beNat x)).reverse).reverse
  (h.zip (((firstPrimes.map shaK).zip w).foldl shaRound h)).map fun p => p.1 + p.2

/-- SHA-512 (FIPS 180-4). -/
def sha512 (m : List Byte) : List Byte :=
  let b := shaPad m
  (((cutInto 128 (b.length / 128) b).foldl shaBlock ((firstPrimes.take 8).map shaH))).flatMap fun x => (leBytes 8 x.toNat).reverse

/-- The prime of the field of Ed25519 (RFC 8032, 5.1). -/
def edP : Nat := 2 ^ 255 - 19

/-- The order of the base point. -/
def edL : Nat := 2 ^ 252 + 27742317777372353535851937790883648493

/-- A power in the field, for exponents below 2 ^ 256. -/
def edPow (b e : Nat) : Nat :=
  (List.range 256).reverse.foldl (fun r i => if e / 2 ^ i % 2 = 1 then r * r % edP * b % edP else r * r % edP) 1

/-- The inverse in the field. -/
def edInv (a : Nat) : Nat := edPow a (edP - 2)

/-- A difference in the field. -/
def edSub (a b : Nat) : Nat := (a + edP - b % edP) % edP

/-- The constant d of the curve. -/
def edD : Nat := edSub 0 (121665 * edInv 121666)

/-- A point in extended homogeneous coordinates (RFC 8032, 5.1.4). -/
structure EdPoint where
  x : Nat
  y : Nat
  z : Nat
  t : Nat
deriving DecidableEq, Repr

/-- The sum of two points (RFC 8032, 5.1.4). -/
def EdPoint.add (p q : EdPoint) : EdPoint :=
  let a := edSub p.y p.x * edSub q.y q.x % edP
  let b := (p.y + p.x) * (q.y + q.x) % edP
  let c := 2 * p.t * q.t % edP * edD % edP
  let d := 2 * p.z * q.z % edP
  let e := edSub b a
  let f := edSub d c
  let g := (d + c) % edP
  let h := (b + a) % edP
  ⟨e * f % edP, g * h % edP, f * g % edP, e * h % edP⟩

/-- A multiple of a point, for factors below 2 ^ 256. -/
def EdPoint.mul (k : Nat) (p : EdPoint) : EdPoint :=
  (List.range 256).reverse.foldl (fun r i => if k / 2 ^ i % 2 = 1 then (r.add r).add p else r.add r) ⟨0, 1, 1, 0⟩

/-- Two points are equal. -/
def EdPoint.same (p q : EdPoint) : Bool := decide (p.x * q.z % edP = q.x * p.z % edP) && decide (p.y * q.z % edP = q.y * p.z % edP)

/-- The point with a y coordinate and the sign of its x coordinate (RFC 8032, 5.1.3). -/
def edPoint (y sign : Nat) : Option EdPoint :=
  let u := edSub (y * y) 1
  let v := (edD * (y * y % edP) + 1) % edP
  let r := u * edPow v 3 % edP * edPow (u * edPow v 7 % edP) ((edP - 5) / 8) % edP
  let r2 := v * (r * r % edP) % edP
  let x := if r2 = u then some r else if r2 = edSub 0 u then some (r * edPow 2 ((edP - 1) / 4) % edP) else none
  if edP ≤ y then none
  else x.bind fun x =>
    if x = 0 ∧ sign = 1 then none
    else let x' := if x % 2 = sign then x else edSub 0 x; some ⟨x', y, 1, x' * y % edP⟩

/-- The point that 32 bytes encode (RFC 8032, 5.1.3). -/
def edDecode (l : List Byte) : Option EdPoint := edPoint (leNat l % 2 ^ 255) (leNat l / 2 ^ 255)

/-- An Ed25519 signature of a message verifies against a public key (RFC 8032, 5.1.7). -/
def edVerifies (key msg sig : List Byte) : Bool :=
  let s := leNat (sig.drop 32)
  let k := leNat (sha512 (sig.take 32 ++ key ++ msg)) % edL
  decide (sig.length = 64) && decide (key.length = 32) && decide (s < edL)
    && match edDecode (sig.take 32), edDecode key, edPoint (4 * edInv 5 % edP) 0 with
      | some r, some a, some b => ((b.mul s).mul 8).same ((r.mul 8).add ((a.mul k).mul 8))
      | _, _, _ => false

end Sys2Proof.Machine
end

