-- ==== Sys2Proof/Machine/Firmware.lean ====
section
/-!
DEFINITION. The management complex: boot, firmware images, and the creation and destruction of partitions (R346, R347, R362, R370).
-/

namespace Sys2Proof.Machine

/-- An image verifies (R370): its public key has the fused SHA-512 hash, its Ed25519 signature over the SHA-512 digest of its body verifies against that
key, and its version is not below the fused rollback counter. -/
def imageGood (img : FwImage) : Bool :=
  decide (sha512 img.key = Config.fusedHash) && edVerifies img.key (sha512 img.body) img.signature && decide (Config.rollback ≤ img.version)

/-- A byte of memory lies in units of HBM or of the weight stores. -/
def inUnits (hbm : List Nat) (ws : List (Nat × Nat)) (m : MemId) (a : Nat) : Bool :=
  match m with
  | .hbm => hbm.contains (a / 2 ^ 30)
  | .ws => ws.contains (a / Config.dieWs, a % Config.dieWs / 2 ^ 26)
  | .host | .peer | .spad .. | .oper .. | .acc .. | .kept .. => false

/-- The keys of units, those of some units replaced. -/
def keyUnits (keys : Tbl Nat) (us : List Nat) (key : Option Nat) : Tbl Nat :=
  (match key with
    | some k => us.map fun u => (u, k)
    | none => []) ++ keys.filter fun e => !us.contains e.1

/-- Units go under another key (R362): nothing that stood in them, or in a cache of them, is left. -/
def State.rekey (s : State) (hbm : List Nat) (ws : List (Nat × Nat)) (key : Option Nat) : State :=
  { s with
    mems := s.mems.map fun (m : MemId × Memory) => (m.1, m.2.filter fun c => !inUnits hbm ws m.1 c.1)
    hbmKeys := keyUnits s.hbmKeys hbm key
    wsKeys := keyUnits s.wsKeys (ws.map fun u => 16 * u.1 + u.2) key
    poison := s.poison.filter fun r => !inUnits hbm ws r.mem r.lo
    marks := s.marks.filter fun m => !inUnits hbm ws m.range.mem m.range.lo
    shadow := s.shadow.filter fun e => !inUnits hbm ws e.sector.mem e.sector.addr
    dir := s.dir.filter fun d => !inUnits hbm ws d.unit.mem d.unit.lo
    l2 := s.l2.map fun (k : Nat × List L2Line) => (k.1, k.2.filter fun l => !inUnits hbm ws l.line.mem l.line.addr)
    cores := s.cores.map fun (c : Nat × Core) => (c.1, { c.2 with
      l1 := c.2.l1.filter fun l => !inUnits hbm ws l.line.mem l.line.addr
      icache := c.2.icache.filter fun b => !inUnits hbm ws b.1.mem b.1.addr }) }

/-- The compute dies are held in reset, and no virtual function is exposed (R370); the partitions' keys are erased (R362). -/
def State.holdDies (s : State) : State :=
  let s := s.parts.foldl (fun s p => s.rekey p.2.hbmUnits p.2.wsUnits none) s
  { s with
    mems := s.mems.filter fun m => match m.1 with
      | .hbm | .host | .peer | .ws => true
      | .spad .. | .oper .. | .acc .. | .kept .. => false
    teams := [], pipes := [], contexts := [], parts := [], cores := [], dies := [], vfs := [], packets := [], dir := [], l2 := [], marks := [],
    shadow := [],
    firmware := { s.firmware with held := true, refused := s.firmware.refused + 1 } }

/-- An image is verified, by the ROM or by the image that runs, and runs; one that fails is not run (R370). -/
def State.loadImage (s : State) (img : FwImage) : State :=
  if imageGood img then { s with firmware := { s.firmware with running := some img.version, key := img.key, held := false } } else s.holdDies

/-- BOOT (R370): the ROM loads, hashes and verifies the first image. -/
def execBoot (img : FwImage) (s : State) : Host.Outcome State Fault Refusal :=
  if s.firmware.running.isNone then .next (s.loadImage img) else .fault .notEnabled

/-- FIRMWARE_IMAGE (R370): an image arrives on the management port. -/
def execFirmwareImage (img : FwImage) (s : State) : Host.Outcome State Fault Refusal := .next (s.loadImage img)

/-- Numbers below a bound, each once. -/
def distinctBelow (n : Nat) (l : List Nat) : Bool := (l.all fun a => decide (a < n)) && decide (l.eraseDups = l)

/-- Two lists share nothing. -/
def apart {α : Type} [DecidableEq α] (a b : List α) : Bool := a.all fun x => !b.contains x

/-- HBM units that a range of addresses touches. -/
def unitSpan (base n : Nat) : List Nat := (List.range ((base + n - 1) / 2 ^ 30 - base / 2 ^ 30 + 1)).map fun i => base / 2 ^ 30 + i

/-- The units of a partition's node and of its log ring, which the hardware reads and writes for it (R350, R378). -/
def firmwareUnits (rcb logBase logN : Nat) : List Nat := unitSpan rcb 128 ++ unitSpan logBase (64 * 2 ^ logN)

/-- Two ranges of bytes share none. -/
def bytesApart (a n b m : Nat) : Bool := decide (a + n ≤ b) || decide (b + m ≤ a)

/-- Neither of two partitions has its node or its log in the other's memory, so that no setting of the firmware carries bytes of one to the other
(R345, R371); the log of one, which the hardware writes, shares no byte with the other's log or node. -/
def keepApart (p : PartSpec) (q : Partition) : Bool :=
  apart (firmwareUnits p.rcb p.logBase p.logN) q.hbmUnits && apart p.hbmUnits (firmwareUnits q.rcb q.logBase q.logN)
    && bytesApart p.logBase (64 * 2 ^ p.logN) q.logBase (64 * 2 ^ q.logN)
    && bytesApart p.logBase (64 * 2 ^ p.logN) q.rcb 128 && bytesApart q.logBase (64 * 2 ^ q.logN) p.rcb 128

/-- What a partition is given is well-formed and belongs to no other, and its clusters hold no team (R10, R346 to R348, R378). -/
def State.partOk (s : State) (p : PartSpec) : Bool :=
  decide (p.num < 48) && (s.parts.look p.num).isNone
    && !p.clusters.isEmpty && distinctBelow 64 p.clusters && distinctBelow 960 p.hbmUnits
    && (p.visible.all fun u => p.hbmUnits.contains u)
    && (p.wsUnits.all fun u => decide (u.1 < 4) && decide (u.2 < 16)) && decide (p.wsUnits.eraseDups = p.wsUnits)
    && decide (p.collWeight.length = 4) && (p.collWeight.all fun w => decide (w ≤ 255))
    && decide (p.linkWeight.length = 16) && (p.linkWeight.all fun w => decide (w ≤ 255))
    && decide (4096 ≤ p.waitFloor) && decide (6 ≤ p.logN ∧ p.logN ≤ 16) && decide (p.logBase % 64 = 0)
    && decide (p.logBase + 64 * 2 ^ p.logN ≤ 4 * Config.dieHbm) && decide (p.rcb % 128 = 0)
    && distinctBelow 64 p.vfs && (p.vfs.all fun v => (s.vfs.look v).isNone)
    && (p.admits.all fun a => a.2.2.all fun u => p.hbmUnits.contains u)
    && (s.parts.all fun q => apart p.clusters q.2.clusters && apart p.hbmUnits q.2.hbmUnits && apart p.wsUnits q.2.wsUnits
        && keepApart p q.2)
    && (s.teams.all fun t => !t.2.placed || t.2.cores.all fun c => !p.clusters.contains (c / 4))

/-- The partition that firmware makes (R170, R346, R347). -/
def PartSpec.make (p : PartSpec) (key : Nat) : Partition :=
  { clusters := p.clusters, passDue := false, hbmUnits := p.hbmUnits, visible := p.visible, wsUnits := p.wsUnits, collWeight := p.collWeight,
    linkWeight := p.linkWeight, rcb := p.rcb, waitFloor := p.waitFloor, logBase := p.logBase, logN := p.logN, admits := p.admits, launches := 0, key := key,
    logSeq := 0, logPos := 0, lost := 0 }

/-- A virtual function right after it is mapped onto a partition (R348). -/
def Vf.fresh (part : Nat) : Vf := { part := part, ctxtab := 0, ctxcnt := 0, qtab := 0, qcount := 0, err := false, queues := [] }

/-- The cores of clusters. -/
def coresOf (clusters : List Nat) : List Nat := clusters.flatMap fun c => [4 * c, 4 * c + 1, 4 * c + 2, 4 * c + 3]

/-- PARTITION_CREATE (R347): a new key, event registers at reset, launch sequence 0 and an empty rack; nothing of earlier work is left on its cores that a program
could see, neither an instruction-cache copy nor the generations of handles (R345, R362), and the arbiter's 65,536 clocks begin (R187). -/
def execPartitionCreate (p : PartSpec) (s : State) : Host.Outcome State Fault Refusal :=
  if s.firmware.held || s.firmware.running.isNone || !s.partOk p then .fault .notEnabled
  else
    let s := s.rekey p.hbmUnits p.wsUnits (some (s.keys + 1))
    let s := (coresOf p.clusters).foldl (fun s c => s.updCore c fun x => { x with events := [], icache := [], handles := [], freed := [], passAt := x.clock }) s
    .next { s with
      parts := s.parts.put p.num (PartSpec.make p (s.keys + 1))
      keys := s.keys + 1
      contexts := s.contexts.filter fun c => decide (ctxPart c.1 ≠ p.num)
      vfs := p.vfs.foldl (fun l v => Tbl.put l v (Vf.fresh p.num)) s.vfs }

/-- A die's slots without those of a partition's contexts, which have ended (R324), and no abort of a group of theirs (R329). -/
def Die.endPart (d : Die) (part : Nat) : Die :=
  { d with slots := d.slots.filter fun k => decide (ctxPart k.2.ctx ≠ part), aborted := d.aborted.filter fun a => decide (ctxPart (a.1.headD 0) ≠ part),
           uses := d.uses.filter fun u => decide (ctxPart (u.1.headD 0) ≠ part) }

/-- PARTITION_DESTROY (R324, R347, R362): after every pipeline of it has completed or been killed; its key is erased, and its contexts
end. R324 does not say when a context ends: here it does so with its partition, and not when the host writes CTXCNT, CTXTAB or VALID: DESIGN CHOICE, log entry
72. -/
def execPartitionDestroy (part : Nat) (s : State) : Host.Outcome State Fault Refusal :=
  match s.parts.look part with
  | none => .fault .notEnabled
  | some p =>
    if s.running part then .fault .notEnabled
    else
      let s := s.rekey p.hbmUnits p.wsUnits none
      let s := (coresOf p.clusters).foldl (fun s c => s.updCore c fun x => { x with icache := [] }) s
      let gone := (s.vfs.filter fun v => v.2.part == part).map fun v => v.1
      .next { s with
        parts := s.parts.drop part
        contexts := s.contexts.filter fun c => decide (ctxPart c.1 ≠ part)
        dies := s.dies.map fun (d : Nat × Die) => (d.1, d.2.endPart part)
        cores := s.cores.map fun (c : Nat × Core) => (c.1, { c.2 with tlb := c.2.tlb.filter fun t => decide (ctxPart t.ctx ≠ part) })
        vfs := s.vfs.filter fun v => v.2.part != part
        shadow := s.shadow.filter fun e => decide (ctxPart e.ctx ≠ part)
        loaded := s.loaded.filter fun l => decide (ctxPart l.ctx ≠ part)
        packets := s.packets.filter fun k => !gone.contains k.vf
        log := s.log.filter fun e => e.part != part }

end Sys2Proof.Machine
end

