-- ==== Sys2Proof/Machine/Flow.lean ====
section
/-!
DEFINITION. Row 0x7: branches, calls, EXIT, SPAWN, YIELD and the software traps (R194 to R200).
-/

namespace Sys2Proof.Machine

/-- A transfer to an address with register writes; a target that is not a multiple of 4 is a misalignment fault (R28). -/
def jumpTo (tgt : DWord) (ws : List (Reg × Word)) (s : State) : Res :=
  if tgt &&& 3 ≠ 0 then .trap .misalignment tgt 0 s else .done s ws [] (some tgt)

/-- A target relative to the instruction (R37, R195). -/
def relTarget (x : Ops) (e : Env) : DWord := e.t.pc + soff32 x.ext.toNat

/-- BRA (R195). -/
def braBody (x : Ops) (e : Env) (s : State) : Res := jumpTo (relTarget x e) [] s

/-- BRX and RET (R195). -/
def brxBody (x : Ops) (e : Env) (s : State) : Res := jumpTo (e.t.pair x.a) [] s

/-- BRT (R195). -/
def brtBody (x : Ops) (e : Env) (s : State) : Res :=
  match triOf (e.t.rd x.a) with
  | .t => jumpTo (e.t.pc + soff32 (x.ext.toNat % 2 ^ 32)) [] s
  | .u => jumpTo (e.t.pc + soff32 (x.ext.toNat / 2 ^ 32)) [] s
  | .f => .done s [] [] none

/-- CALL (R195). -/
def callBody (x : Ops) (e : Env) (s : State) : Res := jumpTo (relTarget x e) (w2 x.d (e.t.pc + 12)) s

/-- CALLX (R195): A is read before D is written. -/
def callxBody (x : Ops) (e : Env) (s : State) : Res := jumpTo (e.t.pair x.a) (w2 x.d (e.t.pc + 8)) s

/-- A thread's pending request is withdrawn: it pops nothing and counts as no arrival (R197). -/
def State.dropRequest (s : State) (r : ThreadRef) : State := (s.withdraw r).updThread r fun t => { t with pend := none }

/-- EXIT (R197): the pending request is withdrawn when EXIT issues, before the wait for the producers; DESIGN CHOICE, log entry 57, since step 1
names no moment. -/
def exitBody (e : Env) (s : State) : Res := if e.t.producing then .wait .exit (s.dropRequest e.ref) else .stop (s.endThread e.ref)

/-- The registers of the granules that a mask names, within the kernel's (R198). -/
def maskRegs (mask : BitVec 16) (gran : Nat) : List Reg :=
  (List.range (16 * gran)).filterMap fun i => if mask.getLsbD (i / 16) then some (BitVec.ofNat 8 i) else none

/-- The target of SPAWN: a pair in the S form, relative in the M form (R198). -/
def spawnTarget (x : Ops) (e : Env) : DWord := if x.len = .s then e.t.pair x.a else relTarget x e

/-- SPAWN (R198). -/
def spawnBody (x : Ops) (e : Env) (s : State) : Res :=
  let mask : BitVec 16 := (e.t.rd x.c).setWidth 16
  let empties := (maskRegs mask e.st.gran).filter fun r => !e.t.full r
  if !empties.isEmpty then .wait (.regs empties) s
  else
    let tgt := spawnTarget x e
    if tgt &&& 3 ≠ 0 then .trap .misalignment tgt 0 s
    else
      let marks := match (Instr.spawn x).row with
        | some r => rowMarks r x
        | none => []
      let own : BitVec 16 := BitVec.ofNat 16 (2 ^ e.st.gran - 1)
      childOf e marks [] (mask &&& own) (Thread.fresh tgt (childMode e.t)) s fun child => releasing e s fun _ =>
        spawnedRes e s (s.newThread e (child.wr x.d (0x80000000 ||| BitVec.ofNat 32 e.ref.tid)))
          (w1 x.d (BitVec.ofNat 32 (e.tm.maxTid + 1)))

/-- YIELD (R199). -/
def yieldBody (e : Env) (s : State) : Res :=
  .done (s.updThread e.ref fun t => { t with yieldTo := some ((s.core e.core).clock + 16) }) [] [] none

/-- The code of TRAP and SYS (R200). -/
def trapCode (x : Ops) : Word := if x.len = .s then x.c.setWidth 32 else imm32 x

/-- BRA (R195). -/
def execBra (x : Ops) (s : State) : Host.Outcome State Fault Refusal := runInstr (.bra x) braBody s

/-- BRX (R195). -/
def execBrx (x : Ops) (s : State) : Host.Outcome State Fault Refusal := runInstr (.brx x) brxBody s

/-- BRT (R195). -/
def execBrt (x : Ops) (s : State) : Host.Outcome State Fault Refusal := runInstr (.brt x) brtBody s

/-- CALL (R195). -/
def execCall (x : Ops) (s : State) : Host.Outcome State Fault Refusal := runInstr (.call x) callBody s

/-- CALLX (R195). -/
def execCallx (x : Ops) (s : State) : Host.Outcome State Fault Refusal := runInstr (.callx x) callxBody s

/-- RET (R195). -/
def execRet (x : Ops) (s : State) : Host.Outcome State Fault Refusal := runInstr (.ret x) brxBody s

/-- EXIT (R197). -/
def execExit (x : Ops) (s : State) : Host.Outcome State Fault Refusal := runInstr (.exit x) (fun _ => exitBody) s

/-- SPAWN (R198). -/
def execSpawn (x : Ops) (s : State) : Host.Outcome State Fault Refusal := runInstr (.spawn x) spawnBody s

/-- YIELD (R199). -/
def execYield (x : Ops) (s : State) : Host.Outcome State Fault Refusal := runInstr (.yield x) (fun _ => yieldBody) s

/-- TRAP (R200). -/
def execTrap (x : Ops) (s : State) : Host.Outcome State Fault Refusal :=
  runInstr (.trap x) (fun x _ s => .trap .software 0 (trapCode x) s) s

/-- BKPT (R200). -/
def execBkpt (x : Ops) (s : State) : Host.Outcome State Fault Refusal := runInstr (.bkpt x) (fun _ _ s => .trap .breakpoint 0 0 s) s

/-- SYS (R200). -/
def execSys (x : Ops) (s : State) : Host.Outcome State Fault Refusal :=
  runInstr (.sys x) (fun x _ s => .trap .sys 0 (trapCode x) s) s

end Sys2Proof.Machine
end

