-- ==== Sys2Proof/Machine/Parking.lean ====
section
/-!
DEFINITION. Parking, the rack, pre-emption, restore, displacement, the spawn ring, the exit of teams and the barrier watchdog
(R180, R182 to R186, R189, R385, R388 to R392).
-/

namespace Sys2Proof.Machine

/-- An engine operation holds its team on the cores (R180, R321): it writes the scratchpad or a tile. A TST holds it where its destination is
LOCAL, and an MSYNC, which writes nothing, does not; a drain does, whose rows its matrix command writes. -/
def EngOp.holds (o : EngOp) : Bool :=
  o.cw.isSome || match o.kind with
    | .lin dsp _ _ _ _ | .fill dsp _ _ _ | .gather dsp _ _ _ _ | .scatter dsp _ _ _ _ => decide (dsp = .loc)
    | .tst sp _ _ => decide (sp = .loc)
    | .cpyw .. | .tld .. | .accrd => true
    | .msync | .coll .. | .collSk .. => false

/-- The team may leave its cores (R180, R184, R388): no producer is in flight, and no engine operation or matrix command holds it. -/
def State.drainedTeam (s : State) (n : Nat) (tm : Team) : Bool :=
  (tm.threads.all fun t => !t.2.producing)
    && (s.allOps.all fun o => o.2.ref.team != n || !o.2.holds)
    && tm.cores.all fun c => match (s.core c).mcOf n with
      | some k => ((s.core c).mc k).queue.isEmpty
      | none => true

/-- WAITTH in use (R184). -/
def Stage.threshold (st : Stage) : Nat := st.waitth

/-- A thread has waited for a number of clocks (R184). -/
def State.waited (s : State) (tm : Team) (t : Thread) (n : Nat) : Bool :=
  match t.status with
  | .waiting _ => decide (t.since + n ≤ (s.core (tm.coreOf t)).clock)
  | .runnable | .exited => false

/-- A thread on a core that is to take a precise trap, now that its divisions have completed (R95): it does so before anything else (R388). -/
def Thread.lateNow (t : Thread) : Bool :=
  t.late.isSome && !t.dividing && match t.loc with
    | .slot _ _ _ => true
    | .ring | .none => false

/-- A team is due (R184): every thread that has not exited has waited long enough; a child in the ring is runnable, and so is a thread that is to take a
trap. -/
def State.due (s : State) (tm : Team) (st : Stage) : Bool :=
  let live := tm.threads.filter fun t => decide (t.2.status ≠ .exited)
  !live.isEmpty && live.all fun t => s.waited tm t.2 st.threshold && !t.2.lateNow

/-- Entries of a partition's rack (R185). -/
def State.rackUsed (s : State) (part : Nat) : Nat :=
  (s.teams.filter fun t => t.2.rack.isSome && (match s.pipeOf t.2 with
    | some p => p.part == part
    | none => false)).length

/-- The handle condition of a token (R185). -/
def handleCond (tm : Team) (tok : Word) : Cond :=
  .handle (tm.cores.getD (tok.toNat / 2 ^ 30) 0) (tok.toNat % 1024) (tok.toNat / 1024 % 2 ^ 20)

/-- The condition of a pending request (R185). -/
def pendCond (tid : Nat) (p : Pending) : Cond :=
  match p.kind with
  | .rvx | .rvred _ => .rendezvous (tid / 2 ^ p.size * 2 ^ p.size) p.size
  | .qpop _ _ => .queue p.size false

/-- The conditions of a thread's pending request and of handles that its registers wait for. -/
def Thread.regConds (t : Thread) (tm : Team) (tid : Nat) (rs : List Reg) : List Cond :=
  (match t.pend with
    | some p => if rs.contains p.dst || rs.contains (p.dst + 1) then [pendCond tid p] else []
    | none => []) ++ (t.handleRegs.filter fun h => rs.contains h.1).map fun h => handleCond tm h.2

/-- The wake conditions of a waiting thread (R185). -/
def Thread.wakeConds (t : Thread) (tm : Team) (tid : Nat) : List Cond :=
  match t.status with
  | .waiting w => match w with
    | .address at_ _ _ _ _ => [.address at_]
    | .barrier n _ => [.barrier n]
    | .push q => [.queue q true]
    | .pageFault seq _ => [.pageFault seq]
    | .handle tok => [handleCond tm tok]
    | .regs rs => t.regConds tm tid rs
    | .limit | .allRegs | .request => t.regConds tm tid (regRange 0 256)
    | .exit | .handleEntry | .tile _ | .commandQueue | .context | .accesses _ | .translations .. | .acquires .. | .sketch _ | .flags
    | .divisions | .slot .. => []
  | .runnable | .exited => []

/-- The thread waits on something that no wake condition of R185 describes. -/
def Thread.unwatched (t : Thread) (tm : Team) (tid : Nat) : Bool :=
  (match t.status with
    | .waiting _ => true
    | .runnable | .exited => false) && (t.wakeConds tm tid).isEmpty

/-- A wake condition holds (R185). A barrier or a rendezvous condition holds where the generation that a thread waits for, or the instance of its
request, has completed already: the generation of a displaced thread may be over when the team is parked (R184), and a kill in a parked team can complete
one (R203); DEDUCED, log entry 28. -/
def State.condHolds (s : State) (ctx : Nat) (tm : Team) (c : Cond) : Bool :=
  match c with
  | .address t => tm.threads.any fun e => match e.2.status with
    | .waiting (.address at_ _ w ne _) => decide (at_ = t) && waitHolds ne (BitVec.ofNat 32 (s.load at_ 4)) w
    | .waiting _ | .runnable | .exited => false
  | .barrier n => tm.threads.any fun e => match e.2.status with
    | .waiting (.barrier m gen) => decide (m = n) && decide ((tm.barrier n).gen ≠ gen)
    | .waiting _ | .runnable | .exited => false
  | .rendezvous base size => tm.rdvGroups.all fun g => decide (g ≠ (base, size))
  | .queue q push => match s.queue ctx q with
    | some u => u.closed || (if push then decide (u.items.length < u.cap) else !u.items.isEmpty)
    | none => true
  | .handle core slot gen => let h := (s.core core).handle slot; !(decide (h.gen = gen) && h.pending)
  | .pageFault seq => !((s.context ctx).faults.any fun f => f.seq == seq)

/-- The rack entry of a team that is parked (R184, R185, R388). -/
def State.rackOf (s : State) (ctx : Nat) (tm : Team) (pre : Bool) : Rack :=
  let all := (tm.threads.flatMap fun t => t.2.wakeConds tm t.1).eraseDups
  let conds := all.take 8
  { conds := conds, overflow := decide (8 < all.length) || tm.threads.any fun t => t.2.unwatched tm t.1,
    fired := pre || conds.any (s.condHolds ctx tm), pre := pre,
    bound := tm.threads.any fun t => !t.2.handleRegs.isEmpty }

/-- Bytes of a save slot (R389). -/
def Stage.slotBytes (st : Stage) : Nat :=
  512 + 3072 * st.cores * (288 + 64 * st.gran) + st.cores * ((st.spad + 511) / 512 * 512 + if st.matrix then 1311744 else 0)

/-- The address of a team's save slot (R389). -/
def Stage.slotAt (st : Stage) (slot : Nat) : Nat := st.save.toNat + slot * st.slotBytes

/-- Offset of the thread record of the `i`-th thread saved (R389). -/
def Stage.recordAt (st : Stage) (i : Nat) : Nat := 512 + i * (288 + 64 * st.gran)

/-- Offset of a team core's scratchpad image (R389). -/
def Stage.spadAt (st : Stage) (tc : Nat) : Nat := 512 + 3072 * st.cores * (288 + 64 * st.gran) + tc * ((st.spad + 511) / 512 * 512)

/-- Offset of a team core's matrix state (R389). -/
def Stage.matrixAt (st : Stage) (tc : Nat) : Nat := st.spadAt st.cores + tc * 1311744

/-- The header of a save slot (R389). -/
def Team.header (tm : Team) : List Byte :=
  leBytes 4 tm.index ++ leBytes 4 tm.cores.length ++ ((List.range 4).flatMap fun i => leBytes 4 (tm.cores.getD i 0)) ++ leBytes 4 tm.maxTid
    ++ ((List.range 16).flatMap fun b => leBytes 4 (tm.barrier b).gen) ++ leBytes 4 (bitsNat ((List.range 4).map tm.released.contains))

/-- The handle that a thread waits on, if it does: HWAIT's, or that of an empty handle register (R307). -/
def Thread.awaitedHandle (t : Thread) : Option Word :=
  match t.status with
  | .waiting (.handle tok) => some tok
  | .waiting (.regs rs) => (t.handleRegs.find? fun h => rs.contains h.1).map fun h => h.2
  | .waiting .allRegs => t.handleRegs.head?.map fun h => h.2
  | .waiting _ | .runnable | .exited => none

/-- WAITK of a thread record (R390). -/
def Thread.saveK (t : Thread) : Nat :=
  match t.status with
  | .waiting (.pageFault _ _) => 6
  | .waiting _ | .runnable | .exited => if t.waitK = 0 ∧ t.awaitedHandle.isSome then 5 else t.waitK

/-- WAITARG of a thread record (R390). -/
def Thread.saveArg (t : Thread) : Nat :=
  match t.status with
  | .waiting (.address _ va _ _ _) => va.toNat
  | .waiting (.barrier n _) => n
  | .waiting (.push q) => q
  | .waiting (.pageFault _ va) => va.toNat
  | .waiting _ | .runnable | .exited => match t.awaited, t.awaitedHandle with
    | some p, _ => (match p.kind with
      | .qpop _ _ => p.size
      | .rvx | .rvred _ => 0)
    | none, some tok => tok.toNat
    | none, none => 0

/-- HELD of a thread record: one entry for each cause, in the order of R381 (R390). -/
def heldBytes (l : List Trap) : List Byte :=
  (List.range 5).flatMap fun i => match l.find? fun t => t.rank == i with
    | some t => leBytes 4 t.cause.code ++ leBytes 4 t.einfo.toNat ++ leBytes 8 t.epc.toNat ++ leBytes 8 t.eaddr.toNat
    | none => leBytes 24 0

/-- A thread record up to REGS (R390). -/
def Thread.record (t : Thread) (tm : Team) (tid gran : Nat) : List Byte :=
  let req := match t.pend with
    | some p => leBytes 1 p.kind.code ++ leBytes 1 p.dst.toNat ++ leBytes 1 p.size ++ leBytes 4 p.val.toNat ++ leBytes 4 p.parg
    | none => leBytes 11 0
  leBytes 8 t.pc.toNat ++ leBytes 2 tid ++ leBytes 1 2 ++ leBytes 1 t.saveK ++ leBytes 4 t.mode.toNat
    ++ leBytes 32 (t.liveBits gran) ++ leBytes 32 (bitsNat ((List.range (16 * gran)).map fun i => t.full (BitVec.ofNat 8 i)))
    ++ leBytes 8 t.saveArg ++ leBytes 1 (if t.handler then 1 else 0) ++ req
    ++ leBytes 2 (bitsNat ((List.range 16).map fun b => (tm.barrier b).arrived.contains tid)) ++ leBytes 2 0 ++ leBytes 8 t.resumePc.toNat
    ++ leBytes 4 t.cause.toNat ++ leBytes 4 t.einfo.toNat ++ leBytes 8 t.epc.toNat ++ leBytes 8 t.eaddr.toNat
    ++ ((List.range 4).flatMap fun i => leBytes 4 (t.einst.getD i 0).toNat) ++ leBytes 4 t.ectl.toNat ++ leBytes 4 0
    ++ heldBytes t.held ++ leBytes 8 0

/-- The granules of a thread that hold a live register (R389, R391). -/
def Thread.liveGranules (t : Thread) (gran : Nat) : List Nat :=
  (List.range gran).filter fun g => (List.range 16).any fun i => (t.cell (BitVec.ofNat 8 (16 * g + i))).live

/-- A thread's writes into the save slot: its record, and its granules that hold a live register (R390). -/
def Thread.saved (t : Thread) (tm : Team) (tid gran base : Nat) : List (Nat × List Byte) :=
  (base, t.record tm tid gran) :: (t.liveGranules gran).map fun g =>
    (base + 288 + 64 * g, (List.range 16).flatMap fun i => leBytes 4 (t.rd (BitVec.ofNat 8 (16 * g + i))).toNat)

/-- The threads that are saved: the resident ones, in identifier order (R389). -/
def Team.records (tm : Team) : List (Nat × Thread) :=
  (sortNat ((tm.threads.filter fun t => t.2.returns).map fun t => t.1)).filterMap fun i => (Tbl.look tm.threads i).map fun t => (i, t)

/-- The matrix state of a team core (R389): the descriptors, the operand half, the accumulator bank, HALT and the sequence counter. -/
def State.matrixImage (s : State) (core k : Nat) : List Byte :=
  let m := (s.core core).mc k
  ((List.range 32).flatMap fun t => leBytes 16 (m.tile t).toNat) ++ s.bytes ⟨.oper core k, 0⟩ 524288 ++ s.bytes ⟨.acc core k, 0⟩ 786432
    ++ leBytes 4 (if m.halt then 1 else 0) ++ leBytes 4 m.seq ++ leBytes 504 0

/-- Everything that parking writes into the save slot, by offset (R184, R389). -/
def State.saveImage (s : State) (n : Nat) (tm : Team) (st : Stage) : List (Nat × List Byte) :=
  (0, tm.header) :: ((positions tm.records.unzip.1).flatMap fun i => match Tbl.look tm.threads i.2 with
      | some t => t.saved tm i.2 st.gran (st.recordAt i.1)
      | none => [])
    ++ (positions tm.cores).map (fun c => (st.spadAt c.1, s.bytes ⟨.spad n c.1, 0⟩ st.spad))
    ++ (positions tm.cores).filterMap fun c => ((s.core c.2).mcOf n).map fun k => (st.matrixAt c.1, s.matrixImage c.2 k)

/-- Write pieces at offsets from an address. -/
def State.writePieces (s : State) (ctx base : Nat) : List (Nat × List Byte) → Except (Nat × Option Nat) State
  | [] => .ok s
  | p :: l => match s.writeGlobal ctx (base + p.1) p.2 with
    | .ok s' => s'.writePieces ctx base l
    | .error e => .error e

/-- The matrix contexts of a team leave their cores and are kept with the team (R169, R184). -/
def State.keepMatrix (s : State) (n : Nat) (cores : List (Nat × Nat)) : State :=
  cores.foldl (fun s c => match (s.core c.2).mcOf n with
    | none => s
    | some k =>
      let m := (s.core c.2).mc k
      let s := (s.moveMem (.oper c.2 k) (.kept n c.1 false)).moveMem (.acc c.2 k) (.kept n c.1 true)
      let s := s.setCore c.2 ((s.core c.2).setMc k .fresh)
      s.updTeam n fun tm => { tm with kept := tm.kept.put c.1 m }) s

/-- The waiting pushes of a team are made again when it resumes (R214, R391). -/
def State.dropPushes (s : State) (ctx n : Nat) (keep : Nat → Bool) : State :=
  let c := s.context ctx
  s.setContext ctx { c with queues := c.queues.map fun (q : Nat × Queue) =>
    (q.1, { q.2 with pushes := q.2.pushes.filter fun p => p.1.team != n || keep p.1.tid }) }

/-- A thread with every granule present: those that are absent since an earlier restore are read from its save area (R391). -/
def State.wholeThread (s : State) (ctx : Nat) (t : Thread) : Except Nat Thread :=
  s.fillFrom ctx ((List.range 16).filter t.absent.getLsbD) t

/-- Threads with every granule present. -/
def State.wholeThreads (s : State) (ctx : Nat) : List (Nat × Thread) → Except Nat (List (Nat × Thread))
  | [] => .ok []
  | t :: l => match s.wholeThread ctx t.2, s.wholeThreads ctx l with
    | .ok u, .ok us => .ok ((t.1, u) :: us)
    | .error a, _ | _, .error a => .error a

/-- Park a team that has drained and whose granules are present (R184 steps 2 to 4): `none` when a save write fails translation (R392). -/
def State.parkWhole (s : State) (n : Nat) (tm : Team) (p : Pipeline) (st : Stage) (pre : Bool) : Option State :=
  match s.writePieces p.ctxNum (st.slotAt tm.saveSlot) (s.saveImage n tm st) with
  | .error _ => none
  | .ok s =>
    let s := (s.keepMatrix n (positions tm.cores)).dropPushes p.ctxNum n fun _ => false
    let rack := s.rackOf p.ctxNum tm pre
    let old := s.ageClock tm p
    let new := s.ageClock { tm with phase := .parked } p
    let base := st.slotAt tm.saveSlot
    let recs := positions tm.records.unzip.1
    let recordOf (i : Nat) : Nat := ((recs.find? fun r => r.2 == i).map fun r => base + st.recordAt r.1).getD 0
    some ((s.updTeam n fun tm =>
      let tm := tm.rebase old new
      { tm with
        phase := .parked
        rack := some rack
        barriers := tm.barriers.map fun b => (b.1, { b.2 with saved := b.2.gen })
        threads := tm.threads.map fun (t : Nat × Thread) =>
          (t.1, { t.2 with lastPage := none, yieldTo := none, changed := [], regsAt := recordOf t.1 + 288 }) }).askPassOf tm)

/-- Park a team that has drained: `none` when its save area cannot be written, or what it still holds of the team cannot be read (R392). -/
def State.park (s : State) (n : Nat) (tm : Team) (p : Pipeline) (st : Stage) (pre : Bool) : Option State :=
  match s.wholeThreads p.ctxNum tm.threads with
  | .error _ => none
  | .ok ts => (s.setTeam n { tm with threads := ts }).parkWhole n { tm with threads := ts } p st pre

/-- A park that fails is abandoned, and recorded; pre-emption chooses again without the team (R392). -/
def State.parkFailed (s : State) (n : Nat) (tm : Team) : State :=
  (s.updTeam n fun tm => { tm with phase := .resident, spared := true }).logStage tm { s.errFor tm 0 10 with unit := 11 }

/-- Park or abandon. -/
def State.parkOr (s : State) (n : Nat) (tm : Team) (p : Pipeline) (st : Stage) (pre : Bool) : State :=
  match s.park n tm p st pre with
  | some s' => s'
  | none => s.parkFailed n tm

/-- TEAM_PARK (R184, R185): a team that is due, while the rack has an entry free. -/
def execTeamPark (n : Nat) (s : State) : Host.Outcome State Fault Refusal :=
  match s.team n with
  | none => .fault .notEnabled
  | some tm => match s.pipeOf tm, s.stageOf tm with
    | some p, some st =>
      if decide (tm.phase = .resident) && s.due tm st && s.drainedTeam n tm && decide (s.rackUsed p.part < Config.rack) then
        .next (s.parkOr n tm p st false)
      else .fault .notEnabled
    | _, _ => .fault .notEnabled

/-- Threads with a trap kept for them take it (R95, R385), and answer the ring's bookkeeping. -/
def State.takeKept (s : State) (n : Nat) : State :=
  match s.team n with
  | none => s
  | some tm => tm.threads.foldl (fun s t => match t.2.late with
      | some tr => if t.2.dividing then s else (s.takeLate { team := n, tid := t.1 } tr).ringSync { team := n, tid := t.1 }
      | none => s) s

/-- PREEMPTION (R388): the threads of a team chosen for pre-emption enter their handlers where a trap has arisen at the boundary; the team is parked
once it has drained, while the rack has an entry free (R185). -/
def execPreemption (n : Nat) (s : State) : Host.Outcome State Fault Refusal :=
  match s.team n with
  | none => .fault .notEnabled
  | some tm => match s.pipeOf tm, s.stageOf tm with
    | some p, some st =>
      if decide (tm.phase = .chosen) && tm.threads.any fun t => t.2.lateNow then .next (s.takeKept n)
      else if decide (tm.phase = .chosen) && s.drainedTeam n tm && decide (s.rackUsed p.part < Config.rack) then .next (s.parkOr n tm p st true) else .fault .notEnabled
    | _, _ => .fault .notEnabled

/-- RACK_FIRE (R185): a condition holds, or any agent has written the sector of a watched word. -/
def execRackFire (n cond : Nat) (s : State) : Host.Outcome State Fault Refusal :=
  match s.team n with
  | none => .fault .notEnabled
  | some tm => match tm.rack, s.pipeOf tm with
    | some r, some p =>
      match r.conds[cond]? with
      | none => .fault .notEnabled
      | some c =>
        let written : Bool := match c with
          | .address _ => true
          | .barrier _ | .rendezvous .. | .queue .. | .handle .. | .pageFault _ => false
        if decide (tm.phase = .parked) && (written || s.condHolds p.ctxNum tm c) then .next (s.fireRack n) else .fault .notEnabled
    | _, _ => .fault .notEnabled

/-- Bytes of the context's memory as a restore reads them; the address of what cannot be read, or is poisoned (R373, R375, R391). -/
def State.readSaved (s : State) (ctx va n : Nat) : Except Nat (List Byte) :=
  match s.readGlobal ctx va n with
  | .error x => .error x.1
  | .ok l => if s.globalPoison ctx va n then .error va else .ok l

/-- Pieces of the context's memory, each an address and a length. -/
def State.readPieces (s : State) (ctx : Nat) : List (Nat × Nat) → Except Nat (List (List Byte))
  | [] => .ok []
  | p :: l => match s.readSaved ctx p.1 p.2 with
    | .error a => .error a
    | .ok b => match s.readPieces ctx l with
      | .error a => .error a
      | .ok bs => .ok (b :: bs)

/-- A held trap as its HELD entry gives it (R390); one that is held since the team was parked has no entry there, and stays. -/
def Trap.readBack (tr : Trap) (b : List Byte) : Trap :=
  let o := 0xA0 + 24 * tr.rank
  if field b o 4 ≠ tr.cause.code then tr else
  { tr with einfo := BitVec.ofNat 32 (field b (o + 4) 4), epc := BitVec.ofNat 64 (field b (o + 8) 8), eaddr := BitVec.ofNat 64 (field b (o + 16) 8) }

/-- A pending request as the record gives it (R390). -/
def Pending.readBack (p : Pending) (b : List Byte) : Pending :=
  { p with dst := BitVec.ofNat 8 (field b 0x5A 1), size := field b 0x5B 1, val := BitVec.ofNat 32 (field b 0x5C 4),
           arg := match p.kind with
             | .rvred _ => p.arg
             | .rvx | .qpop _ _ => field b 0x60 4 }

/-- A thread as its record up to REGS gives it (R390, R391): its program counter, mode word, live and full bits, handler state, pending request and
held traps, reserved bits of the mode word and of ectl ignored (R8); a granule with a live register is absent until it is filled, and a register that
has become full since the team was parked is full (R180, R206). -/
def Thread.readBack (t : Thread) (gran : Nat) (b : List Byte) : Thread :=
  let live := field b 0x10 32
  let full := field b 0x30 32
  let handler := decide (field b 0x58 1 % 2 = 1)
  { t with
    pc := BitVec.ofNat 64 (field b 0 8)
    mode := BitVec.ofNat 32 (field b 0xC 4) &&& 0x7F1F
    regs := Vector.ofFn fun i =>
      if i.val < 16 * gran then { t.regs[i] with live := decide (live / 2 ^ i.val % 2 = 1),
                                                 full := decide (full / 2 ^ i.val % 2 = 1) || t.changed.any fun c => decide (c.1.toNat = i.val) }
      else t.regs[i]
    absent := BitVec.ofNat 16 (((List.range gran).filter fun g => decide (live / 2 ^ (16 * g) % 2 ^ 16 ≠ 0)).foldl (fun m g => m + 2 ^ g) 0)
    handler := handler
    pend := t.pend.map fun p => p.readBack b
    resumePc := BitVec.ofNat 64 (field b 0x68 8)
    cause := BitVec.ofNat 32 (field b 0x70 4)
    einfo := BitVec.ofNat 32 (field b 0x74 4)
    epc := BitVec.ofNat 64 (field b 0x78 8)
    eaddr := BitVec.ofNat 64 (field b 0x80 8)
    einst := if handler then (List.range 4).map fun i => BitVec.ofNat 32 (field b (0x88 + 4 * i) 4) else []
    ectl := BitVec.ofNat 32 (field b 0x98 4) &&& 1
    held := t.held.map fun tr => tr.readBack b }

/-- A thread of a restored team (R174, R391): it is resident from now on, and resumes its wait; a watched word is translated afresh (R358). -/
def State.restored (s : State) (ctx : Nat) (t : Thread) (now : Nat) : Thread := s.lookAgain ctx none { t with born := now, since := now }

/-- The reserved bits of a tile descriptor read as 0 (R8, R147). -/
def tileMask : Tile := 0x0000000000000FFF01FFFF7F03FF0FFF

/-- A team as the header gives it (R389): MAXTID, the generations of its barriers, and the positions whose matrix context was released. A generation that
has completed since the team was parked, by a kill, is added to what was saved (R203). -/
def Team.readBack (tm : Team) (b : List Byte) : Team :=
  { tm with
    maxTid := field b 24 4
    barriers := tm.barriers.map fun (x : Nat × Barrier) => (x.1, { x.2 with gen := (field b (28 + 4 * x.1) 4 + (x.2.gen + 2 ^ 32 - x.2.saved)) % 2 ^ 32 })
    released := (List.range 4).filter fun c => decide (field b 92 4 / 2 ^ c % 2 = 1) }

/-- A matrix context's memories, descriptors, HALT and sequence counter as the save area gives them (R389). -/
def State.putMatrix (s : State) (core k : Nat) (b : List Byte) : State :=
  let s := s.setBytes ⟨.oper core k, 0⟩ ((b.drop 512).take 524288)
  let s := s.setBytes ⟨.acc core k, 0⟩ ((b.drop 524800).take 786432)
  s.updCore core fun c => c.setMc k { c.mc k with
    tiles := (List.range 32).map fun t => (t, BitVec.ofNat 128 (field b (16 * t) 16) &&& tileMask)
    halt := decide (field b 1311232 4 % 2 = 1)
    seq := field b 1311236 4 }

/-- The pieces of a save slot that a restore reads before the threads issue (R391): the header, the records up to REGS, the scratchpad images and
the matrix state, each an address and a length. Each thread's record is the one that was written for it. -/
def State.savedPieces (s : State) (n : Nat) (tm : Team) (st : Stage) : List (Nat × Nat) :=
  let base := st.slotAt tm.saveSlot
  (base, 512) :: tm.records.map (fun t => (t.2.regsAt - 288, 288))
    ++ (positions tm.cores).map (fun c => (base + st.spadAt c.1, st.spad))
    ++ (positions tm.cores).filterMap fun c => ((s.core c.2).mcOf n).map fun _ => (base + st.matrixAt c.1, 1311744)

/-- The team goes on from what a restore has read, piece by piece (R391); the waits of the threads in the ring are measured anew too, on the core that
measures them from now on (R13, R184). -/
def State.takeSaved (s : State) (n : Nat) (tm : Team) (st : Stage) (ps : List (List Byte)) : State :=
  let recs := positions tm.records.unzip.1
  let ctx := s.ctxOf { team := n, tid := 0 }
  let back (t : Nat × Thread) : Nat × Thread :=
    let now := (s.core (tm.coreOf t.2)).clock
    match recs.find? fun r => r.2 == t.1 with
    | some r => (t.1, s.restored ctx (t.2.readBack st.gran (ps.getD (r.1 + 1) [])) now)
    | none => (t.1, { t.2 with since := now })
  let s := s.setTeam n { tm.readBack (ps.getD 0 []) with phase := .resident, threads := tm.threads.map back }
  let spads := ps.drop (1 + recs.length)
  let s := (positions tm.cores).foldl (fun s c => s.setBytes ⟨.spad n c.1, 0⟩ (spads.getD c.1 [])) s
  ((positions tm.cores).filterMap fun c => ((s.core c.2).mcOf n).map fun k => (c.2, k)).zip (spads.drop tm.cores.length) |>.foldl
    (fun s m => s.putMatrix m.1.1 m.1.2 m.2) s

/-- TEAM_RESTORE (R391): the save area is read, and the threads issue again; a failing read kills the team (R373, R392). -/
def execTeamRestore (n : Nat) (s : State) : Host.Outcome State Fault Refusal :=
  match s.team n with
  | none => .fault .notEnabled
  | some tm => match s.pipeOf tm, s.stageOf tm with
    | some p, some st =>
      if tm.phase ≠ .restoring then .fault .notEnabled
      else
        match s.readPieces p.ctxNum (s.savedPieces n tm st) with
        | .error a => .next (s.killAs true { team := n, tid := 0 } 1 { s.errFor tm 0 10 with unit := 11, addr := a })
        | .ok ps => .next ((s.takeSaved n tm st ps).takeKept n)
    | _, _ => .fault .notEnabled

/-- A ring entry as it starts (R182): every register full but the destination of a pending request; a watched word is translated afresh (R358). -/
def State.fromRing (s : State) (ctx : Nat) (t : Thread) (displaced : Bool) : Thread :=
  if displaced then
    let empty (i : Nat) : Bool := t.pend.any fun p => p.gives (BitVec.ofNat 8 i)
    s.lookAgain ctx none { t with handleRegs := [], regs := Vector.ofFn fun i => { t.regs[i] with full := !empty i.val } }
  else t

/-- Start the entry at the ring's head in a slot (R182); entries of threads that have been killed are passed over. -/
def State.startRing (s : State) (n : Nat) (seat : Nat × Nat × Nat) : State :=
  let ctx := s.ctxOf { team := n, tid := 0 }
  s.updTeam n fun tm => match tm.ring with
    | [] => tm
    | (tid, displaced) :: rest =>
      let now := (s.core (tm.cores.getD seat.1 0)).clock
      Team.pruneRing { tm with
        ring := rest
        ringHead := tm.ringHead + 1
        threads := tm.threads.upd tid fun t => { s.fromRing ctx t displaced with loc := .slot seat.1 seat.2.1 seat.2.2, born := now, since := now } }

/-- A team that is due places no ring entry (R184): the rack has room for it, so that it is to be parked. -/
def State.toPark (s : State) (tm : Team) (p : Pipeline) (st : Stage) : Bool := s.due tm st && decide (s.rackUsed p.part < Config.rack)

/-- The start of a team's ring head in a free slot, where one can hold it (R182). -/
def State.ringStart (s : State) (n : Nat) : Option State :=
  match s.team n with
  | none => none
  | some tm => match s.pipeOf tm, s.stageOf tm with
    | some p, some st =>
      if tm.phase ≠ .resident ∨ tm.ring.isEmpty ∨ s.toPark tm p st then none
      else (s.seatIn tm st.gran tm.benches).map (s.startRing n)
    | _, _ => none

/-- SPAWN_RING_START (R182). -/
def execSpawnRingStart (n : Nat) (s : State) : Host.Outcome State Fault Refusal := orNotEnabled (s.ringStart n)

/-- The highest identifier of a list of threads: within a team, the highest key (R170). -/
def highestTid (l : List (Nat × Thread)) : Option (Nat × Thread) :=
  l.foldl (fun m t => match m with
    | none => some t
    | some b => if b.1 < t.1 then some t else some b) none

/-- A thread that is never displaced (R183): it waits on a handle or a page fault. -/
def Thread.stays (t : Thread) : Bool :=
  match t.status with
  | .waiting (.handle _) | .waiting (.pageFault _ _) => true
  | .waiting (.regs rs) => t.handleRegs.any fun h => rs.contains h.1
  | .waiting .allRegs | .waiting .limit => !t.handleRegs.isEmpty
  | .waiting _ | .runnable | .exited => false

/-- The displacement that is due on a team core (R183): its threads have all waited long enough; the highest-keyed goes to the ring's tail, and the
ring's head takes its slot. -/
def State.displace (s : State) (n tc : Nat) : Option State :=
  match s.team n with
  | none => none
  | some tm => match s.pipeOf tm, s.stageOf tm with
    | some p, some st =>
      let here := tm.threads.filter fun t => decide (t.2.status ≠ .exited) && (match t.2.loc with
        | .slot c _ _ => c == tc
        | .ring | .none => false)
      let ready := here.all fun t => s.waited tm t.2 st.threshold && !t.2.producing
      if tm.phase ≠ .resident ∨ tm.ring.isEmpty ∨ 2 ^ st.srlog ≤ tm.ring.length ∨ here.isEmpty ∨ !ready ∨ s.toPark tm p st then none
      else (highestTid (here.filter fun t => !t.2.stays)).bind fun x => match x.2.loc, s.wholeThread p.ctxNum x.2 with
        | .slot _ b k, .ok t =>
          match s.writeRing p.ctxNum st (tm.ringHead + tm.ring.length) t x.1 true with
          | .error _ => none
          | .ok s =>
            let s := s.dropPushes p.ctxNum n fun i => i != x.1
            let s := s.updTeam n fun tm =>
              { tm with ring := tm.ring ++ [(x.1, true)],
                        threads := tm.threads.put x.1 { t with loc := .ring, ringCore := tc, lastPage := none } }
            some (s.startRing n (tc, b, k))
        | _, _ => none
    | _, _ => none

/-- DISPLACEMENT (R183). -/
def execDisplacement (n tc : Nat) (s : State) : Host.Outcome State Fault Refusal := orNotEnabled (s.displace n tc)

/-- A start from the ring or a displacement is due on a core: it comes before the core's next clock, so that no child waits without bound (R171,
R182, R183). -/
def State.ringDue (s : State) (core : Nat) : Bool :=
  s.teams.any fun tm => tm.2.placed && (positions tm.2.cores).any fun c => decide (c.2 = core) && ((s.ringStart tm.1).isSome || (s.displace tm.1 c.1).isSome)

/-- Nothing of the team is left to do: every thread has exited, the ring is empty, and every access, engine operation and matrix
command that it issued has completed, and its events have been counted (R91, R180, R376). -/
def State.mayLeave (s : State) (n : Nat) (tm : Team) : Bool :=
  (tm.threads.all fun t => decide (t.2.status = .exited) && t.2.ops.isEmpty) && tm.ring.isEmpty
    && (s.allOps.all fun o => o.2.ref.team != n)
    && (s.cores.all fun c => c.2.arisen.all fun a => a.by_.ref.team != n)
    && tm.cores.all fun c => match (s.core c).mcOf n with
      | some k => ((s.core c).mc k).queue.isEmpty
      | none => true

/-- The leases of a team end (R217). -/
def State.endLeases (s : State) (ctx n : Nat) : State :=
  let c := s.context ctx
  s.setContext ctx { c with queues := c.queues.map fun (q : Nat × Queue) =>
    (q.1, { q.2 with leases := q.2.leases.filter fun l => l.team != n }) }

/-- A team's matrix contexts, scratchpads and kept memories are freed (R23, R226). -/
def State.freeTeam (s : State) (n : Nat) (tm : Team) : State :=
  let s := (positions tm.cores).foldl (fun s c =>
    let s := match (s.core c.2).mcOf n with
      | some k => (s.clearMem (.oper c.2 k)).clearMem (.acc c.2 k)
      | none => s
    ((s.clearMem (.spad n c.1)).clearMem (.kept n c.1 false)).clearMem (.kept n c.1 true)) s
  { s with
    teams := s.teams.drop n
    cores := s.cores.map fun (c : Nat × Core) => match c.2.mcOf n with
      | some k => (c.1, c.2.setMc k .fresh)
      | none => c }

/-- TEAM_EXIT (R180, R189, R377): the team leaves; a killed one may be relaunched; queues without a producer left close. -/
def execTeamExit (n : Nat) (s : State) : Host.Outcome State Fault Refusal :=
  match s.team n with
  | none => .fault .notEnabled
  | some tm => match s.pipeOf tm with
    | none => .fault .notEnabled
    | some p =>
      if !s.mayLeave n tm then .fault .notEnabled
      else
        let s := (s.endLeases p.ctxNum n).freeTeam n tm
        let s := if tm.relaunch then s.updStage tm.pipe tm.stage fun st => { st with again := st.again ++ [tm.index] } else s
        .next ((s.closeQueues tm.pipe).askPass p.part)

/-- The threads that take the barrier-timeout trap of a watched item, and what they report: eaddr and einfo (R385). -/
def timedOut (w : WatchItem) (t : Nat × Thread) : Bool :=
  match w, t.2.status with
    | .barrier n, .waiting (.barrier m _) => m == n
    | .rendezvous base size, .waiting v => (match t.2.pend with
        | some p => p.rdv size && t.1 / 2 ^ size * 2 ^ size == base && (match v with
          | .regs rs => rs.contains p.dst
          | .request | .limit | .allRegs => true
          | _ => false)
        | none => false)
    | .coll tok, .waiting (.handle k) => k == tok
    | .coll tok, .waiting (.regs rs) => t.2.handleRegs.any fun h => h.2 == tok && rs.contains h.1
    | .coll tok, .waiting .allRegs => t.2.handleRegs.any fun h => h.2 == tok
    | _, _ => false

/-- The report of a watched item: eaddr and einfo (R380). -/
def watchInfo (w : WatchItem) : DWord × Word :=
  match w with
  | .barrier n => (BitVec.ofNat 64 n, 1)
  | .rendezvous base _ => (BitVec.ofNat 64 base, 3)
  | .coll tok => (tok.setWidth 64, 4)

/-- The age of a watched item at a clock of its reference core, and whether the watchdog has fired for it (R385). -/
def Team.age (tm : Team) (w : WatchItem) (now : Nat) : Option (Nat × Bool) :=
  match w with
  | .barrier n => (Tbl.look tm.barriers n).bind fun b => if b.arrived.isEmpty then none else some (b.elapsed + (now - b.since), b.fired)
  | .rendezvous base size =>
    (tm.rdvAges.find? fun a => a.base == base && a.size == size).map fun a => (a.elapsed + (now - a.since), a.fired)
  | .coll tok => (tm.collAges.find? fun a => a.base == tok.toNat).map fun a => (a.elapsed + (now - a.since), a.fired)

/-- The watchdog has fired for an item: once (R385). -/
def Team.markFired (tm : Team) (w : WatchItem) : Team :=
  match w with
  | .barrier n => { tm with barriers := tm.barriers.upd n fun b => { b with fired := true } }
  | .rendezvous base size =>
    { tm with rdvAges := tm.rdvAges.map fun a => if a.base = base ∧ a.size = size then { a with fired := true } else a }
  | .coll tok => { tm with collAges := tm.collAges.map fun a => if a.base = tok.toNat then { a with fired := true } else a }

/-- The words of the instruction that a thread waits in, where they can be read without a fault (R401). -/
def State.wordsAt (s : State) (r : ThreadRef) : List Word :=
  match s.waitEnv r with
  | some (e, _) => match s.fetch e with
    | .ok (bs, _) => fetchedWords bs
    | .error _ => []
  | none => match s.thread r with
    | none => []
    | some t =>
      let pc := t.pc.toNat
      match s.walk (s.ctxOf r) pc with
      | .ok x => fetchedWords (s.bytes (x.place pc) (32 - pc % 32))
      | .error _ => []

/-- The barrier-timeout trap of a thread, at the instruction it waits in (R380, R385). -/
def State.timeoutTrap (s : State) (r : ThreadRef) (t : Thread) (w : WatchItem) : Trap :=
  let i := watchInfo w
  { cause := .barrierTimeout, deferred := t.handler, epc := t.pc, eaddr := i.1, einfo := i.2, einst := s.wordsAt r }

/-- A thread takes the barrier-timeout trap (R383, R385): in handler mode the trap is held; in a team that is parked or reads its save area it is kept until the
restore, and while a division of the thread is in flight until that has completed (R95). -/
def State.timeout (parked : Bool) (s : State) (r : ThreadRef) (w : WatchItem) : State :=
  match s.thread r with
  | none => s
  | some t =>
    let tr := s.timeoutTrap r t w
    if t.handler then s.hold r tr
    else if parked || t.dividing then s.updThread r fun t => { t with late := some tr }
    else (s.takeTrap r tr).ringSync r

/-- A thread of a parked team without a handler is killed from its saved state (R383, R385). -/
def State.timeoutKill (n : Nat) (tm : Team) (w : WatchItem) (s : State) (tid : Nat) : State :=
  let i := watchInfo w
  match s.thread { team := n, tid := tid } with
  | none => s
  | some t =>
    if t.status = .exited then s
    else s.kill { team := n, tid := tid } 0
      { s.errFor tm tid 1 with cause := Cause.barrierTimeout.code, pc := t.pc, addr := i.1.toNat, info := i.2.toNat }

/-- BARRIER_WATCHDOG (R385): an item older than BARWD fires once; every thread of the team that waits on it takes the trap. A parked
team becomes a restore candidate first, or, without a handler, its waiting threads are killed from its saved state. -/
def execBarrierWatchdog (n : Nat) (w : WatchItem) (s : State) : Host.Outcome State Fault Refusal :=
  match s.team n with
  | none => .fault .notEnabled
  | some tm => match s.pipeOf tm, s.stageOf tm with
    | some p, some st => match tm.age w (s.ageClock tm p) with
      | none => .fault .notEnabled
      | some (age, fired) =>
        let waiters := (tm.threads.filter (timedOut w)).map fun t => t.1
        if st.barwd = 0 ∨ fired = true ∨ age ≤ st.barwd then .fault .notEnabled
        else
          let s := s.updTeam n fun tm => tm.markFired w
          let parked := decide (tm.phase = .parked)
          if parked && decide (st.traph = 0) then .next (waiters.foldl (State.timeoutKill n tm w) s)
          else
            let s := waiters.foldl (fun s tid => s.timeout (parked || decide (tm.phase = .restoring)) { team := n, tid := tid } w) s
            .next (if parked && !waiters.isEmpty then s.fireRack n else s)
    | _, _ => .fault .notEnabled

end Sys2Proof.Machine
end

