-- ==== Sys2Proof/Machine/QueueUnit.lean ====
section
/-!
DEFINITION. What a queue unit does for the requests that wait at it (R213 to R217).
-/

namespace Sys2Proof.Machine

/-- QUEUE_SERVE (R213, R216, R217): the QPOP that the unit serves next is answered. -/
def execQueueServe (ctx q : Nat) (s : State) : Host.Outcome State Fault Refusal :=
  match s.nextRequest ctx q with
  | some (.pop r p a) => .next (s.servePop ctx q r p a)
  | some (.push _) | none => .fault .notEnabled

/-- QPUSH_ACCEPT (R213, R214): the waiting push that the unit serves next is accepted, since the queue has room; its thread goes on. -/
def execQpushAccept (ctx q : Nat) (s : State) : Host.Outcome State Fault Refusal :=
  match s.nextRequest ctx q with
  | some (.push r) => .next (s.acceptPush ctx q r)
  | some (.pop ..) | none => .fault .notEnabled

end Sys2Proof.Machine
end

