-- ==== Sys2Proof/Machine/Dispatch.lean ====
section
/-!
DEFINITION. The dispatch: each constructor of `Instr` to its meaning.
-/

namespace Sys2Proof.Machine

/-- Execute an instruction of the current thread, or a step of another agent. -/
def exec (i : Instr) (s : State) : Host.Outcome State Fault Refusal :=
  match i with
  | .nop x => Sys2Proof.Machine.execNop x s
  | .mov x => Sys2Proof.Machine.execMov x s
  | .movw x => Sys2Proof.Machine.execMovw x s
  | .iadd x m => Sys2Proof.Machine.execIadd x m s
  | .isub x m => Sys2Proof.Machine.execIsub x m s
  | .imul x m => Sys2Proof.Machine.execImul x m s
  | .imulh x u => Sys2Proof.Machine.execImulh x u s
  | .imad x m => Sys2Proof.Machine.execImad x m s
  | .iadd64 x m => Sys2Proof.Machine.execIadd64 x m s
  | .isub64 x m => Sys2Proof.Machine.execIsub64 x m s
  | .imul64 x m => Sys2Proof.Machine.execImul64 x m s
  | .imad64w x u => Sys2Proof.Machine.execImad64w x u s
  | .imin x u => Sys2Proof.Machine.execImin x u s
  | .imax x u => Sys2Proof.Machine.execImax x u s
  | .iabs x sat => Sys2Proof.Machine.execIabs x sat s
  | .ineg x sat => Sys2Proof.Machine.execIneg x sat s
  | .and x w => Sys2Proof.Machine.execAnd x w s
  | .or x w => Sys2Proof.Machine.execOr x w s
  | .xor x w => Sys2Proof.Machine.execXor x w s
  | .andn x w => Sys2Proof.Machine.execAndn x w s
  | .shl x w => Sys2Proof.Machine.execShl x w s
  | .shr x w => Sys2Proof.Machine.execShr x w s
  | .sar x w => Sys2Proof.Machine.execSar x w s
  | .rot x w => Sys2Proof.Machine.execRot x w s
  | .popc x w => Sys2Proof.Machine.execPopc x w s
  | .clz x w => Sys2Proof.Machine.execClz x w s
  | .brev x w => Sys2Proof.Machine.execBrev x w s
  | .bfe x u => Sys2Proof.Machine.execBfe x u s
  | .bfi x => Sys2Proof.Machine.execBfi x s
  | .sel x w => Sys2Proof.Machine.execSel x w s
  | .icmp x r t => Sys2Proof.Machine.execIcmp x r t s
  | .lea x sh u => Sys2Proof.Machine.execLea x sh u s
  | .fadd x w r => Sys2Proof.Machine.execFadd x w r s
  | .fsub x w r => Sys2Proof.Machine.execFsub x w r s
  | .fmul x w r => Sys2Proof.Machine.execFmul x w r s
  | .ffma x w r => Sys2Proof.Machine.execFfma x w r s
  | .fmin x w nan => Sys2Proof.Machine.execFmin x w nan s
  | .fmax x w nan => Sys2Proof.Machine.execFmax x w nan s
  | .fdiv x w r => Sys2Proof.Machine.execFdiv x w r s
  | .fsqrt x w r => Sys2Proof.Machine.execFsqrt x w r s
  | .frcp x w r => Sys2Proof.Machine.execFrcp x w r s
  | .frsq x w r => Sys2Proof.Machine.execFrsq x w r s
  | .fexp2 x w => Sys2Proof.Machine.execFexp2 x w s
  | .flog2 x w => Sys2Proof.Machine.execFlog2 x w s
  | .fsinpi x w => Sys2Proof.Machine.execFsinpi x w s
  | .fcospi x w => Sys2Proof.Machine.execFcospi x w s
  | .fcmp x w rel u => Sys2Proof.Machine.execFcmp x w rel u s
  | .fclass x w => Sys2Proof.Machine.execFclass x w s
  | .cvtfi x r w t => Sys2Proof.Machine.execCvtfi x r w t s
  | .cvtif x r w t => Sys2Proof.Machine.execCvtif x r w t s
  | .cvtff x r k => Sys2Proof.Machine.execCvtff x r k s
  | .frnd x r w => Sys2Proof.Machine.execFrnd x r w s
  | .fscalb x r w => Sys2Proof.Machine.execFscalb x r w s
  | .fexpn x w => Sys2Proof.Machine.execFexpn x w s
  | .hadd2 x r bf => Sys2Proof.Machine.execHadd2 x r bf s
  | .hmul2 x r bf => Sys2Proof.Machine.execHmul2 x r bf s
  | .hfma2 x r bf => Sys2Proof.Machine.execHfma2 x r bf s
  | .pcvt x r k => Sys2Proof.Machine.execPcvt x r k s
  | .upcvt x k => Sys2Proof.Machine.execUpcvt x k s
  | .fdot2 x r bf => Sys2Proof.Machine.execFdot2 x r bf s
  | .ivmk x k e w => Sys2Proof.Machine.execIvmk x k e w s
  | .ivadd x e w => Sys2Proof.Machine.execIvadd x e w s
  | .ivsub x e w => Sys2Proof.Machine.execIvsub x e w s
  | .ivmul x e w => Sys2Proof.Machine.execIvmul x e w s
  | .ivdiv x e w => Sys2Proof.Machine.execIvdiv x e w s
  | .ivsqr x e w => Sys2Proof.Machine.execIvsqr x e w s
  | .ivsqrt x e w => Sys2Proof.Machine.execIvsqrt x e w s
  | .ivneg x e w => Sys2Proof.Machine.execIvneg x e w s
  | .ivabs x e w => Sys2Proof.Machine.execIvabs x e w s
  | .ivmeet x e w => Sys2Proof.Machine.execIvmeet x e w s
  | .ivjoin x e w => Sys2Proof.Machine.execIvjoin x e w s
  | .ivmid x e w => Sys2Proof.Machine.execIvmid x e w s
  | .ivwid x e w => Sys2Proof.Machine.execIvwid x e w s
  | .ivcmp x r e w => Sys2Proof.Machine.execIvcmp x r e w s
  | .ivsplit x e w => Sys2Proof.Machine.execIvsplit x e w s
  | .ivtest x t w => Sys2Proof.Machine.execIvtest x t w s
  | .pand x => Sys2Proof.Machine.execPand x s
  | .por x => Sys2Proof.Machine.execPor x s
  | .pnot x => Sys2Proof.Machine.execPnot x s
  | .pxor x => Sys2Proof.Machine.execPxor x s
  | .pres x ut => Sys2Proof.Machine.execPres x ut s
  | .doti8 x za zb => Sys2Proof.Machine.execDoti8 x za zb s
  | .doti4 x => Sys2Proof.Machine.execDoti4 x s
  | .dotn8 x wa wb => Sys2Proof.Machine.execDotn8 x wa wb s
  | .dotn4 x => Sys2Proof.Machine.execDotn4 x s
  | .pscl x r => Sys2Proof.Machine.execPscl x r s
  | .tshape x => Sys2Proof.Machine.execTshape x s
  | .tshapeFree x => Sys2Proof.Machine.execTshapeFree x s
  | .tshapeRs x => Sys2Proof.Machine.execTshapeRs x s
  | .trd x => Sys2Proof.Machine.execTrd x s
  | .tld x sp => Sys2Proof.Machine.execTld x sp s
  | .tst x sp => Sys2Proof.Machine.execTst x sp s
  | .mma x z => Sys2Proof.Machine.execMma x z s
  | .accz x => Sys2Proof.Machine.execAccz x s
  | .accrd x f => Sys2Proof.Machine.execAccrd x f s
  | .accwr x f => Sys2Proof.Machine.execAccwr x f s
  | .mctx x => Sys2Proof.Machine.execMctx x s
  | .mctxRel x => Sys2Proof.Machine.execMctxRel x s
  | .elect x core => Sys2Proof.Machine.execElect x core s
  | .msync x => Sys2Proof.Machine.execMsync x s
  | .bra x => Sys2Proof.Machine.execBra x s
  | .brx x => Sys2Proof.Machine.execBrx x s
  | .brt x => Sys2Proof.Machine.execBrt x s
  | .call x => Sys2Proof.Machine.execCall x s
  | .callx x => Sys2Proof.Machine.execCallx x s
  | .ret x => Sys2Proof.Machine.execRet x s
  | .exit x => Sys2Proof.Machine.execExit x s
  | .spawn x => Sys2Proof.Machine.execSpawn x s
  | .yield x => Sys2Proof.Machine.execYield x s
  | .trap x => Sys2Proof.Machine.execTrap x s
  | .bkpt x => Sys2Proof.Machine.execBkpt x s
  | .sys x => Sys2Proof.Machine.execSys x s
  | .bar x => Sys2Proof.Machine.execBar x s
  | .bara x => Sys2Proof.Machine.execBara x s
  | .barw x => Sys2Proof.Machine.execBarw x s
  | .rvx x => Sys2Proof.Machine.execRvx x s
  | .rvred x op => Sys2Proof.Machine.execRvred x op s
  | .waita x sc sp ne => Sys2Proof.Machine.execWaita x sc sp ne s
  | .qpush x nb w => Sys2Proof.Machine.execQpush x nb w s
  | .qpop x grp nb => Sys2Proof.Machine.execQpop x grp nb s
  | .qcnt x rst => Sys2Proof.Machine.execQcnt x rst s
  | .qclose x => Sys2Proof.Machine.execQclose x s
  | .qstat x => Sys2Proof.Machine.execQstat x s
  | .ld x sx sz sp => Sys2Proof.Machine.execLd x sx sz sp s
  | .st x sz sp => Sys2Proof.Machine.execSt x sz sp s
  | .ldi x w sp => Sys2Proof.Machine.execLdi x w sp s
  | .sti x w sp => Sys2Proof.Machine.execSti x w sp s
  | .ldt x sx sz sp => Sys2Proof.Machine.execLdt x sx sz sp s
  | .stt x sz sp => Sys2Proof.Machine.execStt x sz sp s
  | .pref x => Sys2Proof.Machine.execPref x s
  | .fence x k => Sys2Proof.Machine.execFence x k s
  | .cflush x inv => Sys2Proof.Machine.execCflush x inv s
  | .cinv x sc => Sys2Proof.Machine.execCinv x sc s
  | .atom x op sp => Sys2Proof.Machine.execAtom x op sp s
  | .atomc x sp => Sys2Proof.Machine.execAtomc x sp s
  | .red x op sp => Sys2Proof.Machine.execRed x op sp s
  | .atomf x op sp => Sys2Proof.Machine.execAtomf x op sp s
  | .atom64 x op sp => Sys2Proof.Machine.execAtom64 x op sp s
  | .atomc64 x sp => Sys2Proof.Machine.execAtomc64 x sp s
  | .skbind x clr => Sys2Proof.Machine.execSkbind x clr s
  | .skfree x => Sys2Proof.Machine.execSkfree x s
  | .skins x del => Sys2Proof.Machine.execSkins x del s
  | .skqry x => Sys2Proof.Machine.execSkqry x s
  | .skmerge x => Sys2Proof.Machine.execSkmerge x s
  | .skfold x => Sys2Proof.Machine.execSkfold x s
  | .skclr x => Sys2Proof.Machine.execSkclr x s
  | .skstat x => Sys2Proof.Machine.execSkstat x s
  | .cpy x k dsp ssp => Sys2Proof.Machine.execCpy x k dsp ssp s
  | .cpyw x ssp => Sys2Proof.Machine.execCpyw x ssp s
  | .cpyl x fill => Sys2Proof.Machine.execCpyl x fill s
  | .coll x sk => Sys2Proof.Machine.execColl x sk s
  | .hwait x => Sys2Proof.Machine.execHwait x s
  | .htest x => Sys2Proof.Machine.execHtest x s
  | .hcancel x => Sys2Proof.Machine.execHcancel x s
  | .hmov x => Sys2Proof.Machine.execHmov x s
  | .cslot x => Sys2Proof.Machine.execCslot x s
  | .cslotFree x => Sys2Proof.Machine.execCslotFree x s
  | .srd x => Sys2Proof.Machine.execSrd x s
  | .swr x => Sys2Proof.Machine.execSwr x s
  | .feat x => Sys2Proof.Machine.execFeat x s
  | .eret x => Sys2Proof.Machine.execEret x s
  | .tlbi x all sc => Sys2Proof.Machine.execTlbi x all sc s
  | .evrd x => Sys2Proof.Machine.execEvrd x s
  | .evcfg x => Sys2Proof.Machine.execEvcfg x s
  | .extensionSlot n => Sys2Proof.Machine.execExtensionSlot n s
  | .padWord => Sys2Proof.Machine.execPadWord s
  | .nonInstruction => Sys2Proof.Machine.execNonInstruction s
  | .heldTrap t => Sys2Proof.Machine.execHeldTrap t s
  | .producerCompletion t op => Sys2Proof.Machine.execProducerCompletion t op s
  | .waitEnd t => Sys2Proof.Machine.execWaitEnd t s
  | .pickerOverride core bench cls => Sys2Proof.Machine.execPickerOverride core bench cls s
  | .yieldExpiry t => Sys2Proof.Machine.execYieldExpiry t s
  | .eventWindowRestart core cls => Sys2Proof.Machine.execEventWindowRestart core cls s
  | .arbiterPass part choice => Sys2Proof.Machine.execArbiterPass part choice s
  | .preemption team => Sys2Proof.Machine.execPreemption team s
  | .teamPark team => Sys2Proof.Machine.execTeamPark team s
  | .rackFire team cond => Sys2Proof.Machine.execRackFire team cond s
  | .teamRestore team => Sys2Proof.Machine.execTeamRestore team s
  | .displacement team core => Sys2Proof.Machine.execDisplacement team core s
  | .spawnRingStart team => Sys2Proof.Machine.execSpawnRingStart team s
  | .teamExit team => Sys2Proof.Machine.execTeamExit team s
  | .barrierWatchdog team w => Sys2Proof.Machine.execBarrierWatchdog team w s
  | .queueServe ctx queue => Sys2Proof.Machine.execQueueServe ctx queue s
  | .qpushAccept ctx queue => Sys2Proof.Machine.execQpushAccept ctx queue s
  | .engineCompletion core op => Sys2Proof.Machine.execEngineCompletion core op s
  | .groupAssembly die slot peers order => Sys2Proof.Machine.execGroupAssembly die slot peers order s
  | .collAbort group num received => Sys2Proof.Machine.execCollAbort group num received s
  | .weltEnqueue core op => Sys2Proof.Machine.execWeltEnqueue core op s
  | .matrixCommandExecute core mc agree => Sys2Proof.Machine.execMatrixCommandExecute core mc agree s
  | .sketchOperation t op => Sys2Proof.Machine.execSketchOperation t op s
  | .homeAtomic t op => Sys2Proof.Machine.execHomeAtomic t op s
  | .homeRequest t op => Sys2Proof.Machine.execHomeRequest t op s
  | .hbmReply stack tag => Sys2Proof.Machine.execHbmReply stack tag s
  | .scrubPass stack => Sys2Proof.Machine.execScrubPass stack s
  | .scrubEscalation stack => Sys2Proof.Machine.execScrubEscalation stack s
  | .frameMigration stack src dst => Sys2Proof.Machine.execFrameMigration stack src dst s
  | .wsRefresh die => Sys2Proof.Machine.execWsRefresh die s
  | .splitChange core split => Sys2Proof.Machine.execSplitChange core split s
  | .faultRecord ctx => Sys2Proof.Machine.execFaultRecord ctx s
  | .uncorrectableError e => Sys2Proof.Machine.execUncorrectableError e s
  | .correctedError e => Sys2Proof.Machine.execCorrectedError e s
  | .ctxtab vf v => Sys2Proof.Machine.execCtxtab vf v s
  | .ctxcnt vf v => Sys2Proof.Machine.execCtxcnt vf v s
  | .qtab vf v => Sys2Proof.Machine.execQtab vf v s
  | .qcount vf v => Sys2Proof.Machine.execQcount vf v s
  | .fresume vf ctx seq => Sys2Proof.Machine.execFresume vf ctx seq s
  | .fresumeDeny vf ctx seq => Sys2Proof.Machine.execFresumeDeny vf ctx seq s
  | .tlbinvVa vf ctx va => Sys2Proof.Machine.execTlbinvVa vf ctx va s
  | .tlbinvAll vf ctx => Sys2Proof.Machine.execTlbinvAll vf ctx s
  | .doorbell vf queue v => Sys2Proof.Machine.execDoorbell vf queue v s
  | .unlistedRegisterWrite vf off v => Sys2Proof.Machine.execUnlistedRegisterWrite vf off v s
  | .launch vf queue => Sys2Proof.Machine.execLaunch vf queue s
  | .wait vf queue => Sys2Proof.Machine.execWait vf queue s
  | .wsload vf queue => Sys2Proof.Machine.execWsload vf queue s
  | .fill vf queue => Sys2Proof.Machine.execFill vf queue s
  | .copy vf queue => Sys2Proof.Machine.execCopy vf queue s
  | .reservedTypePacket vf queue => Sys2Proof.Machine.execReservedTypePacket vf queue s
  | .packetCompletion vf queue index => Sys2Proof.Machine.execPacketCompletion vf queue index s
  | .hostMemAccess write pa size data => Sys2Proof.Machine.execHostMemAccess write pa size data s
  | .flitReceive port good seq => Sys2Proof.Machine.execFlitReceive port good seq s
  | .linkDown port => Sys2Proof.Machine.execLinkDown port s
  | .remoteRequest peer part r => Sys2Proof.Machine.execRemoteRequest peer part r s
  | .boot img => Sys2Proof.Machine.execBoot img s
  | .firmwareImage img => Sys2Proof.Machine.execFirmwareImage img s
  | .partitionCreate p => Sys2Proof.Machine.execPartitionCreate p s
  | .partitionDestroy part => Sys2Proof.Machine.execPartitionDestroy part s
  | .faultRingEntryCleared ctx entry => Sys2Proof.Machine.execFaultRingEntryCleared ctx entry s
  | .hostCxlCacheSnoop line invalidate data => Sys2Proof.Machine.execHostCxlCacheSnoop line invalidate data s

end Sys2Proof.Machine
end

