-- ==== Sys2Proof/Machine/Schedule.lean ====
section
/-!
DEFINITION. The moves of the package and what one move does (R20, R171): a thread issues, a clock ticks, an engine reads its source, a
cached copy leaves, another agent makes one step.
-/

namespace Sys2Proof.Machine

/-- A thread has issued on a core: it leaves its stitch and Rd (R178, R179), and no instruction is being executed. -/
def State.closeIssue (core : Nat) (r : ThreadRef) (s : State) : State :=
  { s.updCore core (fun c => c.issued r) with cur := none }

/-- A thread that was gathered can no longer issue: its place in the stitch stays empty. -/
def State.unpick (s : State) (r : ThreadRef) : Option State :=
  (s.cores.find? fun c => c.2.isNext r).map fun c => s.updCore c.1 fun c => { c with stitch := c.stitch.drop 1 }

/-- A thread issues the instruction at its program counter (R21, R43, R178): the next of the stitches formed on this clock, in the order of
R91; one that cannot issue leaves its place empty. -/
def State.issueMove (s : State) (r : ThreadRef) : Host.Outcome State Fault Refusal :=
  match s.env { ref := r, words := [] } with
  | none => orNotEnabled (s.unpick r)
  | some e =>
    if !s.picked e then .fault .notEnabled
    else match s.issueThread r with
      | .idle => .next (s.closeIssue e.core r)
      | .over s' => .next (s'.closeIssue e.core r)
      | .run i s' => andThen (State.closeIssue e.core r) (exec i s')

/-- The cores of a die tick together, within one clock of each other, so that they see one refresh phase (R13, R192). -/
def State.inStep (s : State) (core : Nat) : Bool :=
  (List.range 64).all fun i => decide ((s.core core).clock ≤ (s.core (dieOf core * 64 + i)).clock)

/-- The bank of the die's refresh phase, as its first core counts it, is in refresh (R231). -/
def State.refreshed (s : State) (core : Nat) : Bool :=
  decide (core % 64 ≠ 0) || decide ((s.die (dieOf core)).refresh = some (s.wsPhase core / 512))

/-- The next clock of a core can begin: the stitches of this one have issued, no thread has still to enter a wait on an empty register, no
override is due (R178, R179), no thread has been out of Rd for YIELD's 16 clocks (R171, R199), no child of a ring is to be seated (R182, R183) and no
pass of the arbiter to be made (R187). -/
def State.clockDone (s : State) (core : Nat) : Bool :=
  (s.core core).stitch.isEmpty && ((s.runnableOn core).all fun e => !s.entersWait e && !e.t.yieldTo.any fun k => decide (k ≤ (s.core core).clock))
    && ((List.range 12).all fun k => !s.overrideDue core k)
    && !s.ringDue core && !s.passHeld core && s.inStep core && s.refreshed core

/-- The clock of a core ticks (R90, R178): the events of the clock that ends are counted (R91), and windows that have ended restart; then the picker looks at
who is ready and forms the stitches of the clock (R178, R179). -/
def State.clockMove (s : State) (core : Nat) : State :=
  let s := s.settle core
  let c := s.core core
  let rolled (k : Nat × EvReg) : Nat × EvReg := (k.1, k.2.roll c.clock)
  let s := s.setCore core { c with clock := c.clock + 1, events := c.events.map rolled }
  (s.retrackAll core).formStitches core

/-- The reader of a partition's log clears VALID of an entry (R378). -/
def State.clearRecord (s : State) (part entry : Nat) : Option State :=
  (s.parts.look part).bind fun p =>
    if s.logValid p entry then
      let t : Target := { p.logEntry entry with addr := (p.logEntry entry).addr + 63 }
      some ((s.setByte t.mem t.addr 0).homeWrote .host [t.range 1])
    else none

/-- One move. -/
def State.move (s : State) (m : Move) : Host.Outcome State Fault Refusal :=
  match m with
  | .issue r => s.issueMove r
  | .event i => andThen (fun s => { s with cur := none }) (exec i { s with cur := none })
  | .clock core => if decide (core < Config.cores) && s.clockDone core then .next (s.clockMove core) else .fault .notEnabled
  | .engineBegin core op => match s.engineBegin core op with
    | some s' => .next s'
    | none => .fault .notEnabled
  | .engineOwn core op k => orNotEnabled (s.ownUnit core op k)
  | .engineWrite core op k => orNotEnabled (s.engineWrite core op k)
  | .tlbEvict core => if (s.core core).tlb.isEmpty then .fault .notEnabled else .next (s.updCore core fun c => { c with tlb := c.tlb.dropLast })
  | .icacheEvict core =>
    if (s.core core).icache.isEmpty then .fault .notEnabled else .next (s.updCore core fun c => { c with icache := c.icache.drop 1 })
  | .l1Evict core k => orNotEnabled (s.evictL1 core k)
  | .l2Evict slice k => orNotEnabled (s.evictL2 slice k)
  | .readRegister vf off => orNotEnabled (s.readRegister vf off)
  | .clearRecord part entry => orNotEnabled (s.clearRecord part entry)
  | .loadImage l => .next (s.loadKernel l)
  | .setHdm l => if s.firmware.held then .fault .notEnabled else .next { s with firmware := { s.firmware with hdm := l } }

/-- The moves of a thread and its hardware that may be next. -/
def threadMoves (r : ThreadRef) (t : Thread) : List Move :=
  let op (o : MemOp) : List Move :=
    .event (.producerCompletion r o.id) :: o.accs.flatMap fun a =>
      [.event (.homeRequest r a.id), .event (.homeAtomic r a.id), .event (.sketchOperation r a.id)]
  [.issue r, .event (.waitEnd r), .event (.yieldExpiry r)] ++ t.ops.flatMap op

/-- The moves of the arbiter and the parking hardware about a team. -/
def teamMoves (n : Nat) (tm : Team) : List Move :=
  [.event (.preemption n), .event (.teamPark n), .event (.teamRestore n), .event (.spawnRingStart n), .event (.teamExit n)]
    ++ (match tm.rack with
      | some r => (List.range r.conds.length).map fun k => .event (.rackFire n k)
      | none => [])
    ++ (List.range tm.cores.length).map (fun k => .event (.displacement n k))
    ++ tm.barriers.map (fun b => .event (.barrierWatchdog n (.barrier b.1)))
    ++ tm.rdvAges.map (fun a => .event (.barrierWatchdog n (.rendezvous a.base a.size)))
    ++ tm.collAges.map (fun a => .event (.barrierWatchdog n (.coll (BitVec.ofNat 32 a.base))))
    ++ tm.threads.flatMap fun t => threadMoves { team := n, tid := t.1 } t.2

/-- The moves of a core and its engines. -/
def State.coreMoves (s : State) (n : Nat) (c : Core) : List Move :=
  [.tlbEvict n, .icacheEvict n, .event (.matrixCommandExecute n 0 true), .event (.matrixCommandExecute n 1 true)]
    ++ (List.range 8).map (fun k => .event (.eventWindowRestart n k))
    ++ ((List.range 12).map fun k => .event (.pickerOverride n (k / 3) (k % 3)))
    ++ (List.range 8).map (fun k => .event (.splitChange n k))
    ++ (List.range c.l1.length).map (fun k => .l1Evict n k)
    ++ c.ops.flatMap fun o => [.engineBegin n o.id, .event (.engineCompletion n o.id), .event (.weltEnqueue n o.id)]
        ++ (List.range (s.unitsOf n o).length).map (fun k => .engineOwn n o.id k) ++ (List.range o.held.length).map fun k => .engineWrite n o.id k

/-- The moves of queue units and packet processors about a virtual function's user queue. -/
def queueMoves (vf q : Nat) : List Move :=
  [.event (.launch vf q), .event (.wait vf q), .event (.wsload vf q), .event (.fill vf q), .event (.copy vf q),
    .event (.reservedTypePacket vf q)]

/-- Every move of the package's own agents that may be next; `n` is a free number for the choices within them. -/
def State.candidateMoves (s : State) (n : Nat) : List Move :=
  (List.range Config.cores).map (fun k => .clock k)
    ++ s.teams.flatMap (fun t => teamMoves t.1 t.2)
    ++ s.cores.flatMap (fun c => s.coreMoves c.1 c.2)
    ++ (List.range 4).map (fun d => .event (.wsRefresh d))
    ++ s.dies.flatMap (fun d => d.2.slots.map fun k => .event (.groupAssembly d.1 k.1 [] n))
    ++ s.parts.map (fun p => .event (.arbiterPass p.1 n))
    ++ s.contexts.flatMap (fun c => .event (.faultRecord c.1) :: c.2.queues.flatMap fun q =>
        [.event (.queueServe c.1 q.1), .event (.qpushAccept c.1 q.1)])
    ++ s.l2.flatMap (fun e => (List.range e.2.length).map fun k => .l2Evict e.1 k)
    ++ s.hbm.flatMap (fun k => [.event (.scrubPass k.1), .event (.scrubEscalation k.1)] ++ k.2.tags.map fun t => .event (.hbmReply k.1 t))
    ++ s.vfs.flatMap (fun v => v.2.queues.flatMap fun q => queueMoves v.1 q.1)
    ++ s.packets.map (fun p => .event (.packetCompletion p.vf p.queue p.index))
    ++ s.ports.map (fun p => .event (.linkDown p.1))

/-- The move can be made. -/
def State.enabled (s : State) (m : Move) : Bool :=
  match s.move m with
  | .next _ => true
  | .fault _ | .refused _ => false

/-- The move that comes next when the schedule names none: any of the candidates that can be made (R20, R171), by a free choice of the step. -/
def State.nextMove (s : State) : Move :=
  let n := Config.pick s.tick
  let l := (s.candidateMoves (n / 2 ^ 64)).filter s.enabled
  l.getD (n % l.length) (.clock 0)

end Sys2Proof.Machine
end

