-- ==== Sys2Proof/Machine/World.lean ====
section
/-!
DEFINITION. Loading from outside: where the thread that issues next fetches, and, for a package in which none is about to issue, the
least that a thread needs to run (a partition, a context with its page tables, a pipeline of one stage, a team of one thread).
-/

namespace Sys2Proof.Machine

/-- The lowest number that a list does not hold. -/
def lowestFree (l : List Nat) : Nat := ((List.range (l.length + 1)).find? fun n => !l.contains n).getD 0

/-- The thread that the schedule lets issue next, if it can: its core, and the place of its next instruction. -/
def State.fetchPlace (s : State) : Option (Nat × Target) :=
  match s.agenda with
  | .issue r :: _ => (s.env { ref := r, words := [] }).bind fun e =>
    match (s.translate e.core e.pl.ctxNum none e.t.pc.toNat).1 with
    | .ok x => if e.t.heldNow.isNone && e.t.denied.isNone && e.t.late.isNone && e.t.yieldTo.isNone && x.grants .exec && canonical e.t.pc.toNat
          && (s.core e.core).isNext r then
        some (e.core, x.place e.t.pc.toNat) else none
    | .error _ => none
  | _ => none

/-- An instruction's bytes put where a core fetches them: no copy of the block stays in its instruction cache. -/
def State.placeCode (s : State) (core : Nat) (t : Target) (bs : List Byte) : State :=
  let b := t.addr / 32 * 32
  let s := s.updCore core fun c => { c with icache := c.icache.filter fun k => !(decide (k.1.mem = t.mem) && decide (k.1.addr = b)) }
  { s with poison := s.poison.filter fun p => !p.meets ⟨t.mem, b, b + 32⟩ }.setBytes t bs

/-- Where the loaded program stands in the context's address space. -/
def loadPc : DWord := 0x200000

/-- The loaded stage: one team of one thread with 16 granules, in idempotent kernels' terms not idempotent; a handler is set. -/
def loadedStage : Stage :=
  { prio := 0, flags := 0, cmin := 1, cmax := 1, threadsMax := 3072, gransMax := 16384, spadMax := 262144, spawnsMax := 3072, waitth := 0,
    barwd := 0, weight := 1, mode := 0, fdom := 0, traph := 0x300000, rshadow := 0, save := 0, sring := 0, srlog := 0, stack := 0,
    stksz := 0, matrix := true, idem := false, entry := loadPc, gran := 16, cores := 1, nthreads := 1, spad := 262144, image := [],
    inq := none, outq := [], persistent := false, redundant := false, teams := 1, next := 1, again := [], kills := [], killed := false }

/-- A partition of one cluster and one HBM unit. -/
def loadedPart (cluster unit : Nat) : Partition :=
  { clusters := [cluster], hbmUnits := [unit], visible := [], wsUnits := [], collWeight := [1, 1, 1, 1], linkWeight := [], rcb := unit * 2 ^ 30,
    waitFloor := 0, logBase := 4 * Config.dieHbm - 4096, logN := 6, admits := [], launches := 1, key := 0, logSeq := 0, logPos := 0, lost := 0, passDue := false }

/-- The one pipeline of the loaded program. -/
def loadedPipe (part : Nat) : Pipeline :=
  { part := part, ctx := 0, launch := 1, vf := 0, queue := 0, packet := 0, args := 0, stages := [loadedStage], queues := [], qitems := 0,
    budgets := [], killed := false, partRelaunch := false, trapOk := false }

/-- The one team of the loaded program. -/
def loadedTeam (pipe core : Nat) : Team :=
  { pipe := pipe, stage := 0, index := 0, phase := .resident, cores := [core],
    threads := [(0, { Thread.fresh loadPc 0 with loc := .slot 0 0 0 })], maxTid := 0, spawns := 0, barriers := [], raceB := 0, ring := [],
    ringHead := 0, released := [], saveSlot := 0, kept := [], rack := none, rdvAges := [], collAges := [], relaunch := false, spared := false }

/-- A program is loaded from outside: a new partition on a free cluster and a free HBM unit, whose one thread issues next. The page table
maps the unit's addresses from 0 on, all permissions granted (R355, R356). -/
def State.loadProgram (s : State) : State :=
  let part := lowestFree (s.parts.map fun p => p.1)
  let cluster := lowestFree (s.parts.flatMap fun p => p.2.clusters)
  let unit := lowestFree (s.parts.flatMap fun p => p.2.hbmUnits)
  let team := s.nextId
  let pipe := s.nextId + 1
  let core := 4 * cluster
  let base := unit * 2 ^ 30
  let s := { s with parts := s.parts.put part (loadedPart cluster unit), pipes := s.pipes.put pipe (loadedPipe part), nextId := s.nextId + 2,
                    agenda := [.issue { team := team, tid := 0 }] }
  let s := s.setContext (ctxNumber part 0 0) { Context.fresh with ptbase := base }
  let s := s.setCore core { Core.fresh with clock := (s.core core).clock, passAt := (s.core core).clock, split := 1, mc0 := { MatCtx.fresh with team := some (team, 0) }, stitch := [({ team := team, tid := 0 }, 3)] }
  let s := s.store ⟨.hbm, base⟩ 8 (base + 2 ^ 20 + 3)
  let s := s.store ⟨.hbm, base + 2 ^ 20⟩ 8 (base + 0x39)
  s.setTeam team (loadedTeam pipe core)

/-- The package with an instruction's bytes where its next instruction is fetched. -/
def State.withCode (s : State) (bs : List Byte) : State :=
  match s.fetchPlace with
  | some (core, t) => s.placeCode core t bs
  | none =>
    let s := s.loadProgram
    match s.fetchPlace with
    | some (core, t) => s.placeCode core t bs
    | none => s

end Sys2Proof.Machine
end

