-- ==== Sys2Proof/Machine/Step.lean ====
section
/-!
DEFINITION. One step of the package, and the loading of one instruction where the next step fetches.
-/

namespace Sys2Proof.Machine

/-- The step is over: the next has the next number. -/
def State.ticked (s : State) : State := { s with tick := s.tick + 1 }

/-- One step: the first move of the schedule, or a free choice among the moves that the package's agents can make. -/
def step (s : State) : Host.Outcome State Fault Refusal :=
  match s.agenda with
  | m :: rest => andThen State.ticked (State.move { s with agenda := rest } m)
  | [] => andThen State.ticked (s.move s.nextMove)

/-- The package with the instruction of `nbits` bits `w`, and zeros after it up to 16 bytes, where the next step fetches. -/
def State.withFetchWord (s : State) (nbits w : Nat) : State := s.withCode (leBytes 16 (w % 2 ^ nbits))

end Sys2Proof.Machine
end

