-- ==== Sys2Proof/Safety.lean ====
section
/-!
DEFINITION. The terms in which claims about the package are stated: a run that goes on, the form of the memories, the conditions under
which an instruction's own effect takes place, and what such an instruction leaves.
-/

namespace Sys2Proof.Machine

/-- The machine goes on: neither a fault nor a refusal. -/
def Continues (o : Host.Outcome State Fault Refusal) : Prop := ∃ s, o = .next s

/-- Every memory of the package has the canonical form. -/
def State.MemForm (s : State) : Prop := ∀ e ∈ s.mems, Memory.wf e.2 = true

/-- What the executing thread sees (R43). -/
def State.executing (s : State) : Option Env := s.cur.bind s.env

/-- The instruction's own effect takes place (R30, R32 to R35, R43, R177): its registers are the kernel's and stand in the register file,
its guard lets it run, its sources are full, its destinations are full, and where the thread traps on dead reads its sources are live (R34). -/
def Env.ready (e : Env) (i : Instr) : Bool :=
  match i.row, i.ops with
  | some r, some x =>
    ((rowNamed r x).all fun g => decide (g.toNat < 16 * e.st.gran)) && decide (granulesOf (rowNamed r x) &&& e.t.absent = 0)
      && (decide (x.g = 0) || (e.t.full x.g && (!e.t.modeT || !e.t.isDead x.g) && guardOn x.gs (triOf (e.t.rd x.g))))
      && ((rowWaits r x).all e.t.full) && ((rowDests r x).all e.t.full) && (!e.t.modeT || (rowReads r x).all fun g => !e.t.isDead g)
  | _, _ => false

/-- An instruction that is about to have its effect. -/
def Runs (i : Instr) (s : State) (e : Env) : Prop := s.executing = some e ∧ e.ready i = true

/-- The dead registers that an instruction reads beside its guard, each once (R34, R89). -/
def Env.deadReads (e : Env) (i : Instr) : List Reg :=
  match i.row, i.ops with
  | some r, some x => ((rowReads r x).filter fun g => e.t.isDead g && g != x.g).eraseDups
  | _, _ => []

/-- The package once a dead guard has been counted (R89). -/
def State.guardCounted (s : State) (e : Env) (i : Instr) : State :=
  match i.ops with
  | some x => if decide (x.g ≠ 0) && decide (e.t.phase < 1) then (s.countDead e.counter (if e.t.isDead x.g then 1 else 0)).setPhase e.ref 1 else s
  | none => s

/-- The package once the guard and the sources of the executing instruction have been counted (R89): one dead-read event for each dead register, which
reads as 0 (R34). -/
def State.counted (s : State) (e : Env) (i : Instr) : State :=
  let s := s.guardCounted e i
  if e.t.phase < 2 then (s.countDead e.counter (e.deadReads i).length).setPhase e.ref 2 else s

/-- The registers that an instruction marks dead (R35). -/
def marksOf (i : Instr) : List Reg :=
  match i.row, i.ops with
  | some r, some x => rowMarks r x
  | _, _ => []

/-- The address after an instruction (R24, R43). -/
def Env.nextPc (e : Env) (i : Instr) : DWord :=
  match i.ops with
  | some x => advance e.t.pc x.len.bytes
  | none => e.t.pc

/-- The executing thread after an instruction (R35, R46): dead marks, then the writes, then the registers left empty, and the program
counter. -/
def State.leaving (s : State) (e : Env) (i : Instr) (ws : List (Reg × Word)) (pend : List Reg) (pc : DWord) : State :=
  s.updThread e.ref fun t => finishThread t (marksOf i) ws pend pc

/-- The package after an instruction that only computes: the conditions of its element results, its writes, the next address. -/
def State.computed (s : State) (e : Env) (i : Instr) (r : Eff) : State :=
  (if r.conds.all fun c => decide (c = {}) then s.counted e i else (s.counted e i).raise e.counter r.conds).leaving e i r.ws [] (e.nextPc i)

/-- The instruction computes: whenever it is about to have its effect, it completes with the effect that `f` gives. -/
def Computes (i : Instr) (f : Thread → Eff) : Prop := ∀ s e, Runs i s e → exec i s = .next (s.computed e i (f e.t))

/-- The instruction takes place with a state, writes, registers left empty and a next address that it finds. -/
def Env.tookPlace (e : Env) (i : Instr) (r : Res) : State :=
  match r with
  | .done s' ws pend jump => s'.leaving e i ws pend (jump.getD (e.nextPc i))
  | .wait w s' => s'.wait e.ref w
  | .trap c ea ei s' => preciseTrap e c ea ei s'
  | .stop s' => s'

end Sys2Proof.Machine
end

