-- ==== Sys2Proof/Certificates/Slice0/Obligations.lean ====
section
/-!
DEFINITION. The statements for the provers, from the numbered rules of the spec.
-/

open Sys2Proof Sys2Proof.Machine

/-! ### Rows 0x0 to 0x5: instructions that only compute -/

/-- R40, R102 to R104: NOP, MOV, MOVW, SEL and LEA. R96 to R98: the wrapping forms, the high product, the wide multiply-add, minimum and
maximum. -/
def Obligations.MovesAndWrappingIntegers : Prop :=
  (∀ (x : Ops) (w u : Bool) (sh : BitVec 3),
    Computes (.nop x) (fun _ => { ws := [] })
    ∧ Computes (.mov x) (fun t => { ws := [(x.d, if x.len = .s then t.rd x.a else imm32 x)] })
    ∧ Computes (.movw x) (fun t => { ws := w2 x.d (if x.len = .s then t.pair x.a else x.ext) })
    ∧ Computes (.sel x w) (fun t =>
        { ws := wN w x.d (if t.rd x.c ≠ 0 ∧ t.rd x.c ≠ 0xFFFFFFFF then rdN w t x.a else rdN w t x.b) })
    ∧ Computes (.lea x sh u) (fun t =>
        { ws := w2 x.d (t.pair x.a + (if u then (srcB x t).setWidth 64 else (srcB x t).signExtend 64) * BitVec.ofNat 64 (2 ^ sh.toNat)) }))
  ∧ (∀ (x : Ops) (u : Bool),
    Computes (.iadd x .wrap) (fun t => { ws := [(x.d, t.rd x.a + srcB x t)] })
    ∧ Computes (.isub x .wrap) (fun t => { ws := [(x.d, t.rd x.a - srcB x t)] })
    ∧ Computes (.imul x .wrap) (fun t => { ws := [(x.d, t.rd x.a * srcB x t)] })
    ∧ Computes (.imad x .wrap) (fun t => { ws := [(x.d, t.rd x.a * srcB x t + t.rd x.c)] })
    ∧ Computes (.iadd64 x .wrap) (fun t => { ws := w2 x.d (t.pair x.a + srcB64 x t) })
    ∧ Computes (.isub64 x .wrap) (fun t => { ws := w2 x.d (t.pair x.a - srcB64 x t) })
    ∧ Computes (.imul64 x .wrap) (fun t => { ws := w2 x.d (t.pair x.a * srcB64 x t) })
    ∧ Computes (.imulh x false) (fun t => { ws := [(x.d, BitVec.ofInt 32 ((t.rd x.a).toInt * (srcB x t).toInt / 2 ^ 32))] })
    ∧ Computes (.imulh x true) (fun t => { ws := [(x.d, BitVec.ofNat 32 ((t.rd x.a).toNat * (srcB x t).toNat / 2 ^ 32))] })
    ∧ Computes (.imad64w x true) (fun t => { ws := w2 x.d ((t.rd x.a).setWidth 64 * (t.rd x.b).setWidth 64 + t.pair x.c) })
    ∧ Computes (.imad64w x false) (fun t => { ws := w2 x.d ((t.rd x.a).signExtend 64 * (t.rd x.b).signExtend 64 + t.pair x.c) })
    ∧ Computes (.imin x u) (fun t =>
        { ws := [(x.d, if (if u then t.rd x.a ≤ srcB x t else (t.rd x.a).sle (srcB x t)) then t.rd x.a else srcB x t)] })
    ∧ Computes (.imax x u) (fun t =>
        { ws := [(x.d, if (if u then t.rd x.a ≤ srcB x t else (t.rd x.a).sle (srcB x t)) then srcB x t else t.rd x.a)] })
    ∧ Computes (.iabs x false) (fun t => { ws := [(x.d, if (t.rd x.a).msb then -(t.rd x.a) else t.rd x.a)] })
    ∧ Computes (.ineg x false) (fun t => { ws := [(x.d, -(t.rd x.a))] }))

/-- A value clamped between two bounds as a `w`-bit result, with the narrow-saturation condition of R88 where the clamp changed it. -/
def clampedTo (w : Nat) (lo hi v : Int) : BitVec w × Conds :=
  (BitVec.ofInt w (if v < lo then lo else if hi < v then hi else v), { ns := decide (v < lo ∨ hi < v) })

/-- R88, R96 to R98: the saturating forms clamp the exact value and set NS exactly when the clamp changes it. -/
def Obligations.IntegerResultsSaturate : Prop :=
  let clamp (w : Nat) (m : SatMode) (v : Int) : BitVec w × Conds :=
    if m = .sat then clampedTo w (-2 ^ (w - 1)) (2 ^ (w - 1) - 1) v else clampedTo w 0 (2 ^ w - 1) v
  let int (m : SatMode) (w : Nat) (v : BitVec w) : Int := if m = .sat then v.toInt else (v.toNat : Int)
  ∀ (x : Ops) (m : SatMode), m ≠ .wrap →
    let run32 (f : Int → Int → Int → Int) (t : Thread) : Eff :=
      let r := clamp 32 m (f (int m 32 (t.rd x.a)) (int m 32 (srcB x t)) (int m 32 (t.rd x.c)))
      { ws := [(x.d, r.1)], conds := [r.2] }
    let run64 (f : Int → Int → Int) (t : Thread) : Eff :=
      let r := clamp 64 m (f (int m 64 (t.pair x.a)) (int m 64 (srcB64 x t)))
      { ws := w2 x.d r.1, conds := [r.2] }
    Computes (.iadd x m) (run32 fun a b _ => a + b) ∧ Computes (.isub x m) (run32 fun a b _ => a - b)
    ∧ Computes (.imul x m) (run32 fun a b _ => a * b) ∧ Computes (.imad x m) (run32 fun a b c => a * b + c)
    ∧ Computes (.iadd64 x m) (run64 fun a b => a + b) ∧ Computes (.isub64 x m) (run64 fun a b => a - b)
    ∧ Computes (.imul64 x m) (run64 fun a b => a * b)
    ∧ Computes (.iabs x true) (fun t =>
        let r := clampedTo 32 (-2 ^ 31) (2 ^ 31 - 1) ((t.rd x.a).toInt.natAbs : Int); { ws := [(x.d, r.1)], conds := [r.2] })
    ∧ Computes (.ineg x true) (fun t =>
        let r := clampedTo 32 (-2 ^ 31) (2 ^ 31 - 1) (-(t.rd x.a).toInt); { ws := [(x.d, r.1)], conds := [r.2] })

/-- R99: AND, OR, XOR and ANDN; a 32-bit immediate of the 64-bit forms is sign-extended. R99: the shifts take the count as an unsigned
32-bit number; a count of the width or more gives 0, or the sign for SAR, and ROT takes it modulo the width. R99, R100: the counts, the
reversal and the bit fields, bit by bit. -/
def Obligations.BitInstructionsComplete : Prop :=
  (∀ (x : Ops),
    let imm (t : Thread) : DWord := if x.len = .s then t.pair x.b else (imm32 x).signExtend 64
    Computes (.and x false) (fun t => { ws := [(x.d, t.rd x.a &&& srcB x t)] })
    ∧ Computes (.or x false) (fun t => { ws := [(x.d, t.rd x.a ||| srcB x t)] })
    ∧ Computes (.xor x false) (fun t => { ws := [(x.d, t.rd x.a ^^^ srcB x t)] })
    ∧ Computes (.andn x false) (fun t => { ws := [(x.d, t.rd x.a &&& ~~~(srcB x t))] })
    ∧ Computes (.and x true) (fun t => { ws := w2 x.d (t.pair x.a &&& imm t) })
    ∧ Computes (.or x true) (fun t => { ws := w2 x.d (t.pair x.a ||| imm t) })
    ∧ Computes (.xor x true) (fun t => { ws := w2 x.d (t.pair x.a ^^^ imm t) })
    ∧ Computes (.andn x true) (fun t => { ws := w2 x.d (t.pair x.a &&& ~~~(imm t)) }))
  ∧ (∀ (x : Ops) (w : Bool),
    let count (t : Thread) : Nat := (srcB x t).toNat
    Computes (.shl x w) (fun t => { ws := wN w x.d (if count t < (if w then 64 else 32) then rdN w t x.a <<< count t else 0) })
    ∧ Computes (.shr x w) (fun t => { ws := wN w x.d (if count t < (if w then 64 else 32) then rdN w t x.a >>> count t else 0) })
    ∧ Computes (.sar x w) (fun t =>
        { ws := if w then w2 x.d ((t.pair x.a).sshiftRight (min (count t) 63)) else [(x.d, (t.rd x.a).sshiftRight (min (count t) 31))] })
    ∧ Computes (.rot x w) (fun t =>
        { ws := if w then w2 x.d ((t.pair x.a).rotateLeft (count t % 64)) else [(x.d, (t.rd x.a).rotateLeft (count t % 32))] }))
  ∧ (∀ (x : Ops) (w u : Bool) (s : State) (e : Env),
    let width : Nat := if w then 64 else 32
    let a := rdN w e.t x.a
    let ones : Nat := ((List.range width).filter fun k => a.getLsbD k).length
    let p := (srcB x e.t).toNat % 256
    let n := (srcB x e.t).toNat / 256 % 256
    let inField (k : Nat) : Bool := decide (p ≤ k) && decide (k < p + n) && decide (p ≤ 31)
    (Runs (.popc x w) s e → exec (.popc x w) s = .next (s.computed e (.popc x w) { ws := [(x.d, BitVec.ofNat 32 ones)] }))
    ∧ (Runs (.clz x w) s e → ∃ z, exec (.clz x w) s = .next (s.computed e (.clz x w) { ws := [(x.d, BitVec.ofNat 32 z)] })
        ∧ z ≤ width ∧ (∀ k, width - z ≤ k → k < width → a.getLsbD k = false) ∧ (z < width → a.getLsbD (width - 1 - z) = true))
    ∧ (Runs (.brev x w) s e → ∃ v : DWord, exec (.brev x w) s = .next (s.computed e (.brev x w) { ws := wN w x.d v })
        ∧ ∀ k, k < width → v.getLsbD k = a.getLsbD (width - 1 - k))
    ∧ (Runs (.bfe x u) s e → ∃ v : Word, exec (.bfe x u) s = .next (s.computed e (.bfe x u) { ws := [(x.d, v)] })
        ∧ ∀ k, k < 32 → v.getLsbD k =
            (if 31 < p ∨ n = 0 then false
             else if k < min n (32 - p) then (e.t.rd x.a).getLsbD (p + k)
             else !u && (e.t.rd x.a).getLsbD (p + min n (32 - p) - 1)))
    ∧ (Runs (.bfi x) s e → ∃ v : Word, exec (.bfi x) s = .next (s.computed e (.bfi x) { ws := [(x.d, v)] })
        ∧ ∀ k, k < 32 → v.getLsbD k = (if inField k then (e.t.rd x.c).getLsbD (k - p) else (e.t.rd x.a).getLsbD k)))

/-- R101: ICMP compares as signed or unsigned numbers and writes a definite predicate. R81, R122, R123: the three-valued connectives on 0
(false), all ones (undecided) and any other word (true). -/
def Obligations.PredicatesComplete : Prop :=
  (∀ (x : Ops) (r : IRel) (ty : ITy),
    let num (w : Nat) (v : BitVec w) : Int := if ty.unsigned then (v.toNat : Int) else v.toInt
    let holds (a b : Int) : Bool := match r with
      | .eq => decide (a = b)
      | .ne => decide (a ≠ b)
      | .lt => decide (a < b)
      | .le => decide (a ≤ b)
      | .gt => decide (a > b)
      | .ge => decide (a ≥ b)
    let a (t : Thread) : Int := if ty.wide then num 64 (t.pair x.a) else num 32 (t.rd x.a)
    let b (t : Thread) : Int :=
      if x.len ≠ .s then num 32 (imm32 x) else if ty.wide then num 64 (t.pair x.b) else num 32 (t.rd x.b)
    Computes (.icmp x r ty) (fun t => { ws := [(x.d, if holds (a t) (b t) then 1 else 0)] }))
  ∧ (let isT (v : Word) : Bool := decide (v ≠ 0) && decide (v ≠ 0xFFFFFFFF)
    let isF (v : Word) : Bool := decide (v = 0)
    let out (t f : Bool) : Word := if t then 1 else if f then 0 else 0xFFFFFFFF
    ∀ (x : Ops) (ut : Bool),
      Computes (.pand x) (fun t =>
        { ws := [(x.d, out (isT (t.rd x.a) && isT (t.rd x.b)) (isF (t.rd x.a) || isF (t.rd x.b)))] })
      ∧ Computes (.por x) (fun t =>
        { ws := [(x.d, out (isT (t.rd x.a) || isT (t.rd x.b)) (isF (t.rd x.a) && isF (t.rd x.b)))] })
      ∧ Computes (.pnot x) (fun t => { ws := [(x.d, out (isF (t.rd x.a)) (isT (t.rd x.a)))] })
      ∧ Computes (.pxor x) (fun t =>
        { ws := [(x.d, out ((isT (t.rd x.a) && isF (t.rd x.b)) || (isF (t.rd x.a) && isT (t.rd x.b)))
                           ((isT (t.rd x.a) && isT (t.rd x.b)) || (isF (t.rd x.a) && isF (t.rd x.b))))] })
      ∧ Computes (.pres x ut) (fun t => { ws := [(x.d, out (isT (t.rd x.a) || (!isF (t.rd x.a) && ut)) true)] }))

/-! ### Rows 0x2 and 0x3: floating point -/

/-- R39, R82: the rounding mode of a code; DYN takes RM, bits [2:0] of the mode word. -/
def modeFor (r : Rnd) (t : Thread) : RMode :=
  match r with
  | .rne => .rne
  | .rtz => .rtz
  | .rup => .rup
  | .rdn => .rdn
  | .dyn => if t.mode.toNat % 8 = 1 then .rtz else if t.mode.toNat % 8 = 2 then .rup else if t.mode.toNat % 8 = 3 then .rdn else .rne

/-- The writes of a code of 32 or 64 bits with its conditions. -/
def fpResult (w : Bool) (x : Ops) (r : Nat × Conds) : Eff := { ws := wN w x.d (BitVec.ofNat 64 r.1), conds := [r.2] }

/-- R105 to R112: the arithmetic, the comparisons and the elementary functions of row 0x2 complete with the format's operation on the
operands' codes, in the mode that the code or the mode word names; a binary32 immediate stands for B and is widened for FP64. R95, R177:
FDIV and FSQRT at FP64 are long-latency producers: they complete at once, leave the destination pair empty, and put one operation with the
rounded result and its conditions into flight, unless 63 are in flight. -/
def Obligations.FloatInstructionsComplete : Prop :=
  (∀ (x : Ops) (w u : Bool) (r : Rnd) (rel : FRel),
    let f : FFmt := if w then f64 else f32
    let a (t : Thread) : Nat := if w then (t.pair x.a).toNat else (t.rd x.a).toNat
    let b (t : Thread) : Nat :=
      match x.len with
      | .s => if w then (t.pair x.b).toNat else (t.rd x.b).toNat
      | .m => if w then widenImm (imm32 x).toNat else (imm32 x).toNat
      | .l => x.ext.toNat
    let c (t : Thread) : Nat := if w then (t.pair x.c).toNat else (t.rd x.c).toNat
    Computes (.fadd x w r) (fun t => fpResult w x (f.add (modeFor r t) (a t) (b t)))
    ∧ Computes (.fsub x w r) (fun t => fpResult w x (f.sub (modeFor r t) (a t) (b t)))
    ∧ Computes (.fmul x w r) (fun t => fpResult w x (f.mul (modeFor r t) (a t) (b t)))
    ∧ Computes (.ffma x w r) (fun t => fpResult w x (f.fma (modeFor r t) (a t) (b t) (c t)))
    ∧ Computes (.fmin x w u) (fun t => fpResult w x (f.minMax false u (a t) (b t)))
    ∧ Computes (.fmax x w u) (fun t => fpResult w x (f.minMax true u (a t) (b t)))
    ∧ Computes (.fcmp x w rel u) (fun t => { ws := [(x.d, (f.fcmp rel u (a t) (b t)).1)], conds := [(f.fcmp rel u (a t) (b t)).2] })
    ∧ Computes (.fclass x w) (fun t => { ws := [(x.d, f.fclass (a t))] })
    ∧ Computes (.frcp x w r) (fun t => fpResult w x (f.rcp (modeFor r t) (a t)))
    ∧ Computes (.frsq x w r) (fun t => fpResult w x (f.rsq (modeFor r t) (a t)))
    ∧ Computes (.fexp2 x w) (fun t => fpResult w x (f.exp2 (a t)))
    ∧ Computes (.flog2 x w) (fun t => fpResult w x (f.lg2 (a t)))
    ∧ Computes (.fsinpi x w) (fun t => fpResult w x (f.sinpi (a t)))
    ∧ Computes (.fcospi x w) (fun t => fpResult w x (f.cospi (a t)))
    ∧ Computes (.fdiv x false r) (fun t => fpResult false x (f32.div (modeFor r t) (t.rd x.a).toNat (srcF x false t)))
    ∧ Computes (.fsqrt x false r) (fun t => fpResult false x (f32.sqrt (modeFor r t) (t.rd x.a).toNat)))
  ∧ (∀ (x : Ops) (r : Rnd) (s : State) (e : Env), e.t.inFlight < 63 →
    let op (v : Nat × Conds) : MemOp :=
      { e.memOp s.nextId .arith [{ id := s.nextId, at_ := ⟨.hbm, 0⟩, size := 8, data := 0, done := some v.1, early := false }] .rlx .thr 0 0 x.d 2 0 with
        conds := v.2 }
    let after (i : Instr) (v : Nat × Conds) : State :=
      ((s.counted e i).fresh.updThread e.ref fun t => { t with ops := t.ops ++ [op v] }).leaving e i [] [x.d, x.d + 1] (e.nextPc i)
    (Runs (.fdiv x true r) s e →
      exec (.fdiv x true r) s = .next (after (.fdiv x true r) (f64.div (modeFor r e.t) (e.t.pair x.a).toNat (srcF x true e.t))))
    ∧ (Runs (.fsqrt x true r) s e →
      exec (.fsqrt x true r) s = .next (after (.fsqrt x true r) (f64.sqrt (modeFor r e.t) (e.t.pair x.a).toNat))))

/-- The number of a finite value. -/
def ratOf (v : FVal) : Rat := ((v.dyadic.m : Int) : Rat) * (2 : Rat) ^ v.dyadic.e

/-- The size of a number. -/
def absOf (q : Rat) : Rat := if q < 0 then -q else q

/-- A value is a finite number. -/
def isNumber (v : FVal) : Prop := v.isNan = false ∧ v.isInf = false

/-- The order of values that are no NaN; the two zeros are equal (R110). -/
def leVal (x y : FVal) : Prop := x = .inf true ∨ y = .inf false ∨ (isNumber x ∧ isNumber y ∧ ratOf x ≤ ratOf y)

/-- A finite code is the rounding of a number in a mode (R82): toward zero, up and down no code on that side of the number is nearer; to nearest no code at
all is nearer, and of two equally near ones the even code is taken. -/
def isRounded (f : FFmt) (mode : RMode) (code : Nat) (v : Rat) : Prop :=
  let y : Rat := ratOf (f.value code)
  isNumber (f.value code) ∧ ∀ c : Nat, isNumber (f.value c) →
    let z : Rat := ratOf (f.value c)
    match mode with
    | .rdn => y ≤ v ∧ (z ≤ v → z ≤ y)
    | .rup => v ≤ y ∧ (v ≤ z → y ≤ z)
    | .rtz => absOf y ≤ absOf v ∧ (absOf z ≤ absOf v → absOf z ≤ absOf y)
    | .rne => absOf (y - v) ≤ absOf (z - v) ∧ (absOf (y - v) = absOf (z - v) → y = z ∨ code % 2 = 0)

/-- R76, R82, R85: one rounding of an exact number into a format. Without overflow the result is finite and has the number's sign; toward zero,
up and down it is the nearest code on that side; to nearest no finite code is nearer, and of two equally near ones the even code is taken;
inexact is raised exactly when the result is not the number; underflow exactly when it is inexact and the number, rounded to the format's
precision with no bound on the exponent, is below the smallest normal. -/
def Obligations.RoundingIsCorrect : Prop := ∀ f ∈ [f64, f32, f16, b16], ∀ (mode : RMode) (neg : Bool) (m : Nat) (e : Int),
  let v : Rat := ratOf (.fin neg m e)
  let r := f.roundExact mode neg m e
  let y : Rat := ratOf (f.value r.1)
  let unit : Int := e + m.log2 - f.fbits
  let free : Rat := ((roundAt mode neg m e unit).1 : Rat) * (2 : Rat) ^ unit
  m ≠ 0 → r.2.ov = false →
    isRounded f mode r.1 v ∧ (f.value r.1).neg = neg ∧ (r.2.nx = true ↔ y ≠ v)
    ∧ (r.2.uf = true ↔ y ≠ v ∧ free < (2 : Rat) ^ (f.qmin + f.fbits))

/-- R107, R110 to R112: what the minimum and the maximum, the comparisons and the class of two or of one code are. Without a NaN the minimum and the maximum
are an operand, no greater and no less than either, and −0 is below +0; a comparison is true or false as the relation holds of the two numbers or
infinities; with a NaN they follow their tables; the class has the bit of the code's kind. -/
def comparisonTables (f : FFmt) (a b : Nat) : Prop :=
  let x := f.value a
  let y := f.value b
  let signalling := x.isSnan || y.isSnan
  (∀ isMax prop : Bool, let r := f.minMax isMax prop a b
    (x.isNan → y.isNan → r = (f.nanCode, { nv := signalling }))
    ∧ (x.isNan ∨ y.isNan → prop = true → r = (f.nanCode, { nv := signalling }))
    ∧ (x.isNan → y.isNan = false → prop = false → r = (b % 2 ^ f.width, { nv := signalling }))
    ∧ (x.isNan = false → y.isNan → prop = false → r = (a % 2 ^ f.width, { nv := signalling }))
    ∧ (x.isNan = false → y.isNan = false → r.2 = {} ∧ (r.1 = a % 2 ^ f.width ∨ r.1 = b % 2 ^ f.width)
        ∧ (isMax = false → leVal (f.value r.1) x ∧ leVal (f.value r.1) y) ∧ (isMax = true → leVal x (f.value r.1) ∧ leVal y (f.value r.1))
        ∧ (x.isZero → y.isZero → x.neg ≠ y.neg → (f.value r.1).neg = !isMax)))
  ∧ (∀ (rel : FRel) (u : Bool), let r := f.fcmp rel u a b
    let quiet : Prop := rel = .eq ∨ rel = .ne ∨ rel = .un ∨ rel = .or ∨ u = true
    (x.isNan ∨ y.isNan →
      r.1 = (match rel with
        | .un => 1
        | .or => 0
        | .ne => if u then 0xFFFFFFFF else 1
        | .eq | .lt | .le | .gt | .ge => if u then 0xFFFFFFFF else 0)
      ∧ (signalling = true → r.2 = { nv := true }) ∧ (signalling = false → quiet → r.2 = {}) ∧ (signalling = false → ¬quiet → r.2 = { nv := true }))
    ∧ (x.isNan = false → y.isNan = false →
      let holds : Prop := match rel with
        | .eq => leVal x y ∧ leVal y x
        | .ne => ¬(leVal x y ∧ leVal y x)
        | .lt => ¬leVal y x
        | .le => leVal x y
        | .gt => ¬leVal x y
        | .ge => leVal y x
        | .un => False
        | .or => True
      r.2 = {} ∧ (holds → r.1 = 1) ∧ (¬holds → r.1 = 0)))
  ∧ (let e := a / 2 ^ f.fbits % 2 ^ f.ebits
     let m := a % 2 ^ f.fbits
     let side (neg pos : Word) : Word := if a / 2 ^ (f.ebits + f.fbits) % 2 = 1 then neg else pos
     f.fclass a = (if e = 2 ^ f.ebits - 1 then (if m = 0 then side 0x004 0x200 else if m < 2 ^ (f.fbits - 1) then 0x001 else 0x002)
       else if e = 0 then (if m = 0 then side 0x020 0x040 else side 0x010 0x080)
       else side 0x008 0x100))

/-- R82: overflow gives infinity to nearest and in the direction of the sign, the largest finite magnitude otherwise; it raises overflow and
inexact. R77, R106: every NaN result is the canonical one, invalid is raised for a signalling operand and for ∞ − ∞, 0 × ∞, 0/0 and ∞/∞; an infinity added to a
number, multiplied by a nonzero one or divided by a number stays infinite, with the sign of the rule, and a number divided by one is a signed zero; a
nonzero finite number divided by zero is a signed infinity with divide by zero. FFMA: a NaN, or ∞ × 0 whatever the addend, gives the canonical NaN, the latter
with invalid; an infinite product meets an infinite addend of the other sign as invalid, and is the result otherwise. R117, R144: so do FDOT2 and the
dot products with NaNs and infinities. R108, R109: the tables of special operands of FSQRT, FRCP, FRSQ, FEXP2,
FLOG2, FSINPI and FCOSPI, with the exact results at integers, at halves of odd integers and at powers of two. R107, R110 to R112: FMIN, FMAX, FCMP and FCLASS follow their tables. -/
def Obligations.SpecialFloatResults : Prop :=
  (∀ f ∈ [f64, f32, f16, b16], ∀ (mode : RMode) (neg : Bool) (m : Nat) (e : Int),
    let r := f.roundExact mode neg m e
    r.2.ov = true → r.2.nx = true ∧ r.2.uf = false
      ∧ r.1 = (if mode = .rne ∨ (mode = .rup ∧ neg = false) ∨ (mode = .rdn ∧ neg = true) then f.signed neg f.infCode else f.signed neg f.maxCode))
  ∧ (∀ f ∈ [f64, f32, f16, b16], ∀ (mode : RMode) (a b : Nat),
    let x := f.value a
    let y := f.value b
    let nan (r : Nat × Conds) (invalid : Bool) : Prop := r = (f.nanCode, { nv := invalid })
    (x.isNan ∨ y.isNan → let q := x.isSnan || y.isSnan
      nan (f.add mode a b) q ∧ nan (f.sub mode a b) q ∧ nan (f.mul mode a b) q ∧ nan (f.div mode a b) q)
    ∧ (x.isInf ∧ y.isInf → nan (f.div mode a b) true ∧ (if x.neg = y.neg then nan (f.sub mode a b) true else nan (f.add mode a b) true))
    ∧ (x.isZero ∧ y.isInf → nan (f.mul mode a b) true ∧ nan (f.mul mode b a) true)
    ∧ (x.isZero ∧ y.isZero → nan (f.div mode a b) true)
    ∧ (x.isNan = false ∧ x.isInf = false ∧ x.isZero = false ∧ y.isZero →
        f.div mode a b = (f.signed (x.neg != y.neg) f.infCode, { dz := true }))
    ∧ (let inf (n : Bool) : Nat × Conds := (f.signed n f.infCode, {})
      x.isInf → y.isNan = false →
        (¬(y.isInf ∧ y.neg ≠ x.neg) → f.add mode a b = inf x.neg ∧ f.add mode b a = inf x.neg)
        ∧ (¬(y.isInf ∧ y.neg = x.neg) → f.sub mode a b = inf x.neg ∧ f.sub mode b a = inf (!x.neg))
        ∧ (y.isZero = false → f.mul mode a b = inf (x.neg != y.neg) ∧ f.mul mode b a = inf (x.neg != y.neg))
        ∧ (y.isInf = false → f.div mode a b = inf (x.neg != y.neg) ∧ f.div mode b a = (f.signed (x.neg != y.neg) 0, {}))))
  ∧ (∀ f ∈ [f64, f32, f16, b16], ∀ (mode : RMode) (a b c : Nat),
    let x := f.value a
    let y := f.value b
    let z := f.value c
    let r := f.fma mode a b c
    let n := x.neg != y.neg
    let infZero : Prop := (x.isInf ∧ y.isZero) ∨ (x.isZero ∧ y.isInf)
    (infZero → r = (f.nanCode, { nv := true }))
    ∧ (¬infZero → x.isNan ∨ y.isNan ∨ z.isNan → r = (f.nanCode, { nv := x.isSnan || y.isSnan || z.isSnan }))
    ∧ (¬infZero → x.isNan = false → y.isNan = false → z.isNan = false →
      (x.isInf ∨ y.isInf → r = if z.isInf ∧ z.neg ≠ n then (f.nanCode, { nv := true }) else (f.signed n f.infCode, {}))
      ∧ (isNumber x → isNumber y → z.isInf → r = (f.signed z.neg f.infCode, {}))))
  ∧ (∀ (f : FFmt) (mode : RMode) (a b c : Word), f = f16 ∨ f = b16 →
    let v (w : Word) (i : Nat) : FVal := f.value (w.toNat / 2 ^ (16 * i) % 2 ^ 16)
    let z := f32.value c.toNat
    let r := dot2 f mode a b c
    let infZero : Prop := ∃ i, i < 2 ∧ (((v a i).isInf ∧ (v b i).isZero) ∨ ((v a i).isZero ∧ (v b i).isInf))
    let nan : Prop := z.isNan ∨ ∃ i, i < 2 ∧ ((v a i).isNan ∨ (v b i).isNan)
    let signalling : Prop := z.isSnan ∨ ∃ i, i < 2 ∧ ((v a i).isSnan ∨ (v b i).isSnan)
    let infinite (n : Bool) : Prop := z = .inf n ∨ ∃ i, i < 2 ∧ ((v a i).isInf ∨ (v b i).isInf) ∧ ((v a i).neg != (v b i).neg) = n
    (infZero ∨ signalling → r = (0x7FC00000, { nv := true }))
    ∧ (¬infZero → ¬signalling → nan → r = (0x7FC00000, {}))
    ∧ (¬infZero → ¬nan →
      (infinite true → infinite false → r = (0x7FC00000, { nv := true }))
      ∧ ∀ n, infinite n → ¬infinite (!n) → r = (f32.signed n f32.infCode, {})))
  ∧ (∀ (c : Nat) (d : Machine.Dyadic) (nan : Bool), let z := f32.value c
    (nan = true ∨ z.isNan → dotAdd c d nan = (0x7FC00000, { nv := z.isSnan }))
    ∧ (nan = false → z.isInf → dotAdd c d nan = (f32.signed z.neg f32.infCode, {})))
  ∧ (∀ f ∈ [f64, f32], ∀ (mode : RMode) (a : Nat),
    let x := f.value a
    let nan (r : Nat × Conds) (invalid : Bool) : Prop := r = (f.nanCode, { nv := invalid })
    let zero (neg : Bool) : Nat × Conds := (f.signed neg 0, {})
    let one (neg : Bool) : Nat × Conds := (f.signed neg (f.bias * 2 ^ f.fbits), {})
    let inf (neg : Bool) : Nat × Conds := (f.signed neg f.infCode, {})
    let pole (neg : Bool) : Nat × Conds := (f.signed neg f.infCode, { dz := true })
    (x.isNan → let q := x.isSnan
      nan (f.sqrt mode a) q ∧ nan (f.rcp mode a) q ∧ nan (f.rsq mode a) q ∧ nan (f.exp2 a) q ∧ nan (f.lg2 a) q ∧ nan (f.sinpi a) q ∧ nan (f.cospi a) q)
    ∧ (x = .inf false → f.sqrt mode a = inf false ∧ f.rcp mode a = zero false ∧ f.rsq mode a = zero false ∧ f.exp2 a = inf false ∧ f.lg2 a = inf false)
    ∧ (x = .inf true → nan (f.sqrt mode a) true ∧ f.rcp mode a = zero true ∧ nan (f.rsq mode a) true ∧ f.exp2 a = zero false ∧ nan (f.lg2 a) true)
    ∧ (x.isInf → nan (f.sinpi a) true ∧ nan (f.cospi a) true)
    ∧ (x.isZero → f.sqrt mode a = zero x.neg ∧ f.rcp mode a = pole x.neg ∧ f.rsq mode a = pole x.neg ∧ f.exp2 a = one false ∧ f.lg2 a = pole true
        ∧ f.sinpi a = zero x.neg ∧ f.cospi a = one false)
    ∧ (isNumber x → ratOf x < 0 → nan (f.sqrt mode a) true ∧ nan (f.rsq mode a) true ∧ nan (f.lg2 a) true)
    ∧ (∀ n : Int, isNumber x → ratOf x = (n : Rat) →
        (n ≠ 0 → f.sinpi a = zero (decide (n < 0))) ∧ f.cospi a = one (decide (n % 2 = 1))
        ∧ (f.qmin ≤ n → n ≤ f.bias → (f.exp2 a).2 = {} ∧ isNumber (f.value (f.exp2 a).1) ∧ ratOf (f.value (f.exp2 a).1) = (2 : Rat) ^ n))
    ∧ (∀ n : Int, isNumber x → ratOf x = (n : Rat) + (1 / 2 : Rat) → f.sinpi a = one (decide (n % 2 = 1)) ∧ f.cospi a = zero false)
    ∧ (∀ n : Int, isNumber x → ratOf x = (2 : Rat) ^ n → (f.lg2 a).2 = {} ∧ isNumber (f.value (f.lg2 a).1) ∧ ratOf (f.value (f.lg2 a).1) = (n : Rat)))
  ∧ ∀ f ∈ [f64, f32], ∀ (a b : Nat), comparisonTables f a b

/-- R106, R108, R117, R142, R144: one rounding of the exact result. Sums, differences, products and fused sums of finite operands are the one rounding of
the exact number; an exact zero sum of unlike zeros or of opposite numbers is −0 under RDN only, and a zero product takes the exclusive-or of the signs.
A quotient, a reciprocal, a root and the reciprocal of a root that do not overflow are the code that rounding the exact number gives, and inexact tells
that they differ from it. FDOT2 and the narrow dot products round the exact sum of all their terms once. -/
def Obligations.SumsAndProductsRoundOnce : Prop :=
  (∀ f ∈ [f64, f32, f16, b16], ∀ (mode : RMode) (a b c : Nat) (na nb nc : Bool) (ma mb mc : Nat) (ea eb ec : Int),
    f.value a = .fin na ma ea → f.value b = .fin nb mb eb → f.value c = .fin nc mc ec →
    let ra : Rat := ratOf (.fin na ma ea)
    let rb : Rat := ratOf (.fin nb mb eb)
    let once (r : Nat × Conds) (exact : Rat) (d : Machine.Dyadic) (zneg : Bool) : Prop :=
      exact = ((d.m : Int) : Rat) * (2 : Rat) ^ d.e
      ∧ r = (if d.m ≠ 0 then f.roundExact mode (decide (d.m < 0)) d.m.natAbs d.e else (f.signed zneg 0, {}))
    let down := decide (mode = .rdn)
    (∃ d, once (f.add mode a b) (ra + rb) d (if ma = 0 ∧ mb = 0 ∧ na = nb then na else down))
    ∧ (∃ d, once (f.sub mode a b) (ra - rb) d (if ma = 0 ∧ mb = 0 ∧ na ≠ nb then na else down))
    ∧ (∃ d, once (f.mul mode a b) (ra * rb) d (na != nb))
    ∧ (∃ d, once (f.fma mode a b c) (ra * rb + ratOf (.fin nc mc ec)) d (if (ma = 0 ∨ mb = 0) ∧ mc = 0 ∧ (na != nb) = nc then nc else down))
    ∧ (ma = 0 → mb ≠ 0 → f.div mode a b = (f.signed (na != nb) 0, {}))
    ∧ (∀ r, r = f.div mode a b → ma ≠ 0 → mb ≠ 0 → r.2.ov = false →
        isRounded f mode r.1 (ra / rb) ∧ (f.value r.1).neg = (na != nb) ∧ (r.2.nx = true ↔ ratOf (f.value r.1) ≠ ra / rb))
    ∧ (∀ r, r = f.rcp mode b → mb ≠ 0 → r.2.ov = false →
        isRounded f mode r.1 (1 / rb) ∧ (f.value r.1).neg = nb ∧ (r.2.nx = true ↔ ratOf (f.value r.1) ≠ 1 / rb))
    ∧ (∀ r, r = f.sqrt mode a → ma ≠ 0 → na = false → let y : Rat := ratOf (f.value r.1)
        isNumber (f.value r.1) ∧ (f.value r.1).neg = false ∧ (r.2.nx = true ↔ y * y ≠ ra)
        ∧ ∀ k : Nat, isNumber (f.value k) → 0 ≤ ratOf (f.value k) → let z : Rat := ratOf (f.value k)
          match mode with
          | .rdn | .rtz => y * y ≤ ra ∧ (z * z ≤ ra → z ≤ y)
          | .rup => ra ≤ y * y ∧ (ra ≤ z * z → y ≤ z)
          | .rne => (y < z → 4 * ra ≤ (y + z) * (y + z)) ∧ (z < y → (y + z) * (y + z) ≤ 4 * ra))
    ∧ (∀ r, r = f.rsq mode a → ma ≠ 0 → na = false → let y : Rat := ratOf (f.value r.1)
        isNumber (f.value r.1) ∧ (f.value r.1).neg = false ∧ (r.2.nx = true ↔ y * y * ra ≠ 1)
        ∧ ∀ k : Nat, isNumber (f.value k) → 0 ≤ ratOf (f.value k) → let z : Rat := ratOf (f.value k)
          match mode with
          | .rdn | .rtz => y * y * ra ≤ 1 ∧ (z * z * ra ≤ 1 → z ≤ y)
          | .rup => 1 ≤ y * y * ra ∧ (1 ≤ z * z * ra → y ≤ z)
          | .rne => (y < z → 4 ≤ (y + z) * (y + z) * ra) ∧ (z < y → (y + z) * (y + z) * ra ≤ 4)))
  ∧ (∀ (f : FFmt) (mode : RMode) (a b c : Word), f = f16 ∨ f = b16 →
    let lo (v : Word) : FVal := f.value (v.toNat % 2 ^ 16)
    let hi (v : Word) : FVal := f.value (v.toNat / 2 ^ 16)
    let z := f32.value c.toNat
    isNumber (lo a) → isNumber (hi a) → isNumber (lo b) → isNumber (hi b) → isNumber z →
    let zero := ((lo a).isZero || (lo b).isZero) && ((hi a).isZero || (hi b).isZero) && z.isZero
    let signs := [(lo a).neg != (lo b).neg, (hi a).neg != (hi b).neg, z.neg]
    ∃ d : Machine.Dyadic, ratOf (lo a) * ratOf (lo b) + ratOf (hi a) * ratOf (hi b) + ratOf z = ((d.m : Int) : Rat) * (2 : Rat) ^ d.e
      ∧ dot2 f mode a b c = (if d.m ≠ 0 then f32.roundExact mode (decide (d.m < 0)) d.m.natAbs d.e
          else (f32.signed (if zero ∧ signs = [true, true, true] then true else if zero ∧ signs = [false, false, false] then false
            else decide (mode = .rdn)) 0, {})))
  ∧ (∀ (c n : Nat) (va vb : Nat → FVal), (∀ i, i < n → isNumber (va i) ∧ isNumber (vb i)) → isNumber (f32.value c) →
    ∃ d : Machine.Dyadic, ratOf (f32.value c) + ((List.range n).map fun i => ratOf (va i) * ratOf (vb i)).sum = ((d.m : Int) : Rat) * (2 : Rat) ^ d.e
      ∧ let r := dotAdd c (dotSum (fun i => (va i).dyadic) (fun i => (vb i).dyadic) n) ((List.range n).any fun i => (va i).isNan || (vb i).isNan)
        (d.m ≠ 0 → r = f32.roundExact .rne (decide (d.m < 0)) d.m.natAbs d.e) ∧ (d.m = 0 → (f32.value r.1).isZero = true ∧ r.2 = {}))

/-- An integer is the rounding of a number in a mode (R82): the nearest on the mode's side, or the nearest of all, and of two the even one. -/
def roundsTo (mode : RMode) (v : Rat) (k : Int) : Prop :=
  match mode with
  | .rdn => (k : Rat) ≤ v ∧ v < k + 1
  | .rup => v ≤ k ∧ (k : Rat) < v + 1
  | .rtz => absOf k ≤ absOf v ∧ absOf v < absOf k + 1 ∧ (k = 0 ∨ (k < 0 ↔ v < 0))
  | .rne => 2 * absOf (k - v) ≤ 1 ∧ (2 * absOf (k - v) = 1 → k % 2 = 0)

/-- A code holds exactly a number, without a condition, in a format. -/
def holdsExactly (f : FFmt) (r : Nat × Conds) (neg : Bool) (v : Rat) : Prop :=
  r.2 = {} ∧ isNumber (f.value r.1) ∧ (f.value r.1).neg = neg ∧ ratOf (f.value r.1) = v

/-- The value of an N8 or N8W code other than 0x80 (R78): `fb` fraction bits and a bias. -/
def narrowValue (fb bias c : Nat) : Rat :=
  let e := c % 128 / 2 ^ fb
  let m := c % 2 ^ fb
  let size : Rat := if e = 0 then (m : Rat) / 2 ^ fb * (2 : Rat) ^ (1 - (bias : Int)) else (1 + (m : Rat) / 2 ^ fb) * (2 : Rat) ^ ((e : Int) - bias)
  if 128 ≤ c then -size else size

/-- What a conversion into N8 or N8W writes for a number (R79, R86): the nearest code, of two the one of even fraction, with a zero written as 0x00; beyond the
largest of the format that one, with narrow saturation. Inexact tells that the value differs, underflow that it then is tiny after rounding. -/
def narrowCode (fb bias : Nat) (v : Rat) (r : Nat × Conds) : Prop :=
  let val := narrowValue fb bias
  let top := val 0x7F
  let y := val r.1
  if top < absOf v then r = (if v < 0 then 0xFF else 0x7F, { nx := true, ns := true })
  else r.1 < 256 ∧ r.1 ≠ 0x80 ∧ (∀ c, c < 256 → c ≠ 0x80 → absOf (y - v) ≤ absOf (val c - v) ∧ (absOf (y - v) = absOf (val c - v) → y = val c ∨ r.1 % 2 = 0))
    ∧ ∃ uf : Bool, r.2 = { nx := decide (y ≠ v), uf := uf }
      ∧ (uf = true ↔ y ≠ v ∧ ∃ (k : Nat) (q : Int), (k : Rat) * (2 : Rat) ^ q < (2 : Rat) ^ (1 - (bias : Int))
          ∧ 2 ^ fb * (2 : Rat) ^ q ≤ absOf v ∧ absOf v < 2 ^ (fb + 1) * (2 : Rat) ^ q
          ∧ roundsTo .rne (absOf v / (2 : Rat) ^ q) k)

/-- R82, R86, R87, R114, R115: the value that each conversion and exponent operation gives. Rounding to an integer gives the nearest of the mode, and tells
whether it is the number; FRND keeps it in the format, never inexact; an integer into a floating format, a conversion between formats and FSCALB
round once; a widening, and a 32-bit integer into FP64, is exact; FEXPN gives the floor of the logarithm, with its codes for the others. -/
def conversionValues : Prop :=
  (∀ (mode : RMode) (neg : Bool) (m : Nat) (e : Int), let r := roundAt mode neg m e 0
    let k : Int := if neg then -(r.1 : Int) else r.1
    roundsTo mode (ratOf (.fin neg m e)) k ∧ (r.2 = true ↔ ratOf (.fin neg m e) = k))
  ∧ (∀ f ∈ [f64, f32], ∀ (mode : RMode) (a : Nat) (n : Int),
    let x := f.value a
    let nan : Nat × Conds := (f.nanCode, { nv := x.isSnan })
    (x.isNan → f.rint mode a = nan ∧ f.scalb mode a n = nan ∧ f.expn a = (0x80000001, { nv := true }))
    ∧ (x.isInf → f.rint mode a = (f.signed x.neg f.infCode, {}) ∧ f.scalb mode a n = (f.signed x.neg f.infCode, {}) ∧ f.expn a = (0x7FFFFFFF, { nv := true }))
    ∧ (x.isZero → f.scalb mode a n = (f.signed x.neg 0, {}) ∧ f.expn a = (0x80000000, { nv := true }))
    ∧ (isNumber x → ∃ k : Int, roundsTo mode (ratOf x) k ∧ holdsExactly f (f.rint mode a) x.neg k)
    ∧ (∀ neg m e, x = .fin neg m e → m ≠ 0 →
      f.scalb mode a n = f.roundExact mode neg m (e + n)
      ∧ ∃ k : Int, f.expn a = (BitVec.ofInt 32 k, {}) ∧ (2 : Rat) ^ k ≤ absOf (ratOf x) ∧ absOf (ratOf x) < (2 : Rat) ^ (k + 1))
    ∧ f.ofInt mode 0 = (0, {}) ∧ (n ≠ 0 → f.ofInt mode n = f.roundExact mode (decide (n < 0)) n.natAbs 0)
    ∧ (absOf n ≤ 2 ^ (f.fbits + 1) → holdsExactly f (f.ofInt mode n) (decide (n < 0)) n))
  ∧ (∀ src ∈ [f64, f32, f16, b16], ∀ dst ∈ [f64, f32, f16, b16], ∀ (mode : RMode) (a : Nat),
    let x := src.value a
    let r := convFF src dst mode a
    (x.isNan → r = (dst.nanCode, { nv := x.isSnan })) ∧ (x.isInf → r = (dst.signed x.neg dst.infCode, {}))
    ∧ (x.isZero → r = (dst.signed x.neg 0, {}))
    ∧ (∀ neg m e, x = .fin neg m e → m ≠ 0 → r = dst.roundExact mode neg m e)
    ∧ (isNumber x → src.fbits ≤ dst.fbits → src.ebits ≤ dst.ebits → holdsExactly dst r x.neg (ratOf x)))

/-- R78 to R80, R86, R87, R119 to R121: into N8 and N8W, N4, I8 and I4 the nearest code is written, or the nearest bound; the codes of a packed format have the
values of their tables, each of which FP32 holds exactly; an S8 scale is (1 + f/4) × 2^(e − 31), 0 for 0x00 and the poison of 0xFF. That an I8 or I4 result whose
fraction is dropped raises inexact is the model's reading (log entry 13, DEDUCED). -/
def packedValues : Prop :=
  (∀ (mode : RMode) (c : Nat), let x := f32.value c
    PkCode.encode .f16 mode x = convFF f32 f16 mode c ∧ PkCode.encode .bf16 mode x = convFF f32 b16 mode c
    ∧ (x.isNan → PkCode.encode .n8 mode x = (0x80, { nv := x.isSnan }) ∧ PkCode.encode .n8w mode x = (0x80, { nv := x.isSnan })
      ∧ PkCode.encode .n4 mode x = (0, { nv := true }) ∧ PkCode.encode .i8 mode x = (0, { nv := true }) ∧ PkCode.encode .i4 mode x = (0, { nv := true }))
    ∧ (∀ n, x = .inf n → PkCode.encode .n8 mode x = (if n then 0xFF else 0x7F, { nx := true, ns := true })
      ∧ PkCode.encode .n8w mode x = (if n then 0xFF else 0x7F, { nx := true, ns := true })
      ∧ PkCode.encode .n4 mode x = (if n then 15 else 7, { nx := true, ns := true })
      ∧ PkCode.encode .i8 mode x = (if n then 0x80 else 0x7F, { nv := true }) ∧ PkCode.encode .i4 mode x = (if n then 8 else 7, { nv := true }))
    ∧ (isNumber x → let v := ratOf x
      let val (k : Nat) : Rat := if k % 8 = 0 then 0 else (if 8 ≤ k then -1 else 1) * (2 : Rat) ^ (((k % 8 : Nat) : Int) - 4)
      let four := PkCode.encode .n4 mode x
      let int (w : Nat) (r : Nat × Conds) : Prop := ∃ q : Int, roundsTo .rne v q ∧
        r = if q < -2 ^ (w - 1) then (2 ^ (w - 1), { nv := true }) else if 2 ^ (w - 1) - 1 < q then (2 ^ (w - 1) - 1, { nv := true })
          else ((BitVec.ofInt w q).toNat, { nx := decide (v ≠ q) })
      narrowCode 4 3 v (PkCode.encode .n8 mode x) ∧ narrowCode 2 15 v (PkCode.encode .n8w mode x)
      ∧ int 8 (PkCode.encode .i8 mode x) ∧ int 4 (PkCode.encode .i4 mode x)
      ∧ (if 8 < absOf v then four = (if v < 0 then 15 else 7, { nx := true, ns := true })
        else four.1 < 16 ∧ four.1 ≠ 8 ∧ four.2 = { nx := decide (val four.1 ≠ v) }
          ∧ ∀ k, k < 16 → absOf (val four.1 - v) ≤ absOf (val k - v) ∧ (absOf (val four.1 - v) = absOf (val k - v) → val four.1 = val k ∨ four.1 % 2 = 0))))
  ∧ (∀ c : Nat,
    PkCode.value .f16 c = f16.value c ∧ PkCode.value .bf16 c = b16.value c
    ∧ (c < 256 → let n8 := PkCode.value .n8 c
      let n8w := PkCode.value .n8w c
      (c = 0x80 → n8 = .nan false ∧ n8w = .nan false)
      ∧ (c ≠ 0x80 → isNumber n8 ∧ ratOf n8 = narrowValue 4 3 c ∧ isNumber n8w ∧ ratOf n8w = narrowValue 2 15 c)
      ∧ isNumber (PkCode.value .i8 c) ∧ ratOf (PkCode.value .i8 c) = (BitVec.ofNat 8 c).toInt
      ∧ (c = 0 → s8Value c = .fin false 0 0) ∧ (c = 255 → s8Value c = .nan false)
      ∧ (c ≠ 0 → c ≠ 255 → isNumber (s8Value c) ∧ ratOf (s8Value c) = (1 + ((c % 4 : Nat) : Rat) / 4) * (2 : Rat) ^ (((c / 4 : Nat) : Int) - 31)))
    ∧ (c < 16 → isNumber (PkCode.value .i4 c) ∧ ratOf (PkCode.value .i4 c) = (BitVec.ofNat 4 c).toInt
      ∧ isNumber (PkCode.value .n4 c) ∧ (c % 8 = 0 → (PkCode.value .n4 c).neg = false)
      ∧ ratOf (PkCode.value .n4 c) = if c % 8 = 0 then 0 else (if 8 ≤ c then -1 else 1) * (2 : Rat) ^ (((c % 8 : Nat) : Int) - 4)))
  ∧ (∀ (k : PkCode) (c : Nat), let x := PkCode.value k c
    let r := widen32 x
    (x.isNan → r = (f32.nanCode, { nv := x.isSnan })) ∧ (x.isInf → r = (f32.signed x.neg f32.infCode, {}))
    ∧ (isNumber x → holdsExactly f32 r x.neg (ratOf x)))

/-- R86, R87, R113 to R115: the conversions and exponent operations complete. R86: a conversion to an integer: a NaN gives 0, an infinity or
a number out of range gives the nearest bound, each with invalid and nothing else; the others give the value that `conversionValues` says. That the range is judged after rounding is the model's choice (log entry
65, DESIGN CHOICE), and that a number in range whose fraction is dropped raises inexact is the model's reading (log entry 13, DEDUCED). -/
def Obligations.ConversionsComplete : Prop :=
  (∀ (x : Ops) (w : Bool) (r : Rnd) (ty : ITy) (k : FfCode),
    let f : FFmt := if w then f64 else f32
    let bits : Nat := if ty.wide then 64 else 32
    let a (t : Thread) : Nat := if w then (t.pair x.a).toNat else (t.rd x.a).toNat
    let int (t : Thread) : Int :=
      match ty with
      | .i32 => (t.rd x.a).toInt
      | .z32 => (t.rd x.a).toNat
      | .i64 => (t.pair x.a).toInt
      | .z64 => (t.pair x.a).toNat
    Computes (.cvtfi x r w ty) (fun t =>
        let v := (f.value (a t)).toInt (modeFor r t) bits ty.unsigned
        { ws := wN ty.wide x.d (BitVec.ofInt 64 v.1), conds := [v.2] })
    ∧ Computes (.cvtif x r w ty) (fun t => fpResult w x (f.ofInt (modeFor r t) (int t)))
    ∧ Computes (.cvtff x r k) (fun t =>
        let lo := (t.rd x.a).toNat
        let m := modeFor r t
        match k with
        | .f32f64 => fpResult false x (convFF f64 f32 m (t.pair x.a).toNat)
        | .f64f32 => fpResult true x (convFF f32 f64 m lo)
        | .f16f32 => fpResult false x (convFF f32 f16 m lo)
        | .f32f16 => fpResult false x (convFF f16 f32 m (lo % 2 ^ 16))
        | .bf16f32 => fpResult false x (convFF f32 b16 m lo)
        | .f32bf16 => fpResult false x (convFF b16 f32 m (lo % 2 ^ 16))
        | .f16f64 => fpResult false x (convFF f64 f16 m (t.pair x.a).toNat)
        | .f64f16 => fpResult true x (convFF f16 f64 m (lo % 2 ^ 16)))
    ∧ Computes (.frnd x r w) (fun t => fpResult w x (f.rint (modeFor r t) (a t)))
    ∧ Computes (.fscalb x r w) (fun t => fpResult w x (f.scalb (modeFor r t) (a t) (srcB x t).toInt))
    ∧ Computes (.fexpn x w) (fun t => { ws := [(x.d, (f.expn (a t)).1)], conds := [(f.expn (a t)).2] }))
  ∧ (∀ (mode : RMode) (w : Nat) (u neg : Bool) (m : Nat) (e : Int), w ∈ [4, 8, 32, 64] →
    let lo : Int := if u then 0 else -2 ^ (w - 1)
    let hi : Int := if u then 2 ^ w - 1 else 2 ^ (w - 1) - 1
    let r := roundAt mode neg m e 0
    let v : Int := if neg then -(r.1 : Int) else r.1
    (∀ q, (FVal.nan q).toInt mode w u = (0, { nv := true }))
    ∧ (FVal.inf neg).toInt mode w u = (if neg then lo else hi, { nv := true })
    ∧ (FVal.fin neg m e).toInt mode w u =
        (if v < lo then (lo, { nv := true }) else if hi < v then (hi, { nv := true }) else (v, { nx := !r.2 })))
  ∧ conversionValues

/-- R116 to R121: packed 16-bit arithmetic works lane by lane; FDOT2 adds both exact products to the FP32 addend with one rounding; PCVT
packs 32-bit sources into narrow elements, and UPCVT unpacks one. R142 to R145: the narrow dot products add every exact product to the
addend; the integer ones clamp once, the floating ones round once to nearest; PSCL multiplies by its scale. R78 to R80, R86, R87: the codes and the values of
the packed formats. -/
def Obligations.PackedAndNarrowInstructionsComplete : Prop :=
  (∀ (x : Ops) (r : Rnd) (bf : Bool) (k : PkCode),
    let f : FFmt := if bf then b16 else f16
    let lo (v : Word) : Nat := v.toNat % 2 ^ 16
    let hi (v : Word) : Nat := v.toNat / 2 ^ 16
    let both (p q : Nat × Conds) : Eff := { ws := [(x.d, BitVec.ofNat 32 (p.1 + 2 ^ 16 * q.1))], conds := [p.2, q.2] }
    let n := k.elems
    let source (i : Nat) : Reg := if i < n / 2 then x.a + BitVec.ofNat 8 i else x.b + BitVec.ofNat 8 (i - n / 2)
    Computes (.hadd2 x r bf) (fun t => both (f.add (modeFor r t) (lo (t.rd x.a)) (lo (srcB x t))) (f.add (modeFor r t) (hi (t.rd x.a)) (hi (srcB x t))))
    ∧ Computes (.hmul2 x r bf) (fun t => both (f.mul (modeFor r t) (lo (t.rd x.a)) (lo (srcB x t))) (f.mul (modeFor r t) (hi (t.rd x.a)) (hi (srcB x t))))
    ∧ Computes (.hfma2 x r bf) (fun t =>
        both (f.fma (modeFor r t) (lo (t.rd x.a)) (lo (srcB x t)) (lo (t.rd x.c))) (f.fma (modeFor r t) (hi (t.rd x.a)) (hi (srcB x t)) (hi (t.rd x.c))))
    ∧ Computes (.fdot2 x r bf) (fun t => fpResult false x (dot2 f (modeFor r t) (t.rd x.a) (srcB x t) (t.rd x.c)))
    ∧ Computes (.pcvt x r k) (fun t =>
        let es := (List.range n).map fun i => PkCode.encode k (modeFor r t) (f32.value (t.rd (source i)).toNat)
        { ws := [(x.d, BitVec.ofNat 32 ((List.range n).map fun i => (es.getD i (0, {})).1 % 2 ^ (32 / n) * 2 ^ (32 / n * i)).sum)],
          conds := es.map fun q => q.2 })
    ∧ Computes (.upcvt x k) (fun t => fpResult false x (widen32 (PkCode.value k ((t.rd x.a).toNat / 2 ^ (32 / n * x.c.toNat) % 2 ^ (32 / n))))))
  ∧ (∀ (x : Ops) (p q : Bool) (r : Rnd),
    let byte (v : Word) (i : Nat) : Nat := v.toNat / 2 ^ (8 * i) % 256
    let nibble (v : Word) (i : Nat) : Nat := v.toNat / 2 ^ (4 * i) % 16
    let int8 (z : Bool) (v : Word) (i : Nat) : Int := if z then (byte v i : Int) else (BitVec.ofNat 8 (byte v i)).toInt
    let int4 (v : Word) (i : Nat) : Int := (BitVec.ofNat 4 (nibble v i)).toInt
    let clamp (v : Int) : Eff :=
      { ws := [(x.d, BitVec.ofInt 32 (max (-2 ^ 31) (min v (2 ^ 31 - 1))))], conds := [{ ns := decide (v < -2 ^ 31 ∨ 2 ^ 31 - 1 < v) }] }
    Computes (.doti8 x p q) (fun t =>
        clamp ((t.rd x.c).toInt + ((List.range 4).map fun i => int8 p (t.rd x.a) i * int8 q (t.rd x.b) i).sum))
    ∧ Computes (.doti4 x) (fun t => clamp ((t.rd x.c).toInt + ((List.range 8).map fun i => int4 (t.rd x.a) i * int4 (t.rd x.b) i).sum))
    ∧ Computes (.dotn8 x p q) (fun t =>
        let a (i : Nat) : FVal := (nfmtW p).value (byte (t.rd x.a) i)
        let b (i : Nat) : FVal := (nfmtW q).value (byte (t.rd x.b) i)
        fpResult false x (dotAdd (t.rd x.c).toNat (dotSum (fun i => (a i).dyadic) (fun i => (b i).dyadic) 4)
          ((List.range 4).any fun i => (a i).isNan || (b i).isNan)))
    ∧ Computes (.dotn4 x) (fun t =>
        let a (i : Nat) : FVal := n4Value (nibble (t.rd x.a) i)
        let b (i : Nat) : FVal := n4Value (nibble (t.rd x.b) i)
        fpResult false x (dotAdd (t.rd x.c).toNat (dotSum (fun i => (a i).dyadic) (fun i => (b i).dyadic) 8)
          ((List.range 8).any fun i => (a i).isNan || (b i).isNan)))
    ∧ Computes (.pscl x r) (fun t =>
        let c := byte (t.rd x.b) x.c.toNat
        if c = 0xFF then { ws := [(x.d, 0x7FC00000)] }
        else fpResult false x (f32.mulV (modeFor r t) (f32.value (t.rd x.a).toNat) (s8Value c))))
  ∧ packedValues

/-! ### Row 0x4: intervals -/

/-- R124, R125: two bounds are an interval when they are ordered numbers, +∞ not below and −∞ not above; [+∞, −∞] is the empty one;
anything else is malformed. -/
def ivPair (f : FFmt) (lo hi : Nat) : Option Iv :=
  match f.value lo, f.value hi with
  | .nan _, _ | _, .nan _ => none
  | .inf false, .inf true => some .empty
  | .inf false, _ | _, .inf true => none
  | a, b => if a.cmp b = .gt then none else some (.mk a b)

/-- The interval that a register operand holds (R124). -/
def ivIn (w : Bool) (t : Thread) (r : Reg) : Option Iv :=
  if w then ivPair f64 (t.pair r).toNat (t.pair (r + 2)).toNat else ivPair f32 (t.rd r).toNat (t.rd (r + 1)).toNat

/-- R128: what an empty interval leaves before anything else: EI in the mode word, and one empty-interval event. -/
def State.sawEmpty (s : State) (e : Env) : State := (s.setFlags e.ref 0x2000).count e.counter [4]

/-- R126, R128: an interval instruction has written a result; `empty` tells that it consumed or produced an empty interval. -/
def ivDone (i : Instr) (s : State) (e : Env) (empty : Bool) (ws : List (Reg × Word)) : Host.Outcome State Fault Refusal :=
  .next ((if empty then State.sawEmpty (s.counted e i) e else s.counted e i).leaving e i ws [] (e.nextPc i))

/-- The writes of an interval's two bound codes (R124). -/
def ivWrites (w : Bool) (d : Reg) (lo hi : Nat) : List (Reg × Word) :=
  if w then w2 d (BitVec.ofNat 64 lo) ++ w2 (d + 2) (BitVec.ofNat 64 hi) else [(d, BitVec.ofNat 32 lo), (d + 1, BitVec.ofNat 32 hi)]

/-- R127 to R134: on well-formed operands the interval instructions complete: with the outward-rounded image where no interval is empty,
and, where one is, with the empty result after EI and one event, provided `.e` or the lenient policy allows it. R129: IVMK builds an
interval from two bounds, from one number, or from an interval of the other width. -/
def Obligations.IntervalInstructionsComplete : Prop :=
  (∀ (x : Ops) (ex w : Bool) (s : State) (e : Env) (a b : Iv),
    let f : FFmt := if w then f64 else f32
    let out (r : Iv) : List (Reg × Word) := ivWrites w x.d (f.ivCodes r).1 (f.ivCodes r).2
    let allowed (empty : Bool) : Prop := empty = true → ex = true ∨ e.t.mode.getLsbD 4 = true
    let two (i : Instr) (r : Iv) : Prop :=
      let empty := decide (a = .empty) || decide (b = .empty) || decide (r = .empty)
      Runs i s e → allowed empty → exec i s = ivDone i s e empty (out r)
    let one (i : Instr) (r : Iv) : Prop :=
      Runs i s e → allowed (decide (a = .empty) || decide (r = .empty)) →
        exec i s = ivDone i s e (decide (a = .empty) || decide (r = .empty)) (out r)
    let number (i : Instr) (v : Nat) : Prop :=
      Runs i s e → allowed (decide (a = .empty)) → exec i s = ivDone i s e (decide (a = .empty)) (wN w x.d (BitVec.ofNat 64 v))
    let coded (r : Option (Nat × Nat)) : Nat × Nat := r.getD (f.ivCodes .empty)
    ivIn w e.t x.a = some a →
      (ivIn w e.t x.b = some b →
        two (.ivadd x ex w) (a.add b) ∧ two (.ivsub x ex w) (a.add b.negate) ∧ two (.ivmul x ex w) (a.mul b)
        ∧ two (.ivmeet x ex w) (a.meet b) ∧ two (.ivjoin x ex w) (a.hull b)
        ∧ (let empty := decide (a = .empty) || decide (b = .empty)
           let i : Instr := .ivdiv x ex w
           Runs i s e → allowed empty →
             exec i s = ivDone i s e empty (ivWrites w x.d (coded (f.ivDiv a b)).1 (coded (f.ivDiv a b)).2))
        ∧ ∀ r, (let empty := decide (a = .empty) || decide (b = .empty)
           let i : Instr := .ivcmp x r ex w
           Runs i s e → allowed empty → exec i s = ivDone i s e empty [(x.d, ivCmp r a b)]))
      ∧ one (.ivsqr x ex w) a.sqr ∧ one (.ivneg x ex w) a.negate ∧ one (.ivabs x ex w) a.abs
      ∧ (let empty := decide (a = .empty) || (f.ivSqrt a).isNone
         let i : Instr := .ivsqrt x ex w
         Runs i s e → allowed empty →
           exec i s = ivDone i s e empty (ivWrites w x.d (coded (f.ivSqrt a)).1 (coded (f.ivSqrt a)).2))
      ∧ (∀ lo hi, a = .mk lo hi → number (.ivmid x ex w) (f.ivMid lo hi)) ∧ (a = .empty → number (.ivmid x ex w) f.nanCode)
      ∧ number (.ivwid x ex w) (f.ivWid a)
      ∧ ∀ q, Runs (.ivtest x q w) s e →
          exec (.ivtest x q w) s = ivDone (.ivtest x q w) s e false [(x.d, if ivTest q a (f.value (rdN w e.t x.b).toNat) then 1 else 0)])
  ∧ (∀ (x : Ops) (ex w : Bool) (s : State) (e : Env) (v : Iv),
    let f : FFmt := if w then f64 else f32
    let imm : Nat := if w then widenImm (imm32 x).toNat else (imm32 x).toNat
    let b : Nat := if x.len = .s then (rdN w e.t x.b).toNat else imm
    let p : Nat := if x.len = .s then (rdN w e.t x.a).toNat else imm
    let goes (k : IvmkKind) (v : Iv) : Prop :=
      let empty := decide (v = .empty)
      Runs (.ivmk x k ex w) s e → (empty = true → ex = true ∨ e.t.mode.getLsbD 4 = true) →
        exec (.ivmk x k ex w) s = ivDone (.ivmk x k ex w) s e empty (ivWrites w x.d (f.ivCodes v).1 (f.ivCodes v).2)
    (ivPair f (rdN w e.t x.a).toNat b = some v → goes .bounds v)
    ∧ ((f.value p).isNan = false → (f.value p).isInf = false → goes .pt (.mk (f.value p) (f.value p)))
    ∧ (ivIn (!w) e.t x.a = some v → goes .cvt v))

/-- R125, R129, R380: a malformed operand, of A or of B, is the malformed-interval fault, with no other change but the counts of the reads; here
for a thread with no division in flight (R95); so are the bounds of an IVMK that are none, and the point that is no number. R128: without
`.e` and under the strict policy, an empty operand, or an empty result, is the empty-interval fault after EI and one event. -/
def Obligations.IntervalFaults : Prop :=
  (∀ (x : Ops) (ex w : Bool) (s : State) (e : Env),
    let trap (i : Instr) : Prop := Runs i s e → e.t.dividing = false →
      exec i s = .next ((s.counted e i).takeTrap e.ref
        { cause := .malformedInterval, deferred := false, epc := e.t.pc, eaddr := 0, einfo := 0, einst := e.words })
    (ivIn w e.t x.a = none →
      trap (.ivadd x ex w) ∧ trap (.ivsub x ex w) ∧ trap (.ivmul x ex w) ∧ trap (.ivdiv x ex w) ∧ trap (.ivsqr x ex w)
      ∧ trap (.ivsqrt x ex w) ∧ trap (.ivneg x ex w) ∧ trap (.ivabs x ex w) ∧ trap (.ivmeet x ex w) ∧ trap (.ivjoin x ex w)
      ∧ trap (.ivmid x ex w) ∧ trap (.ivwid x ex w) ∧ (∀ r, trap (.ivcmp x r ex w)) ∧ ∀ q, trap (.ivtest x q w))
    ∧ (ivIn w e.t x.b = none → trap (.ivadd x ex w) ∧ trap (.ivsub x ex w) ∧ trap (.ivmul x ex w) ∧ trap (.ivdiv x ex w)
      ∧ trap (.ivmeet x ex w) ∧ trap (.ivjoin x ex w) ∧ ∀ r, trap (.ivcmp x r ex w))
    ∧ (ivIn w e.t x.a = none → (regRange 0 (16 * e.st.gran)).all e.t.full = true → trap (.ivsplit x ex w))
    ∧ (let f : FFmt := if w then f64 else f32
       let imm : Nat := if w then widenImm (imm32 x).toNat else (imm32 x).toNat
       let p : FVal := f.value (if x.len = .s then (rdN w e.t x.a).toNat else imm)
       (ivPair f (rdN w e.t x.a).toNat (if x.len = .s then (rdN w e.t x.b).toNat else imm) = none → trap (.ivmk x .bounds ex w))
       ∧ (p.isNan = true ∨ p.isInf = true → trap (.ivmk x .pt ex w))
       ∧ (ivIn (!w) e.t x.a = none → trap (.ivmk x .cvt ex w))))
  ∧ (∀ (x : Ops) (w : Bool) (s : State) (e : Env),
    let trap (i : Instr) : Prop := Runs i s e → e.t.dividing = false → e.t.mode.getLsbD 4 = false →
      exec i s = .next ((State.sawEmpty (s.counted e i) e).takeTrap e.ref
        { cause := .emptyInterval, deferred := false, epc := e.t.pc, eaddr := 0, einfo := 0, einst := e.words })
    let f : FFmt := if w then f64 else f32
    (ivIn w e.t x.a = some .empty →
      trap (.ivsqr x false w) ∧ trap (.ivsqrt x false w) ∧ trap (.ivneg x false w) ∧ trap (.ivabs x false w) ∧ trap (.ivmid x false w)
      ∧ trap (.ivwid x false w) ∧ ((regRange 0 (16 * e.st.gran)).all e.t.full = true → trap (.ivsplit x false w)))
    ∧ (∀ a b, ivIn w e.t x.a = some a → ivIn w e.t x.b = some b →
      (a = .empty ∨ b = .empty → trap (.ivadd x false w) ∧ trap (.ivsub x false w) ∧ trap (.ivmul x false w) ∧ trap (.ivdiv x false w)
        ∧ trap (.ivmeet x false w) ∧ trap (.ivjoin x false w) ∧ ∀ r, trap (.ivcmp x r false w))
      ∧ (a.meet b = .empty → trap (.ivmeet x false w)))
    ∧ (∀ a, ivIn w e.t x.a = some a → f.ivSqrt a = none → trap (.ivsqrt x false w))
    ∧ (let imm : Nat := if w then widenImm (imm32 x).toNat else (imm32 x).toNat
       ivPair f (rdN w e.t x.a).toNat (if x.len = .s then (rdN w e.t x.b).toNat else imm) = some .empty → trap (.ivmk x .bounds false w))
    ∧ (ivIn (!w) e.t x.a = some .empty → trap (.ivmk x .cvt false w)))

/-- A number lies in an interval. -/
def ivHas (a : Iv) (q : Rat) : Prop :=
  match a with
  | .empty => False
  | .mk lo hi => (lo = .inf true ∨ (isNumber lo ∧ ratOf lo ≤ q)) ∧ (hi = .inf false ∨ (isNumber hi ∧ q ≤ ratOf hi))

/-- The interval of two bound codes. -/
def ivOfCodes (f : FFmt) (c : Nat × Nat) : Iv := .mk (f.value c.1) (f.value c.2)

/-- A bound that is zero is +0 (R127). -/
def plusZero (f : FFmt) (code : Nat) : Prop := (f.value code).isZero = true → code = 0

/-- The bounds enclose a set of numbers, and no other bounds of the format that do lie closer; one that is zero is +0 (R127). -/
def tightest (f : FFmt) (c : Nat × Nat) (members : Rat → Prop) : Prop :=
  plusZero f c.1 ∧ plusZero f c.2
  ∧ (∀ q, members q → ivHas (ivOfCodes f c) q)
  ∧ ∀ d : Nat × Nat, (∀ q, members q → ivHas (ivOfCodes f d) q) →
      (f.value d.1).cmp (f.value c.1) ≠ .gt ∧ (f.value c.2).cmp (f.value d.2) ≠ .gt

/-- The strict order of values that are no NaN. -/
def ltVal (x y : FVal) : Prop := leVal x y ∧ ¬leVal y x

/-- Two values are the same number or the same infinity. -/
def eqVal (x y : FVal) : Prop := leVal x y ∧ leVal y x

/-- The three-valued encoding of when a comparison is true and when it is false (R81). -/
def isTri (v : Word) (true_ false_ : Prop) : Prop := (true_ → v = 1) ∧ (false_ → v = 0) ∧ (¬true_ → ¬false_ → v = 0xFFFFFFFF)

/-- The encoding of a comparison that is true or false (R81). -/
def isTwo (v : Word) (true_ : Prop) : Prop := (true_ → v = 1) ∧ (¬true_ → v = 0)

/-- R133: a midpoint code. It is the code of a number of the interval, no −0; strictly between the bounds where the format has such a number, and otherwise the
lower bound, or the upper one where the lower is infinite; between finite bounds it is their mean, rounded to nearest; with one infinite bound, the
largest number on that side, and with two, 0. -/
def midpointOf (f : FFmt) (lo hi : FVal) (code : Nat) : Prop :=
  let v := f.value code
  let between (c : Nat) : Prop := isNumber (f.value c) ∧ ltVal lo (f.value c) ∧ ltVal (f.value c) hi
  isNumber v ∧ leVal lo v ∧ leVal v hi ∧ (ratOf v = 0 → code = 0)
  ∧ ((∀ c, ¬between c) → if lo = .inf true then eqVal v hi else eqVal v lo)
  ∧ ((∃ c, between c) → ltVal lo v ∧ ltVal v hi
    ∧ (isNumber lo → isNumber hi → isRounded f .rne code ((ratOf lo + ratOf hi) / 2))
    ∧ (lo = .inf true → hi = .inf false → code = 0)
    ∧ (lo = .inf true → isNumber hi → ∀ c, isNumber (f.value c) → ratOf v ≤ ratOf (f.value c))
    ∧ (isNumber lo → hi = .inf false → ∀ c, isNumber (f.value c) → ratOf (f.value c) ≤ ratOf v))

/-- R134: a width code: the least of the format that is not below the distance of the bounds, +∞ where no number is or a bound is infinite, and +0 for a point. -/
def widthOf (f : FFmt) (lo hi : FVal) (code : Nat) : Prop :=
  let v := f.value code
  plusZero f code ∧ (lo = .inf true ∨ hi = .inf false → v = .inf false)
  ∧ (isNumber lo → isNumber hi →
    (v = .inf false ∧ ∀ c, isNumber (f.value c) → ratOf (f.value c) < ratOf hi - ratOf lo)
    ∨ (isNumber v ∧ ratOf hi - ratOf lo ≤ ratOf v ∧ (∀ c, isNumber (f.value c) → ratOf hi - ratOf lo ≤ ratOf (f.value c) → ratOf v ≤ ratOf (f.value c))
      ∧ (eqVal lo hi → code = 0)))

/-- R135 to R137: the relations of two intervals, where one is empty and where none is, and the tests of an interval. -/
def intervalTables (f : FFmt) : Prop :=
  (∀ a b c d : FVal, (∃ k l, a = f.value k ∧ b = f.value l) → (∃ k l, c = f.value k ∧ d = f.value l) → a.isNan = false → b.isNan = false →
    c.isNan = false → d.isNan = false →
    let r (k : IvRel) : Word := ivCmp k (.mk a b) (.mk c d)
    let apart : Prop := ltVal b c ∨ ltVal d a
    let point : Prop := eqVal a b ∧ eqVal b c ∧ eqVal c d
    leVal a b → leVal c d →
      isTri (r .lt) (ltVal b c) (leVal d a) ∧ isTri (r .le) (leVal b c) (ltVal d a) ∧ isTri (r .gt) (ltVal d a) (leVal b c)
      ∧ isTri (r .ge) (leVal d a) (ltVal b c) ∧ isTri (r .eq) point apart ∧ isTri (r .ne) apart point
      ∧ isTwo (r .sub) (leVal c a ∧ leVal b d)
      ∧ isTwo (r .int) ((ltVal c a ∨ (a = .inf true ∧ c = .inf true)) ∧ (ltVal b d ∨ (b = .inf false ∧ d = .inf false)))
      ∧ isTwo (r .dis) apart ∧ isTwo (r .seq) (eqVal a c ∧ eqVal b d) ∧ isTwo (r .clt) (ltVal b c) ∧ isTwo (r .cle) (leVal b c)
      ∧ isTwo (r .plt) (ltVal a d) ∧ isTwo (r .ple) (leVal a d))
  ∧ (∀ x y : Iv, x = .empty ∨ y = .empty →
    (∀ k ∈ [IvRel.lt, .le, .gt, .ge, .eq, .ne], ivCmp k x y = 0xFFFFFFFF) ∧ (∀ k ∈ [IvRel.sub, .int], isTwo (ivCmp k x y) (x = .empty))
    ∧ ivCmp .dis x y = 1 ∧ isTwo (ivCmp .seq x y) (x = .empty ∧ y = .empty) ∧ ∀ k ∈ [IvRel.clt, .cle, .plt, .ple], ivCmp k x y = 0)
  ∧ (∀ v : FVal, ivTest .empty .empty v = true ∧ ∀ q, q ≠ .empty → ivTest q .empty v = false)
  ∧ (∀ (k l : Nat) (v : FVal),
    let a := f.value k
    let b := f.value l
    a.isNan = false → b.isNan = false → leVal a b →
      ivTest .empty (.mk a b) v = false ∧ (ivTest .entire (.mk a b) v = true ↔ a = .inf true ∧ b = .inf false)
      ∧ (ivTest .bnd (.mk a b) v = true ↔ isNumber a ∧ isNumber b) ∧ (ivTest .pt (.mk a b) v = true ↔ eqVal a b)
      ∧ (ivTest .zero (.mk a b) v = true ↔ leVal a (.fin false 0 0) ∧ leVal (.fin false 0 0) b)
      ∧ (ivTest .mem (.mk a b) v = true ↔ v.isNan = false ∧ leVal a v ∧ leVal v b))

/-- R127, R129 to R132: for nonempty operands the written bounds are the tightest of the format that enclose every exact result of members of
the operands: sum, difference, product, quotient (R131: by an interval without 0; otherwise the whole line), opposite, magnitude, square,
intersection, hull, and an interval of the other format; and the bounds of a root are the closest whose squares enclose the operand's part
from 0 on, which there is exactly when the operand has a member from 0 on. R128, R132: an empty operand gives the empty result, and the hull the other
operand. A bound, a midpoint or a width that is zero is +0. R133 to R137: midpoints, widths, relations and tests. -/
def Obligations.IntervalResultsEnclose : Prop :=
  (∀ f ∈ [f64, f32], ∀ g ∈ [f64, f32], ∀ (al ah bl bh : Nat) (a b : Iv),
  ivPair f al ah = some a → ivPair f bl bh = some b → a ≠ .empty → b ≠ .empty →
    let both (c : Nat × Nat) (op : Rat → Rat → Rat) : Prop := tightest f c fun q => ∃ u v, ivHas a u ∧ ivHas b v ∧ q = op u v
    let one (c : Nat × Nat) (op : Rat → Rat) : Prop := tightest f c fun q => ∃ u, ivHas a u ∧ q = op u
    both (f.ivCodes (a.add b)) (fun u v => u + v) ∧ both (f.ivCodes (a.add b.negate)) (fun u v => u - v) ∧ both (f.ivCodes (a.mul b)) (fun u v => u * v)
    ∧ (∃ c, f.ivDiv a b = some c ∧ (¬ivHas b 0 → both c fun u v => u / v)
        ∧ (ivHas b 0 → f.value c.1 = .inf true ∧ f.value c.2 = .inf false))
    ∧ one (f.ivCodes a.negate) (fun u => -u) ∧ one (f.ivCodes a.abs) absOf ∧ one (f.ivCodes a.sqr) (fun u => u * u)
    ∧ tightest f (f.ivCodes (a.hull b)) (fun q => ivHas a q ∨ ivHas b q)
    ∧ (a.meet b ≠ .empty → tightest f (f.ivCodes (a.meet b)) fun q => ivHas a q ∧ ivHas b q)
    ∧ ((∀ q, ivHas a q → ¬ivHas b q) → a.meet b = .empty)
    ∧ (∀ gl gh v, ivPair g gl gh = some v → v ≠ .empty → tightest f (f.ivCodes v) (ivHas v))
    ∧ ((∀ u, ivHas a u → u < 0) → f.ivSqrt a = none) ∧ ((∃ u, ivHas a u ∧ 0 ≤ u) → (f.ivSqrt a).isSome = true)
    ∧ (∀ c, f.ivSqrt a = some c →
        let l := f.value c.1
        let h := f.value c.2
        plusZero f c.1 ∧ plusZero f c.2 ∧ (isNumber l ∧ 0 ≤ ratOf l ∧ (ratOf l = 0 ∨ ∀ u, ivHas a u → ratOf l * ratOf l ≤ u))
        ∧ (h = .inf false ∨ (isNumber h ∧ 0 ≤ ratOf h ∧ ∀ u, ivHas a u → u ≤ ratOf h * ratOf h))
        ∧ ∀ z : Nat, isNumber (f.value z) → 0 ≤ ratOf (f.value z) →
          ((∀ u, ivHas a u → ratOf (f.value z) * ratOf (f.value z) ≤ u) → ratOf (f.value z) ≤ ratOf l)
          ∧ ((∀ u, ivHas a u → u ≤ ratOf (f.value z) * ratOf (f.value z)) → isNumber h ∧ ratOf h ≤ ratOf (f.value z)))
    ∧ ∀ lo hi, a = .mk lo hi → midpointOf f lo hi (f.ivMid lo hi) ∧ widthOf f lo hi (f.ivWid a))
  ∧ (∀ f ∈ [f64, f32], intervalTables f ∧ (∀ mode x, x.isNan = false → plusZero f (f.bound mode x)) ∧ f.value f.nanCode = .nan false ∧ f.ivWid .empty = f.nanCode ∧ f.ivSqrt .empty = none
      ∧ ∀ b : Iv, f.ivDiv .empty b = none ∧ f.ivDiv b .empty = none)
  ∧ ∀ b : Iv, Iv.add .empty b = .empty ∧ Iv.add b .empty = .empty ∧ Iv.mul .empty b = .empty ∧ Iv.mul b .empty = .empty ∧ Iv.meet .empty b = .empty
      ∧ Iv.meet b .empty = .empty ∧ Iv.hull .empty b = b ∧ Iv.hull b .empty = b ∧ Iv.negate .empty = .empty ∧ Iv.abs .empty = .empty
      ∧ Iv.sqr .empty = .empty

/-! ### Row 0x7: control flow and traps -/

/-- R28, R195: branches and calls to a multiple of 4 complete there; a call writes the address of the instruction after it, and CALLX reads
its target before it writes. R28: a target that is not a multiple of 4 is a misalignment fault that reports the target; no register is
written (no division in flight). -/
def Obligations.BranchesAndCallsComplete : Prop :=
  (∀ (x : Ops) (s : State) (e : Env),
    let pc := e.t.pc
    let rel : DWord := pc + (BitVec.ofNat 32 x.ext.toNat).signExtend 64
    let rel2 : DWord := pc + (BitVec.ofNat 32 (x.ext.toNat / 2 ^ 32)).signExtend 64
    let a := e.t.pair x.a
    let p := e.t.rd x.a
    let goes (i : Instr) (ws : List (Reg × Word)) (tgt : DWord) : Prop :=
      Runs i s e → tgt &&& 3 = 0 → exec i s = .next ((s.counted e i).leaving e i ws [] tgt)
    goes (.bra x) [] rel ∧ goes (.brx x) [] a ∧ goes (.ret x) [] a ∧ goes (.call x) (w2 x.d (pc + 12)) rel ∧ goes (.callx x) (w2 x.d (pc + 8)) a
    ∧ (p = 0 → Runs (.brt x) s e → exec (.brt x) s = .next ((s.counted e (.brt x)).leaving e (.brt x) [] [] (e.nextPc (.brt x))))
    ∧ (p ≠ 0 → p ≠ 0xFFFFFFFF → goes (.brt x) [] rel) ∧ (p = 0xFFFFFFFF → goes (.brt x) [] rel2))
  ∧ (∀ (x : Ops) (s : State) (e : Env), e.t.dividing = false →
    let rel : DWord := e.t.pc + (BitVec.ofNat 32 x.ext.toNat).signExtend 64
    let traps (i : Instr) (tgt : DWord) : Prop := Runs i s e → tgt &&& 3 ≠ 0 →
      exec i s = .next ((s.counted e i).takeTrap e.ref
        { cause := .misalignment, deferred := false, epc := e.t.pc, eaddr := tgt, einfo := 0, einst := e.words })
    traps (.brx x) (e.t.pair x.a) ∧ traps (.ret x) (e.t.pair x.a) ∧ traps (.callx x) (e.t.pair x.a) ∧ traps (.bra x) rel ∧ traps (.call x) rel
    ∧ (e.t.rd x.a ≠ 0 → e.t.rd x.a ≠ 0xFFFFFFFF → traps (.brt x) rel)
    ∧ (e.t.rd x.a = 0xFFFFFFFF → traps (.brt x) (e.t.pc + (BitVec.ofNat 32 (x.ext.toNat / 2 ^ 32)).signExtend 64)))

/-- R197, R199: EXIT ends its thread once no producer is in flight, and waits until then, with its pending request withdrawn (that it is withdrawn
before the wait is the model's choice, log entry 57); YIELD takes the thread out of Rd for 16 clocks of its core. -/
def Obligations.ExitAndYieldComplete : Prop := ∀ (x : Ops) (s : State) (e : Env),
  (Runs (.exit x) s e → exec (.exit x) s = .next
      (if e.t.ops.any (fun o => o.dstN != 0) then ((s.counted e (.exit x)).dropRequest e.ref).wait e.ref .exit else (s.counted e (.exit x)).endThread e.ref))
  ∧ (Runs (.yield x) s e → exec (.yield x) s = .next
      (((s.counted e (.yield x)).updThread e.ref fun t => { t with yieldTo := some ((s.core e.core).clock + 16) }).leaving e (.yield x) [] []
        (e.nextPc (.yield x))))

/-- R139, R140, R181, R182, R198, R264: what the creation of a child comes to. As a release it is issued again until the thread's accesses have been performed
(log entry 26). With an identifier and a budget left the child takes the first seat, or, where none is free or
children wait in the spawn ring already, the ring's tail; the parent goes on with the writes. Without an identifier, a budget or a place in the ring it is
the spawn-overflow fault, with information 3, 2 or 1, and a ring entry that may not be written is an access violation (no division in flight). -/
def createsChild (i : Instr) (s : State) (e : Env) (child : Thread) (ws : List (Reg × Word)) : Prop :=
  let q := s.counted e i
  let tid := e.tm.maxTid + 1
  let seat := q.seatIn e.tm e.st.gran (e.tm.benchesFrom e.tcore e.bench)
  let after (g : State) (inRing : Bool) (c : Thread) : State :=
    (((g.updTeam e.ref.team fun tm => tm.adopt c inRing).released e.ref).testSync e.ref.team).leaving e i ws [] (e.nextPc i)
  let trap (c : Cause) (ea : DWord) (n : Word) : Prop := e.t.dividing = false →
    exec i s = .next (q.takeTrap e.ref { cause := c, deferred := false, epc := e.t.pc, eaddr := ea, einfo := n, einst := e.words })
  let waits : Thread := { child with loc := .ring }
  let written := q.writeRing e.pl.ctxNum e.st (e.tm.ringHead + e.tm.ring.length) waits tid false
  (e.t.settled = false → exec i s = .next q)
  ∧ (e.t.settled = true →
    (65535 < tid → trap .spawnOverflow 0 3) ∧ (tid ≤ 65535 → e.st.spawnsMax < e.tm.spawns + 1 → trap .spawnOverflow 0 2)
    ∧ (tid ≤ 65535 → e.tm.spawns + 1 ≤ e.st.spawnsMax →
      (∀ tc b k, e.tm.ring = [] → seat = some (tc, b, k) →
        exec i s = .next (after q false { child with loc := .slot tc b k, born := (q.core (e.tm.cores.getD tc 0)).clock }))
      ∧ (e.tm.ring ≠ [] ∨ seat = none →
        (2 ^ e.st.srlog ≤ e.tm.ring.length → trap .spawnOverflow 0 1)
        ∧ (e.tm.ring.length < 2 ^ e.st.srlog →
          (∀ g, written = .ok g → exec i s = .next (after g true waits))
          ∧ (∀ va, written = .error (va, none) → trap .accessViolation (BitVec.ofNat 64 va) 2)
          ∧ ∀ va r, written = .error (va, some r) → exec i s = .next (q.threadFault e 1 r va)))))

/-- R28, R139, R140, R181, R198: SPAWN with the copied registers full creates its child, which gets the parent's identifier with bit 31 set, at its target, and
writes the child's identifier. It waits for copied registers that are empty, and a target that is no multiple of 4 is a misalignment fault (no division in
flight). R176, R391: what is copied of a granule that is absent since a restore is what the save area gives, but for registers written since the park; a save
area that cannot be read, or is poisoned, kills the team, with a record of source 10. -/
def Obligations.SpawnCreatesTheChild : Prop := (∀ (x : Ops) (s : State) (e : Env),
  let i : Instr := .spawn x
  let q := s.counted e i
  let mask : BitVec 16 := (e.t.rd x.c).setWidth 16
  let tgt : DWord := if x.len = .s then e.t.pair x.a else e.t.pc + (BitVec.ofNat 32 x.ext.toNat).signExtend 64
  let own : BitVec 16 := mask &&& BitVec.ofNat 16 (2 ^ e.st.gran - 1)
  let child (t : Thread) : Thread :=
    ({ Thread.fresh tgt (e.t.mode &&& 0x1F) with regs := copyGranules own (finishThread t (marksOf i) [] [] 0) } : Thread).wr x.d
      (0x80000000 ||| BitVec.ofNat 32 e.ref.tid)
  let copied := maskRegs mask e.st.gran
  Runs i s e →
    (copied.all e.t.full = true → tgt &&& 3 = 0 →
      (∀ t, q.filled e own = .ok t → createsChild i s e (child t) [(x.d, BitVec.ofNat 32 (e.tm.maxTid + 1))])
      ∧ ∀ g, q.filled e own = .error g → exec i s = .next g)
    ∧ (copied.all e.t.full = false → exec i s = .next (q.wait e.ref (.regs (copied.filter fun g => !e.t.full g))))
    ∧ (copied.all e.t.full = true → tgt &&& 3 ≠ 0 → e.t.dividing = false → exec i s = .next (q.takeTrap e.ref
        { cause := .misalignment, deferred := false, epc := e.t.pc, eaddr := tgt, einfo := 0, einst := e.words })))
  ∧ (∀ (s : State) (e : Env) (mask : BitVec 16) (t : Thread), s.filled e mask = .ok t →
    ∀ i : Fin 256,
      (t.regs[i].live = e.t.regs[i].live ∧ t.regs[i].full = e.t.regs[i].full)
      ∧ ((mask &&& e.t.absent).getLsbD (i.val / 16) = false ∨ (BitVec.ofNat 8 i.val, true) ∈ e.t.changed → t.regs[i] = e.t.regs[i])
      ∧ ((mask &&& e.t.absent).getLsbD (i.val / 16) = true → (BitVec.ofNat 8 i.val, true) ∉ e.t.changed →
        ∃ bs, s.readGlobal e.pl.ctxNum (e.t.regsAt + 64 * (i.val / 16)) 64 = .ok bs
          ∧ t.regs[i].val = BitVec.ofNat 32 (leNat ((bs.drop (4 * (i.val % 16))).take 4))))
  ∧ ∀ (s g : State) (e : Env) (mask : BitVec 16), s.filled e mask = .error g →
      ∃ va, g = s.killAs true e.ref 1 { s.errFor e.tm e.ref.tid 10 with unit := 11, addr := va }

/-- R138 to R140: IVSPLIT waits until every register of the thread is full. Of an interval that its midpoint divides it keeps the lower half with side 0 and
creates a child with the upper half and side 1, which goes on behind it; one that cannot be divided, and the empty one, is kept with side 2 and no child. Its
child's registers are its own as it leaves them, absent granules filled as for SPAWN (R176, R391). -/
def Obligations.IvsplitCompletes : Prop := ∀ (x : Ops) (ex w : Bool) (s : State) (e : Env) (lo hi : FVal),
  let f : FFmt := if w then f64 else f32
  let i : Instr := .ivsplit x ex w
  let m := f.ivMid lo hi
  let kept : List (Reg × Word) := ivWrites w x.d (f.bound .rdn lo) m ++ [(x.c, 0)]
  let splits := lo.ltn (f.value m) && (f.value m).ltn hi
  let own : BitVec 16 := BitVec.ofNat 16 (2 ^ e.st.gran - 1)
  let child (t : Thread) : Thread := ({ Thread.fresh (((e.t.pc + 8).setWidth 56).signExtend 64) (e.t.mode &&& 0x1F) with
      regs := copyGranules own (finishThread t (marksOf i) kept [] 0) } : Thread).wrs
        (ivWrites w x.d m (f.bound .rup hi) ++ [(x.c, 1)])
  Runs i s e →
    ((regRange 0 (16 * e.st.gran)).all e.t.full = false → exec i s = .next ((s.counted e i).wait e.ref .allRegs))
    ∧ ((regRange 0 (16 * e.st.gran)).all e.t.full = true →
      (ivIn w e.t x.a = some .empty → (ex = true ∨ e.t.mode.getLsbD 4 = true) →
        exec i s = ivDone i s e true (ivWrites w x.d (f.ivCodes .empty).1 (f.ivCodes .empty).2 ++ [(x.c, 2)]))
      ∧ (ivIn w e.t x.a = some (.mk lo hi) → splits = false →
        exec i s = ivDone i s e false (ivWrites w x.d (f.ivCodes (.mk lo hi)).1 (f.ivCodes (.mk lo hi)).2 ++ [(x.c, 2)]))
      ∧ (ivIn w e.t x.a = some (.mk lo hi) → splits = true →
        (∀ t, (s.counted e i).filled e own = .ok t → createsChild i s e (child t) kept)
        ∧ ∀ g, (s.counted e i).filled e own = .error g → exec i s = .next g))

/-- R200, R382: TRAP, BKPT and SYS take their traps: the code of TRAP and SYS is what the handler reads as information (no division in
flight). -/
def Obligations.SoftwareTrapsAreTaken : Prop := ∀ (x : Ops) (s : State) (e : Env), e.t.dividing = false →
  let code : Word := if x.len = .s then x.c.setWidth 32 else x.ext.setWidth 32
  let taken (i : Instr) (c : Cause) (info : Word) : Prop := Runs i s e →
    exec i s = .next ((s.counted e i).takeTrap e.ref { cause := c, deferred := false, epc := e.t.pc, eaddr := 0, einfo := info, einst := e.words })
  taken (.trap x) .software code ∧ taken (.bkpt x) .breakpoint 0 ∧ taken (.sys x) .sys code

/-- R380 to R382: taking a trap outside handler mode with a handler set: the cause code, with bit 31 for a deferred trap, the program counter,
address, information and words are saved; ECTL is 0; the resume point is the instruction of a precise trap, and the boundary of a deferred
one; the thread is runnable in handler mode at TRAPH; its registers, mode word, outstanding operations and handles and every other thread are
unchanged, and so is every byte of memory. -/
def Obligations.TrapEntrySavesAndJumps : Prop := ∀ (s : State) (r : ThreadRef) (tr : Trap) (tm : Team) (st : Stage) (t : Thread),
  s.team r.team = some tm → tm.threads.look r.tid = some t → s.stageOf tm = some st → st.traph ≠ 0 → t.handler = false →
    ∃ u, (s.takeTrap r tr).thread r = some u ∧ u.pc = st.traph ∧ u.handler = true ∧ u.status = .runnable
      ∧ u.cause = (BitVec.ofNat 32 tr.cause.code ||| if tr.deferred then 0x80000000 else 0) ∧ u.epc = tr.epc ∧ u.eaddr = tr.eaddr
      ∧ u.einfo = tr.einfo ∧ u.einst = tr.einst ∧ u.ectl = 0 ∧ u.regs = t.regs ∧ u.mode = t.mode ∧ u.ops = t.ops ∧ u.pend = t.pend
      ∧ u.handleRegs = t.handleRegs ∧ u.resumePc = (if tr.deferred then t.pc else tr.epc)
      ∧ (∀ q, q ≠ r → (s.takeTrap r tr).thread q = s.thread q) ∧ (s.takeTrap r tr).mems = s.mems
      ∧ (s.takeTrap r tr).cores = s.cores ∧ (s.takeTrap r tr).log = s.log

/-- R381, R383: without a handler, or, for a precise trap or the deferred malformed-interval trap, in handler mode, a trap kills at the scope of the stage's fault domain, thread scope at least, and the record
has source 1, the cause code, the program counter, the address and the information of the trap. -/
def Obligations.TrapWithoutHandlerKills : Prop := ∀ (s : State) (r : ThreadRef) (tr : Trap) (tm : Team) (st : Stage) (t : Thread),
  s.team r.team = some tm → tm.threads.look r.tid = some t → s.stageOf tm = some st →
  st.traph = 0 ∨ (t.handler = true ∧ (tr.deferred = false ∨ tr.cause = .malformedInterval)) →
    s.takeTrap r tr = s.kill r 0
      { s.errFor tm r.tid 1 with cause := tr.cause.code, pc := tr.epc, addr := tr.eaddr.toNat, info := tr.einfo.toNat }

/-- R191, R384: ERET takes no operands; in handler mode it goes to the resume point, or past the faulting instruction under skip after a
precise trap; the mode is left and the trap selectors read 0 again; outside handler mode it is an illegal instruction (where a handler is
to be entered, a trap is kept until the FP64 divisions in flight have completed, R95). A precise trap that is resumed without skip comes back to the instruction that it reports, with the registers as they
stand, so that this instruction executes again; a deferred one to the boundary at which it was taken. -/
def Obligations.EretReturns : Prop :=
  let bare : Ops := { len := .s, d := 0, a := 0, b := 0, c := 0, ep := 0, dk := 0, g := 0, gs := 0, ext := 0 }
  (∀ rest, decode ([0x4D, 0x03, 0, 0, 0, 0, 0, 0] ++ rest) = .ok (.eret bare))
  ∧ (∀ x, (Instr.eret x).wf = true → x = { bare with g := x.g, gs := x.gs })
  ∧ (∀ (x : Ops) (s : State) (e : Env), Runs (.eret x) s e → e.t.handler = true →
      ∃ t u, exec (.eret x) s = .next t ∧ t.thread e.ref = some u
        ∧ u.pc = (if e.t.cause.getLsbD 31 = false ∧ e.t.ectl.getLsbD 0 = true
            then ((e.t.epc + BitVec.ofNat 64 (4 * ((e.t.einst.headD 0).toNat % 4 + 1))).setWidth 56).signExtend 64 else e.t.resumePc)
        ∧ u.handler = false ∧ u.cause = 0 ∧ u.epc = 0 ∧ u.eaddr = 0 ∧ u.einfo = 0 ∧ u.einst = [] ∧ u.ectl = 0 ∧ u.regs = e.t.regs
        ∧ u.mode = e.t.mode ∧ t.mems = s.mems ∧ ∀ q, q ≠ e.ref → t.thread q = s.thread q)
  ∧ (∀ (t : Thread) (tr : Trap) (h : DWord) (c : Word), c.getLsbD 0 = false →
      let back : Thread := ({ t.enter tr h with ectl := c } : Thread).leave
      back.pc = (if tr.deferred then t.pc else tr.epc) ∧ back.regs = t.regs ∧ back.handler = false ∧ back.mode = t.mode)
  ∧ ∀ (x : Ops) (s : State) (e : Env), Runs (.eret x) s e → e.t.handler = false →
      let tr : Trap := { cause := .illegal, deferred := false, epc := e.t.pc, eaddr := 0, einfo := 0, einst := e.words }
      let q := s.counted e (.eret x)
      exec (.eret x) s = .next (if e.t.dividing = true ∧ e.st.traph ≠ 0 then (q.updThread e.ref fun t => { t with late := some tr }).wait e.ref .divisions
        else q.takeTrap e.ref tr)

/-! ### Row 0xD: selectors, features and event registers -/

/-- R190 to R193, R393: SRD reads every selector, the trap selectors only in handler mode; SWR writes the mode word and ECTL with legal values, and is illegal
with others; SRD and SWR of the mode word wait for operations that can still set a sticky flag; FEAT gives base version 1 and no extension; EVRD and EVCFG
read and write one field of an event class of the core, once no FP64 division is in flight. That EVCFG keeps the count, and lets the action fire again, is the
model's reading (log entry 20, DEDUCED), and so is that they see the events of earlier clocks only (log entry 66). That selector 0x0B, the phase of the weight
store's refresh, counts from the start of the clocks on every core is the model's choice (log entry 73, DESIGN CHOICE, and log entry 38). -/
def Obligations.SystemRegistersComplete : Prop := ∀ (x : Ops) (s : State) (e : Env),
  let q (i : Instr) : State := s.counted e i
  let clock := (s.core e.core).clock
  let trapSel (v : Nat) : Nat := if e.t.handler then v else 0
  let value : Nat := match x.c.toNat with
    | 0x00 => e.ref.tid
    | 0x01 => e.tm.index
    | 0x02 => e.tm.stage
    | 0x03 => e.pl.launch
    | 0x04 => e.st.prio
    | 0x05 => e.st.nthreads
    | 0x06 => e.tm.maxTid
    | 0x07 => e.slot + e.bench * 2 ^ 10 + e.core * 2 ^ 12 + e.tcore * 2 ^ 20 + (e.tm.cores.length - 1) * 2 ^ 22
    | 0x08 => e.pl.part
    | 0x09 => e.t.mode.toNat
    | 0x0A => (Config.clockStart e.core + clock) % 2 ^ 64
    | 0x0B => clock % 32768
    | 0x0C => e.t.inFlight
    | 0x10 => trapSel e.t.cause.toNat
    | 0x11 => trapSel e.t.epc.toNat
    | 0x12 => trapSel e.t.eaddr.toNat
    | 0x13 => trapSel e.t.einfo.toNat
    | 0x14 => trapSel (e.t.einst.getD 0 0).toNat
    | 0x15 => trapSel (e.t.einst.getD 1 0).toNat
    | 0x16 => trapSel (e.t.einst.getD 2 0).toNat
    | 0x17 => trapSel (e.t.einst.getD 3 0).toNat
    | 0x18 => trapSel e.t.ectl.toNat
    | _ => 0
  let wide := decide (x.c.toNat = 0x0A ∨ x.c.toNat = 0x11 ∨ x.c.toNat = 0x12)
  let v := e.t.rd x.a
  let c := (q (.evcfg x)).core e.core
  let ev := ((s.core e.core).event (x.c.toNat % 8)).roll clock
  let set (r : EvReg) : State :=
    ((q (.evcfg x)).setCore e.core { c with events := c.events.put (x.c.toNat % 8) { r with start := clock, fired := false } }).leaving e (.evcfg x) [] []
      (e.nextPc (.evcfg x))
  let illegal (i : Instr) : Prop := e.t.dividing = false → exec i s = .next ((q i).takeTrap e.ref
    { cause := .illegal, deferred := false, epc := e.t.pc, eaddr := 0, einfo := 0, einst := e.words })
  (Runs (.srd x) s e →
    ((x.c.toNat = 9 → s.flagsPending e.ref = false) →
      exec (.srd x) s = .next ((q (.srd x)).leaving e (.srd x) (wN wide x.d (BitVec.ofNat 64 value)) [] (e.nextPc (.srd x))))
    ∧ (x.c.toNat = 9 → s.flagsPending e.ref = true → exec (.srd x) s = .next ((q (.srd x)).wait e.ref .flags)))
  ∧ (Runs (.swr x) s e → x.c = 9 →
    (s.flagsPending e.ref = true → exec (.swr x) s = .next ((q (.swr x)).wait e.ref .flags))
    ∧ (s.flagsPending e.ref = false → v.toNat % 8 ≤ 3 → v &&& 0xFFFF80E0 = 0 →
      exec (.swr x) s = .next (((q (.swr x)).updThread e.ref fun t => { t with mode := v }).leaving e (.swr x) [] [] (e.nextPc (.swr x))))
    ∧ (s.flagsPending e.ref = false → 3 < v.toNat % 8 ∨ v &&& 0xFFFF80E0 ≠ 0 → illegal (.swr x)))
  ∧ (Runs (.swr x) s e → x.c = 0x18 →
    (v.toNat ≤ 1 → exec (.swr x) s =
      .next (((q (.swr x)).updThread e.ref fun t => if t.handler then { t with ectl := v } else t).leaving e (.swr x) [] [] (e.nextPc (.swr x))))
    ∧ (1 < v.toNat → illegal (.swr x)))
  ∧ (Runs (.feat x) s e →
    exec (.feat x) s = .next ((q (.feat x)).leaving e (.feat x) [(x.d, if x.c = 0 then 1 else 0)] [] (e.nextPc (.feat x))))
  ∧ (Runs (.evrd x) s e →
    (e.t.dividing = true → exec (.evrd x) s = .next ((q (.evrd x)).wait e.ref .divisions))
    ∧ (e.t.dividing = false → exec (.evrd x) s = .next ((q (.evrd x)).leaving e (.evrd x) [(x.d, match x.c.toNat / 16 with
      | 0 => ev.cnt
      | 1 => ev.thr
      | 2 => ev.win
      | _ => BitVec.ofNat 32 (ev.act + if e.pl.trapOk then 0 else 4))] [] (e.nextPc (.evrd x)))))
  ∧ (Runs (.evcfg x) s e →
    (e.t.dividing = true → exec (.evcfg x) s = .next ((q (.evcfg x)).wait e.ref .divisions))
    ∧ (e.t.dividing = false →
      (x.c.toNat / 16 = 0 → exec (.evcfg x) s = .next (set { ev with cnt := v }))
      ∧ (x.c.toNat / 16 = 1 → exec (.evcfg x) s = .next (set { ev with thr := v }))
      ∧ (x.c.toNat / 16 = 2 → exec (.evcfg x) s = .next (set { ev with win := v }))
      ∧ (x.c.toNat / 16 = 3 → v.toNat ≤ 3 → exec (.evcfg x) s = .next (set { ev with act := v.toNat }))
      ∧ (x.c.toNat / 16 = 3 → 3 < v.toNat → illegal (.evcfg x))))

/-- R359: TLBI, as a release, waits for the thread's accesses (log entry 26); then it drops the context's translations on the cores of its scope and
waits for the accesses that used them; when that wait is over it has completed. An address that is not canonical names no translation. What is
dropped: the context's TLB entries on those cores, and the last-page registers of its threads there, that cover the address, or all of them; no
other entry and no other context's thread is touched. A thread there that waits on a word of the region keeps waiting, on the place that the page tables give
it now, and takes up its instruction again where they give none (the model's reading, log entry 28, DEDUCED). -/
def Obligations.TlbiInvalidatesAndWaits : Prop :=
  (∀ (x : Ops) (all : Bool) (sc : Scope) (s : State) (e : Env), Runs (.tlbi x all sc) s e →
    let i : Instr := .tlbi x all sc
    let q := s.counted e i
    let a := (e.t.pair x.a).toNat
    let cores := scopeCores sc e
    let begins : Prop := ∀ n cs g, e.t.resume ≠ some (.translations n cs g)
    (∀ n cs g, e.t.resume = some (.translations n cs g) → exec i s = .next (q.leaving e i [] [] (e.nextPc i)))
    ∧ (begins → e.t.settled = false → exec i s = .next (q.wait e.ref (.accesses true)))
    ∧ (begins → e.t.settled = true → all = false → canonical a = false → exec i s = .next ((q.released e.ref).leaving e i [] [] (e.nextPc i)))
    ∧ (begins → e.t.settled = true → (all = true ∨ canonical a = true) →
        exec i s = .next ((((q.released e.ref).invalidate e.pl.ctxNum (if all then none else some a) cores)).wait e.ref
          (.translations ((q.released e.ref).invalidate e.pl.ctxNum (if all then none else some a) cores).nextId cores
            (if all then none else some (a % 2 ^ 56 / 2 ^ 30))))))
  ∧ (∀ (s : State) (ctx : Nat) (va : Option Nat) (cores : List Nat),
    let t := s.invalidate ctx va cores
    let gone (y : Xlate) : Bool := match va with
      | some a => decide (y.page ≤ a % 2 ^ 56) && decide (a % 2 ^ 56 < y.page + y.size)
      | none => true
    (∀ k ∈ cores, (t.core k).tlb = (s.core k).tlb.filter fun y => !(y.ctx == ctx && gone y.x))
    ∧ (∀ k, k ∉ cores → t.core k = s.core k)
    ∧ (∀ (r : ThreadRef) (tm : Team) (p : Pipeline) (v : Thread), s.team r.team = some tm → s.pipeOf tm = some p → tm.threads.look r.tid = some v →
        (p.ctxNum ≠ ctx ∨ tm.coreOf v ∉ cores ∨ tm.phase = .parked → t.thread r = some v)
        ∧ (p.ctxNum = ctx → tm.phase ≠ .parked → tm.coreOf v ∈ cores → ∃ u, t.thread r = some u ∧ u.regs = v.regs ∧ u.pc = v.pc ∧ u.ops = v.ops
            ∧ u.mode = v.mode ∧ u.pend = v.pend ∧ (u.lastPage = v.lastPage.filter fun y => !gone y)
            ∧ ((∀ o a c ne sc, v.status ≠ .waiting (.address o a c ne sc)) → u.status = v.status)
            ∧ ∀ o a c ne sc, v.status = .waiting (.address o a c ne sc) →
              (o.mem.isGlobal = false → u.status = v.status)
              ∧ (u.status = v.status ∨ u.status = .runnable ∨ ∃ y, s.walk ctx a.toNat = .ok y ∧ u.status = .waiting (.address (y.place a.toNat) a c ne sc)))))

/-! ### Encoding and fetch -/

/-- R24 to R39: decoding what the encoder writes gives the instruction back, with every field at every value that a legal encoding admits and
whatever bytes follow in the block; and the encoder writes the bytes of its length for every well-formed instruction that has operands. -/
def Obligations.DecodingInvertsEncoding : Prop :=
  (∀ (i : Instr) (bs rest : List Byte), i.wf = true → encode i = some bs → decode (bs ++ rest) = .ok i)
  ∧ ∀ (i : Instr) (x : Ops), i.ops = some x → i.wf = true → ∃ bs, encode i = some bs ∧ bs.length = x.len.bytes

/-- R24 to R39: whatever the decoder reads as an instruction is well formed and encodes to the very bytes it was read from, so no bit of an
encoding is ignored; besides instructions it reads only the pad word and the words of row 0xE. -/
def Obligations.EncodingInvertsDecoding : Prop := ∀ (i : Instr) (bs : List Byte), decode bs = .ok i →
  i.wf = true ∧ ((∃ x, i.ops = some x ∧ encode i = some (bs.take x.len.bytes)) ∨ i = .padWord ∨ ∃ n, i = .extensionSlot n)

/-- R24, R37, R97, R105, R248: words put together from the spec's tables decode to the instructions they stand for. -/
def Obligations.WordsDecode : Prop :=
  let reg (d a b c : Reg) : Ops := { len := .s, d := d, a := a, b := b, c := c, ep := 0, dk := 0, g := 0, gs := 0, ext := 0 }
  decodeTableWord 64 0x2C0000B8B0A8A08D = some (.ffma (reg 40 42 44 46) true .rdn)
  ∧ decodeTableWord 64 (1 + 4 * 0x03 + 2 ^ 10 * 5 + 2 ^ 18 * 6 + 2 ^ 26 * 7) = some (.iadd (reg 5 6 7 0) .wrap)
  ∧ decodeTableWord 64 (1 + 4 * 0x15 + 2 ^ 10 * 8 + 2 ^ 18 * 10 + 2 ^ 26 * 3 + 2 ^ 58) = some (.shr (reg 8 10 3 0) true)
  ∧ decodeTableWord 96 (2 + 4 * 0x70 + 2 ^ 64 * 0x40) = some (.bra { reg 0 0 0 0 with len := .m, ext := 0x40 })
  ∧ decodeTableWord 64 (1 + 4 * 0xD0 + 2 ^ 10 * 9 + 2 ^ 34 * 0x0C) = some (.srd (reg 9 0 0 0x0C))
  ∧ decodeTableWord 64 (1 + 4 * 0x80 + 2 ^ 34 * 3) = some (.bar (reg 0 0 0 3))
  ∧ decodeTableWord 32 0xFFFFFFFC = some .padWord ∧ decodeTableWord 64 (1 + 4 * 0xE7) = some (.extensionSlot 7)

/-- R25, R26, R41, R44: the pad word; any other word with LEN 00; an instruction that would cross its block; a word of row 0xE. R25, R41,
R44, R380: the pad word moves the program counter to the next 32-byte boundary and changes nothing else of the machine; a pattern that is no
instruction takes the illegal-instruction fault, and a word of row 0xE the emulation trap with its opcode (no division in flight). -/
def Obligations.PatternsThatAreNoInstruction : Prop :=
  (∀ (bs : List Byte),
    let w := leNat (bs.take 4)
    (w = 0xFFFFFFFC → decode bs = .ok .padWord)
    ∧ (w % 4 = 0 → w ≠ 0xFFFFFFFC → decode bs = .error .illegal)
    ∧ (w % 4 ≠ 0 → bs.length < 4 * (w % 4 + 1) → decode bs = .error .fetchBoundary)
    ∧ (w % 4 ≠ 0 → 4 * (w % 4 + 1) ≤ bs.length → w / 64 % 16 = 0xE → decode bs = .ok (.extensionSlot (BitVec.ofNat 4 (w / 4))))
    ∧ (w % 4 ≠ 0 → 4 * (w % 4 + 1) ≤ bs.length → w / 64 % 16 = 0xF → decode bs = .error .illegal))
  ∧ (∀ (s : State) (e : Env) (n : BitVec 4), s.executing = some e →
    exec .padWord s = .next (s.updThread e.ref fun t => { t with pc := (((e.t.pc &&& ~~~31) + 32).setWidth 56).signExtend 64, phase := 0, resume := none })
    ∧ (e.t.dividing = false → exec .nonInstruction s = .next (s.takeTrap e.ref
        { cause := .illegal, deferred := false, epc := e.t.pc, eaddr := 0, einfo := 0, einst := e.words }))
    ∧ (e.t.dividing = false → exec (.extensionSlot n) s = .next (s.takeTrap e.ref
        { cause := .emulation, deferred := false, epc := e.t.pc, eaddr := 0, einfo := BitVec.ofNat 32 (0xE0 + n.toNat), einst := e.words })))

/-- R27, R255, R368, R369, R375: fetch at a canonical program counter on an executable page gives the bytes of the 32-byte block from there on: the copy
that the core holds (log entry 50), wherever it stands in the instruction cache, or else memory, where it holds no poison; memory and threads
are unchanged. A block on a peer package, which must admit the read over a port that is up, leaves no copy; one that it refuses is violation 0x0B (no
division in flight), and one whose port is down kills the thread. -/
def Obligations.FetchReadsTheBlock : Prop := ∀ (s : State) (e : Env) (x : Xlate),
  canonical e.t.pc.toNat = true → (s.translate e.core e.pl.ctxNum none e.t.pc.toNat).1 = .ok x → x.x = true →
    let t := x.place e.t.pc.toNat
    let b : Target := { t with addr := t.addr / 32 * 32 }
    let z := (s.translate e.core e.pl.ctxNum none e.t.pc.toNat).2
    let refused : Prop := b.mem = .peer ∧ 3 ≤ Config.peerAnswer s.tick
    (s.linkDead b = false → ¬refused →
      ((∀ k ∈ (s.core e.core).icache, k.1 ≠ b) → s.poisoned (b.range 32) = false →
        ∃ s', s.fetch e = .ok ((s.bytes b 32).drop (e.t.pc.toNat % 32), s') ∧ s'.mems = s.mems ∧ s'.teams = s.teams
          ∧ (s'.core e.core).icache = (s.core e.core).icache ++ if b.mem = .peer then [] else [(b, s.bytes b 32)])
      ∧ (∀ l bs m, (s.core e.core).icache = l ++ (b, bs) :: m → (∀ k ∈ l, k.1 ≠ b) →
        ∃ s', s.fetch e = .ok (bs.drop (e.t.pc.toNat % 32), s') ∧ s'.mems = s.mems ∧ s'.teams = s.teams
          ∧ (s'.core e.core).icache = (s.core e.core).icache))
    ∧ (s.linkDead b = true → s.fetch e = .error (z.linkKill e.ref e.t.pc (Config.route b.addr)))
    ∧ (s.linkDead b = false → refused → e.t.dividing = false → s.fetch e = .error (z.takeTrap e.ref
        { cause := .accessViolation, deferred := false, epc := e.t.pc, eaddr := e.t.pc, einfo := 0x0B, einst := e.words }))

/-- R20, R26, R43, R44, R178, R179: when the schedule lets a thread issue that the picker has put first, no trap or denied fault comes before its
instruction and the bytes at its program counter decode to one, the step is that instruction; when they are none, it is NON_INSTRUCTION; and when the
instruction would cross its 32-byte block, the step takes the fetch-boundary fault, at its address and with the words that the block holds of it (no division
in flight). After it the thread has left its stitch and Rd, no instruction is being executed, and the step number has risen. -/
def Obligations.StepRunsTheDecodedInstruction : Prop :=
  ∀ (s s' : State) (r : ThreadRef) (rest : List Move) (e : Env) (bs : List Byte),
    let q : State := { s with agenda := rest }
    let closed (t : State) : State := { (t.updCore e.core fun c => c.issued r) with cur := none, tick := t.tick + 1 }
    let runs (i : Instr) : Prop := step s = (match exec i { s' with cur := some { ref := r, words := fetchedWords bs } } with
      | .next t => .next (closed t)
      | .fault c => .fault c
      | .refused c => .refused c)
    s.agenda = .issue r :: rest → q.env { ref := r, words := [] } = some e → q.picked e = true → e.t.yieldTo = none →
    e.t.late = none → (e.t.heldNow = none ∨ e.t.atBoundary = false) → e.t.denied = none → q.fetch e = .ok (bs, s') →
      (∀ i, decode bs = .ok i → runs i) ∧ (decode bs = .error .illegal → runs .nonInstruction)
      ∧ (decode bs = .error .fetchBoundary → e.t.dividing = false → step s = .next (closed (s'.takeTrap r
          { cause := .fetchBoundary, deferred := false, epc := e.t.pc, eaddr := 0, einfo := 0, einst := fetchedWords bs })))

/-! ### Invariants and reset -/

/-- Every step keeps the canonical form of every memory: addresses rise strictly, and no byte is listed that reads as an unlisted one does. -/
def Obligations.EveryStepKeepsTheMemoryForm : Prop := ∀ (s t : State), s.MemForm → step s = .next t → t.MemForm

/-- R90, R201, R213, R362, R370: after reset no image runs and the compute dies are held; no virtual function, partition, team or packet
exists, no queue or sketch slot is bound and every numeric event register has its reset value; every memory has the canonical form. -/
def Obligations.ResetLeavesNothingRunning : Prop :=
  State.reset.firmware.running = none ∧ State.reset.firmware.held = true ∧ State.reset.parts = [] ∧ State.reset.vfs = []
  ∧ State.reset.teams = [] ∧ State.reset.pipes = [] ∧ State.reset.packets = [] ∧ State.reset.log = [] ∧ State.reset.MemForm
  ∧ (∀ n, (State.reset.context n).queues = [] ∧ (State.reset.context n).slots = [])
  ∧ (∀ n k, ((State.reset.core n).event k).cnt = 0 ∧ ((State.reset.core n).event k).thr = 0xFFFFFFFF
      ∧ ((State.reset.core n).event k).win = 0 ∧ ((State.reset.core n).event k).act = 0)

/-! ### Guards, sources and frames -/

/-- A byte lies in a partition's log ring, where the hardware writes its error records (R378). -/
def inLog (s : State) (k : MemId) (b : Nat) : Prop := k = .hbm ∧ ∃ y ∈ s.parts, y.2.logBase ≤ b ∧ b < y.2.logBase + 64 * 2 ^ y.2.logN

/-- Every byte of memory keeps its value; where the step has logged an event (R91), the bytes of the log rings may change. -/
def keepsBytes (s t : State) : Prop := ∀ k b, t.log = s.log ∨ ¬inLog s k b → t.byte k b = s.byte k b

/-- Every byte of memory outside a range keeps its value, but for the log rings where the step has logged an event. -/
def onlyWrites (s t : State) (m : MemId) (lo n : Nat) : Prop :=
  ∀ k b, t.log = s.log ∨ ¬inLog s k b → (k ≠ m ∨ b < lo ∨ lo + n ≤ b) → t.byte k b = s.byte k b

/-- A place stands as it was written, unless it lies in a log ring that the step has written after it. -/
def unlogged (s t : State) (m : MemId) (lo n : Nat) : Prop := t.log = s.log ∨ ∀ b, lo ≤ b → b < lo + n → ¬inLog s m b

/-- R30, R391: every register that an instruction names is the kernel's, and stands in the register file. -/
def namesPresent (i : Instr) (e : Env) : Prop := ∀ r x, i.row = some r → i.ops = some x →
  (∀ g ∈ rowNamed r x, g.toNat < 16 * e.st.gran) ∧ granulesOf (rowNamed r x) &&& e.t.absent = 0

/-- What follows an instruction in the same step: a rendezvous is tested at every arrival (R205). -/
def andTests (i : Instr) (s : State) : State :=
  match i with
  | .rvx .. | .rvred .. => s.testCur
  | _ => s

/-- R32, R33, R34, R89: a guard that is full and turns the instruction off moves the program counter past it and changes nothing else, but that a dead guard,
which reads as 0, counts one dead read: GS 0 runs it on true, 1 on false, 2 on undecided, 3 on all but true. In mode T a dead guard is the dead-register trap
instead (no division in flight); an empty one waits. -/
def Obligations.GuardedOffInstructionsSkip : Prop := ∀ (i : Instr) (s : State) (e : Env) (x : Ops),
  let v := e.t.rd x.g
  let off : Prop := match x.gs.toNat with
    | 0 => v = 0 ∨ v = 0xFFFFFFFF
    | 1 => v ≠ 0
    | 2 => v ≠ 0xFFFFFFFF
    | _ => v ≠ 0 ∧ v ≠ 0xFFFFFFFF
  let q := s.guardCounted e i
  i.ops = some x → s.executing = some e → namesPresent i e → x.g ≠ 0 →
    (e.t.full x.g = false → exec i s = .next (andTests i (s.wait e.ref (.regs [x.g]))))
    ∧ (e.t.full x.g = true → e.t.isDead x.g = false ∨ e.t.modeT = false → off →
      exec i s = .next (andTests i (q.updThread e.ref fun t => { t with pc := e.nextPc i, phase := 0, resume := none })))
    ∧ (e.t.full x.g = true → e.t.isDead x.g = true → e.t.modeT = true → e.t.dividing = false →
      exec i s = .next (andTests i (q.takeTrap e.ref
        { cause := .deadRegister, deferred := false, epc := e.t.pc, eaddr := 0, einfo := x.g.setWidth 32, einst := e.words })))
    ∧ (e.t.isDead x.g = true → e.t.rd x.g = 0)

/-- R95: a precise trap of the executing instruction: where its handler is to be entered while an FP64 division or root is in flight, the thread keeps the
trap and waits for those. -/
def raises (e : Env) (q : State) (c : Cause) (info : Word) : State :=
  let tr : Trap := { cause := c, deferred := false, epc := e.t.pc, eaddr := 0, einfo := info, einst := e.words }
  if e.t.dividing = true ∧ e.st.traph ≠ 0 ∧ e.t.handler = false then (q.updThread e.ref fun t => { t with late := some tr }).wait e.ref .divisions
  else q.takeTrap e.ref tr

/-- R32, R34, R35, R89, R95, R177: before its effect an unguarded instruction, in this order: takes the empty-register trap for the lowest empty
register under an EP bit of 1; waits until every source is full; in mode T, on a dead source, counts one dead read and takes the
dead-register trap for the lowest one; waits until every destination is full, its dead reads counted in mode Z, one for each dead register. R30: an
instruction that names a register at or above 16 times the kernel's granules is illegal. -/
def Obligations.SourcesComeFirst : Prop :=
  (∀ (i : Instr) (s : State) (e : Env) (r : Row) (x : Ops),
    i.row = some r → i.ops = some x → s.executing = some e → namesPresent i e → x.g = 0 →
    let empties := (rowEps r x).filter fun g => !e.t.full g
    let pending := (rowWaits r x).filter fun g => !e.t.full g
    let dead := (rowReads r x).filter fun g => e.t.isDead g && g != x.g
    let late := (rowDests r x).filter fun g => !e.t.full g
    let trap (q : State) (c : Cause) (g : Reg) : Host.Outcome State Fault Refusal := .next (andTests i (raises e q c (g.setWidth 32)))
    (∀ g ∈ empties, (∀ h ∈ empties, g.toNat ≤ h.toNat) → exec i s = trap s .emptyRegister g)
    ∧ (empties = [] → pending ≠ [] → exec i s = .next (andTests i (s.wait e.ref (.regs pending))))
    ∧ (empties = [] → pending = [] → e.t.modeT = true → ∀ g ∈ dead, (∀ h ∈ dead, g.toNat ≤ h.toNat) →
        exec i s = trap (if e.t.phase < 2 then (s.countDead e.counter 1).setPhase e.ref 2 else s) .deadRegister g)
    ∧ (empties = [] → pending = [] → e.t.modeT = false ∨ dead = [] → late ≠ [] →
        exec i s = .next (andTests i ((s.counted e i).wait e.ref (.regs late)))))
  ∧ (∀ (i : Instr) (s : State) (e : Env) (r : Row) (x : Ops),
    i.row = some r → i.ops = some x → s.executing = some e → (∃ g ∈ rowNamed r x, 16 * e.st.gran ≤ g.toNat) →
      exec i s = .next (andTests i (raises e s .illegal 0)))
  ∧ ∀ (i : Instr) (s : State) (e : Env), s.executing = some e → e.t.phase = 0 →
      (∀ k, k ≠ e.core → ((s.counted e i).core k).arisen = (s.core k).arisen)
      ∧ (((s.counted e i).core e.core).arisen.filter fun a => decide (a.cls = 7)).length
        = ((s.core e.core).arisen.filter fun a => decide (a.cls = 7)).length + (e.deadReads i).length
          + (match i.ops with
            | some x => if x.g ≠ 0 ∧ e.t.isDead x.g = true then 1 else 0
            | none => 0)

/-- Rows 0x0 to 0x5, but for IVSPLIT, FDIV and FSQRT: the instructions that touch only their thread's registers and mode word. -/
def computesOnly (i : Instr) : Bool :=
  match i.row with
  | some r => decide (r.opc < 0x60) && decide (r.opc ≠ 0x4E) && decide (r.opc ≠ 0x26) && decide (r.opc ≠ 0x27)
  | none => false

/-- R12, R35, R83, R91, R176: the frame of the instructions that only compute, whatever their operands, guard and policies, in a thread outside
handler mode whose context has a handler: every register but the destinations and those marked dead keeps its value; the mode word changes
only by sticky flags that are set; every context and every packet is unchanged, and so are every byte of memory and every other thread, but
for the record of an event that the instruction's counts have made due, in the log ring, which a waiting acquire of that place notes. -/
def Obligations.ComputingTouchesOnlyItsRegisters : Prop := ∀ (i : Instr) (s t : State) (e : Env) (r : Row) (x : Ops),
  computesOnly i = true → i.row = some r → i.ops = some x → s.executing = some e → namesPresent i e → e.t.handler = false →
  e.st.traph ≠ 0 → exec i s = .next t →
    (∀ q, q ≠ e.ref → t.log = s.log → t.thread q = s.thread q)
    ∧ (∀ q v, q ≠ e.ref → s.thread q = some v → ∃ w, t.thread q = some w ∧ w.regs = v.regs ∧ w.pc = v.pc ∧ w.mode = v.mode ∧ w.status = v.status
        ∧ w.pend = v.pend ∧ w.ops.map (fun o => o.accs) = v.ops.map fun o => o.accs)
    ∧ keepsBytes s t ∧ t.contexts = s.contexts ∧ t.packets = s.packets
    ∧ ∃ u, t.thread e.ref = some u ∧ (∀ g, g ∉ rowDests r x → g ∉ rowMarks r x → u.cell g = e.t.cell g)
      ∧ (u.mode &&& 0xFFFF80FF) = (e.t.mode &&& 0xFFFF80FF) ∧ (e.t.mode &&& ~~~u.mode) = 0 ∧ u.ops.map (fun o => o.accs) = e.t.ops.map (fun o => o.accs)
      ∧ u.pend = e.t.pend
      ∧ u.rd 0 = 0 ∧ (0 ∈ rowDests r x → u.cell 0 = e.t.cell 0)

/-! ### Row 0x8: barriers, rendezvous and queues -/

/-- R201, R202, R264: BARA and BAR are releases: they arrive once the thread's accesses have been performed, and until then are issued again (log entry
26); a thread that has arrived already waits for that generation. A pending request of the thread holds neither up. BARA writes the generation and goes on; BAR
goes on when its arrival was the last of the live members, and waits otherwise; a BAR that has waited, and a BARW, go on when the barrier's generation is not
the awaited one, and wait while it is. The last arrival raises the generation modulo 2^32 and empties the set; another arrival joins the set. -/
def Obligations.BarriersComplete : Prop := ∀ (x : Ops) (s : State) (e : Env),
  let q (i : Instr) : State := s.counted e i
  let n := x.c.toNat
  let b := e.tm.barrier n
  let here := b.arrived.contains e.ref.tid
  let last := e.tm.live.all fun t => t = e.ref.tid || b.arrived.contains t
  let come (i : Instr) : Prop := Runs i s e ∧ here = false ∧ e.t.settled = true
  (come (.bara x) → exec (.bara x) s = .next (((q (.bara x)).arriveAt e n).leaving e (.bara x) [(x.d, BitVec.ofNat 32 b.gen)] [] (e.nextPc (.bara x))))
  ∧ (Runs (.bara x) s e → here = true → exec (.bara x) s = .next ((q (.bara x)).wait e.ref (.barrier n b.gen)))
  ∧ (come (.bar x) → (∀ m h, e.t.resume ≠ some (.barrier m h)) →
      (last = true → exec (.bar x) s = .next (((q (.bar x)).arriveAt e n).leaving e (.bar x) [] [] (e.nextPc (.bar x))))
      ∧ (last = false → exec (.bar x) s = .next (((q (.bar x)).arriveAt e n).wait e.ref (.barrier n b.gen))))
  ∧ (Runs (.bar x) s e → here = true → (∀ m h, e.t.resume ≠ some (.barrier m h)) →
      exec (.bar x) s = .next ((q (.bar x)).wait e.ref (.barrier n b.gen)))
  ∧ (here = false → e.t.settled = false → (Runs (.bara x) s e → exec (.bara x) s = .next (q (.bara x)))
      ∧ (Runs (.bar x) s e → (∀ m h, e.t.resume ≠ some (.barrier m h)) → exec (.bar x) s = .next (q (.bar x))))
  ∧ (∀ h, Runs (.bar x) s e → e.t.resume = some (.barrier n h) →
      (b.gen ≠ h → exec (.bar x) s = .next ((q (.bar x)).leaving e (.bar x) [] [] (e.nextPc (.bar x))))
      ∧ (b.gen = h → exec (.bar x) s = .next ((q (.bar x)).wait e.ref (.barrier n h))))
  ∧ (Runs (.barw x) s e → b.gen ≠ (e.t.rd x.a).toNat → exec (.barw x) s = .next ((q (.barw x)).leaving e (.barw x) [] [] (e.nextPc (.barw x))))
  ∧ (Runs (.barw x) s e → b.gen = (e.t.rd x.a).toNat → exec (.barw x) s = .next ((q (.barw x)).wait e.ref (.barrier n b.gen)))
  ∧ (s.executing = some e → ∃ tm, (s.arriveAt e n).team e.ref.team = some tm
      ∧ (tm.barrier n).gen = (if last then (b.gen + 1) % 2 ^ 32 else b.gen)
      ∧ (tm.barrier n).arrived = (if last then [] else e.ref.tid :: b.arrived))

/-- R210: the operator of RVRED on two words, and its identity. -/
def rvOf (op : RvOp) (a b : Word) : Word :=
  match op with
  | .addF32 => BitVec.ofNat 32 (f32.add .rne a.toNat b.toNat).1
  | .addI32 => a + b
  | .minF32 => BitVec.ofNat 32 (f32.minMax false false a.toNat b.toNat).1
  | .maxF32 => BitVec.ofNat 32 (f32.minMax true false a.toNat b.toNat).1
  | .minI32 => if b.toInt < a.toInt then b else a
  | .maxI32 => if a.toInt < b.toInt then b else a

/-- R209: the root of the tree over 2^k positions, whose two halves are trees. -/
def rvTree (op : RvOp) : Nat → (Nat → Word) → Word
  | 0, v => v 0
  | k + 1, v => rvOf op (rvTree op k v) (rvTree op k fun p => v (2 ^ k + p))

/-- R204 to R206: with no pending request, room among the outstanding operations and the thread's accesses performed, RVX and RVRED make
their arrival, leave the destination empty and go on; the instances are tested in the same step. A pending request, and a full house, make them
wait; until the accesses have been performed they are issued again (R264, log entry 26). R205, R207 to R210: when an instance completes, no
member's request is pending any longer; under RVX each member's destination has the value of the member at its asked position, 0 for an absent
one; under RVRED the root of the operator's tree, with the identity for an absent member; when their opcodes or MODs differ, 0, and each member
holds the barrier-timeout trap with information 2. -/
def Obligations.RendezvousInstructionsComplete : Prop :=
  (∀ (x : Ops) (op : RvOp) (s : State) (e : Env),
    let base := e.ref.tid / 2 ^ x.c.toNat * 2 ^ x.c.toNat
    let now := (s.core (e.tm.cores.headD 0)).clock
    let aged (tm : Team) : Team := if tm.rdvAges.any (fun a => a.base == base && a.size == x.c.toNat) then tm
      else { tm with rdvAges := tm.rdvAges ++ [{ base := base, size := x.c.toNat, elapsed := 0, since := now, fired := false }] }
    let request (k : PKind) (arg : Nat) : Pending :=
      { id := s.nextId, kind := k, dst := x.d, size := x.c.toNat, val := e.t.rd x.a, arg := arg, pc := e.t.pc, einst := e.words }
    let asks (i : Instr) (k : PKind) (arg : Nat) : Prop := Runs i s e →
      (e.t.pend = none → e.t.inFlight < 63 → e.t.settled = true →
        exec i s = .next ((((((s.counted e i).released e.ref).updTeam e.ref.team aged).fresh.updThread e.ref fun t => { t with pend := some (request k arg) }).leaving e i [] [x.d]
          (e.nextPc i)).testSync e.ref.team))
      ∧ (e.t.pend ≠ none → exec i s = .next (((s.counted e i).wait e.ref .request).testSync e.ref.team))
      ∧ (e.t.pend = none → 63 ≤ e.t.inFlight → exec i s = .next (((s.counted e i).wait e.ref .limit).testSync e.ref.team))
      ∧ (e.t.pend = none → e.t.inFlight < 63 → e.t.settled = false → exec i s = .next ((s.counted e i).testSync e.ref.team))
    asks (.rvx x) .rvx (e.t.rd x.b).toNat ∧ asks (.rvred x op) (.rvred op) 0)
  ∧ (∀ (s : State) (n base k : Nat) (tm : Team) (p : Nat) (t : Thread) (r : Pending),
    s.team n = some tm → p < 2 ^ k → tm.present (base + p) = some t → t.pend = some r → r.dst ≠ 0 →
    let pends : List (Option Pending) := (tm.group base k).map fun m => m.bind fun t => t.pend
    let now (v : Word) : Prop := ∃ u, (s.completeRdv n base k).thread ⟨n, base + p⟩ = some u ∧ u.pend = none ∧ u.rd r.dst = v ∧ u.full r.dst = true
    ((∀ q ∈ pends, ∀ z, q = some z → z.kind = .rvx) → now (match pends.getD (r.arg % 2 ^ k) none with
      | some z => z.val
      | none => 0))
    ∧ (∀ op, (∀ q ∈ pends, ∀ z, q = some z → z.kind = .rvred op) → now (rvTree op k fun p => match pends.getD p none with
        | some z => z.val
        | none => match op with
          | .addF32 | .addI32 => 0
          | .minF32 => 0x7F800000
          | .maxF32 => 0xFF800000
          | .minI32 => 0x7FFFFFFF
          | .maxI32 => 0x80000000))
    ∧ ((∃ q ∈ pends, ∃ z, q = some z ∧ z.kind ≠ r.kind) → now 0 ∧ ∃ u, (s.completeRdv n base k).thread ⟨n, base + p⟩ = some u
        ∧ ((∀ tr ∈ t.held, tr.cause ≠ .barrierTimeout) → ∃ tr ∈ u.held, tr.cause = .barrierTimeout ∧ tr.deferred = true ∧ tr.epc = r.pc ∧ tr.einfo = 2)))

/-- R211, R212, R368, R369: WAITA of a word that resolves to a place, whose port is up and whose peer package admits it: where no earlier operation
or engine holds the read back and the word holds no poison, it goes on with the word's value when the relation holds; when the relation does not
hold, or the word may not be read yet, it waits on the word. -/
def Obligations.WaitaCompletes : Prop := ∀ (x : Ops) (sc : Scope) (sp : Space) (ne : Bool) (s s' : State) (e : Env) (t : Target) (g : Nat),
  let i : Instr := .waita x sc sp ne
  let a := if sp = .glb then (e.t.pair x.a).toNat else (e.t.rd x.a).toNat
  let c : Word := if x.len = .s then e.t.rd x.b else x.ext.setWidth 32
  let q := s'.keepPage e
  let v := BitVec.ofNat 32 (q.load t 4)
  let look : RaceAccess := { ref := e.ref, core := e.core, size := 4, pc := e.t.pc, einst := e.words, va := BitVec.ofNat 64 a, at_ := t, write := false, atomic := false,
                             ord := .acq, scope := sc, n := 0 }
  let ready := q.readReady e.ref e.core e.t (t.range 4)
  Runs i s e → (s.counted e i).resolve e sp a 4 4 .read = (.at_ t g, s') → q.linkDead t = false → (t.mem = .peer → Config.peerAnswer q.tick < 3) →
    (ready = true → q.poisoned (t.range 4) = false →
      ((v = c ↔ ne = false) → exec i s = .next ((q.raceAccess look).leaving e i [(x.d, v)] [] (e.nextPc i)))
      ∧ (¬(v = c ↔ ne = false) → exec i s = .next (q.wait e.ref (.address t (BitVec.ofNat 64 a) c ne sc))))
    ∧ (ready = false → exec i s = .next (q.wait e.ref (.address t (BitVec.ofNat 64 a) c ne sc)))

/-- R205, R213, R214, R216 to R219, R264, R369: the queue instructions. Their checks, in the order of R219, are access violations of their codes, and a misaligned
scratchpad address is a misalignment (no division in flight). The unit of a local queue first serves the requests that came before, as far as it can (the
model's order of arrival, log entry 33, DEDUCED); that the faults of these codes report address 0 is the model's reading too (log entry 30). A QPUSH, which as
a release is issued again until the thread's accesses, and with `.s64` the reading of its item, are in order (log entry 26), appends its item, its key counted, to an open queue with room and nobody waiting; a full
queue makes `.nb` write 1 and a plain push wait in order, a closed one makes `.nb` write 2; a push that has been accepted while it waited goes on; a remote
queue's peer answers. QPOP waits at the queue with its pair empty, its lease ended, even while it waits for an earlier request; QCNT reads a key's count, and
clears it with `.rst`; QCLOSE closes; QSTAT writes its pair, in which a count above 65,536 is a free value of its field (log entry 76). -/
def Obligations.QueueInstructionsComplete : Prop :=
  (∀ (x : Ops) (f nb w : Bool) (s : State) (e : Env),
    let ctx := e.pl.ctxNum
    let n := x.c.toNat
    let key := (if x.len = .s then e.t.rd x.b else x.ext.setWidth 32).toNat
    let a := (e.t.rd x.a).toNat
    let push : Instr := .qpush x nb w
    let pop : Instr := .qpop x f nb
    let cnt : Instr := .qcnt x f
    let close : Instr := .qclose x
    let stat : Instr := .qstat x
    let limit := if f then key else 1
    let q (i : Instr) : State := s.counted e i
    let trap (i : Instr) (g : State) (c : Cause) (ea : DWord) (code : Word) : Prop := e.t.dividing = false →
      exec i s = .next (g.takeTrap e.ref { cause := c, deferred := false, epc := e.t.pc, eaddr := ea, einfo := code, einst := e.words })
    let violates (i : Instr) (code : Word) : Prop := trap i (q i) .accessViolation 0 code
    let ea := BitVec.ofNat 64 a
    let goes (i : Instr) (g : State) (ws : List (Reg × Word)) : Prop := exec i s = .next (g.leaving e i ws [] (e.nextPc i))
    let status (v : Word) : List (Reg × Word) := if nb then [(x.d, v)] else []
    let first : Prop := e.t.resume ≠ some (.push n)
    (s.boundQueue ctx n = none → (Runs push s e → first → violates push 0x20) ∧ (Runs pop s e → violates pop 0x20) ∧ (Runs cnt s e → violates cnt 0x20)
      ∧ (Runs close s e → violates close 0x20) ∧ (Runs stat s e → violates stat 0x20))
    ∧ (Runs push s e → e.t.resume = some (.push n) → goes push ((q push).released e.ref) (status 0))
    ∧ ∀ u : Queue, s.boundQueue ctx n = some u →
      let z (i : Instr) : State := (q i).serveAll ctx n
      let v (i : Instr) : Queue := ((z i).queue ctx n).getD u
      let data : List Byte := if w then (q push).bytes (e.localPlace a) 64 else leBytes 16 (e.t.quad x.a).toNat
      let item := (z push).itemOf e.ref key data
      let place : Range := (e.localPlace a).range 64
      let checked : Prop := Runs push s e ∧ first ∧ u.isize = (if w then 64 else 16) ∧ key < u.keys ∧ (w = true → a % 16 = 0 ∧ e.localCheck a 64 = none)
      let acts : Prop := checked ∧ e.t.settled = true ∧ (w = true → (q push).readReady e.ref e.core e.t place = true)
      let y := v push
      let port := Config.routeQueue ctx n
      let answer := Config.peerAnswer s.tick
      let pushed : Queue := { y with items := y.items ++ [{ item with seq := y.nextSeq }], nextSeq := y.nextSeq + 1,
                                     counts := y.counts.put key (min ((y.counts.look key).getD 0 + 1) 0xFFFFFFFF) }
      let waits : Queue := { y with pushes := y.pushes ++ [(e.ref, { item with seq := (z push).nextId })] }
      let ended : Queue := { u with leases := u.leases.filter fun l => !(l.team == e.ref.team && l.tid == e.ref.tid) }
      let p := (q pop).setQueue ctx n ended
      let fits : Prop := Runs pop s e ∧ u.remote = false ∧ 0 < limit ∧ limit ≤ 256 ∧ a % 16 = 0 ∧ e.localCheck a (limit * u.isize) = none
      let free := p.readReady e.ref e.core e.t ((e.localPlace a).range (limit * u.isize))
      let asks : Pending := { id := s.nextId, kind := .qpop f nb, dst := x.d, size := n, val := e.t.rd x.a, arg := limit, pc := e.t.pc, einst := e.words }
      (Runs push s e → first → u.isize ≠ (if w then 64 else 16) → violates push 0x22)
      ∧ (Runs push s e → first → u.isize = (if w then 64 else 16) → u.keys ≤ key → violates push 0x21)
      ∧ (Runs push s e → first → w = true → u.isize = 64 → key < u.keys → (a % 16 ≠ 0 → trap push (q push) .misalignment ea 0)
        ∧ (a % 16 = 0 → e.localCheck a 64 ≠ none → trap push (q push) .accessViolation ea 0x26))
      ∧ (checked → e.t.settled = false → exec push s = .next (q push))
      ∧ (checked → w = true → (q push).readReady e.ref e.core e.t place = false → exec push s = .next (q push))
      ∧ (acts → u.remote = false →
        (y.closed = true → nb = true → goes push (z push) [(x.d, 2)])
        ∧ (y.closed = true → nb = false → trap push (z push) .accessViolation 0 0x23)
        ∧ (y.closed = false → y.items.length < y.cap → y.pushes = [] → goes push (((z push).setQueue ctx n pushed).released e.ref) (status 0))
        ∧ (y.closed = false → y.cap ≤ y.items.length ∨ y.pushes ≠ [] → nb = true → goes push (z push) [(x.d, 1)])
        ∧ (y.closed = false → y.cap ≤ y.items.length ∨ y.pushes ≠ [] → nb = false →
          exec push s = .next (((z push).fresh.setQueue ctx n waits).wait e.ref (.push n))))
      ∧ (acts → u.remote = true →
        let g := (q push).released e.ref
        ((s.port port).down = true → exec push s = .next ((q push).linkKill e.ref e.t.pc port))
        ∧ ((s.port port).down = false →
          (answer = 0 → goes push { g with sent := g.sent ++ [{ ctx := ctx, queue := n, key := key, data := data }] } (status 0))
          ∧ (answer = 1 → nb = true → goes push (q push) [(x.d, 1)]) ∧ (answer = 1 → nb = false → exec push s = .next ((q push).wait e.ref (.push n)))
          ∧ (answer = 2 → nb = true → goes push (q push) [(x.d, 2)]) ∧ (answer = 2 → nb = false → violates push 0x23)
          ∧ (3 ≤ answer → violates push 0x0B)))
      ∧ (u.remote = true → (Runs pop s e → violates pop 0x24) ∧ (Runs cnt s e → violates cnt 0x24) ∧ (Runs close s e → violates close 0x24))
      ∧ (Runs pop s e → u.remote = false → limit = 0 ∨ 256 < limit → violates pop 0x25)
      ∧ (Runs pop s e → u.remote = false → 0 < limit → limit ≤ 256 → (a % 16 ≠ 0 → trap pop (q pop) .misalignment ea 0)
        ∧ (a % 16 = 0 → e.localCheck a (limit * u.isize) ≠ none → trap pop (q pop) .accessViolation ea 0x26))
      ∧ (fits → 63 ≤ e.t.inFlight → exec pop s = .next ((q pop).wait e.ref .limit))
      ∧ (fits → e.t.inFlight < 63 → (e.t.pend ≠ none → exec pop s = .next (p.wait e.ref .request))
        ∧ (e.t.pend = none → free = false → exec pop s = .next p)
        ∧ (e.t.pend = none → free = true → exec pop s = .next (((p.setQueue ctx n { ended with pops := u.pops ++ [e.ref] }).fresh.updThread e.ref
            fun t => { t with pend := some asks }).leaving e pop [] [x.d, x.d + 1] (e.nextPc pop))))
      ∧ (Runs cnt s e → u.remote = false → (u.keys ≤ a → violates cnt 0x21)
        ∧ (a < u.keys → goes cnt (if f then (z cnt).setQueue ctx n { v cnt with counts := (v cnt).counts.put a 0 } else z cnt)
            [(x.d, BitVec.ofNat 32 (((v cnt).counts.look a).getD 0))]))
      ∧ (Runs close s e → u.remote = false → goes close ((z close).setQueue ctx n { v close with closed := true, pushes := [] }) [])
      ∧ (Runs stat s e → ∃ items leased : BitVec 17,
        goes stat (z stat) (if (v stat).remote then [(x.d, 0), (x.d + 1, 0x40000000)]
          else [(x.d, items.setWidth 32), (x.d + 1, (if (v stat).closed then 0x80000000 else 0) ||| leased.setWidth 32)])
        ∧ ((v stat).items.length ≤ 65536 → items.toNat = (v stat).items.length) ∧ ((v stat).leased ≤ 65536 → leased.toNat = (v stat).leased)))
  ∧ ∀ (s : State) (ctx n : Nat), (s.serveAll ctx n).nextRequest ctx n = none

/-- R213 to R217: a queue unit serves the requests that it can serve in their order of arrival. It answers the earliest QPOP that can be answered: the items of
the oldest item's key, oldest first, up to the limit, written from the scratchpad address on, leave the queue and are leased to the thread of its team, and its
pair is full with their count and key; the request is pending no longer and has left the queue; a push that waits first, and came before such a QPOP, joins
the queue when there is room, and its thread goes on. -/
def Obligations.QueueUnitServes : Prop := ∀ (s : State) (ctx n : Nat) (u : Queue) (r : ThreadRef) (p : Pending) (a : PopAnswer),
  let joined (i : Item) (l : List (ThreadRef × Item)) : Queue :=
    { u with pushes := l, items := u.items ++ [{ i with seq := u.nextSeq }], nextSeq := u.nextSeq + 1,
             counts := u.counts.put i.key (min ((u.counts.look i.key).getD 0 + 1) 0xFFFFFFFF) }
  let waiting : Prop := u.closed = false ∧ u.items.length < u.cap
  s.boundQueue ctx n = some u →
  (s.popReady u = some (r, p, a) → (waiting → ∀ y l, u.pushes = y :: l → p.id < y.2.seq) → p.dst.toNat % 2 = 0 → p.dst ≠ 0 →
    (∀ tm, s.team r.team = some tm → ∀ y ∈ tm.ring, y.1 ≠ r.tid) →
    ∃ t v, exec (.queueServe ctx n) s = .next t ∧ t.thread r = some v ∧ v.pend = none ∧ v.rd p.dst = a.count ∧ v.rd (p.dst + 1) = a.info
      ∧ v.full p.dst = true ∧ v.full (p.dst + 1) = true
      ∧ t.queue ctx n = some { u with
          items := u.items.filter fun i => !(a.items.any fun j => j.seq == i.seq)
          pops := u.pops.filter fun y => y != r
          leases := if a.items.isEmpty then u.leases else u.leases ++ [{ team := r.team, tid := r.tid, items := a.items }] }
      ∧ (∀ k, k < (a.items.flatMap fun i => i.data).length →
          t.byte (.spad r.team (p.val.toNat / 2 ^ 24 % 4)) (p.val.toNat % 2 ^ 24 + k) = (a.items.flatMap fun i => i.data).getD k 0)
      ∧ (∀ m b, (m ≠ .spad r.team (p.val.toNat / 2 ^ 24 % 4) ∨ b < p.val.toNat % 2 ^ 24
            ∨ p.val.toNat % 2 ^ 24 + (a.items.flatMap fun i => i.data).length ≤ b) → t.byte m b = s.byte m b)
      ∧ (∀ y l, u.items = y :: l → a.items = (u.items.filter fun i => decide (i.key = y.key)).take p.arg
          ∧ a.count = BitVec.ofNat 32 a.items.length ∧ a.info = BitVec.ofNat 32 y.key)
      ∧ (u.items = [] → a.items = [] ∧ a.count = 0 ∧ a.info = (if u.closed ∧ u.leases = [] then 0x80000000 else 0)))
  ∧ (∀ r i l, u.pushes = (r, i) :: l → waiting → (∀ g p a, s.popReady u = some (g, p, a) → i.seq ≤ p.id) →
      exec (.qpushAccept ctx n) s = .next ((s.setQueue ctx n (joined i l)).updThread r
        fun t => { t with status := .runnable, resume := some (.push n) }))

/-! ### Rows 0x9 and 0xA: memory -/

/-- What an instruction that forms a memory address of `n` bytes in a space does: the address, and what access it needs. -/
structure Forms where
  i : Instr
  sp : Space
  n : Nat
  scale : Nat
  need : Need

/-- The loads, stores and atomics that form their address themselves (R248 to R250, R256). -/
def formsOf (x : Ops) (sx w : Bool) (sz : MSize) (op : AOp) (f : AfOp) (sp : Space) : List Forms :=
  let iv := if w then 16 else 8
  [⟨.ld x sx sz sp, sp, sz.bytes, sz.bytes, .read⟩, ⟨.st x sz sp, sp, sz.bytes, sz.bytes, .write⟩, ⟨.ldi x w sp, sp, iv, iv, .read⟩,
    ⟨.sti x w sp, sp, iv, iv, .write⟩, ⟨.atom x op sp, sp, 4, 0, .both⟩, ⟨.atomc x sp, sp, 4, 0, .both⟩,
    ⟨.red x op sp, sp, if op = .addI64 then 8 else 4, 0, .both⟩, ⟨.atomf x f sp, sp, if f.wide then 8 else 4, 0, .both⟩,
    ⟨.atom64 x op sp, sp, 8, 0, .both⟩, ⟨.atomc64 x sp, sp, 8, 0, .both⟩]

/-- The instruction takes a precise trap in a state (R380), its thread having no division in flight. -/
def trapsIn (i : Instr) (s g : State) (e : Env) (c : Cause) (ea : DWord) (code : Word) : Prop := e.t.dividing = false →
  exec i s = .next (g.takeTrap e.ref { cause := c, deferred := false, epc := e.t.pc, eaddr := ea, einfo := code, einst := e.words })

/-- R222, R223, R360: the address checks of loads, stores and atomics, in their order: a misaligned address; a GLOBAL address that is not
sign-extended from bit 55; LOCAL bits or a team core that the team has not; a LOCAL range beyond the scratchpad; a WS range beyond the
carve-out. The trap reports the address, and no register changes. A page without the permission is violation 2, and an unmapped one makes
a page-fault record and waits (no division in flight, an address without a cached translation). R369: what a peer package does not admit is violation 0x0B. -/
def Obligations.AddressesAreChecked : Prop :=
  ∀ (x : Ops) (sx w : Bool) (sz : MSize) (op : AOp) (f : AfOp) (sp : Space) (s : State) (e : Env), e.t.dividing = false →
  ∀ m ∈ formsOf x sx w sz op f sp, Runs m.i s e →
    let a := memAddr x sp m.scale e.t
    let q := s.counted e m.i
    let traps (c : Cause) (code : Word) : Prop := trapsIn m.i s q e c (BitVec.ofNat 64 a) code
    (a % m.n ≠ 0 → traps .misalignment 0)
    ∧ (a % m.n = 0 → sp = .glb → a / 2 ^ 55 ≠ 0 → a / 2 ^ 55 ≠ 511 → traps .accessViolation 1)
    ∧ (a % m.n = 0 → sp = .loc → (a / 2 ^ 26 ≠ 0 ∨ e.tm.cores.length ≤ a / 2 ^ 24 % 4) → traps .accessViolation 3)
    ∧ (a % m.n = 0 → sp = .loc → a / 2 ^ 26 = 0 → a / 2 ^ 24 % 4 < e.tm.cores.length → e.st.spad < a % 2 ^ 24 + m.n → traps .accessViolation 4)
    ∧ (a % m.n = 0 → sp = .ws → (∀ p, s.parts.look e.pl.part = some p → (p.wsOn (e.core / 64)).length * 2 ^ 26 < a + m.n) →
        traps .accessViolation 5)
    ∧ (∀ t g s', q.resolve e sp a m.n m.n m.need = (.at_ t g, s') → t.mem = .peer → 3 ≤ Config.peerAnswer s'.tick →
        trapsIn m.i s s' e .accessViolation (BitVec.ofNat 64 a) 0x0B)
    ∧ (a % m.n = 0 → sp = .glb → canonical a = true → (∀ y ∈ (s.core e.core).tlb, y.x.covers a = false) → e.t.lastPage = none →
        (∀ x, s.walk e.pl.ctxNum a = .ok x → x.grants m.need = false → e.st.traph ≠ 0 → e.t.handler = false →
          ∃ t u, exec m.i s = .next t ∧ t.mems = s.mems ∧ t.thread e.ref = some u ∧ u.pc = e.st.traph ∧ u.cause = 9 ∧ u.einfo = 2
            ∧ u.eaddr = BitVec.ofNat 64 a ∧ u.regs = e.t.regs)
        ∧ (∀ r, s.walk e.pl.ctxNum a = .error r → ∃ t u n, exec m.i s = .next t ∧ t.mems = s.mems ∧ t.thread e.ref = some u
          ∧ u.status = .waiting (.pageFault n (BitVec.ofNat 64 a)) ∧ u.regs = e.t.regs ∧ u.pc = e.t.pc
          ∧ ∃ k ∈ (t.context e.pl.ctxNum).faults, k.seq = n ∧ .thread e.ref ∈ k.requesters))

/-- An access goes to a place that it may be performed at: the address resolves to it, and a peer package admits it (R369). -/
def goesTo (s : State) (e : Env) (sp : Space) (a n : Nat) (need : Need) (t : Target) (s' : State) : Prop :=
  (∃ g, s.resolve e sp a n n need = (.at_ t g, s')) ∧ (t.mem = .peer → Config.peerAnswer s'.tick < 3)

/-- The address lies in a page with the sketch-window attribute, of a slot (R260, R287). -/
def inWindow (s : State) (e : Env) (a n : Nat) (need : Need) (slot : Nat) (s' : State) : Prop :=
  ∃ x, s.resolve e .glb a n n need = (.window slot (BitVec.ofNat 32 (a / 4)) x, s')

/-- The accesses of an operation of `n` bytes: one, or two of 8 (R224). -/
def accessesOf (id : Nat) (t : Target) (n data : Nat) : List Access :=
  if n = 16 then [⟨id + 1, t, 8, data % 2 ^ 64, none, false⟩, ⟨id + 2, { t with addr := t.addr + 8 }, 8, data / 2 ^ 64, none, false⟩]
  else [⟨id + 1, t, n, data % 2 ^ (8 * n), none, false⟩]

/-- R177, R224, R249, R250: a load whose address resolves joins its thread's operations and leaves its destination empty; a store takes its data
at issue; an access of 16 bytes is two of 8. Nothing is performed yet: memory is unchanged, and the operation has the grain and the policy of its page, and a
release raises N (R242, R261, R275). R177: a load waits as the 64th outstanding operation. R260, R288, R297: in a sketch-window page, whose word holds a key, a
4-byte load is a query and a 4-byte store an insert; of an unbound slot, with a weight that the instance does not take, and of any other form, it is a
sketch-access fault of code 2, 3 and 1. -/
def Obligations.LoadsAndStoresAreIssued : Prop :=
  (∀ (x : Ops) (sx w : Bool) (sz : MSize) (sp : Space) (s s' : State) (e : Env) (t : Target),
    let ld : Instr := .ld x sx sz sp
    let st : Instr := .st x sz sp
    let ldi : Instr := .ldi x w sp
    let sti : Instr := .sti x w sp
    let iv := if w then 16 else 8
    let a := memAddr x sp sz.bytes e.t
    let b := memAddr x sp iv e.t
    let op (k : OpKind) (n data : Nat) (d : Reg) (dn a : Nat) : MemOp :=
      e.memOp s'.nextId k (accessesOf s'.nextId t n data) (memOrd x) (memScope x) x.hint 0 d dn a
    let issued (i : Instr) (o : MemOp) (ds : List Reg) : Prop := exec i s = .next ((s'.issue e o).leaving e i [] ds (e.nextPc i))
    let regs (k : Nat) : List Reg := (List.range k).map fun j => x.d + BitVec.ofNat 8 j
    let full (i : Instr) : Prop := 63 ≤ e.t.inFlight → exec i s = .next (s'.wait e.ref .limit)
    let data : Nat := if sz.bytes = 16 then (e.t.quad x.b).toNat else if sz.bytes = 8 then (e.t.pair x.b).toNat else (e.t.rd x.b).toNat
    let weight := (e.t.rd x.b).toInt
    let key : Word := BitVec.ofNat 32 (a / 4)
    let bad (i : Instr) (a : Nat) (code : Word) : Prop := trapsIn i s s' e .sketchAccess (BitVec.ofNat 64 a) code
    (Runs ld s e → goesTo (s.counted e ld) e sp a sz.bytes .read t s' →
      (e.t.inFlight < 63 → issued ld (op (.load sx) sz.bytes 0 x.d sz.regs a) (regs sz.regs)) ∧ full ld)
    ∧ (Runs st s e → goesTo (s.counted e st) e sp a sz.bytes .write t s' → issued st (op .store sz.bytes data 0 0 a) [])
    ∧ (Runs ldi s e → goesTo (s.counted e ldi) e sp b iv .read t s' →
      (e.t.inFlight < 63 → issued ldi (op (.loadIv w) iv 0 x.d (iv / 4) b) (regs (iv / 4))) ∧ full ldi)
    ∧ (Runs sti s e → goesTo (s.counted e sti) e sp b iv .write t s' →
      issued sti (op .store iv (if w then (e.t.quad x.b).toNat else (e.t.pair x.b).toNat) 0 0 b) [])
    ∧ (sp = .glb → ∀ slot,
      (Runs ld s e → inWindow (s.counted e ld) e a sz.bytes .read slot s' →
        (sz ≠ .b32 → bad ld a 1) ∧ (sz = .b32 → s'.bound e.pl.ctxNum slot = none → bad ld a 2)
        ∧ (sz = .b32 → ∀ k, s'.bound e.pl.ctxNum slot = some k →
          (e.t.inFlight < 63 → issued ld (e.skMemOp s'.nextId (.skQuery slot key) k (memOrd x) (memScope x) x.hint x.d 1 a) [x.d]) ∧ full ld))
      ∧ (Runs st s e → inWindow (s.counted e st) e a sz.bytes .write slot s' →
        (sz ≠ .b32 → bad st a 1) ∧ (sz = .b32 → s'.bound e.pl.ctxNum slot = none → bad st a 2)
        ∧ (sz = .b32 → ∀ k, s'.bound e.pl.ctxNum slot = some k →
          (k.allows weight false = false → bad st a 3)
          ∧ (k.allows weight false = true →
            issued st (e.skMemOp s'.nextId (.skInsert slot key weight) k (memOrd x) (memScope x) x.hint 0 0 a) [])))
      ∧ (Runs ldi s e → inWindow (s.counted e ldi) e b iv .read slot s' → bad ldi b 1)
      ∧ (Runs sti s e → inWindow (s.counted e sti) e b iv .write slot s' → bad sti b 1)))
  ∧ (∀ (s : State) (e : Env) (o : MemOp) (t : Thread), s.thread e.ref = some t →
    ∃ u, (s.issue e o).thread e.ref = some u ∧ u.ops = t.ops ++ [{ o with grain := (s.pageOf e.ref).1, cp := (s.pageOf e.ref).2, n := u.raceN }]
      ∧ u.raceN = (if o.ord = .rel ∨ o.ord = .ar then (t.raceN + 1) % 2 ^ 16 else t.raceN) ∧ u.regs = t.regs ∧ u.mode = t.mode
      ∧ (s.issue e o).mems = s.mems ∧ (s.issue e o).cores = s.cores ∧ ∀ r, r ≠ e.ref → (s.issue e o).thread r = s.thread r)

/-- R251, R260, R264, R276: LDT and STT of an element in bounds of a record that is legal but for its box sizes and XF, which they ignore, of the stated rank
and element size issue its access, and the race detector sees the record's read; an element out of bounds under clip mode zero is 0 for LDT
and nothing for STT, and under clip mode trap violation 7; any other record is violation 6. A record or an element in a sketch-window page is a sketch-access
fault. The record's read is issued again until it is in order (log entry 26). -/
def Obligations.ShapedAccessesComplete : Prop :=
  ∀ (x : Ops) (sx : Bool) (sz : MSize) (sp : Space) (s s' s'' : State) (e : Env) (t tt : Target) (slot : Nat),
    let d := s'.bytes t 128
    let r : Shape := (shapeOf d).based sp
    let ra := (e.t.pair x.a).toNat
    let ks : List Int := (List.range x.c.toNat).map fun j => (e.t.rd (x.b + BitVec.ofNat 8 j)).toInt
    let a := elemAddr r sp (r.addr ks + if x.len = .s then 0 else (memOff x sz.bytes).toInt)
    let noted (g : State) : State := g.raceRead e ra 128 t
    let op (k : OpKind) (data : Nat) (dn : Nat) : MemOp :=
      e.memOp s''.nextId k (accessesOf s''.nextId tt sz.bytes data) (memOrd x) (memScope x) x.hint 0 (if dn = 0 then 0 else x.d) dn a
    let data := if sz.bytes = 16 then (e.t.quad x.d).toNat else if sz.bytes = 8 then (e.t.pair x.d).toNat else (e.t.rd x.d).toNat
    let ld : Instr := .ldt x sx sz sp
    let st : Instr := .stt x sz sp
    let good := elemOk d = true ∧ r.rank = x.c.toNat ∧ 2 ^ r.elog = sz.bytes
    let does (i : Instr) (need : Need) (inside outside : Prop) : Prop := Runs i s e →
      (inWindow (s.counted e i) e ra 128 .read slot s' → trapsIn i s s' e .sketchAccess (BitVec.ofNat 64 ra) 1)
      ∧ (goesTo (s.counted e i) e .glb ra 128 .read t s' →
        (s'.readReady e.ref e.core e.t (t.range 128) = false → exec i s = .next s')
        ∧ (s'.readReady e.ref e.core e.t (t.range 128) = true →
          (s'.poisoned (t.range 128) = true → exec i s = .next (s'.poisonKill e.ref e.t.pc t))
          ∧ (s'.poisoned (t.range 128) = false →
            (¬good → trapsIn i s s' e .accessViolation (BitVec.ofNat 64 ra) 6)
            ∧ (good → r.inBounds ks = true → sp = .glb → inWindow s' e a sz.bytes need slot s'' → trapsIn i s s'' e .sketchAccess (BitVec.ofNat 64 a) 1)
            ∧ (good → r.inBounds ks = true → goesTo s' e sp a sz.bytes need tt s'' → inside)
            ∧ (good → r.inBounds ks = false → r.clip = 1 → trapsIn i s s' e .accessViolation (BitVec.ofNat 64 a) 7)
            ∧ (good → r.inBounds ks = false → r.clip = 0 → outside))))
    does ld .read
      ((e.t.inFlight < 63 → exec ld s = .next ((noted (s''.issue e (op (.load sx) 0 sz.regs))).leaving e ld [] (regRange x.d sz.regs) (e.nextPc ld)))
        ∧ (63 ≤ e.t.inFlight → exec ld s = .next (s''.wait e.ref .limit)))
      (exec ld s = .next ((noted s').leaving e ld ((List.range sz.regs).map fun j => (x.d + BitVec.ofNat 8 j, 0)) [] (e.nextPc ld)))
    ∧ does st .write (exec st s = .next ((noted (s''.issue e (op .store data 0))).leaving e st [] [] (e.nextPc st)))
      (exec st s = .next ((noted s').leaving e st [] [] (e.nextPc st)))

/-- R252 to R255, R260, R375: PREF goes on, and may bring a readable line without poison into caches; a fence goes on once the thread's accesses that it orders
have been performed, and waits until then; CFLUSH waits for the thread's own accesses and engines, then leaves no dirty copy of the line, or, with `.inv`, no
copy at all, and does nothing for a remote line; CINV drops the instruction-cache copies of the 512-byte line on the cores of its scope, and no
other, once the acquires under way there have been performed (the model's reading, log entry 16, DEDUCED). None of them changes a byte of memory. On a
sketch-window page CFLUSH and CINV are sketch-access faults. -/
def Obligations.FencesAndCacheInstructionsComplete : Prop :=
  ∀ (x : Ops) (k : MOrd) (inv : Bool) (sc : Scope) (s s' : State) (e : Env) (t : Target) (g : Nat),
    let q (i : Instr) : State := s.counted e i
    let pref : Instr := .pref x
    let fence : Instr := .fence x k
    let flush : Instr := .cflush x inv
    let cinv : Instr := .cinv x sc
    let z := s'.keepPage e
    let a := memAddr x .glb 512 e.t
    let line : Range := ⟨t.mem, t.addr / 512 * 512, t.addr / 512 * 512 + 512⟩
    let goes (i : Instr) (t : State) : Prop := exec i s = .next (t.leaving e i [] [] (e.nextPc i))
    let dropped (n : Nat) (c : Core) : Core :=
      if n ∈ scopeCores sc e then { c with icache := c.icache.filter fun b => !(b.1.range 32).meets line } else c
    let before := match e.t.resume with
      | some (.acquires n _) => n
      | _ => z.nextId
    let fsc : Scope := match x.d.toNat % 8 with
      | 0 => .thr
      | 1 => .team
      | 2 => .die
      | 3 => .pkg
      | _ => .sys
    (Runs pref s e →
      ((q pref).resolve e .glb a 1 1 .read = (.at_ t g, s') →
        (∃ p, goes pref p ∧ p.mems = s.mems ∧ p.teams = z.teams ∧ p.poison = s.poison) ∧ (s'.poisoned line = true → goes pref z))
      ∧ ((∀ t g s', (q pref).resolve e .glb a 1 1 .read ≠ (.at_ t g, s')) → goes pref (q pref)))
    ∧ (Runs fence s e → (k = .rel ∨ k = .ar) →
      (e.t.settled = true → goes fence ((q fence).raceFence e.ref e.core k fsc))
      ∧ (e.t.settled = false → exec fence s = .next ((q fence).wait e.ref (.accesses true))))
    ∧ (Runs fence s e → k = .acq →
      (e.t.readsDone = true → goes fence ((q fence).raceFence e.ref e.core k fsc))
      ∧ (e.t.readsDone = false → exec fence s = .next ((q fence).wait e.ref (.accesses false))))
    ∧ (((q fence).raceFence e.ref e.core k fsc).mems = s.mems)
    ∧ (Runs flush s e →
      (∀ n key y, (q flush).resolve e .glb a 1 1 (if inv then .write else .read) = (.window n key y, s') →
        trapsIn flush s s' e .sketchAccess (BitVec.ofNat 64 a) 1)
      ∧ ((q flush).resolve e .glb a 1 1 (if inv then .write else .read) = (.at_ t g, s') →
        (t.mem = .peer → goes flush z)
        ∧ (t.mem ≠ .peer → z.readReady e.ref e.core e.t line = false → exec flush s = .next (z.wait e.ref (.accesses true)))
        ∧ (t.mem ≠ .peer → z.readReady e.ref e.core e.t line = true → ∃ p, goes flush p ∧ p.mems = s.mems ∧ p.teams = z.teams
          ∧ (inv = true → (∀ d ∈ p.dir, d.unit.meets line = false) ∧ p.l2At t = none)
          ∧ (inv = false → (∀ d ∈ p.dir, d.unit.meets line = true → d.isDirty = false) ∧ ∀ l, p.l2At t = some l → l.dirty = 0))))
    ∧ (Runs cinv s e →
      (∀ n key y, (q cinv).resolve e .glb a 1 1 .read = (.window n key y, s') → trapsIn cinv s s' e .sketchAccess (BitVec.ofNat 64 a) 1)
      ∧ ((q cinv).resolve e .glb a 1 1 .read = (.at_ t g, s') →
        (z.readReady e.ref e.core e.t line = false → exec cinv s = .next (z.wait e.ref (.accesses true)))
        ∧ (z.readReady e.ref e.core e.t line = true → z.acquiring before (scopeCores sc e) = true →
          exec cinv s = .next (z.wait e.ref (.acquires before (scopeCores sc e))))
        ∧ (z.readReady e.ref e.core e.t line = true → z.acquiring before (scopeCores sc e) = false →
          goes cinv { z with cores := z.cores.map fun (n : Nat × Core) => (n.1, dropped n.1 n.2) })))

/-- A thread's operation holds the access of a number, which has not been performed; no operation or engine before it holds it back, its weight
store's bank is not in refresh, its line finds room in the caches, its port is up, and it meets no poison. -/
def mayPerform (s : State) (r : ThreadRef) (id : Nat) (o : MemOp) (a : Access) : Prop :=
  ∃ t, s.accessOf r id = some (t, o, a) ∧ s.accessReady r t o a = true ∧ s.inRefresh o.core a.at_ = false
    ∧ s.cacheRoom o.cp o.core a.at_ o.kind.use o.hint = true ∧ s.linkDead a.at_ = false ∧ s.poisoned a.range = false

/-- The new value that an atomic of an operation stores for an old value and an operand of `n` bytes (R257). -/
def newValue (op : AOp) (n m b : Nat) : Nat :=
  let old : BitVec (8 * n) := BitVec.ofNat _ m
  let opd : BitVec (8 * n) := BitVec.ofNat _ b
  match op with
  | .add | .addI64 => (old + opd).toNat
  | .and => (old &&& opd).toNat
  | .or => (old ||| opd).toNat
  | .xor => (old ^^^ opd).toNat
  | .exch => opd.toNat
  | .min => if old.toInt ≤ opd.toInt then old.toNat else opd.toNat
  | .max => if old.toInt ≤ opd.toInt then opd.toNat else old.toNat
  | .minZ => if old.toNat ≤ opd.toNat then old.toNat else opd.toNat
  | .maxZ => if old.toNat ≤ opd.toNat then opd.toNat else old.toNat
  | .addF32 => (f32.add .rne m b).1

/-- R177, R256 to R258, R260: an atomic whose address resolves joins its thread's operations with its operand; it leaves its destination empty, or has
none when that is g0, and then never waits; as the 64th outstanding operation it waits. On a sketch-window page it is a sketch-access fault. -/
def Obligations.AtomicsAreIssued : Prop :=
  ∀ (x : Ops) (op : AOp) (f : AfOp) (sp : Space) (s s' : State) (e : Env) (t : Target),
    let a := memAddr x sp 0 e.t
    let w (n : Nat) (r : Reg) : Nat := if n = 8 then (e.t.pair r).toNat else (e.t.rd r).toNat
    let fn := if f.wide then 8 else 4
    let rn := if op = .addI64 then 8 else 4
    let issues (i : Instr) (k : OpKind) (n c dn : Nat) : Prop := Runs i s e →
      (sp = .glb → ∀ slot, inWindow (s.counted e i) e a n .both slot s' → trapsIn i s s' e .sketchAccess (BitVec.ofNat 64 a) 1)
      ∧ (goesTo (s.counted e i) e sp a n .both t s' →
        let dn' := if x.d = 0 then 0 else dn
        (dn' = 0 ∨ e.t.inFlight < 63 →
          exec i s = .next ((s'.issue e (e.memOp s'.nextId k [⟨s'.nextId + 1, t, n, w n x.b % 2 ^ (8 * n), none, false⟩] (memOrd x) (memScope x) x.hint c x.d
            dn' a)).leaving e i [] (regRange x.d dn') (e.nextPc i)))
        ∧ (dn' ≠ 0 → 63 ≤ e.t.inFlight → exec i s = .next (s'.wait e.ref .limit)))
    issues (.atom x op sp) (.atomic op) 4 0 1 ∧ issues (.atomc x sp) .compare 4 (w 4 x.c) 1
    ∧ issues (.red x op sp) (if op = .addF32 then .atomicF .addF32 else .atomic op) rn 0 0 ∧ issues (.atomf x f sp) (.atomicF f) fn 0 (fn / 4)
    ∧ issues (.atom64 x op sp) (.atomic op) 8 0 2 ∧ issues (.atomc64 x sp) .compare 8 (w 8 x.c) 2

/-- R224, R249: a home performs one access of a load: it takes the bytes that stand there and changes none; one access of a store: its bytes
stand there, least significant first, and every other byte is as it was. R257, R258: a home performs an atomic as one read-modify-write: the
old value is its result, and the new value stands there, that of ATOMF by FADD, FMIN or FMAX; a compare that fails, and every other byte, leaves memory as it was. A race that the
detector logs, and an event that is due, may write a log ring besides (R91, R276). -/
def Obligations.HomesPerformAccesses : Prop :=
  (∀ (s : State) (r : ThreadRef) (id : Nat) (o : MemOp) (a : Access), mayPerform s r id o a →
    ((∃ b, o.kind = .load b ∨ o.kind = .loadIv b) → o.dstN ≠ 0 → ∃ t u, exec (.homeRequest r id) s = .next t ∧ keepsBytes s t
      ∧ t.thread r = some u ∧ ∃ p ∈ u.ops, p.id = o.id ∧ ∃ y ∈ p.accs, y.id = id ∧ y.done = some (s.load a.at_ a.size))
    ∧ (o.kind = .store → ∃ t, exec (.homeRequest r id) s = .next t
      ∧ (unlogged s t a.at_.mem a.at_.addr a.size → ∀ k, k < a.size → t.byte a.at_.mem (a.at_.addr + k) = BitVec.ofNat 8 (a.data / 2 ^ (8 * k)))
      ∧ onlyWrites s t a.at_.mem a.at_.addr a.size))
  ∧ (∀ (s : State) (r : ThreadRef) (id : Nat) (o : MemOp) (a : Access), mayPerform s r id o a →
    (a.size = 4 ∨ a.size = 8) → a.data < 2 ^ (8 * a.size) → (o.kind.flags = true → s.inStitch o.core r = false) →
    let old := s.load a.at_ a.size
    let gives (v : Nat) : Prop := ∃ t, exec (.homeAtomic r id) s = .next t
      ∧ (unlogged s t a.at_.mem a.at_.addr a.size → t.load a.at_ a.size = v) ∧ onlyWrites s t a.at_.mem a.at_.addr a.size
      ∧ (o.dstN ≠ 0 → ∃ u, t.thread r = some u ∧ ∃ p ∈ u.ops, p.id = o.id ∧ ∃ y ∈ p.accs, y.id = id ∧ y.done = some old)
    (∀ op, o.kind = .atomic op → op ≠ .addF32 → gives (newValue op a.size old a.data))
    ∧ (o.kind = .compare → gives (if old = o.cmp then a.data else old))
    ∧ (o.kind = .atomicF .addF32 → a.size = 4 → gives (f32.add .rne old a.data).1)
    ∧ (o.kind = .atomicF .minF32 → a.size = 4 → gives (f32.minMax false false old a.data).1)
    ∧ (o.kind = .atomicF .maxF32 → a.size = 4 → gives (f32.minMax true false old a.data).1)
    ∧ (o.kind = .atomicF .addF64 → a.size = 8 → gives (f64.add .rne old a.data).1)
    ∧ (o.kind = .atomicF .minF64 → a.size = 8 → gives (f64.minMax false false old a.data).1)
    ∧ (o.kind = .atomicF .maxF64 → a.size = 8 → gives (f64.minMax true false old a.data).1))

/-- R177, R249, R250, R258, R259, R359: a producer whose accesses have all been performed and whose replies have come completes: the operation is over and
its destination full, with the value, sign-extended where a small load asks for it; the flags of its conditions are set; memory is unchanged. So do loads of
1 to 16 bytes, atomics of 4 and 8 bytes, queries, and FP64 divisions and roots (R95); a malformed interval that LDI has brought makes its thread hold the
malformed-interval trap (R125). One with conditions does not complete between the issues of its core's stitches and its own thread's (log entry 66). -/
def Obligations.ProducersComplete : Prop := ∀ (s : State) (r : ThreadRef) (t : Thread) (o : MemOp), s.thread r = some t → t.status ≠ .exited →
  t.ops.find? (fun p => p.id == o.id) = some o → o.dst ≠ 0 → s.awaitsReply o = false → (o.conds ≠ {} → s.inStitch o.core r = false) →
    let completes (f : Thread → Prop) : Prop := ∃ q u, exec (.producerCompletion r o.id) s = .next q ∧ keepsBytes s q ∧ q.thread r = some u
      ∧ (∀ p ∈ u.ops, p.id ≠ o.id) ∧ u.mode = (t.mode ||| condFlags o.conds) ∧ f u
    let fulls (u : Thread) (n : Nat) : Prop := ∀ k, k < n → u.full (o.dst + BitVec.ofNat 8 k) = true
    let word : Prop := o.kind = .compare ∨ (∃ op, o.kind = .atomic op) ∨ (∃ op, o.kind = .atomicF op) ∨ ∃ k y, o.kind = .skQuery k y
    let holds (u : Thread) : Prop := (∀ tr ∈ t.held, tr.cause ≠ .malformedInterval) →
      { cause := .malformedInterval, deferred := true, epc := o.pc, eaddr := o.va, einfo := 0, einst := o.einst } ∈ u.held
    (∀ a v, o.accs = [a] → a.done = some v → a.early = false →
      (∀ sx, o.kind = .load sx → o.dstN = 1 → (a.size = 1 ∨ a.size = 2 ∨ a.size = 4) → v < 2 ^ (8 * a.size) →
        completes fun u => fulls u 1 ∧ u.held = t.held
          ∧ u.rd o.dst = (if sx = true ∧ a.size < 4 then BitVec.ofInt 32 (BitVec.ofNat (8 * a.size) v).toInt else BitVec.ofNat 32 v))
      ∧ (word → o.dstN = 1 → completes fun u => fulls u 1 ∧ u.held = t.held ∧ u.rd o.dst = BitVec.ofNat 32 v)
      ∧ (o.dstN = 2 → o.dst.toNat % 2 = 0 → v < 2 ^ 64 →
        (word ∨ o.kind = .arith ∨ (o.kind = .load false ∧ a.size = 8) →
          completes fun u => fulls u 2 ∧ u.held = t.held ∧ u.pair o.dst = BitVec.ofNat 64 v)
        ∧ (o.kind = .loadIv false → a.size = 8 → completes fun u => fulls u 2 ∧ u.pair o.dst = BitVec.ofNat 64 v
          ∧ (ivPair f32 (v % 2 ^ 32) (v / 2 ^ 32) = none → holds u) ∧ (ivPair f32 (v % 2 ^ 32) (v / 2 ^ 32) ≠ none → u.held = t.held))))
    ∧ (∀ a b v w, o.accs = [a, b] → a.done = some v → b.done = some w → a.early = false → b.early = false → a.size = 8 → b.size = 8 → v < 2 ^ 64 → w < 2 ^ 64 →
      o.dstN = 4 → o.dst.toNat % 4 = 0 →
        (o.kind = .load false → completes fun u => fulls u 4 ∧ u.held = t.held ∧ u.quad o.dst = BitVec.ofNat 128 (v + 2 ^ 64 * w))
        ∧ (o.kind = .loadIv true → completes fun u => fulls u 4 ∧ u.quad o.dst = BitVec.ofNat 128 (v + 2 ^ 64 * w)
          ∧ (ivPair f64 v w = none → holds u) ∧ (ivPair f64 v w ≠ none → u.held = t.held)))

/-! ### Row 0xB: sketches -/

/-- The bytes of a state stand at different places. -/
def statesApart (k : Bind) : Prop :=
  ∀ i j, i < 64 + (skParams k.desc).body → j < 64 + (skParams k.desc).body → k.at_ i = k.at_ j → i = j

/-- R278, R290 to R298, R264, R272: SKBIND of a free slot to a legal descriptor whose state meets no other binds it, formatting the state with `.clr`, once
the thread's earlier operations and the engines let it; SKINS, SKQRY and SKSTAT issue their operation on the pair's folded key; SKFREE, SKFOLD,
SKCLR and SKMERGE hand their operation to the sketch unit with the bindings that they find, wait for it, and complete when it has been performed. What SKBIND,
SKFOLD and SKMERGE read as they issue is in order, and until then they are issued again (log entry 26). R294 to R297: an
unbound slot is the sketch-access fault of code 2, a weight that the instance does not take of code 3, an illegal descriptor of code 4, a bound slot of code 5, a
state that meets another of code 6, and a fold that the instance does not allow of code 7; instances that differ are the sketch-mismatch fault of code 1,
one instance merged into itself of code 2, and a state whose header does not agree of code 3. -/
def Obligations.SketchInstructionsComplete : Prop :=
  ∀ (x : Ops) (f : Bool) (s s' : State) (e : Env) (t : Target) (k kc : Bind),
    let q (i : Instr) : State := s.counted e i
    let ctx := e.pl.ctxNum
    let slot := x.c.toNat
    let dst := x.b.toNat
    let ra := (e.t.pair x.a).toNat
    let key : Word := e.t.rd x.a ^^^ e.t.rd (x.a + 1)
    let w := (e.t.rd x.b).toInt
    let weight := if f then -w else w
    let acc (n : Nat) (k : Bind) : Access := ⟨s.nextId + n, k.at_ 0, 0, 0, none, false⟩
    let op (k : Bind) (kind : OpKind) (n : Nat) : MemOp :=
      { e.memOp s.nextId kind [acc 1 k] .rlx .thr 0 0 (if n = 0 then 0 else x.d) n 0 with area := k.ranges }
    let bad (i : Instr) (code : Word) : Prop := trapsIn i s (q i) e .sketchAccess 0 code
    let free (b : Bind) : Bool := e.t.skReady slot && b.ranges.all (s'.readReady e.ref e.core e.t)
    let ready (i : Instr) (n : Nat) (b : Bind) : Bool := (blockRanges b.frames b.state 64).all ((q i).readOrdered e.ref e.core e.t)
      && s.instanceFree false e.ref s.nextId ctx n b.ranges
    let does (i : Instr) (n : Nat) (o : SkWork) (l : List Access) (area : List Range) : Prop :=
      exec i s = .next (((q i).issue e { e.memOp s.nextId (.skWork o) l .rlx .thr 0 0 0 0 0 with area := area }).wait e.ref (.sketch n))
    let comes (i : Instr) (n : Nat) (P : Prop) : Prop := Runs i s e →
      (e.t.resume = some (.sketch n) → exec i s = .next ((q i).leaving e i [] [] (e.nextPc i))) ∧ (e.t.resume ≠ some (.sketch n) → P)
    let judges (i : Instr) (ready : Bool) (P : Prop) : Prop := (ready = false → exec i s = .next (q i)) ∧ (ready = true → P)
    let bind : Instr := .skbind x f
    let noted (z : State) : State := z.raceRead e ra 32 t
    let d := s'.bytes t 32
    let wrote (z : State) (k : Bind) : State := (z.skFormat k).skWrote (.thread e.ref e.core) k
    (Runs bind s e → goesTo (q bind) e .glb ra 32 .read t s' →
      (s'.readReady e.ref e.core e.t (t.range 32) = false → exec bind s = .next s')
      ∧ (s'.readReady e.ref e.core e.t (t.range 32) = true → s'.poisoned (t.range 32) = false →
        (s'.bound ctx slot ≠ none → trapsIn bind s s' e .sketchAccess 0 5)
        ∧ (s'.bound ctx slot = none → s'.makeBind ctx d = none → trapsIn bind s s' e .sketchAccess 0 4)
        ∧ (s'.bound ctx slot = none → s'.makeBind ctx d = some k →
          ((∃ b ∈ (s'.context ctx).slots, b.2.meets k = true) → trapsIn bind s s' e .sketchAccess 0 6)
          ∧ ((∀ b ∈ (s'.context ctx).slots, b.2.meets k = false) →
            (free k = false → exec bind s = .next (s'.wait e.ref (.sketch slot)))
            ∧ (free k = true → f = true → exec bind s = .next ((noted ((wrote s' k).setBind ctx slot (some k))).leaving e bind [] [] (e.nextPc bind)))
            ∧ (free k = true → f = false → (∀ r ∈ k.ranges, s'.poisoned r = false) →
              (descAgrees (s'.skBytes k 0 32) d = true → exec bind s = .next ((noted (s'.setBind ctx slot (some k))).leaving e bind [] [] (e.nextPc bind)))
              ∧ (descAgrees (s'.skBytes k 0 32) d = false → trapsIn bind s s' e .sketchMismatch 0 3))))))
    ∧ (s.bound ctx slot = none →
      comes (.skfree x) slot (bad (.skfree x) 2) ∧ comes (.skfold x) slot (bad (.skfold x) 2) ∧ comes (.skclr x) slot (bad (.skclr x) 2)
      ∧ comes (.skmerge x) dst (bad (.skmerge x) 2) ∧ (Runs (.skins x f) s e → bad (.skins x f) 2) ∧ (Runs (.skqry x) s e → bad (.skqry x) 2)
      ∧ (Runs (.skstat x) s e → bad (.skstat x) 2))
    ∧ (s.bound ctx dst = none → comes (.skmerge x) dst (bad (.skmerge x) 2))
    ∧ (s.bound ctx slot = some k →
      comes (.skfree x) slot (does (.skfree x) slot (.free slot) [acc 1 k] [])
      ∧ (Runs (.skins x f) s e →
        (k.allows weight f = true → exec (.skins x f) s = .next (((q (.skins x f)).issue e (op k (.skInsert slot key weight) 0)).leaving e (.skins x f) [] []
          (e.nextPc (.skins x f))))
        ∧ (k.allows weight f = false → bad (.skins x f) 3))
      ∧ (Runs (.skqry x) s e → (e.t.inFlight < 63 →
          exec (.skqry x) s = .next (((q (.skqry x)).issue e (op k (.skQuery slot key) 1)).leaving e (.skqry x) [] [x.d] (e.nextPc (.skqry x))))
        ∧ (63 ≤ e.t.inFlight → exec (.skqry x) s = .next ((q (.skqry x)).wait e.ref .limit)))
      ∧ (Runs (.skstat x) s e → (e.t.inFlight < 63 →
          exec (.skstat x) s = .next (((q (.skstat x)).issue e (op k (.skStat slot) 4)).leaving e (.skstat x) [] (regRange x.d 4) (e.nextPc (.skstat x))))
        ∧ (63 ≤ e.t.inFlight → exec (.skstat x) s = .next ((q (.skstat x)).wait e.ref .limit)))
      ∧ comes (.skfold x) slot (judges (.skfold x) (ready (.skfold x) slot k)
        (if (s.skNow k).ty = 3 ∨ (s.skNow k).b = 4 then bad (.skfold x) 7 else does (.skfold x) slot (.fold slot) [acc 1 k] k.ranges))
      ∧ comes (.skclr x) slot (does (.skclr x) slot (.clear slot) [acc 1 k] k.ranges)
      ∧ (s.bound ctx dst = some kc → comes (.skmerge x) dst
        (if kc.state = k.state then trapsIn (.skmerge x) s (q (.skmerge x)) e .sketchMismatch 0 2
         else judges (.skmerge x) (ready (.skmerge x) dst kc && ready (.skmerge x) slot k)
          (let a := s.skNow kc
           let b := s.skNow k
           if a.ty = b.ty ∧ a.b = b.b ∧ a.dk = b.dk ∧ a.cw = b.cw ∧ a.seed = b.seed then
             does (.skmerge x) dst (.merge dst slot) [acc 1 k, acc 2 kc] (k.ranges ++ kc.ranges)
           else trapsIn (.skmerge x) s (q (.skmerge x)) e .sketchMismatch 0 1))))

/-- R283 to R286, R289, R292 to R296: the sketch unit performs one operation, once the thread's earlier operations and the engines let it and the
state holds no poison: a query and a status read take their answers, change no byte and count no event; an insert, a fold and a merge change the
instance, as writes of their thread (R263), and count one sketch-saturation event exactly when they saturate it; SKCLR clears it; a merge is a read of the source, then a write of
the destination; SKFREE unbinds the slot, when no other operation on it is left. What saturates on an insert: a filter whose FILLCNT passes the
threshold while SAT is clear; a frequency sketch of which a counter reaches its maximum; a distinct counter never. R282, R283: a filter answers
present for a key that has been inserted, whatever it held before. -/
def Obligations.SketchUnitPerforms : Prop :=
  (∀ (s : State) (r : ThreadRef) (id : Nat) (t : Thread) (o : MemOp) (a : Access) (slot : Nat) (k : Bind),
    s.accessOf r id = some (t, o, a) → o.skSlot a = some slot → s.bound (s.ctxOf r) slot = some k → s.sketchReady r t o a slot k = true →
    (∀ g ∈ k.readBy o, s.poisoned g = false) →
    let i : Instr := .sketchOperation r id
    let takes (v : Nat) : Prop := exec i s = .next (s.performed r o id v {}) ∧ (o.dstN ≠ 0 → (s.performed r o id v {}).mems = s.mems
      ∧ (s.performed r o id v {}).cores = s.cores ∧ ∃ u, (s.performed r o id v {}).thread r = some u ∧ ∃ p ∈ u.ops, p.id = o.id ∧ ∃ y ∈ p.accs, y.id = id
      ∧ y.done = some v)
    let changes (n : State × Bool) : Prop :=
      let p := (n.1.skWrote (.thread r o.core) k).performed r o id 0 {}
      exec i s = .next (if n.2 then p.count (o.counter r) [6] else p)
    (∀ key, o.kind = .skQuery slot key → takes (s.skQuery k key).toNat) ∧ (o.kind = .skStat slot → takes (s.skStat k))
    ∧ (∀ key v, o.kind = .skInsert slot key v → changes ((s.noteAhead r t o a).skInsert k key v))
    ∧ (o.kind = .skWork (.fold slot) → changes (s.skFold k)) ∧ (o.kind = .skWork (.clear slot) → changes (s.skClear k, false))
    ∧ (o.kind = .skWork (.free slot) → s.slotBusy (s.ctxOf r) slot = false → ∃ q, exec i s = .next q ∧ q.mems = s.mems ∧ q.bound (s.ctxOf r) slot = none)
    ∧ (∀ d c b w, o.kind = .skWork (.merge d c) → o.accs = [b, w] → b.id ≠ w.id →
        (b.id = id → takes (leNat (s.skBytes k 0 (64 + (s.skNow k).body))))
        ∧ (w.id = id → ∀ v, b.done = some v → changes (s.skMerge k (leBytes (64 + (s.skNow k).body) v)))))
  ∧ (∀ (s : State) (k : Bind) (key : Word) (v : Int), statesApart k → 4 ≤ (s.skNow k).b →
    let p := s.skNow k
    let n := s.skInsert k key v
    (p.ty = 1 → n.1.skQuery k key = 1
      ∧ (n.2 = true ↔ s.skSat k = false ∧ (if p.fill = 0 then 32768 else p.fill) * 2 ^ p.b < n.1.skGet k 0x24 4 * 65536))
    ∧ (p.ty = 2 → (n.2 = true ↔ ∃ j, j < p.dk ∧ let c := s.skGet k (p.counterAt j (p.hash j key)) p.cbytes; c ≠ p.top ∧ (p.top : Int) ≤ c + v))
    ∧ (p.ty ≠ 1 → p.ty ≠ 2 → n.2 = false) ∧ (n.2 = true → n.1.skSat k = true))

/-! ### Rows 0x6 and 0xC: engines, handles and matrix contexts -/

/-- The operation of an instruction has been handed to the core's engines: its handle entry is pending with the next generation, the operation
waits, and the register holds the token, empty, until it completes (R307, R311). As the 64th outstanding operation, or with no entry free, the
instruction waits (R177, R307). -/
def handsOver (i : Instr) (s s' : State) (e : Env) (d : Reg) (sc : Scope) (op : Nat → Nat → EngOp) (after : State → State) : Prop :=
  (63 ≤ e.t.inFlight → exec i s = .next (s'.wait e.ref .limit))
  ∧ (e.t.inFlight < 63 → (s'.core e.core).freeHandle = none → exec i s = .next (s'.wait e.ref .handleEntry))
  ∧ ∀ slot, e.t.inFlight < 63 → (s'.core e.core).freeHandle = some slot →
    let c := s'.core e.core
    let gen := ((c.handle slot).gen + 1) % 2 ^ 20
    let tok := BitVec.ofNat 32 (e.tcore * 2 ^ 30 + gen * 2 ^ 10 + slot)
    let h : Handle := { gen := gen, pending := true, owner := e.ref.team, scope := sc, err := 0, rmask := 0 }
    let c' : Core := { c with handles := c.handles.put slot h, freed := c.freed.filter fun k => k.1 != slot, ops := c.ops ++ [op s'.nextId slot] }
    let q : State := { s'.setCore e.core c' with nextId := s'.nextId + 2 }
    exec i s = .next ((after (q.updThread e.ref fun t => { t with handleRegs := t.handleRegs ++ [(d, tok)] })).leaving e i [(d, tok)] [d] (e.nextPc i))

/-- The completion word of an instruction lies in the team's scratchpad (R312, R320). -/
def wordFits (e : Env) (cw : Option (Nat × Word)) : Prop := ∀ off v, cw = some (off, v) → e.localCheck off 4 = none

/-- R245, R264, R276, R316 to R320: copies whose checks pass are handed to the copy engine, with the units of their destinations as theirs to own: linear copies and fills
of up to 2^30 bytes in words, CPYL of up to 2^40 bytes in sectors, gathers and scatters of a legal shape record, of which a scatter checks the
dense addresses of the elements that it stores, and whose reading the race detector sees. That is issued again until it is in order (log entry 26). -/
def Obligations.CopiesAreHandedOver : Prop :=
  ∀ (x : Ops) (dsp ssp : Space) (s s' : State) (e : Env) (t : Target),
    let q (i : Instr) : State := s.counted e i
    let sc := (engineWord x).1
    let cw := (engineWord x).2
    let reg (sp : Space) (r : Reg) : Nat := if sp = .glb then (e.t.pair r).toNat else (e.t.rd r).toNat
    let n := (e.t.rd x.c).toNat
    let wide := (e.t.pair x.c).toNat
    let inside (sp : Space) (a n : Nat) : Prop := n = 0 ∨ s.boundsFault e sp a n = none
    let starts (i : Instr) (p : State) (kind : EngKind) (owns : List Range) (note : State → State) : Prop :=
      handsOver i s p e x.d sc (e.engOp 2 x.d sc cw kind owns) note
    let z := s'.keepPage e
    let rec_ : Shape := shapeOf (z.bytes t 128)
    let reads (i : Instr) (r : Reg) (P : Prop) : Prop := Runs i s e → goesTo (q i) e .glb (e.t.pair r).toNat 128 .read t s' →
      (z.readReady e.ref e.core e.t (t.range 128) = false → exec i s = .next z)
      ∧ (z.readReady e.ref e.core e.t (t.range 128) = true → z.poisoned (t.range 128) = false →
        (shapeOk (z.bytes t 128) = false → trapsIn i s z e .accessViolation (e.t.pair r) 6) ∧ (shapeOk (z.bytes t 128) = true → P))
    let seen (r : Reg) (y : State) : State := y.raceRead e (e.t.pair r).toNat 128 t
    let k0 (r : Shape) : List Int := (List.range r.rank).map fun j => (e.t.rd (x.c + BitVec.ofNat 8 j)).toInt
    let lin : Instr := .cpy x .lin dsp ssp
    let fil : Instr := .cpy x .fill dsp ssp
    let gth : Instr := .cpy x .gth dsp ssp
    let sct : Instr := .cpy x .sct dsp ssp
    let lfil : Instr := .cpyl x true
    let llin : Instr := .cpyl x false
    wordFits e cw →
      (Runs lin s e → reg dsp x.a % 4 = 0 → reg ssp x.b % 4 = 0 → n % 4 = 0 → n ≤ 2 ^ 30 → inside dsp (reg dsp x.a) n → inside ssp (reg ssp x.b) n →
        starts lin (q lin) (.lin dsp ssp (reg dsp x.a) (reg ssp x.b) n) ((q lin).ownRange e dsp id (reg dsp x.a) n) id)
      ∧ (Runs fil s e → reg dsp x.a % 4 = 0 → n % 4 = 0 → n ≤ 2 ^ 30 → inside dsp (reg dsp x.a) n →
        starts fil (q fil) (.fill dsp (reg dsp x.a) (e.t.rd x.b) n) ((q fil).ownRange e dsp id (reg dsp x.a) n) id)
      ∧ (Runs lfil s e → (e.t.pair x.a).toNat % 32 = 0 → wide % 32 = 0 → wide ≤ 2 ^ 40 → inside .glb (e.t.pair x.a).toNat wide →
        starts lfil (q lfil) (.fill .glb (e.t.pair x.a).toNat (e.t.rd x.b) wide) ((q lfil).ownRange e .glb id (e.t.pair x.a).toNat wide) id)
      ∧ (Runs llin s e → (e.t.pair x.a).toNat % 32 = 0 → (e.t.pair x.b).toNat % 32 = 0 → wide % 32 = 0 → wide ≤ 2 ^ 40 →
        inside .glb (e.t.pair x.a).toNat wide → inside .glb (e.t.pair x.b).toNat wide →
        starts llin (q llin) (.lin .glb .glb (e.t.pair x.a).toNat (e.t.pair x.b).toNat wide) ((q llin).ownRange e .glb id (e.t.pair x.a).toNat wide) id)
      ∧ reads gth x.b (let r := rec_.based ssp
        reg dsp x.a % r.n = 0 → z.denseFault e dsp r (reg dsp x.a) (List.range r.count) = none →
        z.recordFault e ssp r (r.elements (k0 r)) = none →
        starts gth z (.gather dsp ssp (reg dsp x.a) r (k0 r)) (z.ownRange e dsp r.swizzle (reg dsp x.a) r.boxBytes) (seen x.b))
      ∧ reads sct x.a (let r := rec_.based dsp
        reg ssp x.b % r.n = 0 → z.recordFault e dsp r (r.elements (k0 r)) = none →
        z.denseFault e ssp r (reg ssp x.b) (r.scattered (k0 r)) = none →
        starts sct z (.scatter dsp ssp r (reg ssp x.b) (k0 r)) (z.ownBox e dsp r (k0 r)) (seen x.a))

/-- R154, R162, R164, R166, R264, R318, R325, R329, R405: in a team that holds a matrix context, tile copies, drains and MSYNC whose checks pass are handed over,
a drain's command joining its context's queue when that takes commands; CPYW takes a record that fits its tile, and a COLL a legal record on a slot of its
context; it is counted, by its slot's stream, the first use of a slot beginning the next one (the slots of the dies make one stream by the order of
their first use: DESIGN CHOICE, log entry 61), and ends at once with ERR 4 where its operation has been aborted. With `.sk` it owns the units of the state (log entry 62). -/
def Obligations.MatrixCopiesAndCollectivesAreHandedOver : Prop :=
  ∀ (x : Ops) (f : AccFmt) (sp : Space) (s s' : State) (e : Env) (t : Target) (mc : Nat),
    let q (i : Instr) : State := s.counted e i
    let sc := (engineWord x).1
    let cw := (engineWord x).2
    let tile := ((s.core e.core).mc mc).tile x.c.toNat
    let a := tileAddr sp x e.t
    let la := (e.t.rd x.a).toNat
    let v := (e.t.rd x.c).toNat
    let n := accBytes f
    let cols := v / 256 % 256 + 1
    let rows := v % 256 + 1
    let pitch := if v / 65536 = 0 then cols * n else v / 65536
    let o := if x.len = .m then x.ext.toNat % 2 ^ 32 else (e.t.rd x.b).toNat
    let drain (id : Nat) : MCmd := { id := id + 1, ref := e.ref, tcore := e.tcore, pc := e.t.pc, kind := .accrd f la o rows cols pitch id,
                                     welt := none, einst := e.words }
    let z := s'.keepPage e
    let fetched (i : Instr) (r : Reg) (n : Nat) : Prop := Runs i s e ∧ goesTo (q i) e .glb (e.t.pair r).toNat n .read t s'
      ∧ z.readReady e.ref e.core e.t (t.range n) = true ∧ z.poisoned (t.range n) = false
    let seen (r : Reg) (n : Nat) (y : State) : State := y.raceRead e (e.t.pair r).toNat n t
    let r := collOf (z.bytes t 64)
    let g := r.group e.pl.ctxNum
    let die := e.core / 64
    let old := (z.die die).begun g
    let mine := ((z.die die).slots.look r.slot).bind fun k => k.issued.find? fun i => decide (i.1 = g)
    let num := (mine.map fun i => i.2).getD (old * 2 ^ 40)
    let late := (z.die die).aborted.contains (g, num)
    let counted (s : State) : State :=
      let s := s.setDie die { s.die die with slots := (s.die die).slots.upd r.slot fun k => k.count g num
                                             uses := (g, max ((s.die die).begun g) (num / 2 ^ 40 + 1)) :: (s.die die).uses.filter fun u => decide (u.1 ≠ g) }
      if late then (s.forgetAbort die g num).updOp e.core z.nextId fun o => { o with stage := .failed 4 } else s
    let held : Prop := (∃ k, (z.die die).slots.look r.slot = some k ∧ k.ctx = e.pl.ctxNum) ∧ ∃ y, z.parts.look e.pl.part = some y ∧ y.collWeight.getD die 0 ≠ 0
    let tld : Instr := .tld x sp
    let tst : Instr := .tst x sp
    let rd : Instr := .accrd x f
    let coll : Instr := .coll x false
    let skc : Instr := .coll x true
    let cpyw : Instr := .cpyw x sp
    let room (c : Core) : Prop := (c.mc mc).queue.length < 64 ∧ c.landed mc = []
    wordFits e cw →
      (s.mcOf e = some mc →
        (Runs tld s e → tileValid tile = true → a % 32 = 0 → s.boundsFault e sp a (tileSize tile) = none →
          handsOver tld s (q tld) e x.d sc (e.engOp mc x.d sc cw (.tld sp a x.c.toNat) [tileRange e.core mc tile]) id)
        ∧ (Runs tst s e → tileValid tile = true → a % 32 = 0 → s.boundsFault e sp a (tileSize tile) = none →
          handsOver tst s (q tst) e x.d sc (e.engOp mc x.d sc cw (.tst sp a x.c.toNat) ((q tst).ownRange e sp id a (tileSize tile))) id)
        ∧ (Runs rd s e → o % 32 = 0 → o + rows * cols ≤ 196608 → la % 4 = 0 → pitch % 4 = 0 → cols * n ≤ pitch →
          e.localCheck la ((rows - 1) * pitch + cols * n) = none →
          (room (s.core e.core) → handsOver rd s (q rd) e x.d sc (e.engOp mc x.d sc cw .accrd []) fun z =>
            z.updMc e.core mc fun m => { m with queue := m.queue ++ [drain (q rd).nextId] })
          ∧ (¬room (s.core e.core) → exec rd s = .next ((q rd).wait e.ref .commandQueue)))
        ∧ (Runs (.msync x) s e → handsOver (.msync x) s (q (.msync x)) e x.d .team (e.engOp mc x.d .team none .msync []) id))
      ∧ (fetched coll x.c 64 → collOk false (z.bytes t 64) = true → r.die = die → (e.t.pair x.a).toNat % 4 = 0 →
        (e.t.pair x.b).toNat % 4 = 0 → (r.reads = false ∨ r.lanes = 0 ∨ z.boundsFault e .glb (e.t.pair x.a).toNat (4 * r.lanes) = none) →
        (r.dstBytes = 0 ∨ z.boundsFault e .glb (e.t.pair x.b).toNat r.dstBytes = none) → held →
          handsOver coll s z e x.d sc (e.engOp 2 x.d sc cw (.coll r (e.t.pair x.a).toNat (e.t.pair x.b).toNat num)
            (z.ownRange e .glb id (e.t.pair x.b).toNat r.dstBytes)) fun y => seen x.c 64 (counted y))
      ∧ (∀ b, fetched skc x.c 64 → collOk true (z.bytes t 64) = true → r.die = die → held → z.bound e.pl.ctxNum (e.t.rd x.a).toNat = some b →
        (skParams b.desc).ty + 4 = r.op →
          handsOver skc s z e x.d sc (e.engOp 2 x.d sc cw (.collSk r (e.t.rd x.a).toNat num) (z.bindUnits e.pl.ctxNum b)) fun y => seen x.c 64 (counted y))
      ∧ (∀ rec_ k0, fetched cpyw x.a 128 → shapeOk (z.bytes t 128) = true → rec_ = (shapeOf (z.bytes t 128)).based sp →
        k0 = (List.range rec_.rank).map (fun j => (e.t.rd (x.b + BitVec.ofNat 8 j)).toInt) → z.mcOf e = some mc →
        let m := (z.core e.core).mc mc
        let ta := x.ext.toNat / 2 ^ 59
        let tb := x.ext.toNat / 2 ^ 54 % 32
        let off := x.ext.toNat / 2 ^ 41 % 2 ^ 13 * 32
        tileValid (m.tile x.c.toNat) = true → fitsTile rec_ (m.tile x.c.toNat) = true → mmaCheck m ta tb off = none →
        z.recordFault e sp rec_ (rec_.elements k0) = none → wordFits e (weltWord x).2 →
          handsOver cpyw s z e x.d (weltWord x).1 (e.engOp mc x.d (weltWord x).1 (weltWord x).2
            (.cpyw sp rec_ k0 x.c.toNat ta tb off (x.ext.getLsbD 40)) [tileRange e.core mc (m.tile x.c.toNat)]) (seen x.a 128))

/-- R310, R329, R403: HCANCEL of a pending operation: a copy or a fill that has not begun ends with ERR 1 and gives 1, one that has begun gives 0; an ACCRD
leaves its queue likewise unless it is at the head; MSYNC gives 0; a COLL whose part has not begun and has no staging ends with ERR 1, and its group aborts; one
that has begun aborts; both give 1; one that has its whole result gives 0, the others still being aborted; one that is ending gives 1 for ERR 1 and 4. -/
def cancels (s : State) (core : Nat) (o : EngOp) (t : State) (v : Word) : Prop :=
  let ended := s.completeHandle core o 1 0
  match o.kind with
  | .msync => t = s ∧ v = 0
  | .accrd =>
    let m := (s.core core).mc o.mc
    let mine (c : MCmd) : Bool := match c.kind with
      | .accrd _ _ _ _ _ _ p => p == o.id
      | .mma .. | .accz .. | .accwr .. => false
    if (m.queue.drop 1).any mine then
      t = ((s.updMc core o.mc fun m => { m with queue := m.queue.filter fun c => !mine c }).completeHandle core o 1 0) ∧ v = 1
    else t = s ∧ v = 0
  | .coll r _ _ num | .collSk r _ num =>
    let a := s.abortGroup (r.group (s.ctxOf o.ref)) num none
    match o.stage with
    | .waiting => t = (if o.admitted then a else a.completeHandle core o 1 0) ∧ v = 1
    | .reading _ | .begun _ | .exchanged _ _ => t = a ∧ v = 1
    | .result _ _ => t = a ∧ v = 0
    | .failed n => t = s ∧ v = (if n = 1 ∨ n = 4 then 1 else 0)
    | .landed => t = s ∧ v = 0
  | .lin .. | .fill .. | .gather .. | .scatter .. | .cpyw .. | .tld .. | .tst .. => if o.stage = .waiting then t = ended ∧ v = 1 else t = s ∧ v = 0

/-- R307 to R310, R324, R329, R403: a token of the thread's team core and team names its entry, or, with another generation, an operation
completed long ago, and any other token is the invalid-handle fault; HWAIT and HTEST write the status of a completed one, and HTEST 0 for one that is pending,
which HWAIT waits for; HCANCEL cancels a pending operation as its kind allows, and writes 0 where there is nothing to cancel; HMOV copies the token; CSLOT
takes a free slot of the die, or says that none is free or that the algorithm is no one, the latter also with none free (the order of the two is the model's
choice: DESIGN CHOICE, log entry 75); CSLOT `.free` frees a slot of the context, with the notes of aborts of the streams that the slot carries (log entry
61), once nothing is under way on it. -/
def Obligations.HandlesAndSlotsComplete : Prop := ∀ (x : Ops) (s : State) (e : Env) (h : Handle),
  let q (i : Instr) : State := s.counted e i
  let c := s.core e.core
  let tok := (e.t.rd x.a).toNat
  let slot := tok % 1024
  let die := e.core / 64
  let d := s.die die
  let wait : Instr := .hwait x
  let test : Instr := .htest x
  let cancel : Instr := .hcancel x
  let take : Instr := .cslot x
  let free : Instr := .cslotFree x
  let writes (i : Instr) (t : State) (a : Word) (b : Word) : Prop := exec i s = .next (t.leaving e i [(x.d, a), (x.d + 1, b)] [] (e.nextPc i))
  let gives (i : Instr) (t : State) (a : Word) : Prop := exec i s = .next (t.leaving e i [(x.d, a)] [] (e.nextPc i))
  let left : Die := { d with slots := d.slots.drop tok }
  let carried (k : CSlot) (a : List Nat × Nat) : Bool := k.issued.any fun i => decide (i.1 = a.1) && decide (i.2 / 2 ^ 40 = a.2 / 2 ^ 40)
  let freed (k : CSlot) : Die := { left with aborted := d.aborted.filter fun a => !carried k a }
  let invalid (i : Instr) : Prop := Runs i s e → trapsIn i s (q i) e .invalidHandle ((e.t.rd x.a).setWidth 64) 0
  (tok / 2 ^ 30 ≠ e.tcore → invalid wait ∧ invalid test ∧ invalid cancel)
  ∧ (tok / 2 ^ 30 = e.tcore → c.handle slot = h →
    (h.gen = tok / 1024 % 2 ^ 20 → h.owner ≠ e.ref.team → invalid wait ∧ invalid test ∧ invalid cancel)
    ∧ (h.gen = tok / 1024 % 2 ^ 20 → h.owner = e.ref.team →
      (h.pending = false → h.err < 128 →
        (Runs wait s e → writes wait (q wait) (BitVec.ofNat 32 (2 ^ 31 + h.err * 2 ^ 24)) h.rmask)
        ∧ (Runs test s e → writes test (q test) (BitVec.ofNat 32 (2 ^ 31 + h.err * 2 ^ 24)) h.rmask)
        ∧ (Runs cancel s e → gives cancel (q cancel) 0))
      ∧ (h.pending = true → (Runs wait s e → exec wait s = .next ((q wait).wait e.ref (.handle (e.t.rd x.a)))) ∧ (Runs test s e → writes test (q test) 0 0)
        ∧ (∀ o, Runs cancel s e → c.ops.find? (fun o => o.slot == slot) = some o → ∃ t v, cancels (q cancel) e.core o t v ∧ gives cancel t v)))
    ∧ (h.gen ≠ tok / 1024 % 2 ^ 20 → (Runs wait s e → writes wait (q wait) 0xC0000000 0) ∧ (Runs test s e → writes test (q test) 0xC0000000 0)
      ∧ (Runs cancel s e → gives cancel (q cancel) 0)))
  ∧ (Runs (.hmov x) s e → gives (.hmov x) (q (.hmov x)) (e.t.rd x.a))
  ∧ (Runs take s e → 2 < tok → gives take (q take) 0xFFFFFFFE)
  ∧ (Runs take s e → tok ≤ 2 → (∀ k, k < 16 → (d.slots.look k).isSome = true) → gives take (q take) 0xFFFFFFFF)
  ∧ (Runs take s e → tok ≤ 2 → (∃ k, k < 16 ∧ d.slots.look k = none) → ∃ n, n < 16 ∧ d.slots.look n = none
      ∧ gives take ((q take).setDie die { d with slots := d.slots.put n { ctx := e.pl.ctxNum, alg := tok, issued := [] } }) (BitVec.ofNat 32 n))
  ∧ (∀ k, Runs free s e → d.slots.look tok = some k → k.ctx = e.pl.ctxNum →
      (s.slotRuns die tok = false → gives free ((q free).setDie die (freed k)) 0)
      ∧ (s.slotRuns die tok = true → exec free s = .next ((q free).wait e.ref (.slot die tok))))
  ∧ (Runs free s e → (∀ k, d.slots.look tok = some k → k.ctx ≠ e.pl.ctxNum) → gives free (q free) 0xFFFFFFFF)

/-- R147 to R154, R160 to R163, R165, R264: in a team that holds a matrix context: TSHAPE sets, frees and reshapes a tile that nothing uses, to a legal
descriptor that meets no other; TRD reads it; MMA, ACCZ and ACCWR join a queue that takes commands, and wait for one that does not, MMA with the next sequence
number; ACCWR's read of its codes is issued again until it is in order (log entry 26); MCTX reads the
context's status and `.rel` gives up an idle one; ELECT is true for the lowest thread of the team, or of its core, that has not exited. -/
def Obligations.MatrixInstructionsComplete : Prop := ∀ (x : Ops) (f : AccFmt) (b : Bool) (s : State) (e : Env) (mc : Nat),
  let q (i : Instr) : State := s.counted e i
  let c := s.core e.core
  let m := c.mc mc
  let upd (i : Instr) (g : MatCtx → MatCtx) : State := (q i).updCore e.core fun c => c.setMc mc (g (c.mc mc))
  let goes (i : Instr) (t : State) (ws : List (Reg × Word)) : Prop := Runs i s e → exec i s = .next (t.leaving e i ws [] (e.nextPc i))
  let cmd (kind : MKind) : MCmd := { id := s.nextId, ref := e.ref, tcore := e.tcore, pc := e.t.pc, kind := kind, welt := none, einst := e.words }
  let queued (i : Instr) (kind : MKind) (n : Nat) : State :=
    { upd i (fun m => { m with queue := m.queue ++ [cmd kind], seq := (m.seq + n) % 2 ^ 32 }) with nextId := s.nextId + 1 }
  let tile := m.tile x.d.toNat
  let reshaped : Tile := BitVec.ofNat 128 (tile.toNat / 2 ^ 64 * 2 ^ 64 + x.ext.toNat % 2 ^ 32 * 2 ^ 32 + tile.toNat % 2 ^ 32)
  let set (i : Instr) (t : Tile) : State := upd i fun m => { m with tiles := m.tiles.put x.d.toNat t }
  let imm := if x.len = .s then (e.t.rd x.b).toNat else x.ext.toNat % 2 ^ 32
  let o := (e.t.rd x.a).toNat
  let v := (e.t.rd x.c).toNat
  let n := accBytes f
  let cols := v / 256 % 256 + 1
  let rows := v % 256 + 1
  let pitch := if v / 65536 = 0 then cols * n else v / 65536
  let off := if x.len = .m then x.ext.toNat % 2 ^ 32 else (e.t.rd x.b).toNat
  let codes : List Nat := (List.range rows).flatMap fun i => (List.range cols).map fun j =>
    s.load ⟨.spad e.ref.team ((o + i * pitch + j * n) / 2 ^ 24 % 4), (o + i * pitch + j * n) % 2 ^ 24⟩ n
  let status : Word := 1 + (if mc = 1 then 2 else 0) + (if e.st.red then 4 else 0) + if m.halt then 8 else 0
  let lower (y : Nat × Thread) : Prop := y.1 < e.ref.tid ∧ y.2.status ≠ .exited ∧ (b = true → ∃ tc k n, y.2.loc = .slot tc k n ∧ e.tm.cores[tc]? = some e.core)
  let room : Prop := m.queue.length < 64 ∧ c.landed mc = []
  let mma : Instr := .mma x b
  let accz : Instr := .accz x
  let accwr : Instr := .accwr x f
  let full (i : Instr) : Prop := Runs i s e → exec i s = .next ((q i).wait e.ref .commandQueue)
  (s.mcOf e = some mc → m.seq < 2 ^ 32 →
    (c.tileBusy mc x.d.toNat = false →
      (tileLegal (e.t.quad x.a) = true → m.overlaps x.d.toNat (e.t.quad x.a) = false → goes (.tshape x) (set (.tshape x) (e.t.quad x.a)) [])
      ∧ goes (.tshapeFree x) (upd (.tshapeFree x) fun m => { m with tiles := m.tiles.drop x.d.toNat }) []
      ∧ (tileValid tile = true → tileLegal reshaped = true → m.overlaps x.d.toNat reshaped = false →
        goes (.tshapeRs x) (set (.tshapeRs x) reshaped) []))
    ∧ goes (.trd x) (q (.trd x)) ((List.range 4).map fun k => (x.d + BitVec.ofNat 8 k, BitVec.ofNat 32 ((m.tile x.a.toNat).toNat / 2 ^ (32 * k))))
    ∧ (mmaCheck m x.d.toNat x.a.toNat imm = none →
      (room → goes mma (queued mma (.mma x.d.toNat x.a.toNat (m.tile x.d.toNat) (m.tile x.a.toNat) imm b m.seq) 1) []) ∧ (¬room → full mma))
    ∧ (o % 32 = 0 → imm % 32 = 0 → 32 ≤ imm → o + imm ≤ 196608 → (room → goes accz (queued accz (.accz o imm) 0) []) ∧ (¬room → full accz))
    ∧ (off % 32 = 0 → off + rows * cols ≤ 196608 → o % 4 = 0 → pitch % 4 = 0 → cols * n ≤ pitch →
      e.localCheck o ((rows - 1) * pitch + cols * n) = none → wordFits e (engineWord x).2 →
      let ready := (q accwr).readReady e.ref e.core e.t ((e.localPlace o).range ((rows - 1) * pitch + cols * n))
      (ready = false → Runs accwr s e → exec accwr s = .next (q accwr))
      ∧ (ready = true →
        (room → goes accwr (queued accwr (.accwr f off rows cols codes (engineWord x).2) 0) []) ∧ (¬room → full accwr)))
    ∧ goes (.mctx x) (q (.mctx x)) [(x.d, status)]
    ∧ (m.queue = [] → (∀ p ∈ c.ops, p.ref.team = e.ref.team → p.ofContext = false) →
      goes (.mctxRel x) ((upd (.mctxRel x) fun m => { m with team := none }).updTeam e.ref.team fun tm => { tm with released := e.tcore :: tm.released })
        [(x.d, status)]))
  ∧ (s.mcOf e = none → goes (.mctx x) (q (.mctx x)) [(x.d, if e.st.red then 4 else 0)]
      ∧ goes (.mctxRel x) (q (.mctxRel x)) [(x.d, if e.st.red then 4 else 0)])
  ∧ ((∀ y ∈ e.tm.threads, ¬lower y) → goes (.elect x b) (q (.elect x b)) [(x.d, 1)])
  ∧ ((∃ y ∈ e.tm.threads, lower y) → goes (.elect x b) (q (.elect x b)) [(x.d, 0)])

/-- An engine operation has ended: its handle entry holds the status, and it is gone. -/
def endedWith (core id slot err : Nat) (rmask : Word) (t : State) : Prop :=
  let h := (t.core core).handle slot
  h.pending = false ∧ h.err = err ∧ h.rmask = rmask ∧ (t.core core).op id = none

/-- Bytes stand in a memory from an address on, and every other byte of the package is as before. -/
def wroteOnly (s t : State) (m : MemId) (a n : Nat) (f : Nat → Byte) : Prop :=
  (∀ k, k < n → t.byte m (a + k) = f k) ∧ ∀ q b, (q ≠ m ∨ b < a ∨ a + n ≤ b) → t.byte q b = s.byte q b

/-- A scale value: a number that is not negative, or the poison (R80, R157). -/
def isScale (v : FVal) : Prop := v = .nan false ∨ ∃ m e, v = .fin false m e

/-- R157, R158: what a floating accumulator holds after a block of element pairs under two scales, and the conditions of it. The block's sum s is a NaN for a
poisoned scale, a NaN element, ∞ × 0, infinities of both signs or an infinity under a zero scale, in this order, with the condition of each; an
infinity for infinite products of one sign; and otherwise the exact number. Then acc + s, rounded once to nearest. -/
def floatBlock (acc : Nat) (l : List (FVal × FVal)) (sa sb : FVal) (r : Nat × Conds) : Prop :=
  let c := f32.value acc
  let poisoned : Prop := sa.isNan = true ∨ sb.isNan = true
  let nanElement : Prop := ∃ p ∈ l, p.1.isNan = true ∨ p.2.isNan = true
  let signalling : Prop := ∃ p ∈ l, p.1.isSnan = true ∨ p.2.isSnan = true
  let infZero : Prop := ∃ p ∈ l, (p.1.isInf = true ∧ p.2.isZero = true) ∨ (p.1.isZero = true ∧ p.2.isInf = true)
  let infinite (n : Bool) : Prop := ∃ p ∈ l, (p.1.isInf = true ∨ p.2.isInf = true) ∧ (p.1.neg != p.2.neg) = n
  let zeroScale : Prop := sa.isZero = true ∨ sb.isZero = true
  let nan (invalid : Bool) : Prop := r = (0x7FC00000, { nv := invalid || c.isSnan })
  (poisoned → nan false)
  ∧ (¬poisoned → nanElement → (signalling → nan true) ∧ (¬signalling → nan false))
  ∧ (¬poisoned → ¬nanElement →
    (infZero → nan true)
    ∧ (¬infZero → infinite true → infinite false → nan true)
    ∧ (∀ n, ¬infZero → infinite n → ¬infinite (!n) →
      (zeroScale → nan true)
      ∧ (¬zeroScale → if c.isNan = true then nan false else if c = .inf (!n) then nan true else r = (f32.signed n f32.infCode, {})))
    ∧ ((∀ p ∈ l, isNumber p.1 ∧ isNumber p.2) →
      (c.isNan = true → nan false) ∧ (∀ n, c = .inf n → r = (f32.signed n f32.infCode, {}))
      ∧ (isNumber c → ∃ d : Machine.Dyadic,
        ratOf c + (l.map fun p => ratOf p.1 * ratOf p.2).sum * ratOf sa * ratOf sb = ((d.m : Int) : Rat) * (2 : Rat) ^ d.e
        ∧ r = (if d.m = 0 then (0, {}) else f32.roundExact .rne (decide (d.m < 0)) d.m.natAbs d.e))))

/-- The value of a row's block in a product: the element pairs of columns k·L on, below K, and both scales, which are 1 without scale words (R148, R157). -/
def blockOf (s : State) (core mc : Nat) (a b : Tile) (y x kb : Nat) : List (FVal × FVal) × FVal × FVal :=
  let scale (t : Tile) (row : Nat) : FVal :=
    if tileScaled t then s8Value (s.byte (.oper core mc) (tileBase t + tileSoff t + row * ((tileCols t + tileBl t - 1) / tileBl t) + kb)).toNat else .fin false 1 0
  ((List.range (min (tileBl a) (tileCols a - kb * tileBl a))).map fun k =>
      (fmtValue (tileFmt a) (s.tileElem core mc a y (kb * tileBl a + k)), fmtValue (tileFmt b) (s.tileElem core mc b x (kb * tileBl a + k))),
    scale a y, scale b x)

/-- R154, R157, R158, R161 to R163, R168, R381: the next command of a context, at its turn, leaves the queue, in every case below. A product adds each block of
the columns in turn to the elements from O on: a floating block as `floatBlock` says, an integer block with one clamp, so that for integers within range
the result is the sum of products; ACCZ zeroes its elements; ACCRD writes its codes row by row, then its completion
word, and ends its handle with 0; ACCWR writes its elements, then its completion word; a redundancy mismatch halts the context, changes no memory and leaves the issuing thread with the trap, which carries the command's sequence number; a
halted context discards commands, an ACCRD's handle ending with ERR 7. A command does not complete in the middle of its thread's stitch: that is the
model's reading (log entry 66). -/
def Obligations.MatrixUnitExecutes : Prop :=
  (∀ (acc : Nat) (l : List (FVal × FVal)) (sa sb : FVal), isScale sa → isScale sb →
    floatBlock acc l sa sb (addBlock false acc l sa sb)
    ∧ (let v : Int := (BitVec.ofNat 32 acc).toInt + (l.map fun p => p.1.dyadic.m * p.2.dyadic.m).sum
      addBlock true acc l sa sb = ((BitVec.ofInt 32 (max (-2 ^ 31) (min v (2 ^ 31 - 1)))).toNat, { ns := decide (v < -2 ^ 31 ∨ 2 ^ 31 - 1 < v) })))
  ∧ (∀ c : Nat, fmtValue 0 c = f32.value c ∧ fmtValue 1 c = f16.value c ∧ fmtValue 2 c = b16.value c
    ∧ ∀ k ∈ [(3, PkCode.n8), (4, PkCode.n8w), (5, PkCode.n4), (6, PkCode.i8), (7, PkCode.i4)], fmtValue k.1 c = PkCode.value k.2 c)
  ∧ ∀ (s : State) (core mc : Nat) (agree : Bool) (c : MCmd) (l : List MCmd),
  let m := (s.core core).mc mc
  let p := s.updCore core fun k => { k.setMc mc { m with queue := l } with lastMc := mc }
  let i : Instr := .matrixCommandExecute core mc agree
  let acc (e : Nat) : Target := ⟨.acc core mc, 4 * e⟩
  let only (t : State) (o n : Nat) : Prop := onlyWrites s t (.acc core mc) (4 * o) (4 * n)
  let left (t : State) : Prop := ((t.core core).mc mc).queue = l
  mc ≤ 1 → m.queue = c :: l → s.commandReady core mc = some c → (s.commandReady core (1 - mc) = none ∨ (s.core core).lastMc ≠ mc) →
  (∀ y ∈ (s.core core).stitch, y.1 ≠ c.ref) →
  (m.halt = true → (∀ f a o rows cols pitch op e, c.kind = .accrd f a o rows cols pitch op → (s.core core).op op = some e →
        exec i s = .next (p.completeHandle core e 7 0))
      ∧ ((∀ f a o rows cols pitch op, c.kind ≠ .accrd f a o rows cols pitch op) → exec i s = .next p))
  ∧ (m.halt = false →
    (∀ ta tb da db o z seq, c.kind = .mma ta tb da db o z seq →
      ((s.isRedundant c = false ∨ agree = true) → ∃ t, exec i s = .next t ∧ left t ∧ only t o (tileRows da * tileRows db)
        ∧ ∀ y x, y < tileRows da → x < tileRows db →
          let old := if z then 0 else s.load (acc (o + y * tileRows db + x)) 4
          let new := t.load (acc (o + y * tileRows db + x)) 4
          let term (k : Nat) : Int := (fmtValue (tileFmt da) (s.tileElem core mc da y k)).dyadic.m
            * (fmtValue (tileFmt db) (s.tileElem core mc db x k)).dyadic.m
          let add (r kb : Nat) : Nat := let b := blockOf s core mc da db y x kb; (addBlock (decide (6 ≤ tileFmt da)) r b.1 b.2.1 b.2.2).1
          new = (List.range ((tileCols da + tileBl da - 1) / tileBl da)).foldl add old % 2 ^ 32
          ∧ (6 ≤ tileFmt da → tileFmt da ≤ 7 → 6 ≤ tileFmt db → tileFmt db ≤ 7 → old < 2 ^ 30 → tileCols da ≤ 512 →
              (BitVec.ofNat 32 new).toInt = old + ((List.range (tileCols da)).map term).sum))
      ∧ (∀ th, s.isRedundant c = true → agree = false → s.thread c.ref = some th → th.status ≠ .exited →
          ∃ t, exec i s = .next t ∧ left t ∧ t.mems = s.mems ∧ ((t.core core).mc mc).halt = true ∧ ((t.core core).mc mc).haltAt = c.id
            ∧ ∃ th', t.thread c.ref = some th' ∧ (∀ tr ∈ th.held, tr ∈ th'.held)
              ∧ ((∀ tr ∈ th.held, tr.cause ≠ .redundancy) →
                ∃ tr ∈ th'.held, tr.cause = .redundancy ∧ tr.deferred = true ∧ tr.epc = c.pc ∧ tr.einfo = BitVec.ofNat 32 seq ∧ tr.einst = c.einst)))
    ∧ (∀ o n, c.kind = .accz o n → ∃ t, exec i s = .next t ∧ left t ∧ only t o n ∧ ∀ e, e < n → t.load (acc (o + e)) 4 = 0)
    ∧ (∀ f a o rows cols pitch op e, c.kind = .accrd f a o rows cols pitch op → (s.core core).op op = some e → e.kind = .accrd →
        e.ref.team = c.ref.team → cols * accBytes f ≤ pitch → a % 2 ^ 24 + rows * pitch ≤ 2 ^ 24 →
        ∃ t, exec i s = .next t ∧ left t ∧ endedWith core op e.slot 0 0 t
          ∧ (∀ q b, (∀ j, q ≠ .spad c.ref.team j) → t.byte q b = s.byte q b)
          ∧ (∀ off v, e.cw = some (off, v) → t.load (localByte c.ref.team off) 4 = v.toNat)
          ∧ ∀ y x, y < rows → x < cols →
              let at_ := localByte c.ref.team (a + y * pitch + x * accBytes f)
              (∀ off v, e.cw = some (off, v) → ((localByte c.ref.team off).range 4).meets (at_.range (accBytes f)) = false) →
                t.load at_ (accBytes f) = (accOut f (s.load (acc (o + y * cols + x)) 4)).1 % 2 ^ (8 * accBytes f))
    ∧ (∀ f o rows cols data cw, c.kind = .accwr f o rows cols data cw → ∃ t, exec i s = .next t ∧ left t
        ∧ (∀ k v, data[k]? = some v → t.load (acc (o + k)) 4 = (accIn f v).1 % 2 ^ 32)
        ∧ (cw = none → only t o data.length) ∧ ∀ off v, cw = some (off, v) → t.load (localByte c.ref.team off) 4 = v.toNat))

/-- A welt's command (R154, R167), with the descriptors of its tiles as they are when it enters the queue of a context, the next in sequence. -/
def weltCommand (s : State) (m : MatCtx) (o : EngOp) (ta tb a : Nat) (z : Bool) : MCmd :=
  { id := s.nextId, ref := o.ref, tcore := o.tcore, pc := o.pc, kind := .mma ta tb (m.tile ta) (m.tile tb) a z m.seq, welt := some o.id, einst := o.einst }

/-- An operation of a group has been aborted (R329): every part of it that had not received the whole result will end with ERR 4, other operations are as
before, and each die whose rank has not issued its part finds the abort noted. -/
def abortedIn (s t : State) (g : List Nat) (num : Nat) : Prop :=
  (∀ c k p, (s.core c).op k = some p → ∃ q, (t.core c).op k = some q
    ∧ (s.inGroup p g num = true → q.stage = if p.losing.isSome then .failed 4 else p.stage)
    ∧ (s.inGroup p g num = false → (∀ e ∈ s.allOps, (s.core e.1).op e.2.id = some e.2) → q = p))
  ∧ ∀ d, d < 4 → (s.die d).hasIssued g num = false → (g, num) ∈ (t.die d).aborted

/-- The place of a byte that an operation reaches at an address of a space (R221, R228, R231, R315, R355 to R357): in GLOBAL by the page tables, where the core's TLB
holds no older translation of its page, to a page that grants the access and is no sketch window; in LOCAL under the record's swizzle; in WS in the
partition's carve-out on the die. -/
def reaches (s : State) (r : Reach) (need : Need) (sp : Space) (sw : Nat → Nat) (a : Nat) (t : Target) : Prop :=
  match sp with
  | .glb => let page := a / 4096 * 4096
    s.oldXlates (some r.core) r.ctx page = [] ∧ ∃ x, s.walk r.ctx page = .ok x ∧ x.grants need = true ∧ x.sk = none
      ∧ t = { x.place page with addr := (x.place page).addr + a % 4096 }
  | .loc => let v := sw (a % 2 ^ 32)
    t = ⟨.spad r.team (v / 2 ^ 24 % 4), v % 2 ^ 24⟩
  | .ws => ∃ p, s.parts.look r.part = some p ∧ p.wsPlace (r.core / 64) a 1 = some t

/-- The places of `n` consecutive addresses. -/
def consecutive (s : State) (r : Reach) (need : Need) (sp : Space) (sw : Nat → Nat) (a n : Nat) (ps : List (Option Target)) : Prop :=
  ps.length = n ∧ ∀ k, k < n → ∃ t, ps[k]? = some (some t) ∧ reaches s r need sp sw (a + k) t

/-- The places of a box's elements, in dense order, each of `n` bytes (R315, R317): of the elements with an address, at it; the others have none. -/
def elementwise (s : State) (r : Reach) (need : Need) (sp : Space) (rec_ : Shape) (address : Nat → Option Nat) (ps : List (Option Target)) : Prop :=
  ps.length = rec_.count * rec_.n ∧ ∀ m j, m < rec_.count → j < rec_.n →
    match address m with
    | some a => ∃ t, ps[m * rec_.n + j]? = some (some t) ∧ reaches s r need sp rec_.swizzle (a + j) t
    | none => ps[m * rec_.n + j]? = some none

/-- The address of element `m` of a record's box, if it is in bounds (R315). -/
def boxAddress (sp : Space) (rec_ : Shape) (k0 : List Int) (m : Nat) : Option Nat :=
  (rec_.elements k0)[m]?.bind fun k => if rec_.inBounds k then some (rec_.addr k % 2 ^ (if sp = Space.glb then 64 else 32)).toNat else none

/-- The bytes of a tile's reservation, or of a part of it. -/
def tilePlaces (s : State) (core : Nat) (o : EngOp) (tile : Nat) (ps : List (Option Target)) : Prop :=
  let d := (s.tileHome core o).2.tile tile
  ps = (List.range (tileSize d)).map fun k => some ⟨(s.tileHome core o).1, tileBase d + k⟩

/-- The places that an operation reads (R162, R317, R318, R325). -/
def sourceOf (s : State) (r : Reach) (o : EngOp) (ps : List (Option Target)) : Prop :=
  match o.kind with
  | .lin _ sp _ b n => consecutive s r .read sp id b n ps
  | .gather _ sp _ rec_ k0 | .cpyw sp rec_ k0 _ _ _ _ _ => elementwise s r .read sp rec_ (boxAddress sp rec_ k0) ps
  | .scatter _ sp rec_ b k0 => elementwise s r .read sp rec_
      (fun m => if m ∈ rec_.scattered k0 then some (if sp = .ws then (b + m * rec_.n) % 2 ^ 32 else b + m * rec_.n) else none) ps
  | .tld sp a t => consecutive s r .read sp id a (tileSize ((s.tileHome r.core o).2.tile t)) ps
  | .tst _ _ t => tilePlaces s r.core o t ps
  | .coll rec_ a _ _ => if rec_.kind = 1 ∧ rec_.rank ≠ 0 then ps = [] else consecutive s r .read .glb id a (4 * rec_.lanes) ps
  | .fill .. | .accrd | .msync | .collSk .. => False

/-- The places that an operation writes (R162, R317, R325). -/
def destinationOf (s : State) (r : Reach) (o : EngOp) (ps : List (Option Target)) : Prop :=
  match o.kind with
  | .lin sp _ a _ n | .fill sp a _ n => consecutive s r .write sp id a n ps
  | .gather sp _ a rec_ _ => consecutive s r .write sp rec_.swizzle a rec_.boxBytes ps
  | .scatter sp _ rec_ _ k0 => elementwise s r .write sp rec_ (boxAddress sp rec_ k0) ps
  | .tld _ _ t => tilePlaces s r.core o t ps
  | .tst sp a t => consecutive s r .write sp id a (tileSize ((s.tileHome r.core o).2.tile t)) ps
  | .coll rec_ _ a _ => consecutive s r .write .glb id a (4 * rec_.lanes * if rec_.kind = 2 then rec_.ranks else 1) ps
  | .cpyw .. | .accrd | .msync | .collSk .. => False

/-- The bytes that an operation writes, from those that it has read or received, when it may write them (R315, R317, R325). -/
def writes (s : State) (o : EngOp) (bytes : List Byte) : Prop :=
  match o.kind with
  | .lin .. | .tld .. | .tst .. => o.stage = .begun bytes
  | .gather _ _ _ rec_ _ => ∃ d, o.stage = .begun d ∧ bytes = xfGather rec_.xf d
  | .scatter _ _ rec_ _ _ => ∃ d, o.stage = .begun d ∧ bytes = xfScatter rec_.xf d
  | .fill _ _ pat n => o.stage = .waiting ∧ s.issuerDone o.ref o.id = true
      ∧ bytes = (List.range n).map fun k => BitVec.ofNat 8 (pat.toNat / 2 ^ (8 * (k % 4)))
  | .coll rec_ _ _ num => (∃ cs, o.stage = .result bytes cs) ∧ s.groupSettled o rec_ num = true
  | .cpyw .. | .accrd | .msync | .collSk .. => False

/-- R315: a record's box. Its elements in dense order, the first coordinate fastest; when one is in bounds; its address; which a scatter without a layout conversion
reads. R228, R235: the swizzle, and the layout conversions of a kilobyte, which a scatter undoes. -/
def boxesAndConversions : Prop :=
  (∀ (rec_ : Shape) (k0 k : List Int), rec_.rank ≤ rec_.box.length → rec_.rank ≤ rec_.size.length → rec_.rank ≤ rec_.stride.length → k0.length = rec_.rank →
    let volume (i : Nat) : Nat := (rec_.box.take i).foldl (fun a b => a * b) 1
    rec_.count = volume rec_.rank ∧ rec_.boxBytes = rec_.n * rec_.count ∧ (rec_.elements k0).length = rec_.count
    ∧ (∀ m, m < rec_.count → (rec_.elements k0)[m]? = some ((List.range rec_.rank).map fun i =>
        k0.getD i 0 + ((m / volume i % rec_.box.getD i 0 : Nat) : Int)))
    ∧ (k.length = rec_.rank →
      (rec_.inBounds k = true ↔ ∀ i, i < rec_.rank → 0 ≤ k.getD i 0 ∧ k.getD i 0 < rec_.size.getD i 0)
      ∧ rec_.addr k = rec_.base + ((List.range rec_.rank).map fun i => k.getD i 0 * rec_.stride.getD i 0).sum)
    ∧ (rec_.xf = 0 → ∀ m, m ∈ rec_.scattered k0 ↔ m < rec_.count ∧ ∃ e, (rec_.elements k0)[m]? = some e ∧ rec_.inBounds e = true))
  ∧ (∀ (rec_ : Shape) (x : Nat), let w := 16 * 2 ^ rec_.swz
    rec_.swizzle x = if rec_.swz = 0 then x else x / w * w + 16 * ((x % w / 16) ^^^ (x / w % (w / 16))) + x % 16)
  ∧ ∀ l : List Byte, l.length = 1024 →
    xfGather 0 l = l ∧ (∀ xf, xf ≤ 3 → (xfGather xf l).length = 1024 ∧ xfScatter xf (xfGather xf l) = l)
    ∧ (∀ r c, r < 32 → c < 32 → (xfGather 1 l)[32 * r + c]? = l[32 * c + r]?)
    ∧ (∀ r c b, r < 16 → c < 16 → b < 4 → (xfGather 2 l)[(16 * r + c) * 4 + b]? = l[(16 * c + r) * 4 + b]?)
    ∧ (∀ i j r c, i < 4 → j < 4 → r < 8 → c < 8 → (xfGather 3 l)[(4 * i + j) * 64 + 8 * r + c]? = l[(8 * i + r) * 32 + 8 * j + c]?)

/-- R245, R312, R315, R317, R321, R325: an operation that is ready reads the bytes of its whole source as they stand, 0 for an element out of bounds, and memory does
not change. One that may write its payload writes it with what it has not written yet, its completion word, and ends with 0; or, before that, one of
the units that it holds, which it then has written and holds no longer. Nothing else in memory changes. Where two bytes go to one place, the later stays. -/
def enginesMoveBytes (s : State) (core id : Nat) (o : EngOp) : Prop := ∀ (r : Reach) (ps : List (Option Target)),
  s.reach core o = some r → s.isPaused o = false → s.portGone ps = false → s.peerRefuses ps = false →
  let value (t : Option Target) : Byte := match t with
    | some t => s.byte t.mem t.addr
    | none => 0
  let inWord (m : MemId) (b : Nat) : Prop := ∃ off v, o.cw = some (off, v) ∧ (localByte o.ref.team off).mem = m ∧ off % 2 ^ 24 ≤ b ∧ b < off % 2 ^ 24 + 4
  let last (ps : List (Option Target)) (k : Nat) (t : Target) : Prop := ps[k]? = some (some t) ∧ ∀ j, k < j → ps[j]? ≠ some (some t)
  (sourceOf s r o ps → o.stage = .waiting → s.issuerDone o.ref o.id = true → (∀ t, some t ∈ ps → s.inRefresh core t = false) →
    s.sourceFree core o (rangesAt ps) = true → (rangesAt ps).any s.poisoned = false →
    (∀ rec_ num, o.kind.coll? = some (rec_, num) → o.admitted = true ∧ s.cutOff (rec_.group (s.ctxOf o.ref)) = false) →
      ∃ t q, s.engineBegin core id = some t ∧ t.mems = s.mems ∧ (t.core core).op id = some q ∧ q.stage = .begun (ps.map value))
  ∧ (∀ bytes, destinationOf s r o ps → writes s o bytes → bytes.length = ps.length →
    let rest := ps.map fun t => t.filter fun t => o.wrote.all fun g => !g.meets (t.range 1)
    (s.mayWrite o (rangesAt rest) = true →
      ∃ t, exec (.engineCompletion core id) s = .next t ∧ endedWith core id o.slot 0 o.rmask t
        ∧ (∀ k q, last rest k q → ¬inWord q.mem q.addr → t.byte q.mem q.addr = bytes.getD k 0)
        ∧ (∀ m b, some ⟨m, b⟩ ∉ rest → ¬inWord m b → t.byte m b = s.byte m b)
        ∧ ∀ off v, o.cw = some (off, v) → t.load (localByte o.ref.team off) 4 = v.toNat)
    ∧ (∀ n u, o.held[n]? = some u → (∀ sp a t, o.kind ≠ .tld sp a t) →
      let part := ps.map fun t => t.filter fun t => u.meets (t.range 1)
      s.mayWrite o (rangesAt part) = true →
        ∃ t, s.engineWrite core id n = some t
          ∧ (t.core core).op id = some { o with atHome := o.atHome.filter fun g => decide (g ≠ u), wrote := u :: o.wrote }
          ∧ (∀ k q, last part k q → t.byte q.mem q.addr = bytes.getD k 0)
          ∧ ∀ m b, some ⟨m, b⟩ ∉ part → t.byte m b = s.byte m b))

/-- R325 to R328: what the parts of a collective, in the order of their ranks, give every rank: rank 0's bytes in a broadcast, the parts one after another in an
all-gather, and in an all-reduce word by word the sum modulo 2^32, the sum in some order of the ranks, the minimum, the maximum, or the root of the fixed tree over
the least 2^P ≥ N leaves of which each part holds the root of a run, the others being +0.0; a FP32 NaN is the canonical one. Once every rank of the
package has read its source, all of them receive it, or, where the parameters of sketch instances differ, end with 6; a merge applies the other ranks'
states one after another. -/
def collectiveResults : Prop :=
  let canon (w : Word) : Word := if (f32.value w.toNat).isNan then 0x7FC00000 else w
  let folded (op : RvOp) (l : List Word) (w : Word) : Prop := ∃ a l', l = a :: l' ∧ w = canon (l'.foldl (rvOf op) a)
  (∀ (r : CollRec) (order : Nat) (p : Part) (l : List Part), let ps := p :: l
    let word (i : Nat) (q : Part) : Word := BitVec.ofNat 32 (leNat ((q.data.drop (4 * i)).take 4))
    let res (i : Nat) : Word := BitVec.ofNat 32 (leNat (((collResult r order ps).1.drop (4 * i)).take 4))
    (r.kind = 1 → (collResult r order ps).1 = p.data)
    ∧ (r.kind = 2 → (collResult r order ps).1 = ps.flatMap fun q => q.data)
    ∧ (r.kind = 0 → (collResult r order ps).1.length = 4 * r.lanes ∧ ∀ i, i < r.lanes →
      let ws := ps.map (word i)
      (r.op = 1 → ∃ l, l.Perm ws ∧ folded .addF32 l (res i)) ∧ (r.op = 2 → res i = ws.foldl (fun a b => a + b) 0)
      ∧ (r.op = 3 → folded .minF32 ws (res i)) ∧ (r.op = 4 → folded .maxF32 ws (res i))
      ∧ (r.op = 0 → ∀ (lev : Part → Nat) (v : Nat → Word) (P : Nat),
        (∀ q ∈ ps, q.run = 2 ^ lev q ∧ q.ebase % q.run = 0) → ps.Pairwise (fun a b => a.ebase + a.run ≤ b.ebase ∨ b.ebase + b.run ≤ a.ebase) →
        r.nelem ≤ 2 ^ P → (∀ k, r.nelem ≤ 2 ^ k → P ≤ k) →
          ((∀ q ∈ ps, q.ebase = 0 → q.run ≤ 2 ^ P) → (∀ q ∈ ps, word i q = rvTree .addF32 (lev q) fun k => v (q.ebase + k)) →
            (∀ k, (∀ q ∈ ps, k < q.ebase ∨ q.ebase + q.run ≤ k) → v k = 0) → res i = canon (rvTree .addF32 P v))
          ∧ ∀ q ∈ ps, q.ebase = 0 → 2 ^ P ≤ q.run → res i = canon (word i q))))
  ∧ (∀ (s : State) (core id : Nat) (o : EngOp) (r : CollRec) (num : Nat) (ps : List Part),
    (s.core core).op id = some o → o.kind.coll? = some (r, num) → (∃ d, o.stage = .begun d) → s.cutOff (r.group (s.ctxOf o.ref)) = false →
    let mine := s.partsOf (r.group (s.ctxOf o.ref)) num
    let sk (p : EngOp) : Bool := match p.kind with
      | .collSk .. => true
      | _ => false
    (∀ e ∈ mine, (∃ d, e.2.stage = .begun d) ∧ (s.core e.1).op e.2.id = some e.2) →
    ps.Perm (mine.filterMap (fun e => e.2.part) ++ o.peers.map fun p => ⟨p.index, p.ebase, p.run, if sk o then p.state else p.data.flatMap fun w => leBytes 4 w.toNat⟩) →
    ps.Pairwise (fun a b => a.rank < b.rank) →
      ∃ t, s.engineBegin core id = some t ∧ t.mems = s.mems ∧ ∀ e ∈ mine, ∃ q, (t.core e.1).op e.2.id = some q
        ∧ (sk o = false → q.stage = .exchanged (collResult r o.order ps).1 (collResult r o.order ps).2)
        ∧ (sk o = true → ∀ r', e.2.kind.coll? = some r' →
            ((∀ a ∈ ps, ∀ b ∈ ps, a.data.take 8 = b.data.take 8 ∧ a.data.length = b.data.length) →
              q.stage = .exchanged ((ps.filter fun p => decide (p.rank ≠ r'.1.rank)).flatMap fun p => p.data) [])
            ∧ ((∃ a ∈ ps, ∃ b ∈ ps, a.data.take 8 ≠ b.data.take 8 ∨ a.data.length ≠ b.data.length) → q.stage = .failed 6)))
  ∧ (∀ (s : State) (core id : Nat) (o : EngOp) (d : List Byte) (c : List Conds), (s.core core).op id = some o → o.stage = .exchanged d c →
    ∀ r num, o.kind.coll? = some (r, num) → s.cutOff (r.group (s.ctxOf o.ref)) = false →
      ∃ t, s.engineBegin core id = some t ∧ t.mems = s.mems ∧ (t.core core).op id = some { o with stage := .result d c })
  ∧ ∀ (s : State) (core id slot num : Nat) (o : EngOp) (r : CollRec) (d : List Byte) (c : List Conds) (k : Bind),
    (s.core core).op id = some o → o.kind = .collSk r slot num → o.stage = .result d c → s.isPaused o = false → s.groupSettled o r num = true →
    s.bound (s.ctxOf o.ref) slot = some k → s.instanceFree true o.ref o.id (s.ctxOf o.ref) slot k.ranges = true → k.ranges.any s.poisoned = false →
    let n := 64 + (s.skNow k).body
    let merged := (List.range (d.length / n)).foldl (fun z j => (z.skMerge k ((d.drop (n * j)).take n)).1) s
    ∃ t, exec (.engineCompletion core id) s = .next t ∧ endedWith core id o.slot 0 o.rmask t
      ∧ (o.cw = none → t.mems = merged.mems) ∧ ∀ off v, o.cw = some (off, v) → t.load (localByte o.ref.team off) 4 = v.toNat

/-- R154, R166 to R168, R245, R312, R315 to R318, R323, R325 to R329, R403: an operation that has failed ends with its ERR and writes nothing; copies, fills, tile copies
and collectives read their bytes and write them to their places (`enginesMoveBytes`), and a collective gives every rank the whole result
(`collectiveResults`); when a welted copy's bytes have landed in its tile, its completion word is written, and its welt joins a queue that has room, and
the copy's handle ends with that; or the copy waits, behind those that wait already, with its handle pending, and joins when an entry is free: that a welt
waits so at a full queue is the model's reading (log entry 36, DEDUCED); MSYNC ends when the commands before it have, with 7 if
it was issued after the command that halted its context and 0 otherwise: that it looks at what it was issued after is the model's reading too (log entry 36).
A group with the issues of all its ranks begins, or every rank of it fails with 5; an abort, of a group on this package or of one that reaches beyond
it, fails every rank that has not received the whole result with 4, and a rank that issues later finds it noted. The units of a payload are written one by one or together, as the moves are taken, the completion word and
the handle after them (log entry 69). -/
def Obligations.EnginesComplete : Prop := ∀ (s : State) (core id : Nat) (o : EngOp), (s.core core).op id = some o →
  let i : Instr := .engineCompletion core id
  let lands (a n : Nat) (f : Nat → Byte) : Prop :=
    a % 2 ^ 24 + n ≤ 2 ^ 24 → o.wrote = [] → s.isPaused o = false → (s.reach core o).isSome = true →
    s.mayWrite o (rangesAt ((List.range n).map fun k => some (localByte o.ref.team ((a + k) % 2 ^ 32)))) = true →
      ∃ t, exec i s = .next t ∧ endedWith core id o.slot 0 o.rmask t
        ∧ (o.cw = none → wroteOnly s t (.spad o.ref.team (a / 2 ^ 24 % 4)) (a % 2 ^ 24) n f)
        ∧ ∀ off v, o.cw = some (off, v) → t.load (localByte o.ref.team off) 4 = v.toNat
  enginesMoveBytes s core id o ∧ collectiveResults ∧ boxesAndConversions
  ∧ (∀ n, o.stage = .failed n → exec i s = .next (s.completeHandle core o n o.rmask))
  ∧ (∀ ssp a b n d, o.kind = .lin .loc ssp a b n → o.stage = .begun d → d.length = n → lands a n fun k => d.getD k 0)
  ∧ (∀ a pat n, o.kind = .fill .loc a pat n → o.stage = .waiting → s.issuerDone o.ref o.id = true →
      lands a n fun k => BitVec.ofNat 8 (pat.toNat / 2 ^ (8 * (k % 4))))
  ∧ (o.kind = .msync → o.stage = .waiting → s.msyncDone core o = true →
      let m := (s.tileHome core o).2
      (m.halt = true ∧ m.haltAt < o.id → exec i s = .next (s.completeHandle core o 7 0))
      ∧ (m.halt = false ∨ o.id ≤ m.haltAt → exec i s = .next (s.completeHandle core o 0 0)))
  ∧ (∀ sp rec_ k0 tile ta tb a z tm, o.kind = .cpyw sp rec_ k0 tile ta tb a z → s.team o.ref.team = some tm → tm.phase ≠ .killed →
      let c := s.core core
      let m := c.mc o.mc
      let cmd := weltCommand s m o ta tb a z
      let joined (t : State) : Prop := ((t.core core).mc o.mc).queue = m.queue ++ [cmd] ∧ ((t.core core).mc o.mc).seq = (m.seq + 1) % 2 ^ 32
        ∧ endedWith core id o.slot 0 o.rmask t
      (∀ d p, o.stage = .begun d → o.wrote = [] → s.isPaused o = false → s.pipeOf tm = some p → s.tileHome core o = (.oper core o.mc, m) →
        let dst := m.tile tile
        s.mayWrite o (rangesAt (((⟨.oper core o.mc, tileBase dst⟩ : Target).span (tileRows dst * tilePitch dst)).map some)) = true →
          ∃ t, exec i s = .next t ∧ (o.cw = none → wroteOnly s t (.oper core o.mc) (tileBase dst) (tileRows dst * tilePitch dst) fun k =>
              (tileBytes dst rec_ (xfGather rec_.xf d)).getD k 0)
            ∧ (∀ off v, o.cw = some (off, v) → t.load (localByte o.ref.team off) 4 = v.toNat)
            ∧ (m.queue.length < 64 → c.landed o.mc = [] → joined t)
            ∧ (64 ≤ m.queue.length ∨ c.landed o.mc ≠ [] →
              let waiting : EngOp := { o with stage := .landed, owns := [], atHome := [] }
              (t.core core).op id = some waiting ∧ (t.core core).ops.getLast? = some waiting ∧ (t.core core).handle o.slot = c.handle o.slot))
      ∧ (o.stage = .landed → (c.landed o.mc).head? = some o → m.queue.length < 64 →
          ∃ t, exec (.weltEnqueue core id) s = .next t ∧ joined t ∧ t.mems = s.mems))
  ∧ (∀ die slot peers order r num, s.unassembled die slot = some (core, o) → o.kind.coll? = some (r, num) →
      let g := r.group (s.ctxOf o.ref)
      let recs := recsOf (s.partsOf g num)
      groupFull r recs peers = true → peers = [] ∨ s.cutOff g = false → ∃ t, exec (.groupAssembly die slot peers order) s = .next t
        ∧ ∀ c k p, (s.core c).op k = some p → s.inGroup p g num = true → (t.core c).op k = some
          (if s.groupAgrees core r recs peers then { p with assembled := true, peers := peers, order := order } else { p with stage := .failed 5 }))
  ∧ (∀ g num received, (groupRanks g).1 < (groupRanks g).2 →
      let mine := s.partsOf g num
      received = [] ∨ ((groupRanks g).1 ≤ mine.length ∧ (∀ p ∈ mine, p.2.stage ≠ .waiting ∧ ∀ l, p.2.stage ≠ .reading l)
          ∧ ∀ p ∈ recsOf mine, p.2.rank ∉ received) →
        ∃ t, exec (.collAbort g num received) s = .next t ∧ abortedIn s t g num)
  ∧ ∀ g num received, abortedIn s (s.abortGroup g num received) g num

/-! ### The hardware of threads and teams -/

/-- R90, R91, R95, R172, R174, R179, R199, R214, R261, R381, R385: a held trap is taken at the thread's next boundary, FP64 divisions first, and a trap that
could not be taken earlier when the thread issues; a wait ends when what it waits for has come, or when the thread has a watchdog's trap to take, and the thread is
runnable: it goes on with its instruction, makes a push again, and after a page fault goes on as before it; a yield ends after its 16 clocks; a thread in Rd
for 256 clocks, the lowest runnable one of its class, is forced; a window that has ended restarts with count 0. -/
def Obligations.ThreadEventsComplete : Prop := ∀ (s : State) (r : ThreadRef),
  (∀ e tr l, s.env ⟨r, []⟩ = some e → e.t.held = tr :: l → (e.t.handler = false ∨ tr.cause = .malformedInterval) →
    (∀ q, e.t.resume ≠ some (.push q)) → (∀ n g, e.t.resume ≠ some (.barrier n g)) → e.t.phase = 0 →
      exec (.heldTrap r) s = .next (if e.t.dividing then s.wait r .divisions
        else (s.updThread r fun t => { t with held := l }).takeTrap r tr))
  ∧ (∀ e tr, s.env ⟨r, []⟩ = some e → e.t.yieldTo = none → e.t.late = some tr →
      s.issueThread r = .over (if e.t.dividing then s.wait r .divisions else (s.updThread r fun t => { t with late := none }).takeTrap r tr))
  ∧ (∀ e w, s.waitEnv r = some (e, w) →
      let c := s.core e.core
      let inContext (f : Nat → Prop) : Prop := ∀ mc, s.mcOf e = some mc → f mc
      (match w with
      | .regs rs => ∀ g ∈ rs, e.t.full g = true
      | .limit => e.t.inFlight < 63
      | .allRegs => ∀ k, k < 16 * e.st.gran → e.t.full (BitVec.ofNat 8 k) = true
      | .exit => ∀ o ∈ e.t.ops, o.dstN = 0
      | .barrier n gen => s.gen e.ref.team n ≠ gen
      | .request => e.t.pend = none
      | .divisions => e.t.dividing = false
      | .push q => ∀ u, s.queue e.pl.ctxNum q = some u → ∀ p ∈ u.pushes, p.1 ≠ e.ref
      | .pageFault seq _ => ∀ f ∈ (s.context e.pl.ctxNum).faults, f.seq ≠ seq
      | .handle tok => ∀ k h, s.resolveHandle e tok = .entry k h → h.pending = false
      | .handleEntry => (c.freeHandle).isSome = true
      | .tile n => inContext fun mc => c.tileBusy mc n = false
      | .commandQueue => inContext fun mc => (c.mc mc).queue.length < 64 ∧ c.landed mc = []
      | .context => inContext fun mc => (c.mc mc).queue = [] ∧ ∀ o ∈ c.ops, o.ref.team = e.ref.team → o.ofContext = false
      | .accesses all => ∀ o ∈ e.t.ops, o.isDone = true ∨ (all = false ∧ o.kind.reads = false)
      | .translations before cores region => s.translationsDone e.pl.ctxNum before cores region = true
      | .acquires before cores => s.acquiring before cores = false
      | .sketch slot => e.t.skReady slot = true
      | .flags => s.flagsPending e.ref = false
      | .slot die n => s.slotRuns die n = false
      | .address a _ v ne _ => s.readReady e.ref e.core e.t (a.range 4) = true
          ∧ (s.poisoned (a.range 4) = true ∨ ((BitVec.ofNat 32 (s.load a 4) ≠ v) ↔ ne = true))) ∨ (e.t.late.isSome = true ∧ e.t.dividing = false) →
        exec (.waitEnd r) s = .next (s.updThread r fun t => { t with status := .runnable, resume := match w with
          | .push _ => none
          | .pageFault .. => t.resume
          | _ => some w }))
  ∧ (∀ t k, s.thread r = some t → t.yieldTo = some k → k ≤ s.clockOf r →
      exec (.yieldExpiry r) s = .next (s.updThread r fun t => { t with yieldTo := none }))
  ∧ (∀ core bench cls since, let c := s.core core
      c.track.look (bench * 3 + cls) = some (r, since) → since + 255 ≤ c.clock → s.lowestOf core bench cls = some r → r ∈ s.ready core bench cls → cls < 3 →
        c.forced.look (bench * 3 + cls) ≠ some r →
        exec (.pickerOverride core bench cls) s = .next (s.setCore core { c with forced := c.forced.put (bench * 3 + cls) r }))
  ∧ (∀ core k, let c := s.core core
      let v := c.event k
      v.win ≠ 0 → v.start + v.win.toNat ≤ c.clock → ∃ st, st ≤ c.clock ∧ c.clock < st + v.win.toNat ∧ (st - v.start) % v.win.toNat = 0
        ∧ exec (.eventWindowRestart core k) s
          = .next (s.setCore core { c with events := c.events.put k { v with cnt := 0, fired := false, start := st } }))

/-- R180, R182 to R187, R189, R373, R385, R388, R391: an arbiter pass moves no thread of a resident team; a team that is due, or chosen for
pre-emption, is parked once it has drained, while the rack has an entry free, but a thread on a core of one chosen that has a trap to take enters its handler
first; a rack condition that holds makes its team a candidate, and so may a
write beside a watched word at any time, which is the model's reading (log entry 28); a restored team takes from its save area what the area holds, and
issues again, and one whose area cannot be read is killed, after its record: that MAXTID stands at byte 24 of the save header is the model's reading (log
entry 32), as is that a register which has become full since the park is full (log entry 28); a barrier's generation is the saved one and those completed since; a ring
entry takes a free slot, or the slot of the team core's highest waiting thread, unless the team is to be parked, a displaced thread with every register full
but those that its pending request fills; a team with nothing left to do leaves; the watchdog sends every thread that waits on an old item to its
handler, at once in a resident team. In a parked one, which becomes a restore candidate, or one that reads its save area, they take the trap after the
restore, and a thread with a division in flight when that has completed: these cases are the model's reading (log entry 25, DEDUCED). -/
def Obligations.TeamEventsComplete : Prop := ∀ (s : State) (n : Nat) (tm : Team) (p : Pipeline) (st : Stage),
  s.team n = some tm → s.pipeOf tm = some p → s.stageOf tm = some st →
  (∀ part choice, (s.parts.look part).isSome = true → (∀ x, (s.team x).isSome = true → x < s.nextId) →
      (s.teams.map fun t => t.1).Nodup → ∃ t, exec (.arbiterPass part choice) s = .next t
      ∧ (tm.phase = .resident → (tm.threads.map fun t => t.1).Nodup → ∃ u, t.team n = some u ∧ u.cores = tm.cores ∧ u.ring = tm.ring
        ∧ ∀ v ∈ tm.threads, ∃ x, u.threads.look v.1 = some x ∧ x.loc = v.2.loc ∧ x.pc = v.2.pc ∧ x.status = v.2.status))
  ∧ (∀ ts, s.drainedTeam n tm = true → s.wholeThreads p.ctxNum tm.threads = .ok ts → let whole : Team := { tm with threads := ts }
      (∃ t, (s.setTeam n whole).writePieces p.ctxNum (st.slotAt tm.saveSlot) ((s.setTeam n whole).saveImage n whole st) = .ok t) →
      (tm.phase = .chosen → (∀ t ∈ tm.threads, t.2.late = none ∨ t.2.dividing = true) → s.rackUsed p.part < 512 → ∃ t u k, exec (.preemption n) s = .next t ∧ t.team n = some u ∧ u.phase = .parked ∧ u.rack = some k ∧ k.fired = true)
      ∧ (tm.phase = .resident → s.due tm st = true → s.rackUsed p.part < 512 →
          ∃ t u k, exec (.teamPark n) s = .next t ∧ t.team n = some u ∧ u.phase = .parked ∧ u.rack = some k ∧ k.pre = false))
  ∧ (∀ tid v tr tc b k, tm.phase = .chosen → tm.threads.look tid = some v → v.late = some tr → v.dividing = false → v.loc = .slot tc b k → st.traph ≠ 0 →
      (tm.threads.map fun t => t.1).Nodup → (∀ t ∈ tm.threads, t.2.late.isSome = true → t.2.handler = false) →
      ∃ t u x, exec (.preemption n) s = .next t ∧ t.team n = some u ∧ u.phase = .chosen ∧ u.threads.look tid = some x
        ∧ x.handler = true ∧ x.pc = st.traph ∧ x.epc = tr.epc ∧ x.einfo = tr.einfo ∧ x.late = none)
  ∧ (∀ r k c, tm.phase = .parked → tm.rack = some r → r.conds[k]? = some c → ((∃ a, c = .address a) ∨ s.condHolds p.ctxNum tm c = true) →
      exec (.rackFire n k) s = .next { s.setTeam n { tm with rack := some { r with fired := true } } with
        parts := s.parts.upd p.part fun q => { q with passDue := true } })
  ∧ (tm.phase = .restoring → let got := s.readPieces p.ctxNum (s.savedPieces n tm st)
      (s.savedPieces n tm st).head? = some (st.slotAt tm.saveSlot, 512)
      ∧ (∀ i y v, tm.records[i]? = some (y, v) → (s.savedPieces n tm st)[i + 1]? = some (v.regsAt - 288, 288)) ∧
      (∀ a, got = .error a → exec (.teamRestore n) s = .next (s.killAs true ⟨n, 0⟩ 1 { s.errFor tm 0 10 with unit := 11, addr := a }))
      ∧ (∀ ps, got = .ok ps → (tm.threads.map fun t => t.1).Nodup → (∀ t ∈ tm.threads, t.2.late = none) →
          ∃ t u, exec (.teamRestore n) s = .next t ∧ t.team n = some u ∧ u.phase = .resident ∧ u.cores = tm.cores ∧ u.maxTid = field (ps.getD 0 []) 24 4
            ∧ (∀ j x, tm.barriers.look j = some x → ∃ z, u.barriers.look j = some z
                ∧ z.gen = (field (ps.getD 0 []) (28 + 4 * j) 4 + (x.gen + 2 ^ 32 - x.saved)) % 2 ^ 32)
            ∧ ∀ i y v, tm.records[i]? = some (y, v) → let b := ps.getD (i + 1) []
                ∃ w, u.threads.look y = some w ∧ w.pc = BitVec.ofNat 64 (field b 0 8) ∧ w.mode = BitVec.ofNat 32 (field b 12 4) &&& 0x7F1F ∧ w.loc = v.loc
                  ∧ ∀ r : Reg, w.rd r = v.rd r ∧ (r.toNat < 16 * st.gran →
                      ((w.cell r).live = true ↔ field b 16 32 / 2 ^ r.toNat % 2 = 1) ∧ ((w.cell r).full = true ↔ field b 48 32 / 2 ^ r.toNat % 2 = 1 ∨ ∃ c ∈ v.changed, c.1 = r))))
  ∧ (∀ tid back l tc b k v, tm.phase = .resident → s.toPark tm p st = false → tm.ring = (tid, back) :: l → s.seatIn tm st.gran tm.benches = some (tc, b, k) →
      tm.threads.look tid = some v → (∀ d, l.head? = some d → (tm.present d.1).isSome = true) → let now := (s.core (tm.cores.getD tc 0)).clock
      let fills (r : Nat) : Prop := ∃ q, v.pend = some q ∧ (r = q.dst.toNat ∨ ∃ ctx slot, q.kind = .qpop ctx slot ∧ r = (q.dst + 1).toNat)
      (back = true → (∀ i : Fin 256, (s.fromRing p.ctxNum v true).regs[i].val = v.regs[i].val ∧ (s.fromRing p.ctxNum v true).regs[i].live = v.regs[i].live
          ∧ ((s.fromRing p.ctxNum v true).regs[i].full = true ↔ ¬fills i.val)) ∧ (s.fromRing p.ctxNum v true).pc = v.pc)
      ∧
      let ts := tm.threads.put tid { (if back = true then s.fromRing p.ctxNum v true else v) with loc := .slot tc b k, born := now, since := now }
      exec (.spawnRingStart n) s = .next (s.setTeam n { tm with ring := l, ringHead := tm.ringHead + 1, threads := ts }))
  ∧ (∀ tc tid v v' h d l b k g w, let here := tm.threads.filter fun t => decide (t.2.status ≠ .exited) && (match t.2.loc with
        | .slot c _ _ => c == tc
        | .ring | .none => false)
      tm.phase = .resident → s.toPark tm p st = false → tm.ring = (h, d) :: l → tm.ring.length < 2 ^ st.srlog → (∀ t ∈ here, s.waited tm t.2 st.waitth = true ∧ t.2.producing = false) →
      highestTid (here.filter fun t => !t.2.stays) = some (tid, v) → v.loc = .slot tc b k → tm.threads.look tid = some v →
      tm.threads.look h = some w → h ≠ tid → (∀ d, l.head? = some d → (tm.present d.1).isSome = true) → s.wholeThread p.ctxNum v = .ok v' →
      s.writeRing p.ctxNum st (tm.ringHead + tm.ring.length) v' tid true = .ok g →
      ∃ t u x y, exec (.displacement n tc) s = .next t ∧ t.team n = some u ∧ u.ring = l ++ [(tid, true)] ∧ u.threads.look tid = some x
        ∧ x.loc = .ring ∧ u.threads.look h = some y ∧ y.loc = .slot tc b k ∧ y.pc = w.pc)
  ∧ (s.mayLeave n tm = true → ∃ t, exec (.teamExit n) s = .next t ∧ t.team n = none)
  ∧ (∀ w age, tm.age w (s.ageClock tm p) = some (age, false) → st.barwd ≠ 0 → st.barwd < age → st.traph ≠ 0 →
      (tm.threads.map fun t => t.1).Nodup → (∀ t ∈ tm.threads, t.2.handler = false) →
      ∃ t u, exec (.barrierWatchdog n w) s = .next t ∧ t.team n = some u ∧ u.age w (s.ageClock tm p) = some (age, true)
        ∧ ∀ v ∈ tm.threads, ∃ x, t.thread ⟨n, v.1⟩ = some x
          ∧ (timedOut w v = false → x.pc = v.2.pc ∧ x.regs = v.2.regs ∧ x.handler = false ∧ x.late = v.2.late ∧ x.status = v.2.status)
          ∧ (timedOut w v = true →
              (tm.phase ≠ .parked → tm.phase ≠ .restoring → v.2.dividing = false →
                x.handler = true ∧ x.pc = st.traph ∧ x.cause = 15 ∧ x.epc = v.2.pc ∧ x.eaddr = (watchInfo w).1 ∧ x.einfo = (watchInfo w).2)
              ∧ (tm.phase = .parked ∨ tm.phase = .restoring ∨ v.2.dividing = true → x.pc = v.2.pc ∧ ∃ tr, x.late = some tr ∧ tr.cause = .barrierTimeout ∧ tr.epc = v.2.pc
                  ∧ tr.eaddr = (watchInfo w).1 ∧ tr.einfo = (watchInfo w).2)
              ∧ (tm.phase = .parked → ∀ r, u.rack = some r → r.fired = true)))

/-! ### Memories, errors, the host, packets and firmware -/

/-- R226, R231, R233, R234, R237, R360, R372, R373, R379: replies come back in any order; scrubbing and a frame's move change no byte, and a
scrub priority rises to parity at most, and a pass sets it back, which is the model's reading (log entry 38); the bank of a die's phase, by the clock of its
first core, goes into refresh; a core without a team changes its split, and keeps no more lines than its ways hold; a page-fault record goes into a clear
entry of its context's ring, whatever FDOM says, which is the model's reading (log entry 40); an error with a site is handled: a memory word's unit is
poisoned, and a register file's error kills the thread where the fault domain says thread; a correction is only counted while its unit instance has a
record of the last 65,536 clocks of the reporting core. Which of an L1's lines stand in the ways that a split converts is free (Config.l1Way). -/
def Obligations.MemoryAndErrorEventsComplete : Prop := ∀ (s : State) (n : Nat),
  let k := s.stack n
  let d := s.die n
  let c := s.core n
  let x := s.context n
  let entry (j : Nat) : Target := ⟨.host, x.fring + 32 * (j % 2 ^ x.frlog)⟩
  (∀ tag ∈ k.tags, exec (.hbmReply n tag) s = .next (s.setStack n { k with tags := k.tags.filter fun t => t != tag }))
  ∧ (n < 12 → (k.tags.length < k.scrubBelow → exec (.scrubPass n) s = .next (s.setStack n { k with scrubs := k.scrubs + 1, scrubPri := 0 }))
    ∧ exec (.scrubEscalation n) s = .next (s.setStack n { k with scrubPri := min (k.scrubPri + 1) Config.scrubParity })
    ∧ (∀ src dst, stackOf (4096 * src) = n → stackOf (4096 * dst) = n → src ≠ dst → (∀ e ∈ k.remap, e.1 ≠ src ∧ e.1 ≠ dst ∧ e.2 ≠ dst) →
        (∀ q ∈ s.parts, q.2.owns (4096 * dst) = false) → exec (.frameMigration n src dst) s = .next (s.setStack n { k with remap := (src, dst) :: k.remap })))
  ∧ (n < 4 → let bank := (s.core (64 * n)).clock % 32768 / 512
      d.refresh ≠ some bank → exec (.wsRefresh n) s = .next (s.setDie n { d with refresh := some bank }))
  ∧ (∀ split, n < 256 → split ≤ 7 → split ≠ c.split → (∀ t ∈ s.teams, t.2.phase = .parked ∨ n ∉ t.2.cores) →
      let gone (l : L1Line) : Prop := 8 - split ≤ Config.l1Way n (l.line.addr / 512) % 8
      ∃ t, exec (.splitChange n split) s = .next t ∧ (t.core n).split = split ∧ t.mems = s.mems ∧ (∀ l ∈ (t.core n).l1, l ∈ c.l1 ∧ ¬gone l)
        ∧ (∀ l ∈ c.l1, gone l → ∀ e ∈ t.dir, e.unit.meets (l.line.range 512) = true → ∀ h ∈ e.holders, h.1 ≠ n)
        ∧ (c.l1.Nodup → (t.core n).l1.length ≤ (8 - split) * 512)
        ∧ ((∀ l ∈ c.l1, ¬gone l) → c.l1.length ≤ (8 - split) * 512 → t = s.updCore n fun k => { k with split := split }))
  ∧ (∀ f, x.faults.find? (fun f => f.slot.isNone) = some f → s.byte .host ((entry x.faultPos).addr + 31) = 0 →
      ∃ t, exec (.faultRecord n) s = .next t ∧ t.bytes (entry x.faultPos) 32 = f.bytes ∧ (t.context n).faultPos = x.faultPos + 1)
  ∧ (∀ j, j < 2 ^ x.frlog → s.byte .host ((entry j).addr + 31) ≠ 0 → ∃ t, exec (.faultRingEntryCleared n j) s = .next t
      ∧ ((∀ f ∈ x.faults, f.slot.isSome = true) → wroteOnly s t .host ((entry j).addr + 31) 1 fun _ => 0))
  ∧ (∀ e y, s.site e = some y → (∃ t, exec (.uncorrectableError e) s = .next t)
      ∧ (∃ t, exec (.correctedError e) s = .next t ∧ keepsBytes s t ∧ t.contexts = s.contexts ∧ t.pipes = s.pipes)
      ∧ ∀ o l, s.corrected.find? (fun o => decide (o.unit = y.unit) && decide (o.inst = y.inst)) = some o → o.last = some l →
          (s.core y.core).clock < (l.look y.core).getD 0 + 65536 → exec (.correctedError e) s = .next { s with
            corrected := { o with count := o.count + 1 } :: s.corrected.filter fun o => !(decide (o.unit = y.unit) && decide (o.inst = y.inst)) })
  ∧ (∀ u pa, 3 ≤ u → u ≤ 5 → pa < 4 * (240 * 2 ^ 30) → ∃ t, exec (.uncorrectableError (.memWord u pa)) s = .next t ∧ keepsBytes s t
      ∧ (¬inLog s .hbm pa → t.poisoned ⟨.hbm, pa, pa + 1⟩ = true))
  ∧ (∀ tid tm v st p, s.team n = some tm → tm.threads.look tid = some v → v.status ≠ .exited → s.stageOf tm = some st → s.pipeOf tm = some p →
      st.fdom % 4 = 0 → ∃ t w, exec (.uncorrectableError (.regFile ⟨n, tid⟩)) s = .next t ∧ t.thread ⟨n, tid⟩ = some w ∧ w.status = .exited)

/-- R348, R359, R361, R364: while the partition runs no pipeline, CTXTAB, CTXCNT and QTAB take the value written, and QCOUNT one that keeps
the partition at 4,096 descriptors; otherwise the write only sets STATUS bit 0. FRESUME ends its record; with DENY every waiting thread is
denied its address, every engine operation fails with ERR 2 and every packet is denied; TLBINV drops the context's covered translations, in the TLBs and
in the last-page registers of threads on cores, once their accesses have been performed; a doorbell moves WRIDX up, and too far a one stops the queue; a
write to an unlisted offset changes nothing. That a read-only or an unlisted register ignores a write, and what the offsets are, is as log entry 41 says;
that contexts are numbered by virtual function is the model's choice (log entry 63). -/
def Obligations.VirtualFunctionRegistersComplete : Prop := ∀ (s : State) (vf : Nat) (w : Vf) (v : DWord),
  s.vfs.look vf = some w →
  let set (g : Vf) : State := { s with vfs := s.vfs.put vf g }
  let busy := ∃ p ∈ s.pipes, p.2.part = w.part
  let others := ((s.vfs.filter fun x => x.1 != vf && x.2.part == w.part).map fun x => x.2.qcount).sum
  let listed (i : Instr) (g : Vf) : Prop := (¬busy → exec i s = .next (set g)) ∧ (busy → exec i s = .next (set { w with err := true }))
  listed (.ctxtab vf v) { w with ctxtab := v.toNat } ∧ listed (.ctxcnt vf v) { w with ctxcnt := v.toNat } ∧ listed (.qtab vf v) { w with qtab := v.toNat }
  ∧ listed (.qcount vf v) (if others + v.toNat ≤ 4096 then { w with qcount := v.toNat } else { w with err := true })
  ∧ (∀ ctx seq, let n := w.ctxNum vf ctx
      let c := s.context n
      let ended : Context := { c with faults := c.faults.filter fun f => f.seq != seq }
      exec (.fresume vf ctx seq) s = .next (s.setContext n ended)
      ∧ ((∀ f ∈ c.faults, f.seq ≠ seq) → exec (.fresumeDeny vf ctx seq) s = .next s)
      ∧ (∀ f, c.faults.find? (fun f => f.seq == seq) = some f → ∃ t, exec (.fresumeDeny vf ctx seq) s = .next t
          ∧ (∀ g ∈ (t.context n).faults, g.seq ≠ seq)
          ∧ (∀ r u a, .thread r ∈ f.requesters → s.thread r = some u → u.status = .waiting (.pageFault seq a) →
              ∃ x, t.thread r = some x ∧ x.denied = some a ∧ x.status = u.status)
          ∧ (∀ k op o, .engine k op ∈ f.requesters → (s.core k).op op = some o → ∃ x, (t.core k).op op = some x ∧ x.stage = .failed 2)
          ∧ (∀ p ∈ s.packets, .packet p.vf p.queue p.index ∈ f.requesters → { p with denied := true } ∈ t.packets)))
  ∧ (∀ ctx, (∀ tm ∈ s.teams, ∀ t ∈ tm.2.threads, t.2.ops = []) → let n := w.ctxNum vf ctx
      let onCores (t : State) (kept : Xlate → Prop) : Prop := (∀ k, k < 256 → ∀ y ∈ (t.core k).tlb, y.ctx = n → kept y.x)
        ∧ ∀ tm ∈ t.teams, ∀ p, t.pipeOf tm.2 = some p → p.ctxNum = n → tm.2.phase ≠ .parked → ∀ u ∈ tm.2.threads, tm.2.coreOf u.2 < 256 →
            ∀ y, u.2.lastPage = some y → kept y
      (∃ t, exec (.tlbinvAll vf ctx) s = .next t ∧ onCores t fun _ => False)
      ∧ (∃ t, exec (.tlbinvVa vf ctx v) s = .next t ∧ (canonical (v.toNat / 4096 * 4096) = true → onCores t fun y =>
          ¬(y.page ≤ v.toNat / 4096 * 4096 % 2 ^ 56 ∧ v.toNat / 4096 * 4096 % 2 ^ 56 < y.page + y.size))))
  ∧ (∀ q d, s.queueDesc w q = some d → let u := w.queue q
      (v.toNat < u.wr → exec (.doorbell vf q v) s = .next s)
      ∧ (u.wr ≤ v.toNat → v.toNat ≤ u.rd + 2 ^ d.logN → exec (.doorbell vf q v) s = .next (set { w with queues := w.queues.put q { u with wr := v.toNat } }))
      ∧ (u.wr ≤ v.toNat → u.rd + 2 ^ d.logN < v.toNat → ∃ t g, exec (.doorbell vf q v) s = .next t ∧ t.vfs.look vf = some g ∧ (g.queue q).err = true
          ∧ t.byte .hbm (d.pa + 10) = s.byte .hbm (d.pa + 10) ||| 2))
  ∧ (∀ off, (off % 8 ≠ 0 ∨ off = 0x30 ∨ (0x30 < off ∧ off < 0x1000) ∨ 0x9000 ≤ off) → exec (.unlistedRegisterWrite vf off v) s = .next s)

/-- R364 to R366: the processor consumes the next packet of a queue that it may begin: it copies the packet and advances RDIDX; reserved bits give
failure code 1 and a broken rule 8, a reserved type stops the queue as well, whose error flag is set, in its descriptor too; otherwise the packet has
started, or has failed with the code of what its plan or its source is refused for. That code 1 comes before code 8 is the model's choice (log entry 64);
that a SIGNAL which is not 8-byte aligned is code 1, and which code a LAUNCH of an absent feature gets, is its reading (log entry 42).
A started packet completes: a failure code is written to SIGNAL with bit 63 set; a LAUNCH, when every stage has finished, writes VALUE, or code 7 if it
was killed; a WAIT, when its word has reached VALUE and no release ahead of its thread's stores holds it (R263); a FILL or COPY writes its bytes, then VALUE to SIGNAL if that is not 0; a WSLOAD writes its bytes
while no team of the partition is on the die, then VALUE; one that was denied its page fails with code 5 (log entry 43). -/
def Obligations.PacketsComplete : Prop :=
  (∀ (s : State) (vf q : Nat) (x : Served) (b : List Byte) (e : Vf),
    let n := x.v.ctxNum vf x.d.ctx
    let s1 := s.loadContext n x.pt x.e
    let bad : Nat := if packetForm b = false then 1 else if packetRules x.pt b = false then 8 else 0
    let takes (i : Instr) (f : Packet → Prop) : Prop := ∃ t w p, exec i s = .next t ∧ t.vfs.look vf = some w ∧ (w.queue q).rd = x.u.rd + 1
      ∧ p ∈ t.packets ∧ p.vf = vf ∧ p.queue = q ∧ p.index = x.u.rd ∧ p.bytes = b ∧ p.started = true ∧ f p
    s.vfs.look vf = some e → s.served vf q = some x → s.unstarted vf q = none → x.u.rd < x.u.wr →
    (∀ f ∈ (s.context n).faults, .packet vf q x.u.rd ∉ f.requesters) → s1.readGlobal n (x.d.base + 64 * (x.u.rd % 2 ^ x.d.logN)) 64 = .ok b →
    s.mayBegin x vf q b = true → (∀ p ∈ s.packets, p.is vf q x.u.rd = false) →
      (packetType b = 4 → takes (.fill vf q) fun p => p.code = bad)
      ∧ (packetType b = 2 → takes (.wait vf q) fun p => p.code = bad)
      ∧ (packetType b = 1 → bad = 1 → takes (.launch vf q) fun p => p.code = bad)
      ∧ (packetType b = 3 → bad ≠ 0 → takes (.wsload vf q) fun p => p.code = bad)
      ∧ (packetType b = 5 → bad ≠ 0 → takes (.copy vf q) fun p => p.code = bad)
      ∧ (packetType b = 0 ∨ 5 < packetType b → takes (.reservedTypePacket vf q) (fun p => p.code = 1)
          ∧ ∃ t w, exec (.reservedTypePacket vf q) s = .next t ∧ t.vfs.look vf = some w ∧ (w.queue q).err = true
            ∧ (t.byte .hbm (x.d.pa + 10)).getLsbD 1 = true)
      ∧ (∀ r : State × Packet, r = s1.consume x vf q b → bad = 0 →
          (packetType b = 1 → ∀ t, r.1.tryLaunch x.e x.pt r.2 = .ok t →
              takes (.launch vf q) fun p => p.code = 0 ∧ p.pipe = some r.1.nextId)
          ∧ (packetType b = 1 → ∀ k, r.1.tryLaunch x.e x.pt r.2 = .error (.code k) → takes (.launch vf q) fun p => p.code = k)
          ∧ (packetType b = 3 → ∀ k, r.1.vread n (field b 8 8) (field b 0x18 8) = .error (.code k) → takes (.wsload vf q) fun p => p.code = k)
          ∧ (packetType b = 5 → ∀ k, r.1.vread n (field b 0x10 8) (field b 0x18 8) = .error (.code k) → takes (.copy vf q) fun p => p.code = k)
          ∧ (packetType b = 3 → ∀ l, r.1.vread n (field b 8 8) (field b 0x18 8) = .ok l → takes (.wsload vf q) fun p => p.code = 0 ∧ p.data = l)
          ∧ (packetType b = 5 → ∀ l, r.1.vread n (field b 0x10 8) (field b 0x18 8) = .ok l → takes (.copy vf q) fun p => p.code = 0 ∧ p.data = l)))
  ∧ (∀ (s t : State) (p : Packet),
    let i : Instr := .packetCompletion p.vf p.queue p.index
    let value := field p.bytes 0x28 8
    let rest (t : State) : Tbl Pipeline := match p.pipe with
      | some n => t.pipes.drop n
      | none => t.pipes
    let done (t : State) : State := { t with packets := t.packets.filter fun k => !k.is p.vf p.queue p.index, pipes := rest t }
    s.packets.find? (fun k => k.is p.vf p.queue p.index) = some p → p.started = true → s.packetPaused p = false →
      (p.denied = true → p.code = 0 → exec i s = .next (s.failPacket p 5))
      ∧ (p.denied = false → p.code ≠ 0 → s.putSignal p (2 ^ 63 + p.code) = .ok t → exec i s = .next (done t))
      ∧ (p.denied = false → p.code = 0 →
        (∀ n y, packetType p.bytes = 1 → p.pipe = some n → s.pipes.look n = some y → s.pipeDone n y = true →
          s.putSignal p (if y.killed then 2 ^ 63 + 7 else value) = .ok t → exec i s = .next (done t))
        ∧ (∀ l, packetType p.bytes = 2 → s.readGlobal p.ctx (field p.bytes 8 8) 8 = .ok l → field p.bytes 0x10 8 ≤ leNat l →
            s.signalHeld p.ctx (field p.bytes 8 8) = false → exec i s = .next (done s))
        ∧ (3 ≤ packetType p.bytes → p.written = true → (s.parts.look (ctxPart p.ctx)).isSome = true → s.putSignal p value = .ok t → exec i s = .next (done t))
        ∧ (∀ pt, packetType p.bytes = 3 → p.written = false → s.parts.look (ctxPart p.ctx) = some pt →
            s.dieClear (ctxPart p.ctx) (field p.bytes 0x14 1) = true →
            let u := (s.wsWrite pt (field p.bytes 0x14 1) (field p.bytes 0x10 4) p.data).dropWs pt (field p.bytes 0x14 1)
            (u.updPacket p fun q => { q with written := true }).putSignal p value = .ok t → exec i s = .next (done t))
        ∧ (∀ u, 4 ≤ packetType p.bytes → p.written = false → s.writeGlobal p.ctx (field p.bytes 8 8) p.fillBytes = .ok u →
            (field p.bytes 0x20 8 = 0 → exec i s = .next (done u))
            ∧ ((u.updPacket p fun q => { q with written := true }).putSignal p value = .ok t → exec i s = .next (done t)))))

/-- R239, R257, R346, R347, R362, R367 to R370: while the dies are held the host has no access to memory; otherwise it reads and writes memory that it may reach, once no engine owns it; elsewhere a read gives all ones, a
write is discarded, and the access is recorded, of whom and under which source is the model's choice (log entries 45 and 46); a good flit in its place is
taken, a bad one starts dropping; a port with 16 failed retries goes down; an admitted peer's store or atomic takes effect and another request changes nothing; a
snoop takes the host's line back, so that no copy of it is left, or shares it, so that what copies are left may only be read; an image whose key has
the fused hash, whose signature verifies and whose version is not rolled back runs, and one that fails leaves the dies held; a well-formed partition gets
its units under a new key, and what they read as is free; a destroyed one with its contexts is gone, and its units read zero (the model's choice,
log entry 3). -/
def Obligations.FabricAndFirmwareComplete : Prop := ∀ (s : State),
  (s.firmware.held = true → ∀ b pa n v, exec (.hostMemAccess b pa n v) s = .fault .notEnabled)
  ∧ (∀ pa n v, s.firmware.held = false → 1 ≤ n → (s.hostReaches pa = true → s.hostReaches (pa + n - 1) = true → s.hostMay ⟨.hbm, pa, pa + n⟩ = true →
        ∃ t u, exec (.hostMemAccess true pa n v) s = .next t ∧ wroteOnly s t .hbm pa n (fun k => BitVec.ofNat 8 (v / 2 ^ (8 * k)))
          ∧ exec (.hostMemAccess false pa n v) s = .next u ∧ u.mems = s.mems ∧ u.hostData = s.bytes ⟨.hbm, pa⟩ n)
      ∧ (s.hostReaches pa = false ∨ s.hostReaches (pa + n - 1) = false → ∀ b, ∃ t, exec (.hostMemAccess b pa n v) s = .next t ∧ keepsBytes s t
          ∧ (b = false → t.hostData = List.replicate n 0xFF)
          ∧ let o := (s.ownerOf pa).getD 48
            (∀ y, s.parts.look o = some y → s.byte .hbm (y.logBase + 64 * (y.logPos % 2 ^ y.logN) + 63) = 0) →
              ∃ e, t.log = s.log ++ [e] ∧ e.part = o ∧ e.addr = pa ∧ e.src = Config.permSource))
  ∧ (∀ port g seq, port < 16 → (s.port port).down = false → let p := s.port port
      let gets (q : Port) : Prop := exec (.flitReceive port g seq) s = .next { s with ports := s.ports.put port q }
      (seq = p.got → g = true → gets { p with got := p.got + 1, dropping := false, retries := 0 })
      ∧ (seq = p.got → g = false → gets { p with dropping := true, retries := if p.dropping then p.retries + 1 else p.retries })
      ∧ (seq ≠ p.got → gets { p with dropping := true }))
  ∧ (∀ port, port < 16 → (s.port port).down = false → 16 ≤ (s.port port).retries → ∃ t, exec (.linkDown port) s = .next t ∧ (t.port port).down = true)
  ∧ (∀ peer part r, s.admitted peer part = none → exec (.remoteRequest peer part r) s = .next s)
  ∧ (∀ peer part n p us pa data, s.admitted peer part = some (n, p, us) → (unitsReach p us pa data.length = false →
        exec (.remoteRequest peer part (.store pa data)) s = .next s)
      ∧ (unitsReach p us pa data.length = true → s.peerMay ⟨.hbm, pa, pa + data.length⟩ = true → ∃ t, exec (.remoteRequest peer part (.store pa data)) s = .next t ∧ wroteOnly s t .hbm pa data.length fun k => data.getD k 0))
  ∧ (∀ peer part n p us op pa size v, s.admitted peer part = some (n, p, us) → unitsReach p us pa size = true → s.peerMay ⟨.hbm, pa, pa + size⟩ = true →
      let m := s.load ⟨.hbm, pa⟩ size
      (op ≠ .addF32 → v < 2 ^ (8 * size) → ∃ t, exec (.remoteRequest peer part (.atomic op pa size v)) s = .next t
        ∧ wroteOnly s t .hbm pa size fun k => BitVec.ofNat 8 (newValue op size m v / 2 ^ (8 * k)))
      ∧ ∀ c, ∃ t, exec (.remoteRequest peer part (.compare pa size c v)) s = .next t
        ∧ wroteOnly s t .hbm pa size fun k => BitVec.ofNat 8 ((if m = c then v else m) / 2 ^ (8 * k)))
  ∧ (∀ line (data : List Byte), let r : Range := ⟨.host, 512 * line, 512 * line + 512⟩
      let copies (t : State) : List L2Line := (t.slice (homeOf ⟨.host, 512 * line⟩)).filter fun l => decide (l.line = ⟨.host, 512 * line⟩)
      data.length ≤ 512 → s.firmware.held = false → s.hostMay r = true → ∃ t u, exec (.hostCxlCacheSnoop line true data) s = .next t
      ∧ wroteOnly s t .host (512 * line) data.length (fun k => data.getD k 0) ∧ (∀ e ∈ t.dir, e.unit.meets r = false) ∧ copies t = []
      ∧ exec (.hostCxlCacheSnoop line false data) s = .next u ∧ u.mems = s.mems
      ∧ (∀ e ∈ u.dir, e.unit.meets r = true → ∀ h ∈ e.holders, h.2 = .s) ∧ ∀ l ∈ copies u, l.dirty = 0 ∧ l.perm ≤ 1)
  ∧ (∀ img : FwImage, let good := sha512 img.key = Config.fusedHash ∧ edVerifies img.key (sha512 img.body) img.signature = true
        ∧ Config.rollback ≤ img.version
      let runs (i : Instr) : Prop := (good → exec i s = .next { s with firmware := { s.firmware with running := some img.version, key := img.key, held := false } })
        ∧ (¬good → ∃ t, exec i s = .next t ∧ t.firmware.held = true ∧ t.firmware.running = s.firmware.running ∧ t.vfs = [] ∧ t.teams = [])
      runs (.firmwareImage img) ∧ (s.firmware.running = none → runs (.boot img)))
  ∧ (∀ p, s.firmware.held = false → s.firmware.running.isSome = true → s.partOk p = true → ∃ t q, exec (.partitionCreate p) s = .next t
      ∧ t.parts.look p.num = some q ∧ q.clusters = p.clusters ∧ q.hbmUnits = p.hbmUnits ∧ q.key = s.keys + 1 ∧ q.launches = 0
      ∧ (∀ a, a / 2 ^ 30 ∈ p.hbmUnits → t.byte .hbm a = Config.unpredictable (s.keys + 1) a)
      ∧ (∀ a, a / 2 ^ 30 ∉ p.hbmUnits → t.byte .hbm a = s.byte .hbm a)
      ∧ (∀ k ∈ p.clusters, ∀ j, j < 4 → (t.core (4 * k + j)).events = [] ∧ (t.core (4 * k + j)).icache = []
        ∧ (t.core (4 * k + j)).handles = []) ∧ ∀ v ∈ p.vfs, ∃ g, t.vfs.look v = some g ∧ g.part = p.num)
  ∧ (∀ part p, s.parts.look part = some p → (∀ x ∈ s.pipes, x.2.part ≠ part) → ∃ t, exec (.partitionDestroy part) s = .next t
      ∧ t.parts.look part = none ∧ (∀ a, a / 2 ^ 30 ∈ p.hbmUnits → t.byte .hbm a = 0) ∧ (∀ c ∈ t.contexts, ctxPart c.1 ≠ part) ∧ ∀ g ∈ t.vfs, g.2.part ≠ part)
end

