-- ==== Sys2Proof/Laws/Mem.lean ====
section
/-!
SUPPORT. The laws of memories: a read after a write, the canonical form of a memory, and that every operation on memories
keeps it.
-/

namespace Sys2Proof.Machine

/-! ### One memory -/

theorem Memory.read_insert (m : Memory) (a b : Nat) (v : Byte) (h : ∀ c ∈ m, c.1 ≠ a) :
    (Memory.insert m a v).read b = if b = a then v else m.read b := by
  induction m with
  | nil => simp [Memory.insert, Memory.read, eq_comm]
  | cons c m ih =>
    obtain ⟨i, w⟩ := c
    have hi : i ≠ a := h _ List.mem_cons_self
    have ih := ih fun c hc => h c (by simp [hc])
    simp only [Memory.insert]
    split
    · simp only [Memory.read, eq_comm (a := a)]
    · simp only [Memory.read, ih]
      split
      · subst_vars; simp [hi]
      · rfl

theorem Memory.read_filter (m : Memory) (a b : Nat) : Memory.read (m.filter fun c => c.1 != a) b = if b = a then Memory.rest else m.read b := by
  induction m with
  | nil => simp [Memory.read]
  | cons c m ih =>
    obtain ⟨i, w⟩ := c
    by_cases hi : i = a
    · subst hi
      simp only [List.filter_cons, bne_self_eq_false, Bool.false_eq_true, if_false, ih, Memory.read, eq_comm (a := i)]
      split <;> simp_all
    · simp only [List.filter_cons, bne_iff_ne, ne_eq, hi, not_false_eq_true, if_true, Memory.read, ih]
      by_cases hb : i = b
      · subst hb; simp [hi]
      · simp [hb]

/-- A read after a write gives the written byte at the written address, and elsewhere what it gave before. -/
theorem Memory.read_write (m : Memory) (a b : Nat) (v : Byte) : (m.write a v).read b = if b = a then v else m.read b := by
  unfold Memory.write
  split
  · next h => rw [Memory.read_filter, h]
  · rw [Memory.read_insert _ _ _ _ (by simp), Memory.read_filter]; split <;> rfl

@[simp] theorem Memory.read_write_self (m : Memory) (a : Nat) (v : Byte) : (m.write a v).read a = v := by simp [Memory.read_write]

theorem Memory.read_write_ne (m : Memory) {a b : Nat} (v : Byte) (h : b ≠ a) : (m.write a v).read b = m.read b := by
  simp [Memory.read_write, h]

/-- The canonical form in terms of lists: the addresses rise, and no cell holds what an unlisted address reads as. -/
theorem Memory.wfFrom_iff (lo : Option Nat) (m : Memory) : Memory.wfFrom lo m = true ↔
    (∀ l ∈ lo, ∀ c ∈ m, l < c.1) ∧ (∀ c ∈ m, c.2 ≠ Memory.rest) ∧ m.Pairwise fun c d => c.1 < d.1 := by
  induction m generalizing lo with
  | nil => simp [Memory.wfFrom]
  | cons c m ih =>
    obtain ⟨a, v⟩ := c
    simp only [Memory.wfFrom, Bool.and_eq_true, decide_eq_true_eq, ih, List.pairwise_cons, List.mem_cons, forall_eq_or_imp, Option.mem_def,
      Option.some.injEq, forall_eq']
    cases lo with
    | none => simp only [reduceCtorEq, false_implies, implies_true, true_and]; tauto
    | some l =>
      simp only [decide_eq_true_eq, Option.some.injEq, forall_eq']
      constructor
      · rintro ⟨⟨h1, h2⟩, h3, h4, h5⟩; exact ⟨⟨h1, fun c hc => h1.trans (h3 c hc)⟩, ⟨h2, h4⟩, h3, h5⟩
      · rintro ⟨⟨h1, -⟩, ⟨h2, h4⟩, h3, h5⟩; exact ⟨⟨h1, h2⟩, h3, h4, h5⟩

theorem Memory.wf_iff (m : Memory) : m.wf = true ↔ (∀ c ∈ m, c.2 ≠ Memory.rest) ∧ m.Pairwise fun c d => c.1 < d.1 := by
  simp [Memory.wf, Memory.wfFrom_iff]

theorem Memory.mem_insert {m : Memory} {a : Nat} {v : Byte} {c : Host.Cell} (h : c ∈ Memory.insert m a v) : c = (a, v) ∨ c ∈ m := by
  induction m with
  | nil => simpa [Memory.insert] using h
  | cons d m ih =>
    simp only [Memory.insert] at h
    split at h <;> simp only [List.mem_cons, Prod.mk.eta] at h ⊢ <;> tauto

theorem Memory.wf_insert {m : Memory} {a : Nat} {v : Byte} (hm : m.wf = true) (ha : ∀ c ∈ m, c.1 ≠ a) (hv : v ≠ Memory.rest) :
    (Memory.insert m a v).wf = true := by
  rw [Memory.wf_iff] at hm ⊢
  refine ⟨fun c hc => ?_, ?_⟩
  · rcases Memory.mem_insert hc with rfl | h
    · exact hv
    · exact hm.1 c h
  · have hp := hm.2
    clear hm
    induction m with
    | nil => simp [Memory.insert]
    | cons d m ih =>
      obtain ⟨b, w⟩ := d
      obtain ⟨h1, h2⟩ := List.pairwise_cons.1 hp
      simp only [Memory.insert]
      split
      · next hab => exact List.pairwise_cons.2 ⟨fun c hc => by
          rcases List.mem_cons.1 hc with rfl | hc
          · exact hab
          · exact Nat.lt_trans hab (h1 c hc), hp⟩
      · next hab =>
        have hba : b ≠ a := ha _ List.mem_cons_self
        refine List.pairwise_cons.2 ⟨fun c hc => ?_, ih (fun c hc => ha c (by simp [hc])) h2⟩
        rcases Memory.mem_insert hc with rfl | hc
        · simp only at hab ⊢; omega
        · exact h1 c hc

/-- A write keeps the canonical form. -/
theorem Memory.wf_write {m : Memory} (a : Nat) (v : Byte) (hm : m.wf = true) : (m.write a v).wf = true := by
  have hf : Memory.wf (m.filter fun c => c.1 != a) = true := by
    rw [Memory.wf_iff] at hm ⊢
    exact ⟨fun c hc => hm.1 c (List.mem_of_mem_filter hc), hm.2.filter _⟩
  unfold Memory.write
  split
  · exact hf
  · next hv => exact Memory.wf_insert hf (by simp) hv

@[simp] theorem Memory.wf_nil : Memory.wf [] = true := rfl

/-! ### The memories of the package -/

theorem Mems.look_put (l : List (MemId × Memory)) (k n : MemId) (m : Memory) : Mems.look (Mems.put l k m) n = if n = k then m else Mems.look l n := by
  induction l with
  | nil => simp [Mems.put, Mems.look, eq_comm]
  | cons e l ih =>
    obtain ⟨j, w⟩ := e
    simp only [Mems.put]
    split
    · subst_vars; simp only [Mems.look]; by_cases hn : n = j
      · simp [hn]
      · simp [hn, Ne.symm hn]
    · next h =>
      simp only [Mems.look, ih]
      split
      · subst_vars; simp [h]
      · rfl

theorem Mems.mem_put {l : List (MemId × Memory)} {k : MemId} {m : Memory} {e : MemId × Memory} (h : e ∈ Mems.put l k m) : e = (k, m) ∨ e ∈ l := by
  induction l with
  | nil => simpa [Mems.put] using h
  | cons d l ih =>
    simp only [Mems.put] at h
    split at h <;> simp only [List.mem_cons, Prod.mk.eta] at h ⊢ <;> tauto

theorem Mems.look_wf {l : List (MemId × Memory)} (k : MemId) (h : ∀ e ∈ l, Memory.wf e.2 = true) : (Mems.look l k).wf = true := by
  induction l with
  | nil => rfl
  | cons e l ih =>
    obtain ⟨j, m⟩ := e
    simp only [Mems.look]
    split
    · exact h _ List.mem_cons_self
    · exact ih fun e he => h e (by simp [he])

theorem State.mem_setMem (s : State) (k n : MemId) (m : Memory) : (s.setMem k m).mem n = if n = k then m else s.mem n :=
  Mems.look_put s.mems k n m

@[simp] theorem State.mask_setMem (s : State) (k n : MemId) (m : Memory) (a : Nat) : (s.setMem k m).mask n a = s.mask n a := by cases n <;> rfl

/-- A byte written is the byte read; every other byte of every memory reads as before. -/
theorem State.byte_setByte (s : State) (k n : MemId) (a b : Nat) (v : Byte) :
    (s.setByte k a v).byte n b = if n = k ∧ b = a then v else s.byte n b := by
  simp only [State.byte, State.setByte, State.mem_setMem]
  by_cases h : n = k
  · subst h
    by_cases h' : b = a <;> simp [Memory.read_write, h']
  · simp [h]

/-- A store of bytes leaves every byte outside them as it was. -/
theorem State.byte_setBytes_outside (l : List Byte) : ∀ (s : State) (t : Target) (n : MemId) (b : Nat),
    ¬(n = t.mem ∧ t.addr ≤ b ∧ b < t.addr + l.length) → (s.setBytes t l).byte n b = s.byte n b := by
  induction l with
  | nil => intros; rfl
  | cons v l ih =>
    intro s t n b h
    simp only [State.setBytes]
    rw [ih _ _ n b, State.byte_setByte, if_neg]
    · rintro ⟨rfl, rfl⟩
      exact h ⟨rfl, by omega, by simp⟩
    · rintro ⟨h1, h2, h3⟩
      exact h ⟨h1, by simp only at h2; omega, by simp only [List.length_cons] at h3 ⊢; omega⟩

/-- Bytes stored are the bytes read. -/
theorem State.bytes_setBytes (l : List Byte) : ∀ (s : State) (t : Target), (s.setBytes t l).bytes t l.length = l := by
  induction l with
  | nil => intros; rfl
  | cons v l ih =>
    intro s t
    simp only [State.setBytes, List.length_cons, State.bytes]
    rw [State.byte_setBytes_outside l _ _ _ _ (by simp only; omega), State.byte_setByte, if_pos ⟨rfl, rfl⟩, ih]

/-! ### The canonical form is kept -/

theorem State.MemForm.mem {s : State} (h : s.MemForm) (k : MemId) : (s.mem k).wf = true := Mems.look_wf k h

/-- A state with the same memories has the same form. -/
theorem State.MemForm.of_mems {s t : State} (h : s.MemForm) (e : t.mems = s.mems) : t.MemForm := by
  unfold State.MemForm; rwa [e]

theorem State.MemForm.setMem {s : State} (h : s.MemForm) (k : MemId) {m : Memory} (hm : m.wf = true) : (s.setMem k m).MemForm := by
  intro e he
  rcases Mems.mem_put he with rfl | he
  · exact hm
  · exact h e he

theorem State.MemForm.setByte {s : State} (h : s.MemForm) (k : MemId) (a : Nat) (v : Byte) : (s.setByte k a v).MemForm :=
  h.setMem k (Memory.wf_write a _ (h.mem k))

theorem State.MemForm.setBytes {s : State} (h : s.MemForm) (t : Target) (l : List Byte) : (s.setBytes t l).MemForm := by
  induction l generalizing s t with
  | nil => exact h
  | cons b l ih => exact ih (h.setByte _ _ _) _

theorem State.MemForm.store {s : State} (h : s.MemForm) (t : Target) (n v : Nat) : (s.store t n v).MemForm := h.setBytes t _

theorem State.MemForm.clearMem {s : State} (h : s.MemForm) (k : MemId) : (s.clearMem k).MemForm :=
  fun e he => h e (List.mem_of_mem_filter he)

theorem State.MemForm.moveMem {s : State} (h : s.MemForm) (a b : MemId) : (s.moveMem a b).MemForm := (h.setMem b (h.mem a)).clearMem a

theorem State.MemForm.putAt {s : State} (h : s.MemForm) (l : List (Option Target)) (bs : List Byte) : (s.putAt l bs).MemForm := by
  induction l generalizing s bs with
  | nil => exact h
  | cons t l ih =>
    cases t with
    | none => cases bs with
      | nil => exact h
      | cons b bs => exact ih h bs
    | some t => cases bs with
      | nil => exact h
      | cons b bs => exact ih (h.setByte _ _ _) bs

theorem State.MemForm.writeBlocks {s : State} (h : s.MemForm) (bs : List Target) (va : Nat) (l : List Byte) (i : Nat) :
    (s.writeBlocks bs va i l).MemForm := by
  induction l generalizing s i with
  | nil => exact h
  | cons b l ih => exact ih (h.setByte _ _ _) _

/-- The memories at reset have the form. -/
theorem State.reset_mems_form : State.reset.MemForm := fun _ h => nomatch h

end Sys2Proof.Machine
end

