-- ==== Sys2Proof/Laws/State.lean ====
section
/-!
SUPPORT. One lemma per field per update of the state: which fields an update leaves as they were; then the laws of tables, threads and
registers under these updates.
-/

namespace Sys2Proof.Machine

/-! ### `setCore` -/

@[simp] theorem State.setCore_mems (s : State) (n : Nat) (c : Core) : (s.setCore n c).mems = s.mems := rfl
@[simp] theorem State.setCore_teams (s : State) (n : Nat) (c : Core) : (s.setCore n c).teams = s.teams := rfl
@[simp] theorem State.setCore_pipes (s : State) (n : Nat) (c : Core) : (s.setCore n c).pipes = s.pipes := rfl
@[simp] theorem State.setCore_contexts (s : State) (n : Nat) (c : Core) : (s.setCore n c).contexts = s.contexts := rfl
@[simp] theorem State.setCore_parts (s : State) (n : Nat) (c : Core) : (s.setCore n c).parts = s.parts := rfl
@[simp] theorem State.setCore_dies (s : State) (n : Nat) (c : Core) : (s.setCore n c).dies = s.dies := rfl
@[simp] theorem State.setCore_hbm (s : State) (n : Nat) (c : Core) : (s.setCore n c).hbm = s.hbm := rfl
@[simp] theorem State.setCore_vfs (s : State) (n : Nat) (c : Core) : (s.setCore n c).vfs = s.vfs := rfl
@[simp] theorem State.setCore_packets (s : State) (n : Nat) (c : Core) : (s.setCore n c).packets = s.packets := rfl
@[simp] theorem State.setCore_ports (s : State) (n : Nat) (c : Core) : (s.setCore n c).ports = s.ports := rfl
@[simp] theorem State.setCore_log (s : State) (n : Nat) (c : Core) : (s.setCore n c).log = s.log := rfl
@[simp] theorem State.setCore_irqs (s : State) (n : Nat) (c : Core) : (s.setCore n c).irqs = s.irqs := rfl
@[simp] theorem State.setCore_sent (s : State) (n : Nat) (c : Core) : (s.setCore n c).sent = s.sent := rfl
@[simp] theorem State.setCore_hostData (s : State) (n : Nat) (c : Core) : (s.setCore n c).hostData = s.hostData := rfl
@[simp] theorem State.setCore_hbmKeys (s : State) (n : Nat) (c : Core) : (s.setCore n c).hbmKeys = s.hbmKeys := rfl
@[simp] theorem State.setCore_wsKeys (s : State) (n : Nat) (c : Core) : (s.setCore n c).wsKeys = s.wsKeys := rfl
@[simp] theorem State.setCore_dir (s : State) (n : Nat) (c : Core) : (s.setCore n c).dir = s.dir := rfl
@[simp] theorem State.setCore_l2 (s : State) (n : Nat) (c : Core) : (s.setCore n c).l2 = s.l2 := rfl
@[simp] theorem State.setCore_marks (s : State) (n : Nat) (c : Core) : (s.setCore n c).marks = s.marks := rfl
@[simp] theorem State.setCore_poison (s : State) (n : Nat) (c : Core) : (s.setCore n c).poison = s.poison := rfl
@[simp] theorem State.setCore_shadow (s : State) (n : Nat) (c : Core) : (s.setCore n c).shadow = s.shadow := rfl
@[simp] theorem State.setCore_corrected (s : State) (n : Nat) (c : Core) : (s.setCore n c).corrected = s.corrected := rfl
@[simp] theorem State.setCore_firmware (s : State) (n : Nat) (c : Core) : (s.setCore n c).firmware = s.firmware := rfl
@[simp] theorem State.setCore_loaded (s : State) (n : Nat) (c : Core) : (s.setCore n c).loaded = s.loaded := rfl
@[simp] theorem State.setCore_keys (s : State) (n : Nat) (c : Core) : (s.setCore n c).keys = s.keys := rfl
@[simp] theorem State.setCore_nextId (s : State) (n : Nat) (c : Core) : (s.setCore n c).nextId = s.nextId := rfl
@[simp] theorem State.setCore_cur (s : State) (n : Nat) (c : Core) : (s.setCore n c).cur = s.cur := rfl
@[simp] theorem State.setCore_agenda (s : State) (n : Nat) (c : Core) : (s.setCore n c).agenda = s.agenda := rfl
@[simp] theorem State.setCore_tick (s : State) (n : Nat) (c : Core) : (s.setCore n c).tick = s.tick := rfl

/-! ### `updCore` -/

@[simp] theorem State.updCore_mems (s : State) (n : Nat) (f : Core → Core) : (s.updCore n f).mems = s.mems := rfl
@[simp] theorem State.updCore_teams (s : State) (n : Nat) (f : Core → Core) : (s.updCore n f).teams = s.teams := rfl
@[simp] theorem State.updCore_pipes (s : State) (n : Nat) (f : Core → Core) : (s.updCore n f).pipes = s.pipes := rfl
@[simp] theorem State.updCore_contexts (s : State) (n : Nat) (f : Core → Core) : (s.updCore n f).contexts = s.contexts := rfl
@[simp] theorem State.updCore_parts (s : State) (n : Nat) (f : Core → Core) : (s.updCore n f).parts = s.parts := rfl
@[simp] theorem State.updCore_dies (s : State) (n : Nat) (f : Core → Core) : (s.updCore n f).dies = s.dies := rfl
@[simp] theorem State.updCore_hbm (s : State) (n : Nat) (f : Core → Core) : (s.updCore n f).hbm = s.hbm := rfl
@[simp] theorem State.updCore_vfs (s : State) (n : Nat) (f : Core → Core) : (s.updCore n f).vfs = s.vfs := rfl
@[simp] theorem State.updCore_packets (s : State) (n : Nat) (f : Core → Core) : (s.updCore n f).packets = s.packets := rfl
@[simp] theorem State.updCore_ports (s : State) (n : Nat) (f : Core → Core) : (s.updCore n f).ports = s.ports := rfl
@[simp] theorem State.updCore_log (s : State) (n : Nat) (f : Core → Core) : (s.updCore n f).log = s.log := rfl
@[simp] theorem State.updCore_irqs (s : State) (n : Nat) (f : Core → Core) : (s.updCore n f).irqs = s.irqs := rfl
@[simp] theorem State.updCore_sent (s : State) (n : Nat) (f : Core → Core) : (s.updCore n f).sent = s.sent := rfl
@[simp] theorem State.updCore_hostData (s : State) (n : Nat) (f : Core → Core) : (s.updCore n f).hostData = s.hostData := rfl
@[simp] theorem State.updCore_hbmKeys (s : State) (n : Nat) (f : Core → Core) : (s.updCore n f).hbmKeys = s.hbmKeys := rfl
@[simp] theorem State.updCore_wsKeys (s : State) (n : Nat) (f : Core → Core) : (s.updCore n f).wsKeys = s.wsKeys := rfl
@[simp] theorem State.updCore_dir (s : State) (n : Nat) (f : Core → Core) : (s.updCore n f).dir = s.dir := rfl
@[simp] theorem State.updCore_l2 (s : State) (n : Nat) (f : Core → Core) : (s.updCore n f).l2 = s.l2 := rfl
@[simp] theorem State.updCore_marks (s : State) (n : Nat) (f : Core → Core) : (s.updCore n f).marks = s.marks := rfl
@[simp] theorem State.updCore_poison (s : State) (n : Nat) (f : Core → Core) : (s.updCore n f).poison = s.poison := rfl
@[simp] theorem State.updCore_shadow (s : State) (n : Nat) (f : Core → Core) : (s.updCore n f).shadow = s.shadow := rfl
@[simp] theorem State.updCore_corrected (s : State) (n : Nat) (f : Core → Core) : (s.updCore n f).corrected = s.corrected := rfl
@[simp] theorem State.updCore_firmware (s : State) (n : Nat) (f : Core → Core) : (s.updCore n f).firmware = s.firmware := rfl
@[simp] theorem State.updCore_loaded (s : State) (n : Nat) (f : Core → Core) : (s.updCore n f).loaded = s.loaded := rfl
@[simp] theorem State.updCore_keys (s : State) (n : Nat) (f : Core → Core) : (s.updCore n f).keys = s.keys := rfl
@[simp] theorem State.updCore_nextId (s : State) (n : Nat) (f : Core → Core) : (s.updCore n f).nextId = s.nextId := rfl
@[simp] theorem State.updCore_cur (s : State) (n : Nat) (f : Core → Core) : (s.updCore n f).cur = s.cur := rfl
@[simp] theorem State.updCore_agenda (s : State) (n : Nat) (f : Core → Core) : (s.updCore n f).agenda = s.agenda := rfl
@[simp] theorem State.updCore_tick (s : State) (n : Nat) (f : Core → Core) : (s.updCore n f).tick = s.tick := rfl

/-! ### `setDie` -/

@[simp] theorem State.setDie_mems (s : State) (n : Nat) (d : Die) : (s.setDie n d).mems = s.mems := rfl
@[simp] theorem State.setDie_teams (s : State) (n : Nat) (d : Die) : (s.setDie n d).teams = s.teams := rfl
@[simp] theorem State.setDie_pipes (s : State) (n : Nat) (d : Die) : (s.setDie n d).pipes = s.pipes := rfl
@[simp] theorem State.setDie_contexts (s : State) (n : Nat) (d : Die) : (s.setDie n d).contexts = s.contexts := rfl
@[simp] theorem State.setDie_parts (s : State) (n : Nat) (d : Die) : (s.setDie n d).parts = s.parts := rfl
@[simp] theorem State.setDie_cores (s : State) (n : Nat) (d : Die) : (s.setDie n d).cores = s.cores := rfl
@[simp] theorem State.setDie_hbm (s : State) (n : Nat) (d : Die) : (s.setDie n d).hbm = s.hbm := rfl
@[simp] theorem State.setDie_vfs (s : State) (n : Nat) (d : Die) : (s.setDie n d).vfs = s.vfs := rfl
@[simp] theorem State.setDie_packets (s : State) (n : Nat) (d : Die) : (s.setDie n d).packets = s.packets := rfl
@[simp] theorem State.setDie_ports (s : State) (n : Nat) (d : Die) : (s.setDie n d).ports = s.ports := rfl
@[simp] theorem State.setDie_log (s : State) (n : Nat) (d : Die) : (s.setDie n d).log = s.log := rfl
@[simp] theorem State.setDie_irqs (s : State) (n : Nat) (d : Die) : (s.setDie n d).irqs = s.irqs := rfl
@[simp] theorem State.setDie_sent (s : State) (n : Nat) (d : Die) : (s.setDie n d).sent = s.sent := rfl
@[simp] theorem State.setDie_hostData (s : State) (n : Nat) (d : Die) : (s.setDie n d).hostData = s.hostData := rfl
@[simp] theorem State.setDie_hbmKeys (s : State) (n : Nat) (d : Die) : (s.setDie n d).hbmKeys = s.hbmKeys := rfl
@[simp] theorem State.setDie_wsKeys (s : State) (n : Nat) (d : Die) : (s.setDie n d).wsKeys = s.wsKeys := rfl
@[simp] theorem State.setDie_dir (s : State) (n : Nat) (d : Die) : (s.setDie n d).dir = s.dir := rfl
@[simp] theorem State.setDie_l2 (s : State) (n : Nat) (d : Die) : (s.setDie n d).l2 = s.l2 := rfl
@[simp] theorem State.setDie_marks (s : State) (n : Nat) (d : Die) : (s.setDie n d).marks = s.marks := rfl
@[simp] theorem State.setDie_poison (s : State) (n : Nat) (d : Die) : (s.setDie n d).poison = s.poison := rfl
@[simp] theorem State.setDie_shadow (s : State) (n : Nat) (d : Die) : (s.setDie n d).shadow = s.shadow := rfl
@[simp] theorem State.setDie_corrected (s : State) (n : Nat) (d : Die) : (s.setDie n d).corrected = s.corrected := rfl
@[simp] theorem State.setDie_firmware (s : State) (n : Nat) (d : Die) : (s.setDie n d).firmware = s.firmware := rfl
@[simp] theorem State.setDie_loaded (s : State) (n : Nat) (d : Die) : (s.setDie n d).loaded = s.loaded := rfl
@[simp] theorem State.setDie_keys (s : State) (n : Nat) (d : Die) : (s.setDie n d).keys = s.keys := rfl
@[simp] theorem State.setDie_nextId (s : State) (n : Nat) (d : Die) : (s.setDie n d).nextId = s.nextId := rfl
@[simp] theorem State.setDie_cur (s : State) (n : Nat) (d : Die) : (s.setDie n d).cur = s.cur := rfl
@[simp] theorem State.setDie_agenda (s : State) (n : Nat) (d : Die) : (s.setDie n d).agenda = s.agenda := rfl
@[simp] theorem State.setDie_tick (s : State) (n : Nat) (d : Die) : (s.setDie n d).tick = s.tick := rfl

/-! ### `setStack` -/

@[simp] theorem State.setStack_mems (s : State) (n : Nat) (k : Stack) : (s.setStack n k).mems = s.mems := rfl
@[simp] theorem State.setStack_teams (s : State) (n : Nat) (k : Stack) : (s.setStack n k).teams = s.teams := rfl
@[simp] theorem State.setStack_pipes (s : State) (n : Nat) (k : Stack) : (s.setStack n k).pipes = s.pipes := rfl
@[simp] theorem State.setStack_contexts (s : State) (n : Nat) (k : Stack) : (s.setStack n k).contexts = s.contexts := rfl
@[simp] theorem State.setStack_parts (s : State) (n : Nat) (k : Stack) : (s.setStack n k).parts = s.parts := rfl
@[simp] theorem State.setStack_cores (s : State) (n : Nat) (k : Stack) : (s.setStack n k).cores = s.cores := rfl
@[simp] theorem State.setStack_dies (s : State) (n : Nat) (k : Stack) : (s.setStack n k).dies = s.dies := rfl
@[simp] theorem State.setStack_vfs (s : State) (n : Nat) (k : Stack) : (s.setStack n k).vfs = s.vfs := rfl
@[simp] theorem State.setStack_packets (s : State) (n : Nat) (k : Stack) : (s.setStack n k).packets = s.packets := rfl
@[simp] theorem State.setStack_ports (s : State) (n : Nat) (k : Stack) : (s.setStack n k).ports = s.ports := rfl
@[simp] theorem State.setStack_log (s : State) (n : Nat) (k : Stack) : (s.setStack n k).log = s.log := rfl
@[simp] theorem State.setStack_irqs (s : State) (n : Nat) (k : Stack) : (s.setStack n k).irqs = s.irqs := rfl
@[simp] theorem State.setStack_sent (s : State) (n : Nat) (k : Stack) : (s.setStack n k).sent = s.sent := rfl
@[simp] theorem State.setStack_hostData (s : State) (n : Nat) (k : Stack) : (s.setStack n k).hostData = s.hostData := rfl
@[simp] theorem State.setStack_hbmKeys (s : State) (n : Nat) (k : Stack) : (s.setStack n k).hbmKeys = s.hbmKeys := rfl
@[simp] theorem State.setStack_wsKeys (s : State) (n : Nat) (k : Stack) : (s.setStack n k).wsKeys = s.wsKeys := rfl
@[simp] theorem State.setStack_dir (s : State) (n : Nat) (k : Stack) : (s.setStack n k).dir = s.dir := rfl
@[simp] theorem State.setStack_l2 (s : State) (n : Nat) (k : Stack) : (s.setStack n k).l2 = s.l2 := rfl
@[simp] theorem State.setStack_marks (s : State) (n : Nat) (k : Stack) : (s.setStack n k).marks = s.marks := rfl
@[simp] theorem State.setStack_poison (s : State) (n : Nat) (k : Stack) : (s.setStack n k).poison = s.poison := rfl
@[simp] theorem State.setStack_shadow (s : State) (n : Nat) (k : Stack) : (s.setStack n k).shadow = s.shadow := rfl
@[simp] theorem State.setStack_corrected (s : State) (n : Nat) (k : Stack) : (s.setStack n k).corrected = s.corrected := rfl
@[simp] theorem State.setStack_firmware (s : State) (n : Nat) (k : Stack) : (s.setStack n k).firmware = s.firmware := rfl
@[simp] theorem State.setStack_loaded (s : State) (n : Nat) (k : Stack) : (s.setStack n k).loaded = s.loaded := rfl
@[simp] theorem State.setStack_keys (s : State) (n : Nat) (k : Stack) : (s.setStack n k).keys = s.keys := rfl
@[simp] theorem State.setStack_nextId (s : State) (n : Nat) (k : Stack) : (s.setStack n k).nextId = s.nextId := rfl
@[simp] theorem State.setStack_cur (s : State) (n : Nat) (k : Stack) : (s.setStack n k).cur = s.cur := rfl
@[simp] theorem State.setStack_agenda (s : State) (n : Nat) (k : Stack) : (s.setStack n k).agenda = s.agenda := rfl
@[simp] theorem State.setStack_tick (s : State) (n : Nat) (k : Stack) : (s.setStack n k).tick = s.tick := rfl

/-! ### `setContext` -/

@[simp] theorem State.setContext_mems (s : State) (n : Nat) (c : Context) : (s.setContext n c).mems = s.mems := rfl
@[simp] theorem State.setContext_teams (s : State) (n : Nat) (c : Context) : (s.setContext n c).teams = s.teams := rfl
@[simp] theorem State.setContext_pipes (s : State) (n : Nat) (c : Context) : (s.setContext n c).pipes = s.pipes := rfl
@[simp] theorem State.setContext_parts (s : State) (n : Nat) (c : Context) : (s.setContext n c).parts = s.parts := rfl
@[simp] theorem State.setContext_cores (s : State) (n : Nat) (c : Context) : (s.setContext n c).cores = s.cores := rfl
@[simp] theorem State.setContext_dies (s : State) (n : Nat) (c : Context) : (s.setContext n c).dies = s.dies := rfl
@[simp] theorem State.setContext_hbm (s : State) (n : Nat) (c : Context) : (s.setContext n c).hbm = s.hbm := rfl
@[simp] theorem State.setContext_vfs (s : State) (n : Nat) (c : Context) : (s.setContext n c).vfs = s.vfs := rfl
@[simp] theorem State.setContext_packets (s : State) (n : Nat) (c : Context) : (s.setContext n c).packets = s.packets := rfl
@[simp] theorem State.setContext_ports (s : State) (n : Nat) (c : Context) : (s.setContext n c).ports = s.ports := rfl
@[simp] theorem State.setContext_log (s : State) (n : Nat) (c : Context) : (s.setContext n c).log = s.log := rfl
@[simp] theorem State.setContext_irqs (s : State) (n : Nat) (c : Context) : (s.setContext n c).irqs = s.irqs := rfl
@[simp] theorem State.setContext_sent (s : State) (n : Nat) (c : Context) : (s.setContext n c).sent = s.sent := rfl
@[simp] theorem State.setContext_hostData (s : State) (n : Nat) (c : Context) : (s.setContext n c).hostData = s.hostData := rfl
@[simp] theorem State.setContext_hbmKeys (s : State) (n : Nat) (c : Context) : (s.setContext n c).hbmKeys = s.hbmKeys := rfl
@[simp] theorem State.setContext_wsKeys (s : State) (n : Nat) (c : Context) : (s.setContext n c).wsKeys = s.wsKeys := rfl
@[simp] theorem State.setContext_dir (s : State) (n : Nat) (c : Context) : (s.setContext n c).dir = s.dir := rfl
@[simp] theorem State.setContext_l2 (s : State) (n : Nat) (c : Context) : (s.setContext n c).l2 = s.l2 := rfl
@[simp] theorem State.setContext_marks (s : State) (n : Nat) (c : Context) : (s.setContext n c).marks = s.marks := rfl
@[simp] theorem State.setContext_poison (s : State) (n : Nat) (c : Context) : (s.setContext n c).poison = s.poison := rfl
@[simp] theorem State.setContext_shadow (s : State) (n : Nat) (c : Context) : (s.setContext n c).shadow = s.shadow := rfl
@[simp] theorem State.setContext_corrected (s : State) (n : Nat) (c : Context) : (s.setContext n c).corrected = s.corrected := rfl
@[simp] theorem State.setContext_firmware (s : State) (n : Nat) (c : Context) : (s.setContext n c).firmware = s.firmware := rfl
@[simp] theorem State.setContext_loaded (s : State) (n : Nat) (c : Context) : (s.setContext n c).loaded = s.loaded := rfl
@[simp] theorem State.setContext_keys (s : State) (n : Nat) (c : Context) : (s.setContext n c).keys = s.keys := rfl
@[simp] theorem State.setContext_nextId (s : State) (n : Nat) (c : Context) : (s.setContext n c).nextId = s.nextId := rfl
@[simp] theorem State.setContext_cur (s : State) (n : Nat) (c : Context) : (s.setContext n c).cur = s.cur := rfl
@[simp] theorem State.setContext_agenda (s : State) (n : Nat) (c : Context) : (s.setContext n c).agenda = s.agenda := rfl
@[simp] theorem State.setContext_tick (s : State) (n : Nat) (c : Context) : (s.setContext n c).tick = s.tick := rfl

/-! ### `setTeam` -/

@[simp] theorem State.setTeam_mems (s : State) (n : Nat) (tm : Team) : (s.setTeam n tm).mems = s.mems := rfl
@[simp] theorem State.setTeam_pipes (s : State) (n : Nat) (tm : Team) : (s.setTeam n tm).pipes = s.pipes := rfl
@[simp] theorem State.setTeam_contexts (s : State) (n : Nat) (tm : Team) : (s.setTeam n tm).contexts = s.contexts := rfl
@[simp] theorem State.setTeam_parts (s : State) (n : Nat) (tm : Team) : (s.setTeam n tm).parts = s.parts := rfl
@[simp] theorem State.setTeam_cores (s : State) (n : Nat) (tm : Team) : (s.setTeam n tm).cores = s.cores := rfl
@[simp] theorem State.setTeam_dies (s : State) (n : Nat) (tm : Team) : (s.setTeam n tm).dies = s.dies := rfl
@[simp] theorem State.setTeam_hbm (s : State) (n : Nat) (tm : Team) : (s.setTeam n tm).hbm = s.hbm := rfl
@[simp] theorem State.setTeam_vfs (s : State) (n : Nat) (tm : Team) : (s.setTeam n tm).vfs = s.vfs := rfl
@[simp] theorem State.setTeam_packets (s : State) (n : Nat) (tm : Team) : (s.setTeam n tm).packets = s.packets := rfl
@[simp] theorem State.setTeam_ports (s : State) (n : Nat) (tm : Team) : (s.setTeam n tm).ports = s.ports := rfl
@[simp] theorem State.setTeam_log (s : State) (n : Nat) (tm : Team) : (s.setTeam n tm).log = s.log := rfl
@[simp] theorem State.setTeam_irqs (s : State) (n : Nat) (tm : Team) : (s.setTeam n tm).irqs = s.irqs := rfl
@[simp] theorem State.setTeam_sent (s : State) (n : Nat) (tm : Team) : (s.setTeam n tm).sent = s.sent := rfl
@[simp] theorem State.setTeam_hostData (s : State) (n : Nat) (tm : Team) : (s.setTeam n tm).hostData = s.hostData := rfl
@[simp] theorem State.setTeam_hbmKeys (s : State) (n : Nat) (tm : Team) : (s.setTeam n tm).hbmKeys = s.hbmKeys := rfl
@[simp] theorem State.setTeam_wsKeys (s : State) (n : Nat) (tm : Team) : (s.setTeam n tm).wsKeys = s.wsKeys := rfl
@[simp] theorem State.setTeam_dir (s : State) (n : Nat) (tm : Team) : (s.setTeam n tm).dir = s.dir := rfl
@[simp] theorem State.setTeam_l2 (s : State) (n : Nat) (tm : Team) : (s.setTeam n tm).l2 = s.l2 := rfl
@[simp] theorem State.setTeam_marks (s : State) (n : Nat) (tm : Team) : (s.setTeam n tm).marks = s.marks := rfl
@[simp] theorem State.setTeam_poison (s : State) (n : Nat) (tm : Team) : (s.setTeam n tm).poison = s.poison := rfl
@[simp] theorem State.setTeam_shadow (s : State) (n : Nat) (tm : Team) : (s.setTeam n tm).shadow = s.shadow := rfl
@[simp] theorem State.setTeam_corrected (s : State) (n : Nat) (tm : Team) : (s.setTeam n tm).corrected = s.corrected := rfl
@[simp] theorem State.setTeam_firmware (s : State) (n : Nat) (tm : Team) : (s.setTeam n tm).firmware = s.firmware := rfl
@[simp] theorem State.setTeam_loaded (s : State) (n : Nat) (tm : Team) : (s.setTeam n tm).loaded = s.loaded := rfl
@[simp] theorem State.setTeam_keys (s : State) (n : Nat) (tm : Team) : (s.setTeam n tm).keys = s.keys := rfl
@[simp] theorem State.setTeam_nextId (s : State) (n : Nat) (tm : Team) : (s.setTeam n tm).nextId = s.nextId := rfl
@[simp] theorem State.setTeam_cur (s : State) (n : Nat) (tm : Team) : (s.setTeam n tm).cur = s.cur := rfl
@[simp] theorem State.setTeam_agenda (s : State) (n : Nat) (tm : Team) : (s.setTeam n tm).agenda = s.agenda := rfl
@[simp] theorem State.setTeam_tick (s : State) (n : Nat) (tm : Team) : (s.setTeam n tm).tick = s.tick := rfl

/-! ### `updStage` -/

@[simp] theorem State.updStage_mems (s : State) (p k : Nat) (f : Stage → Stage) : (s.updStage p k f).mems = s.mems := rfl
@[simp] theorem State.updStage_teams (s : State) (p k : Nat) (f : Stage → Stage) : (s.updStage p k f).teams = s.teams := rfl
@[simp] theorem State.updStage_contexts (s : State) (p k : Nat) (f : Stage → Stage) : (s.updStage p k f).contexts = s.contexts := rfl
@[simp] theorem State.updStage_parts (s : State) (p k : Nat) (f : Stage → Stage) : (s.updStage p k f).parts = s.parts := rfl
@[simp] theorem State.updStage_cores (s : State) (p k : Nat) (f : Stage → Stage) : (s.updStage p k f).cores = s.cores := rfl
@[simp] theorem State.updStage_dies (s : State) (p k : Nat) (f : Stage → Stage) : (s.updStage p k f).dies = s.dies := rfl
@[simp] theorem State.updStage_hbm (s : State) (p k : Nat) (f : Stage → Stage) : (s.updStage p k f).hbm = s.hbm := rfl
@[simp] theorem State.updStage_vfs (s : State) (p k : Nat) (f : Stage → Stage) : (s.updStage p k f).vfs = s.vfs := rfl
@[simp] theorem State.updStage_packets (s : State) (p k : Nat) (f : Stage → Stage) : (s.updStage p k f).packets = s.packets := rfl
@[simp] theorem State.updStage_ports (s : State) (p k : Nat) (f : Stage → Stage) : (s.updStage p k f).ports = s.ports := rfl
@[simp] theorem State.updStage_log (s : State) (p k : Nat) (f : Stage → Stage) : (s.updStage p k f).log = s.log := rfl
@[simp] theorem State.updStage_irqs (s : State) (p k : Nat) (f : Stage → Stage) : (s.updStage p k f).irqs = s.irqs := rfl
@[simp] theorem State.updStage_sent (s : State) (p k : Nat) (f : Stage → Stage) : (s.updStage p k f).sent = s.sent := rfl
@[simp] theorem State.updStage_hostData (s : State) (p k : Nat) (f : Stage → Stage) : (s.updStage p k f).hostData = s.hostData := rfl
@[simp] theorem State.updStage_hbmKeys (s : State) (p k : Nat) (f : Stage → Stage) : (s.updStage p k f).hbmKeys = s.hbmKeys := rfl
@[simp] theorem State.updStage_wsKeys (s : State) (p k : Nat) (f : Stage → Stage) : (s.updStage p k f).wsKeys = s.wsKeys := rfl
@[simp] theorem State.updStage_dir (s : State) (p k : Nat) (f : Stage → Stage) : (s.updStage p k f).dir = s.dir := rfl
@[simp] theorem State.updStage_l2 (s : State) (p k : Nat) (f : Stage → Stage) : (s.updStage p k f).l2 = s.l2 := rfl
@[simp] theorem State.updStage_marks (s : State) (p k : Nat) (f : Stage → Stage) : (s.updStage p k f).marks = s.marks := rfl
@[simp] theorem State.updStage_poison (s : State) (p k : Nat) (f : Stage → Stage) : (s.updStage p k f).poison = s.poison := rfl
@[simp] theorem State.updStage_shadow (s : State) (p k : Nat) (f : Stage → Stage) : (s.updStage p k f).shadow = s.shadow := rfl
@[simp] theorem State.updStage_corrected (s : State) (p k : Nat) (f : Stage → Stage) : (s.updStage p k f).corrected = s.corrected := rfl
@[simp] theorem State.updStage_firmware (s : State) (p k : Nat) (f : Stage → Stage) : (s.updStage p k f).firmware = s.firmware := rfl
@[simp] theorem State.updStage_loaded (s : State) (p k : Nat) (f : Stage → Stage) : (s.updStage p k f).loaded = s.loaded := rfl
@[simp] theorem State.updStage_keys (s : State) (p k : Nat) (f : Stage → Stage) : (s.updStage p k f).keys = s.keys := rfl
@[simp] theorem State.updStage_nextId (s : State) (p k : Nat) (f : Stage → Stage) : (s.updStage p k f).nextId = s.nextId := rfl
@[simp] theorem State.updStage_cur (s : State) (p k : Nat) (f : Stage → Stage) : (s.updStage p k f).cur = s.cur := rfl
@[simp] theorem State.updStage_agenda (s : State) (p k : Nat) (f : Stage → Stage) : (s.updStage p k f).agenda = s.agenda := rfl
@[simp] theorem State.updStage_tick (s : State) (p k : Nat) (f : Stage → Stage) : (s.updStage p k f).tick = s.tick := rfl

/-! ### `setMem` -/

@[simp] theorem State.setMem_teams (s : State) (id : MemId) (m : Memory) : (s.setMem id m).teams = s.teams := rfl
@[simp] theorem State.setMem_pipes (s : State) (id : MemId) (m : Memory) : (s.setMem id m).pipes = s.pipes := rfl
@[simp] theorem State.setMem_contexts (s : State) (id : MemId) (m : Memory) : (s.setMem id m).contexts = s.contexts := rfl
@[simp] theorem State.setMem_parts (s : State) (id : MemId) (m : Memory) : (s.setMem id m).parts = s.parts := rfl
@[simp] theorem State.setMem_cores (s : State) (id : MemId) (m : Memory) : (s.setMem id m).cores = s.cores := rfl
@[simp] theorem State.setMem_dies (s : State) (id : MemId) (m : Memory) : (s.setMem id m).dies = s.dies := rfl
@[simp] theorem State.setMem_hbm (s : State) (id : MemId) (m : Memory) : (s.setMem id m).hbm = s.hbm := rfl
@[simp] theorem State.setMem_vfs (s : State) (id : MemId) (m : Memory) : (s.setMem id m).vfs = s.vfs := rfl
@[simp] theorem State.setMem_packets (s : State) (id : MemId) (m : Memory) : (s.setMem id m).packets = s.packets := rfl
@[simp] theorem State.setMem_ports (s : State) (id : MemId) (m : Memory) : (s.setMem id m).ports = s.ports := rfl
@[simp] theorem State.setMem_log (s : State) (id : MemId) (m : Memory) : (s.setMem id m).log = s.log := rfl
@[simp] theorem State.setMem_irqs (s : State) (id : MemId) (m : Memory) : (s.setMem id m).irqs = s.irqs := rfl
@[simp] theorem State.setMem_sent (s : State) (id : MemId) (m : Memory) : (s.setMem id m).sent = s.sent := rfl
@[simp] theorem State.setMem_hostData (s : State) (id : MemId) (m : Memory) : (s.setMem id m).hostData = s.hostData := rfl
@[simp] theorem State.setMem_hbmKeys (s : State) (id : MemId) (m : Memory) : (s.setMem id m).hbmKeys = s.hbmKeys := rfl
@[simp] theorem State.setMem_wsKeys (s : State) (id : MemId) (m : Memory) : (s.setMem id m).wsKeys = s.wsKeys := rfl
@[simp] theorem State.setMem_dir (s : State) (id : MemId) (m : Memory) : (s.setMem id m).dir = s.dir := rfl
@[simp] theorem State.setMem_l2 (s : State) (id : MemId) (m : Memory) : (s.setMem id m).l2 = s.l2 := rfl
@[simp] theorem State.setMem_marks (s : State) (id : MemId) (m : Memory) : (s.setMem id m).marks = s.marks := rfl
@[simp] theorem State.setMem_poison (s : State) (id : MemId) (m : Memory) : (s.setMem id m).poison = s.poison := rfl
@[simp] theorem State.setMem_shadow (s : State) (id : MemId) (m : Memory) : (s.setMem id m).shadow = s.shadow := rfl
@[simp] theorem State.setMem_corrected (s : State) (id : MemId) (m : Memory) : (s.setMem id m).corrected = s.corrected := rfl
@[simp] theorem State.setMem_firmware (s : State) (id : MemId) (m : Memory) : (s.setMem id m).firmware = s.firmware := rfl
@[simp] theorem State.setMem_loaded (s : State) (id : MemId) (m : Memory) : (s.setMem id m).loaded = s.loaded := rfl
@[simp] theorem State.setMem_keys (s : State) (id : MemId) (m : Memory) : (s.setMem id m).keys = s.keys := rfl
@[simp] theorem State.setMem_nextId (s : State) (id : MemId) (m : Memory) : (s.setMem id m).nextId = s.nextId := rfl
@[simp] theorem State.setMem_cur (s : State) (id : MemId) (m : Memory) : (s.setMem id m).cur = s.cur := rfl
@[simp] theorem State.setMem_agenda (s : State) (id : MemId) (m : Memory) : (s.setMem id m).agenda = s.agenda := rfl
@[simp] theorem State.setMem_tick (s : State) (id : MemId) (m : Memory) : (s.setMem id m).tick = s.tick := rfl

/-! ### `setByte` -/

@[simp] theorem State.setByte_teams (s : State) (id : MemId) (a : Nat) (v : Byte) : (s.setByte id a v).teams = s.teams := rfl
@[simp] theorem State.setByte_pipes (s : State) (id : MemId) (a : Nat) (v : Byte) : (s.setByte id a v).pipes = s.pipes := rfl
@[simp] theorem State.setByte_contexts (s : State) (id : MemId) (a : Nat) (v : Byte) : (s.setByte id a v).contexts = s.contexts := rfl
@[simp] theorem State.setByte_parts (s : State) (id : MemId) (a : Nat) (v : Byte) : (s.setByte id a v).parts = s.parts := rfl
@[simp] theorem State.setByte_cores (s : State) (id : MemId) (a : Nat) (v : Byte) : (s.setByte id a v).cores = s.cores := rfl
@[simp] theorem State.setByte_dies (s : State) (id : MemId) (a : Nat) (v : Byte) : (s.setByte id a v).dies = s.dies := rfl
@[simp] theorem State.setByte_hbm (s : State) (id : MemId) (a : Nat) (v : Byte) : (s.setByte id a v).hbm = s.hbm := rfl
@[simp] theorem State.setByte_vfs (s : State) (id : MemId) (a : Nat) (v : Byte) : (s.setByte id a v).vfs = s.vfs := rfl
@[simp] theorem State.setByte_packets (s : State) (id : MemId) (a : Nat) (v : Byte) : (s.setByte id a v).packets = s.packets := rfl
@[simp] theorem State.setByte_ports (s : State) (id : MemId) (a : Nat) (v : Byte) : (s.setByte id a v).ports = s.ports := rfl
@[simp] theorem State.setByte_log (s : State) (id : MemId) (a : Nat) (v : Byte) : (s.setByte id a v).log = s.log := rfl
@[simp] theorem State.setByte_irqs (s : State) (id : MemId) (a : Nat) (v : Byte) : (s.setByte id a v).irqs = s.irqs := rfl
@[simp] theorem State.setByte_sent (s : State) (id : MemId) (a : Nat) (v : Byte) : (s.setByte id a v).sent = s.sent := rfl
@[simp] theorem State.setByte_hostData (s : State) (id : MemId) (a : Nat) (v : Byte) : (s.setByte id a v).hostData = s.hostData := rfl
@[simp] theorem State.setByte_hbmKeys (s : State) (id : MemId) (a : Nat) (v : Byte) : (s.setByte id a v).hbmKeys = s.hbmKeys := rfl
@[simp] theorem State.setByte_wsKeys (s : State) (id : MemId) (a : Nat) (v : Byte) : (s.setByte id a v).wsKeys = s.wsKeys := rfl
@[simp] theorem State.setByte_dir (s : State) (id : MemId) (a : Nat) (v : Byte) : (s.setByte id a v).dir = s.dir := rfl
@[simp] theorem State.setByte_l2 (s : State) (id : MemId) (a : Nat) (v : Byte) : (s.setByte id a v).l2 = s.l2 := rfl
@[simp] theorem State.setByte_marks (s : State) (id : MemId) (a : Nat) (v : Byte) : (s.setByte id a v).marks = s.marks := rfl
@[simp] theorem State.setByte_poison (s : State) (id : MemId) (a : Nat) (v : Byte) : (s.setByte id a v).poison = s.poison := rfl
@[simp] theorem State.setByte_shadow (s : State) (id : MemId) (a : Nat) (v : Byte) : (s.setByte id a v).shadow = s.shadow := rfl
@[simp] theorem State.setByte_corrected (s : State) (id : MemId) (a : Nat) (v : Byte) : (s.setByte id a v).corrected = s.corrected := rfl
@[simp] theorem State.setByte_firmware (s : State) (id : MemId) (a : Nat) (v : Byte) : (s.setByte id a v).firmware = s.firmware := rfl
@[simp] theorem State.setByte_loaded (s : State) (id : MemId) (a : Nat) (v : Byte) : (s.setByte id a v).loaded = s.loaded := rfl
@[simp] theorem State.setByte_keys (s : State) (id : MemId) (a : Nat) (v : Byte) : (s.setByte id a v).keys = s.keys := rfl
@[simp] theorem State.setByte_nextId (s : State) (id : MemId) (a : Nat) (v : Byte) : (s.setByte id a v).nextId = s.nextId := rfl
@[simp] theorem State.setByte_cur (s : State) (id : MemId) (a : Nat) (v : Byte) : (s.setByte id a v).cur = s.cur := rfl
@[simp] theorem State.setByte_agenda (s : State) (id : MemId) (a : Nat) (v : Byte) : (s.setByte id a v).agenda = s.agenda := rfl
@[simp] theorem State.setByte_tick (s : State) (id : MemId) (a : Nat) (v : Byte) : (s.setByte id a v).tick = s.tick := rfl

/-! ### `clearMem` -/

@[simp] theorem State.clearMem_teams (s : State) (id : MemId) : (s.clearMem id).teams = s.teams := rfl
@[simp] theorem State.clearMem_pipes (s : State) (id : MemId) : (s.clearMem id).pipes = s.pipes := rfl
@[simp] theorem State.clearMem_contexts (s : State) (id : MemId) : (s.clearMem id).contexts = s.contexts := rfl
@[simp] theorem State.clearMem_parts (s : State) (id : MemId) : (s.clearMem id).parts = s.parts := rfl
@[simp] theorem State.clearMem_cores (s : State) (id : MemId) : (s.clearMem id).cores = s.cores := rfl
@[simp] theorem State.clearMem_dies (s : State) (id : MemId) : (s.clearMem id).dies = s.dies := rfl
@[simp] theorem State.clearMem_hbm (s : State) (id : MemId) : (s.clearMem id).hbm = s.hbm := rfl
@[simp] theorem State.clearMem_vfs (s : State) (id : MemId) : (s.clearMem id).vfs = s.vfs := rfl
@[simp] theorem State.clearMem_packets (s : State) (id : MemId) : (s.clearMem id).packets = s.packets := rfl
@[simp] theorem State.clearMem_ports (s : State) (id : MemId) : (s.clearMem id).ports = s.ports := rfl
@[simp] theorem State.clearMem_log (s : State) (id : MemId) : (s.clearMem id).log = s.log := rfl
@[simp] theorem State.clearMem_irqs (s : State) (id : MemId) : (s.clearMem id).irqs = s.irqs := rfl
@[simp] theorem State.clearMem_sent (s : State) (id : MemId) : (s.clearMem id).sent = s.sent := rfl
@[simp] theorem State.clearMem_hostData (s : State) (id : MemId) : (s.clearMem id).hostData = s.hostData := rfl
@[simp] theorem State.clearMem_hbmKeys (s : State) (id : MemId) : (s.clearMem id).hbmKeys = s.hbmKeys := rfl
@[simp] theorem State.clearMem_wsKeys (s : State) (id : MemId) : (s.clearMem id).wsKeys = s.wsKeys := rfl
@[simp] theorem State.clearMem_dir (s : State) (id : MemId) : (s.clearMem id).dir = s.dir := rfl
@[simp] theorem State.clearMem_l2 (s : State) (id : MemId) : (s.clearMem id).l2 = s.l2 := rfl
@[simp] theorem State.clearMem_marks (s : State) (id : MemId) : (s.clearMem id).marks = s.marks := rfl
@[simp] theorem State.clearMem_poison (s : State) (id : MemId) : (s.clearMem id).poison = s.poison := rfl
@[simp] theorem State.clearMem_shadow (s : State) (id : MemId) : (s.clearMem id).shadow = s.shadow := rfl
@[simp] theorem State.clearMem_corrected (s : State) (id : MemId) : (s.clearMem id).corrected = s.corrected := rfl
@[simp] theorem State.clearMem_firmware (s : State) (id : MemId) : (s.clearMem id).firmware = s.firmware := rfl
@[simp] theorem State.clearMem_loaded (s : State) (id : MemId) : (s.clearMem id).loaded = s.loaded := rfl
@[simp] theorem State.clearMem_keys (s : State) (id : MemId) : (s.clearMem id).keys = s.keys := rfl
@[simp] theorem State.clearMem_nextId (s : State) (id : MemId) : (s.clearMem id).nextId = s.nextId := rfl
@[simp] theorem State.clearMem_cur (s : State) (id : MemId) : (s.clearMem id).cur = s.cur := rfl
@[simp] theorem State.clearMem_agenda (s : State) (id : MemId) : (s.clearMem id).agenda = s.agenda := rfl
@[simp] theorem State.clearMem_tick (s : State) (id : MemId) : (s.clearMem id).tick = s.tick := rfl

/-! ### `fresh` -/

@[simp] theorem State.fresh_mems (s : State) : (s.fresh).mems = s.mems := rfl
@[simp] theorem State.fresh_teams (s : State) : (s.fresh).teams = s.teams := rfl
@[simp] theorem State.fresh_pipes (s : State) : (s.fresh).pipes = s.pipes := rfl
@[simp] theorem State.fresh_contexts (s : State) : (s.fresh).contexts = s.contexts := rfl
@[simp] theorem State.fresh_parts (s : State) : (s.fresh).parts = s.parts := rfl
@[simp] theorem State.fresh_cores (s : State) : (s.fresh).cores = s.cores := rfl
@[simp] theorem State.fresh_dies (s : State) : (s.fresh).dies = s.dies := rfl
@[simp] theorem State.fresh_hbm (s : State) : (s.fresh).hbm = s.hbm := rfl
@[simp] theorem State.fresh_vfs (s : State) : (s.fresh).vfs = s.vfs := rfl
@[simp] theorem State.fresh_packets (s : State) : (s.fresh).packets = s.packets := rfl
@[simp] theorem State.fresh_ports (s : State) : (s.fresh).ports = s.ports := rfl
@[simp] theorem State.fresh_log (s : State) : (s.fresh).log = s.log := rfl
@[simp] theorem State.fresh_irqs (s : State) : (s.fresh).irqs = s.irqs := rfl
@[simp] theorem State.fresh_sent (s : State) : (s.fresh).sent = s.sent := rfl
@[simp] theorem State.fresh_hostData (s : State) : (s.fresh).hostData = s.hostData := rfl
@[simp] theorem State.fresh_hbmKeys (s : State) : (s.fresh).hbmKeys = s.hbmKeys := rfl
@[simp] theorem State.fresh_wsKeys (s : State) : (s.fresh).wsKeys = s.wsKeys := rfl
@[simp] theorem State.fresh_dir (s : State) : (s.fresh).dir = s.dir := rfl
@[simp] theorem State.fresh_l2 (s : State) : (s.fresh).l2 = s.l2 := rfl
@[simp] theorem State.fresh_marks (s : State) : (s.fresh).marks = s.marks := rfl
@[simp] theorem State.fresh_poison (s : State) : (s.fresh).poison = s.poison := rfl
@[simp] theorem State.fresh_shadow (s : State) : (s.fresh).shadow = s.shadow := rfl
@[simp] theorem State.fresh_corrected (s : State) : (s.fresh).corrected = s.corrected := rfl
@[simp] theorem State.fresh_firmware (s : State) : (s.fresh).firmware = s.firmware := rfl
@[simp] theorem State.fresh_loaded (s : State) : (s.fresh).loaded = s.loaded := rfl
@[simp] theorem State.fresh_keys (s : State) : (s.fresh).keys = s.keys := rfl
@[simp] theorem State.fresh_cur (s : State) : (s.fresh).cur = s.cur := rfl
@[simp] theorem State.fresh_agenda (s : State) : (s.fresh).agenda = s.agenda := rfl
@[simp] theorem State.fresh_tick (s : State) : (s.fresh).tick = s.tick := rfl

/-! ### `updTeam` -/

@[simp] theorem State.updTeam_mems (s : State) (n : Nat) (f : Team → Team) : (s.updTeam n f).mems = s.mems := by unfold State.updTeam; split <;> rfl
@[simp] theorem State.updTeam_pipes (s : State) (n : Nat) (f : Team → Team) : (s.updTeam n f).pipes = s.pipes := by unfold State.updTeam; split <;> rfl
@[simp] theorem State.updTeam_contexts (s : State) (n : Nat) (f : Team → Team) : (s.updTeam n f).contexts = s.contexts := by unfold State.updTeam; split <;> rfl
@[simp] theorem State.updTeam_parts (s : State) (n : Nat) (f : Team → Team) : (s.updTeam n f).parts = s.parts := by unfold State.updTeam; split <;> rfl
@[simp] theorem State.updTeam_cores (s : State) (n : Nat) (f : Team → Team) : (s.updTeam n f).cores = s.cores := by unfold State.updTeam; split <;> rfl
@[simp] theorem State.updTeam_dies (s : State) (n : Nat) (f : Team → Team) : (s.updTeam n f).dies = s.dies := by unfold State.updTeam; split <;> rfl
@[simp] theorem State.updTeam_hbm (s : State) (n : Nat) (f : Team → Team) : (s.updTeam n f).hbm = s.hbm := by unfold State.updTeam; split <;> rfl
@[simp] theorem State.updTeam_vfs (s : State) (n : Nat) (f : Team → Team) : (s.updTeam n f).vfs = s.vfs := by unfold State.updTeam; split <;> rfl
@[simp] theorem State.updTeam_packets (s : State) (n : Nat) (f : Team → Team) : (s.updTeam n f).packets = s.packets := by unfold State.updTeam; split <;> rfl
@[simp] theorem State.updTeam_ports (s : State) (n : Nat) (f : Team → Team) : (s.updTeam n f).ports = s.ports := by unfold State.updTeam; split <;> rfl
@[simp] theorem State.updTeam_log (s : State) (n : Nat) (f : Team → Team) : (s.updTeam n f).log = s.log := by unfold State.updTeam; split <;> rfl
@[simp] theorem State.updTeam_irqs (s : State) (n : Nat) (f : Team → Team) : (s.updTeam n f).irqs = s.irqs := by unfold State.updTeam; split <;> rfl
@[simp] theorem State.updTeam_sent (s : State) (n : Nat) (f : Team → Team) : (s.updTeam n f).sent = s.sent := by unfold State.updTeam; split <;> rfl
@[simp] theorem State.updTeam_hostData (s : State) (n : Nat) (f : Team → Team) : (s.updTeam n f).hostData = s.hostData := by unfold State.updTeam; split <;> rfl
@[simp] theorem State.updTeam_hbmKeys (s : State) (n : Nat) (f : Team → Team) : (s.updTeam n f).hbmKeys = s.hbmKeys := by unfold State.updTeam; split <;> rfl
@[simp] theorem State.updTeam_wsKeys (s : State) (n : Nat) (f : Team → Team) : (s.updTeam n f).wsKeys = s.wsKeys := by unfold State.updTeam; split <;> rfl
@[simp] theorem State.updTeam_dir (s : State) (n : Nat) (f : Team → Team) : (s.updTeam n f).dir = s.dir := by unfold State.updTeam; split <;> rfl
@[simp] theorem State.updTeam_l2 (s : State) (n : Nat) (f : Team → Team) : (s.updTeam n f).l2 = s.l2 := by unfold State.updTeam; split <;> rfl
@[simp] theorem State.updTeam_marks (s : State) (n : Nat) (f : Team → Team) : (s.updTeam n f).marks = s.marks := by unfold State.updTeam; split <;> rfl
@[simp] theorem State.updTeam_poison (s : State) (n : Nat) (f : Team → Team) : (s.updTeam n f).poison = s.poison := by unfold State.updTeam; split <;> rfl
@[simp] theorem State.updTeam_shadow (s : State) (n : Nat) (f : Team → Team) : (s.updTeam n f).shadow = s.shadow := by unfold State.updTeam; split <;> rfl
@[simp] theorem State.updTeam_corrected (s : State) (n : Nat) (f : Team → Team) : (s.updTeam n f).corrected = s.corrected := by unfold State.updTeam; split <;> rfl
@[simp] theorem State.updTeam_firmware (s : State) (n : Nat) (f : Team → Team) : (s.updTeam n f).firmware = s.firmware := by unfold State.updTeam; split <;> rfl
@[simp] theorem State.updTeam_loaded (s : State) (n : Nat) (f : Team → Team) : (s.updTeam n f).loaded = s.loaded := by unfold State.updTeam; split <;> rfl
@[simp] theorem State.updTeam_keys (s : State) (n : Nat) (f : Team → Team) : (s.updTeam n f).keys = s.keys := by unfold State.updTeam; split <;> rfl
@[simp] theorem State.updTeam_nextId (s : State) (n : Nat) (f : Team → Team) : (s.updTeam n f).nextId = s.nextId := by unfold State.updTeam; split <;> rfl
@[simp] theorem State.updTeam_cur (s : State) (n : Nat) (f : Team → Team) : (s.updTeam n f).cur = s.cur := by unfold State.updTeam; split <;> rfl
@[simp] theorem State.updTeam_agenda (s : State) (n : Nat) (f : Team → Team) : (s.updTeam n f).agenda = s.agenda := by unfold State.updTeam; split <;> rfl
@[simp] theorem State.updTeam_tick (s : State) (n : Nat) (f : Team → Team) : (s.updTeam n f).tick = s.tick := by unfold State.updTeam; split <;> rfl

/-! ### `setThread` -/

@[simp] theorem State.setThread_mems (s : State) (r : ThreadRef) (t : Thread) : (s.setThread r t).mems = s.mems := State.updTeam_mems ..
@[simp] theorem State.setThread_pipes (s : State) (r : ThreadRef) (t : Thread) : (s.setThread r t).pipes = s.pipes := State.updTeam_pipes ..
@[simp] theorem State.setThread_contexts (s : State) (r : ThreadRef) (t : Thread) : (s.setThread r t).contexts = s.contexts := State.updTeam_contexts ..
@[simp] theorem State.setThread_parts (s : State) (r : ThreadRef) (t : Thread) : (s.setThread r t).parts = s.parts := State.updTeam_parts ..
@[simp] theorem State.setThread_cores (s : State) (r : ThreadRef) (t : Thread) : (s.setThread r t).cores = s.cores := State.updTeam_cores ..
@[simp] theorem State.setThread_dies (s : State) (r : ThreadRef) (t : Thread) : (s.setThread r t).dies = s.dies := State.updTeam_dies ..
@[simp] theorem State.setThread_hbm (s : State) (r : ThreadRef) (t : Thread) : (s.setThread r t).hbm = s.hbm := State.updTeam_hbm ..
@[simp] theorem State.setThread_vfs (s : State) (r : ThreadRef) (t : Thread) : (s.setThread r t).vfs = s.vfs := State.updTeam_vfs ..
@[simp] theorem State.setThread_packets (s : State) (r : ThreadRef) (t : Thread) : (s.setThread r t).packets = s.packets := State.updTeam_packets ..
@[simp] theorem State.setThread_ports (s : State) (r : ThreadRef) (t : Thread) : (s.setThread r t).ports = s.ports := State.updTeam_ports ..
@[simp] theorem State.setThread_log (s : State) (r : ThreadRef) (t : Thread) : (s.setThread r t).log = s.log := State.updTeam_log ..
@[simp] theorem State.setThread_irqs (s : State) (r : ThreadRef) (t : Thread) : (s.setThread r t).irqs = s.irqs := State.updTeam_irqs ..
@[simp] theorem State.setThread_sent (s : State) (r : ThreadRef) (t : Thread) : (s.setThread r t).sent = s.sent := State.updTeam_sent ..
@[simp] theorem State.setThread_hostData (s : State) (r : ThreadRef) (t : Thread) : (s.setThread r t).hostData = s.hostData := State.updTeam_hostData ..
@[simp] theorem State.setThread_hbmKeys (s : State) (r : ThreadRef) (t : Thread) : (s.setThread r t).hbmKeys = s.hbmKeys := State.updTeam_hbmKeys ..
@[simp] theorem State.setThread_wsKeys (s : State) (r : ThreadRef) (t : Thread) : (s.setThread r t).wsKeys = s.wsKeys := State.updTeam_wsKeys ..
@[simp] theorem State.setThread_dir (s : State) (r : ThreadRef) (t : Thread) : (s.setThread r t).dir = s.dir := State.updTeam_dir ..
@[simp] theorem State.setThread_l2 (s : State) (r : ThreadRef) (t : Thread) : (s.setThread r t).l2 = s.l2 := State.updTeam_l2 ..
@[simp] theorem State.setThread_marks (s : State) (r : ThreadRef) (t : Thread) : (s.setThread r t).marks = s.marks := State.updTeam_marks ..
@[simp] theorem State.setThread_poison (s : State) (r : ThreadRef) (t : Thread) : (s.setThread r t).poison = s.poison := State.updTeam_poison ..
@[simp] theorem State.setThread_shadow (s : State) (r : ThreadRef) (t : Thread) : (s.setThread r t).shadow = s.shadow := State.updTeam_shadow ..
@[simp] theorem State.setThread_corrected (s : State) (r : ThreadRef) (t : Thread) : (s.setThread r t).corrected = s.corrected := State.updTeam_corrected ..
@[simp] theorem State.setThread_firmware (s : State) (r : ThreadRef) (t : Thread) : (s.setThread r t).firmware = s.firmware := State.updTeam_firmware ..
@[simp] theorem State.setThread_loaded (s : State) (r : ThreadRef) (t : Thread) : (s.setThread r t).loaded = s.loaded := State.updTeam_loaded ..
@[simp] theorem State.setThread_keys (s : State) (r : ThreadRef) (t : Thread) : (s.setThread r t).keys = s.keys := State.updTeam_keys ..
@[simp] theorem State.setThread_nextId (s : State) (r : ThreadRef) (t : Thread) : (s.setThread r t).nextId = s.nextId := State.updTeam_nextId ..
@[simp] theorem State.setThread_cur (s : State) (r : ThreadRef) (t : Thread) : (s.setThread r t).cur = s.cur := State.updTeam_cur ..
@[simp] theorem State.setThread_agenda (s : State) (r : ThreadRef) (t : Thread) : (s.setThread r t).agenda = s.agenda := State.updTeam_agenda ..
@[simp] theorem State.setThread_tick (s : State) (r : ThreadRef) (t : Thread) : (s.setThread r t).tick = s.tick := State.updTeam_tick ..

/-! ### `updThread` -/

@[simp] theorem State.updThread_mems (s : State) (r : ThreadRef) (f : Thread → Thread) : (s.updThread r f).mems = s.mems := by unfold State.updThread; split <;> simp
@[simp] theorem State.updThread_pipes (s : State) (r : ThreadRef) (f : Thread → Thread) : (s.updThread r f).pipes = s.pipes := by unfold State.updThread; split <;> simp
@[simp] theorem State.updThread_contexts (s : State) (r : ThreadRef) (f : Thread → Thread) : (s.updThread r f).contexts = s.contexts := by unfold State.updThread; split <;> simp
@[simp] theorem State.updThread_parts (s : State) (r : ThreadRef) (f : Thread → Thread) : (s.updThread r f).parts = s.parts := by unfold State.updThread; split <;> simp
@[simp] theorem State.updThread_cores (s : State) (r : ThreadRef) (f : Thread → Thread) : (s.updThread r f).cores = s.cores := by unfold State.updThread; split <;> simp
@[simp] theorem State.updThread_dies (s : State) (r : ThreadRef) (f : Thread → Thread) : (s.updThread r f).dies = s.dies := by unfold State.updThread; split <;> simp
@[simp] theorem State.updThread_hbm (s : State) (r : ThreadRef) (f : Thread → Thread) : (s.updThread r f).hbm = s.hbm := by unfold State.updThread; split <;> simp
@[simp] theorem State.updThread_vfs (s : State) (r : ThreadRef) (f : Thread → Thread) : (s.updThread r f).vfs = s.vfs := by unfold State.updThread; split <;> simp
@[simp] theorem State.updThread_packets (s : State) (r : ThreadRef) (f : Thread → Thread) : (s.updThread r f).packets = s.packets := by unfold State.updThread; split <;> simp
@[simp] theorem State.updThread_ports (s : State) (r : ThreadRef) (f : Thread → Thread) : (s.updThread r f).ports = s.ports := by unfold State.updThread; split <;> simp
@[simp] theorem State.updThread_log (s : State) (r : ThreadRef) (f : Thread → Thread) : (s.updThread r f).log = s.log := by unfold State.updThread; split <;> simp
@[simp] theorem State.updThread_irqs (s : State) (r : ThreadRef) (f : Thread → Thread) : (s.updThread r f).irqs = s.irqs := by unfold State.updThread; split <;> simp
@[simp] theorem State.updThread_sent (s : State) (r : ThreadRef) (f : Thread → Thread) : (s.updThread r f).sent = s.sent := by unfold State.updThread; split <;> simp
@[simp] theorem State.updThread_hostData (s : State) (r : ThreadRef) (f : Thread → Thread) : (s.updThread r f).hostData = s.hostData := by unfold State.updThread; split <;> simp
@[simp] theorem State.updThread_hbmKeys (s : State) (r : ThreadRef) (f : Thread → Thread) : (s.updThread r f).hbmKeys = s.hbmKeys := by unfold State.updThread; split <;> simp
@[simp] theorem State.updThread_wsKeys (s : State) (r : ThreadRef) (f : Thread → Thread) : (s.updThread r f).wsKeys = s.wsKeys := by unfold State.updThread; split <;> simp
@[simp] theorem State.updThread_dir (s : State) (r : ThreadRef) (f : Thread → Thread) : (s.updThread r f).dir = s.dir := by unfold State.updThread; split <;> simp
@[simp] theorem State.updThread_l2 (s : State) (r : ThreadRef) (f : Thread → Thread) : (s.updThread r f).l2 = s.l2 := by unfold State.updThread; split <;> simp
@[simp] theorem State.updThread_marks (s : State) (r : ThreadRef) (f : Thread → Thread) : (s.updThread r f).marks = s.marks := by unfold State.updThread; split <;> simp
@[simp] theorem State.updThread_poison (s : State) (r : ThreadRef) (f : Thread → Thread) : (s.updThread r f).poison = s.poison := by unfold State.updThread; split <;> simp
@[simp] theorem State.updThread_shadow (s : State) (r : ThreadRef) (f : Thread → Thread) : (s.updThread r f).shadow = s.shadow := by unfold State.updThread; split <;> simp
@[simp] theorem State.updThread_corrected (s : State) (r : ThreadRef) (f : Thread → Thread) : (s.updThread r f).corrected = s.corrected := by unfold State.updThread; split <;> simp
@[simp] theorem State.updThread_firmware (s : State) (r : ThreadRef) (f : Thread → Thread) : (s.updThread r f).firmware = s.firmware := by unfold State.updThread; split <;> simp
@[simp] theorem State.updThread_loaded (s : State) (r : ThreadRef) (f : Thread → Thread) : (s.updThread r f).loaded = s.loaded := by unfold State.updThread; split <;> simp
@[simp] theorem State.updThread_keys (s : State) (r : ThreadRef) (f : Thread → Thread) : (s.updThread r f).keys = s.keys := by unfold State.updThread; split <;> simp
@[simp] theorem State.updThread_nextId (s : State) (r : ThreadRef) (f : Thread → Thread) : (s.updThread r f).nextId = s.nextId := by unfold State.updThread; split <;> simp
@[simp] theorem State.updThread_cur (s : State) (r : ThreadRef) (f : Thread → Thread) : (s.updThread r f).cur = s.cur := by unfold State.updThread; split <;> simp
@[simp] theorem State.updThread_agenda (s : State) (r : ThreadRef) (f : Thread → Thread) : (s.updThread r f).agenda = s.agenda := by unfold State.updThread; split <;> simp
@[simp] theorem State.updThread_tick (s : State) (r : ThreadRef) (f : Thread → Thread) : (s.updThread r f).tick = s.tick := by unfold State.updThread; split <;> simp

/-! ### `setPhase` -/

@[simp] theorem State.setPhase_mems (s : State) (r : ThreadRef) (n : Nat) : (s.setPhase r n).mems = s.mems := State.updThread_mems ..
@[simp] theorem State.setPhase_pipes (s : State) (r : ThreadRef) (n : Nat) : (s.setPhase r n).pipes = s.pipes := State.updThread_pipes ..
@[simp] theorem State.setPhase_contexts (s : State) (r : ThreadRef) (n : Nat) : (s.setPhase r n).contexts = s.contexts := State.updThread_contexts ..
@[simp] theorem State.setPhase_parts (s : State) (r : ThreadRef) (n : Nat) : (s.setPhase r n).parts = s.parts := State.updThread_parts ..
@[simp] theorem State.setPhase_cores (s : State) (r : ThreadRef) (n : Nat) : (s.setPhase r n).cores = s.cores := State.updThread_cores ..
@[simp] theorem State.setPhase_dies (s : State) (r : ThreadRef) (n : Nat) : (s.setPhase r n).dies = s.dies := State.updThread_dies ..
@[simp] theorem State.setPhase_hbm (s : State) (r : ThreadRef) (n : Nat) : (s.setPhase r n).hbm = s.hbm := State.updThread_hbm ..
@[simp] theorem State.setPhase_vfs (s : State) (r : ThreadRef) (n : Nat) : (s.setPhase r n).vfs = s.vfs := State.updThread_vfs ..
@[simp] theorem State.setPhase_packets (s : State) (r : ThreadRef) (n : Nat) : (s.setPhase r n).packets = s.packets := State.updThread_packets ..
@[simp] theorem State.setPhase_ports (s : State) (r : ThreadRef) (n : Nat) : (s.setPhase r n).ports = s.ports := State.updThread_ports ..
@[simp] theorem State.setPhase_log (s : State) (r : ThreadRef) (n : Nat) : (s.setPhase r n).log = s.log := State.updThread_log ..
@[simp] theorem State.setPhase_irqs (s : State) (r : ThreadRef) (n : Nat) : (s.setPhase r n).irqs = s.irqs := State.updThread_irqs ..
@[simp] theorem State.setPhase_sent (s : State) (r : ThreadRef) (n : Nat) : (s.setPhase r n).sent = s.sent := State.updThread_sent ..
@[simp] theorem State.setPhase_hostData (s : State) (r : ThreadRef) (n : Nat) : (s.setPhase r n).hostData = s.hostData := State.updThread_hostData ..
@[simp] theorem State.setPhase_hbmKeys (s : State) (r : ThreadRef) (n : Nat) : (s.setPhase r n).hbmKeys = s.hbmKeys := State.updThread_hbmKeys ..
@[simp] theorem State.setPhase_wsKeys (s : State) (r : ThreadRef) (n : Nat) : (s.setPhase r n).wsKeys = s.wsKeys := State.updThread_wsKeys ..
@[simp] theorem State.setPhase_dir (s : State) (r : ThreadRef) (n : Nat) : (s.setPhase r n).dir = s.dir := State.updThread_dir ..
@[simp] theorem State.setPhase_l2 (s : State) (r : ThreadRef) (n : Nat) : (s.setPhase r n).l2 = s.l2 := State.updThread_l2 ..
@[simp] theorem State.setPhase_marks (s : State) (r : ThreadRef) (n : Nat) : (s.setPhase r n).marks = s.marks := State.updThread_marks ..
@[simp] theorem State.setPhase_poison (s : State) (r : ThreadRef) (n : Nat) : (s.setPhase r n).poison = s.poison := State.updThread_poison ..
@[simp] theorem State.setPhase_shadow (s : State) (r : ThreadRef) (n : Nat) : (s.setPhase r n).shadow = s.shadow := State.updThread_shadow ..
@[simp] theorem State.setPhase_corrected (s : State) (r : ThreadRef) (n : Nat) : (s.setPhase r n).corrected = s.corrected := State.updThread_corrected ..
@[simp] theorem State.setPhase_firmware (s : State) (r : ThreadRef) (n : Nat) : (s.setPhase r n).firmware = s.firmware := State.updThread_firmware ..
@[simp] theorem State.setPhase_loaded (s : State) (r : ThreadRef) (n : Nat) : (s.setPhase r n).loaded = s.loaded := State.updThread_loaded ..
@[simp] theorem State.setPhase_keys (s : State) (r : ThreadRef) (n : Nat) : (s.setPhase r n).keys = s.keys := State.updThread_keys ..
@[simp] theorem State.setPhase_nextId (s : State) (r : ThreadRef) (n : Nat) : (s.setPhase r n).nextId = s.nextId := State.updThread_nextId ..
@[simp] theorem State.setPhase_cur (s : State) (r : ThreadRef) (n : Nat) : (s.setPhase r n).cur = s.cur := State.updThread_cur ..
@[simp] theorem State.setPhase_agenda (s : State) (r : ThreadRef) (n : Nat) : (s.setPhase r n).agenda = s.agenda := State.updThread_agenda ..
@[simp] theorem State.setPhase_tick (s : State) (r : ThreadRef) (n : Nat) : (s.setPhase r n).tick = s.tick := State.updThread_tick ..

/-! ### Tables -/

@[simp] theorem Tbl.look_put {α : Type} (t : Tbl α) (k : Nat) (v : α) : (t.put k v).look k = some v := by
  induction t with
  | nil => simp [Tbl.put, Tbl.look]
  | cons e t ih => by_cases h : e.1 = k <;> simp [Tbl.put, Tbl.look, h, ih]

theorem Tbl.look_put_ne {α : Type} (t : Tbl α) {j k : Nat} (v : α) (h : j ≠ k) : (t.put j v).look k = t.look k := by
  induction t with
  | nil => simp [Tbl.put, Tbl.look, h]
  | cons e t ih =>
    by_cases h1 : e.1 = j
    · subst h1; simp [Tbl.put, Tbl.look, h]
    · by_cases h2 : e.1 = k
      · subst h2; simp [Tbl.put, Tbl.look, h1]
      · simp [Tbl.put, Tbl.look, h1, h2, ih]

@[simp] theorem Tbl.put_put {α : Type} (t : Tbl α) (k : Nat) (v w : α) : (t.put k v).put k w = t.put k w := by
  induction t with
  | nil => simp [Tbl.put]
  | cons e t ih => by_cases h : e.1 = k <;> simp [Tbl.put, h, ih]

/-! ### Teams and threads -/

@[simp] theorem State.team_setTeam (s : State) (n : Nat) (tm : Team) : (s.setTeam n tm).team n = some tm := by
  simp [State.team, State.setTeam]

@[simp] theorem State.setTeam_setTeam (s : State) (n : Nat) (a b : Team) : (s.setTeam n a).setTeam n b = s.setTeam n b := by
  simp [State.setTeam]

theorem State.team_of_thread {s : State} {r : ThreadRef} {t : Thread} (h : s.thread r = some t) :
    ∃ tm, s.team r.team = some tm ∧ tm.threads.look r.tid = some t := by
  unfold State.thread at h
  cases hm : s.team r.team with
  | none => simp [hm] at h
  | some tm => exact ⟨tm, rfl, by simpa [hm] using h⟩

@[simp] theorem State.thread_setThread {s : State} {r : ThreadRef} {t : Thread} (u : Thread) (h : s.thread r = some t) :
    (s.setThread r u).thread r = some u := by
  obtain ⟨tm, hm, -⟩ := State.team_of_thread h
  simp [State.setThread, State.updTeam, hm, State.thread]

theorem State.thread_updThread {s : State} {r : ThreadRef} {t : Thread} (f : Thread → Thread) (h : s.thread r = some t) :
    (s.updThread r f).thread r = some (f t) := by
  simp [State.updThread, h, State.thread_setThread (f t) h]

/-- Two changes of a thread are one. -/
theorem State.updThread_updThread (s : State) (r : ThreadRef) (f g : Thread → Thread) :
    (s.updThread r f).updThread r g = s.updThread r fun t => g (f t) := by
  cases h : s.thread r with
  | none => simp [State.updThread, h]
  | some t =>
    obtain ⟨tm, hm, -⟩ := State.team_of_thread h
    have h2 := State.thread_updThread f h
    rw [State.updThread, h2]
    simp [State.updThread, h, State.setThread, State.updTeam, hm]

/-- A change of a thread leaves every other thread as it was. -/
theorem State.thread_updThread_ne (s : State) {r q : ThreadRef} (f : Thread → Thread) (h : q ≠ r) :
    (s.updThread r f).thread q = s.thread q := by
  unfold State.updThread
  split
  next t ht =>
    obtain ⟨tm, hm, -⟩ := State.team_of_thread ht
    simp only [State.setThread, State.updTeam, hm]
    by_cases h1 : r.team = q.team
    · have h2 : r.tid ≠ q.tid := fun h3 => h (by cases r; cases q; simp_all)
      simp [State.thread, ← h1, hm, Tbl.look_put_ne _ _ h2]
    · simp [State.thread, State.team, State.setTeam, Tbl.look_put_ne _ _ h1]
  next => rfl

/-! ### Registers -/

@[simp] theorem Thread.cell_zero (t : Thread) : t.cell 0#8 = .zero := rfl

/-- g0 reads 0 (R12). -/
@[simp] theorem Thread.rd_zero (t : Thread) : t.rd 0#8 = 0 := rfl

/-- A write of g0 is discarded (R12). -/
@[simp] theorem Thread.setCell_zero (t : Thread) (c : RegCell) : t.setCell 0#8 c = t := rfl

theorem Thread.cell_setCell (t : Thread) {r : Reg} (c : RegCell) (h : r ≠ 0) : (t.setCell r c).cell r = c := by
  unfold Thread.setCell Thread.cell
  rw [if_neg h, if_neg h]
  exact Vector.getElem_set_self _

theorem Thread.cell_setCell_ne (t : Thread) {r q : Reg} (c : RegCell) (h : r ≠ q) : (t.setCell r c).cell q = t.cell q := by
  unfold Thread.setCell Thread.cell
  split
  · rfl
  · split
    · rfl
    · exact Vector.getElem_set_ne r.isLt q.isLt fun h1 => h (BitVec.eq_of_toNat_eq h1)

/-- A written register holds the value, live and full (R176). -/
theorem Thread.rd_wr (t : Thread) {r : Reg} (v : Word) (h : r ≠ 0) : (t.wr r v).rd r = v := by
  simp [Thread.wr, Thread.rd, Thread.cell_setCell t _ h]

theorem Thread.rd_wr_ne (t : Thread) {r q : Reg} (v : Word) (h : r ≠ q) : (t.wr r v).rd q = t.rd q := by
  simp [Thread.wr, Thread.rd, Thread.cell_setCell_ne t _ h]


end Sys2Proof.Machine
end

