-- ==== Sys2Proof/Laws/Ops.lean ====
section
/-!
SUPPORT. What the shared operations do to the memories, said once for each: every one of them keeps the canonical form (the entries of the spawn
ring and of the log rings are the only bytes that they write); and the two outcomes of a trap.
-/

namespace Sys2Proof.Machine

theorem State.MemForm.foldl {α : Type} {f : State → α → State} (hf : ∀ (s : State) (x : α), s.MemForm → (f s x).MemForm) (l : List α)
    {s : State} (h : s.MemForm) : (l.foldl f s).MemForm := by
  induction l generalizing s with
  | nil => exact h
  | cons x l ih => exact ih (hf s x h)

theorem State.MemForm.updThread {s : State} (h : s.MemForm) (r : ThreadRef) (f : Thread → Thread) : (s.updThread r f).MemForm := h.of_mems (by simp)
theorem State.MemForm.setThread {s : State} (h : s.MemForm) (r : ThreadRef) (t : Thread) : (s.setThread r t).MemForm := h.of_mems (by simp)
theorem State.MemForm.updTeam {s : State} (h : s.MemForm) (n : Nat) (f : Team → Team) : (s.updTeam n f).MemForm := h.of_mems (by simp)

/-! ### Waits, records, flags and events -/

@[simp] theorem State.ageColl_mems (s : State) (n : Nat) (l : List Word) : (s.ageColl n l).mems = s.mems := by simp [State.ageColl]
@[simp] theorem State.wait_mems (s : State) (r : ThreadRef) (w : Wait) : (s.wait r w).mems = s.mems := by simp [State.wait]

/-- A fold of operations none of which touches the memories. -/
theorem State.foldl_mems {α : Type} {f : State → α → State} (hf : ∀ (s : State) (x : α), (f s x).mems = s.mems) (l : List α) (s : State) :
    (l.foldl f s).mems = s.mems := by
  induction l generalizing s with
  | nil => rfl
  | cons x l ih => simp only [List.foldl_cons, ih, hf]

/-! ### The homes: what a write does beside changing bytes -/

@[simp] theorem State.wroteBy_mems (s : State) (g : Agent) (c : Bool) (r : Range) : (s.wroteBy g c r).mems = s.mems := rfl
@[simp] theorem State.unpoison_mems (s : State) (r : Range) : (s.unpoison r).mems = s.mems := rfl
@[simp] theorem State.setDir_mems (s : State) (d : List DirEntry) : (s.setDir d).mems = s.mems := rfl
@[simp] theorem State.l2Touch_mems (s : State) (t : Target) (v d : BitVec 16) (h p : Nat) : (s.l2Touch t v d h p).mems = s.mems := rfl

@[simp] theorem State.l2Wrote_mems (s : State) (rs : List Range) : (s.l2Wrote rs).mems = s.mems := rfl
@[simp] theorem State.regrant_mems (s : State) (rs : List Range) (d : List DirEntry) : (s.regrant rs d).mems = s.mems := rfl
@[simp] theorem State.recall_mems (s : State) (rs : List Range) : (s.recall rs).mems = s.mems := rfl
@[simp] theorem State.reown_mems (s : State) : s.reown.mems = s.mems := rfl

@[simp] theorem State.homePut_mems (s : State) (rs : List Range) : (s.homePut rs).mems = s.mems := by
  unfold State.homePut
  rw [State.foldl_mems (fun s r => by simp), State.l2Wrote_mems, State.recall_mems]

/-- A write at a home changes no byte but those that it writes. -/
@[simp] theorem State.homeWrote_mems (s : State) (g : Agent) (rs : List Range) : (s.homeWrote g rs).mems = s.mems := by
  unfold State.homeWrote
  rw [State.foldl_mems (fun s r => by simp), State.homePut_mems]

theorem State.MemForm.logErr {s : State} (h : s.MemForm) (r : ErrRec) (fw : Bool) : (s.logErr r fw).MemForm := by
  have hw (s : State) (h : s.MemForm) (t : Target) (l : List Byte) (rs : List Range) : ((s.setBytes t l).homeWrote .package rs).MemForm :=
    (h.setBytes t l).of_mems (State.homeWrote_mems ..)
  unfold State.logErr
  split
  · split
    · exact State.MemForm.of_mems h rfl
    · exact h
  · split
    · exact State.MemForm.of_mems h rfl
    · dsimp only
      apply hw
      exact h

theorem State.MemForm.logStage {s : State} (h : s.MemForm) (tm : Team) (r : ErrRec) : (s.logStage tm r).MemForm := by
  unfold State.logStage; split
  · exact h.logErr _ _
  · exact h

@[simp] theorem State.hold_mems (s : State) (r : ThreadRef) (t : Trap) : (s.hold r t).mems = s.mems := by simp [State.hold]
@[simp] theorem State.setFlags_mems (s : State) (r : ThreadRef) (f : Word) : (s.setFlags r f).mems = s.mems := by simp [State.setFlags]

theorem State.MemForm.fire {s : State} (h : s.MemForm) (k : Counter) (cls act cnt : Nat) : (s.fire k cls act cnt).MemForm := by
  unfold State.fire
  split
  · exact h
  · lift_lets
    intro trapOk rec_
    clear_value trapOk
    split
    · exact h.of_mems (State.hold_mems ..)
    · split
      · exact State.MemForm.of_mems h rfl
      · split
        · exact h.logStage _ _
        · exact h

theorem State.MemForm.countOne {s : State} (h : s.MemForm) (k : Counter) (cls : Nat) : (s.countOne k cls).MemForm := by
  unfold State.countOne; dsimp only; split
  · exact State.MemForm.fire (h.of_mems (by simp)) _ _ _ _
  · exact h.of_mems (by simp)

/-- Events arise, to be counted when the clock ends: no memory changes. -/
@[simp] theorem State.countAt_mems (s : State) (p : Nat) (k : Counter) (l : List Nat) : (s.countAt p k l).mems = s.mems := by
  unfold State.countAt; split <;> simp

@[simp] theorem State.count_mems (s : State) (k : Counter) (l : List Nat) : (s.count k l).mems = s.mems := by simp [State.count]
@[simp] theorem State.raise_mems (s : State) (k : Counter) (l : List Conds) : (s.raise k l).mems = s.mems := by simp [State.raise]
@[simp] theorem State.countDead_mems (s : State) (k : Counter) (n : Nat) : (s.countDead k n).mems = s.mems := by simp [State.countDead]

theorem State.MemForm.raise {s : State} (h : s.MemForm) (k : Counter) (l : List Conds) : (s.raise k l).MemForm := h.of_mems (by simp)
theorem State.MemForm.countDead {s : State} (h : s.MemForm) (k : Counter) (n : Nat) : (s.countDead k n).MemForm := h.of_mems (by simp)

/-- The events of a clock are counted: the bytes that change are those of error records. -/
theorem State.MemForm.settle {s : State} (h : s.MemForm) (n : Nat) : (s.settle n).MemForm :=
  State.MemForm.foldl (fun _ _ h => h.countOne _ _) _ (h.of_mems (by simp))

/-! ### Synchronization -/

theorem State.MemForm.writeGlobal {s t : State} (h : s.MemForm) {ctx va : Nat} {l : List Byte} (ht : s.writeGlobal ctx va l = .ok t) : t.MemForm := by
  unfold State.writeGlobal at ht
  split at ht
  · cases ht; exact (h.writeBlocks _ _ _ _).of_mems (State.homeWrote_mems ..)
  · cases ht

theorem State.MemForm.ringSync {s : State} (h : s.MemForm) (r : ThreadRef) : (s.ringSync r).MemForm := by
  unfold State.ringSync
  repeat' split
  all_goals first | exact h | exact h.writeGlobal (by assumption)

theorem State.MemForm.answer {s : State} (h : s.MemForm) (r : ThreadRef) (ws : List (Reg × Word)) : (s.answer r ws).MemForm :=
  (h.updThread _ _).ringSync r

theorem State.MemForm.completeRdv {s : State} (h : s.MemForm) (n base size : Nat) : (s.completeRdv n base size).MemForm := by
  unfold State.completeRdv
  split
  · exact h
  · refine State.MemForm.updTeam (State.MemForm.foldl (fun s p h => ?_) _ h) _ _
    dsimp only
    repeat' split
    · exact h
    · exact (h.answer _ _).raise _ _
    · exact (h.answer _ _).of_mems (State.hold_mems ..)

theorem State.MemForm.testRdv {s : State} (h : s.MemForm) (n : Nat) : (s.testRdv n).MemForm := by
  unfold State.testRdv
  split
  · exact h
  · refine State.MemForm.foldl (fun s p h => ?_) _ h
    split
    · split
      · exact h.completeRdv _ _ _
      · exact h
    · exact h

theorem State.MemForm.testSync {s : State} (h : s.MemForm) (n : Nat) : (s.testSync n).MemForm := (h.updTeam _ _).testRdv n

theorem State.MemForm.testCur {s : State} (h : s.MemForm) : s.testCur.MemForm := by
  unfold State.testCur; split
  · exact h.testSync _
  · exact h

@[simp] theorem State.withdraw_mems (s : State) (r : ThreadRef) : (s.withdraw r).mems = s.mems := by
  unfold State.withdraw; repeat' split
  all_goals simp

theorem State.MemForm.endThread {s : State} (h : s.MemForm) (r : ThreadRef) : (s.endThread r).MemForm :=
  State.MemForm.testSync (h.of_mems (by simp)) _

/-! ### Handles, kills and traps -/

@[simp] theorem State.completeHandle_mems (s : State) (core : Nat) (o : EngOp) (err : Nat) (m : Word) : (s.completeHandle core o err m).mems = s.mems := by
  simp [State.completeHandle]

@[simp] theorem State.updOp_mems (s : State) (core id : Nat) (f : EngOp → EngOp) : (s.updOp core id f).mems = s.mems := by simp [State.updOp]

@[simp] theorem State.abortGroup_mems (s : State) (g : List Nat) (n : Nat) (l : Option (List Nat)) : (s.abortGroup g n l).mems = s.mems := by
  unfold State.abortGroup
  dsimp only
  rw [State.foldl_mems (fun s d => by split <;> simp), State.foldl_mems (fun s e => by simp)]

@[simp] theorem State.killOps_mems (s : State) (n : Nat) : (s.killOps n).mems = s.mems := by
  unfold State.killOps
  refine State.foldl_mems (fun s e => ?_) ..
  repeat' split
  all_goals simp

@[simp] theorem State.dropCommands_mems (s : State) (n : Nat) : (s.dropCommands n).mems = s.mems := by
  unfold State.dropCommands
  refine State.foldl_mems (fun s e => State.foldl_mems (fun s k => ?_) ..) ..
  dsimp only
  split
  · split
    · rw [State.updCore_mems, State.foldl_mems]
      intro s c
      repeat' split
      all_goals simp
    · rfl
  · rfl

theorem State.MemForm.killLease {s : State} (h : s.MemForm) (tm : Team) (n ctx : Nat) (idem : Bool) (q : Nat) :
    (s.killLease tm n ctx idem q).MemForm := by
  unfold State.killLease
  dsimp only
  repeat' split
  · exact h
  · exact h
  · exact h.of_mems (by simp)
  · exact State.MemForm.logStage (h.of_mems (by simp)) _ _

theorem State.MemForm.killLeases {s : State} (h : s.MemForm) (tm : Team) (n : Nat) : (s.killLeases tm n).MemForm := by
  unfold State.killLeases
  split
  · exact State.MemForm.foldl (fun s q h => h.killLease _ _ _ _ _) _ h
  · exact h

theorem State.MemForm.killTeam {s : State} (h : s.MemForm) (n : Nat) (b : Bool) : (s.killTeam n b).MemForm := by
  unfold State.killTeam
  split
  · exact h
  · split
    · exact h
    · have h1 (l : List (Nat × Thread)) : (l.foldl (fun s e => s.withdraw { team := n, tid := e.1 }) s).MemForm :=
        h.of_mems (State.foldl_mems (fun s e => by simp) l s)
      refine State.MemForm.killLeases (State.MemForm.of_mems ?_
        ((State.killOps_mems ..).trans ((State.dropCommands_mems ..).trans (State.setTeam_mems ..)))) _ _
      split
      · exact State.MemForm.foldl (fun s c h => (h.clearMem _).clearMem _) _ (h1 _)
      · exact h1 _

theorem State.MemForm.killStage {s : State} (h : s.MemForm) (p k : Nat) : (s.killStage p k).MemForm := by
  unfold State.killStage
  refine State.MemForm.foldl (fun s e h => ?_) _ (h.of_mems (by simp))
  split
  · exact h.killTeam _ _
  · exact h

theorem State.MemForm.killPipe {s : State} (h : s.MemForm) (p : Nat) : (s.killPipe p).MemForm := by
  unfold State.killPipe
  split
  · exact h
  · exact State.MemForm.foldl (fun s k h => h.killStage _ _) _ (State.MemForm.of_mems h rfl)

theorem State.MemForm.applyKill {s : State} (h : s.MemForm) (r : ThreadRef) (tm : Team) (sc : Nat) (again : Bool) : (s.applyKill r tm sc again).MemForm := by
  unfold State.applyKill
  split
  · exact h.endThread r
  · split
    · exact h
    · exact State.MemForm.killTeam (h.of_mems (by simp)) _ _
  · exact h.killStage _ _
  · exact h.killPipe _

theorem State.MemForm.killAs {s : State} (h : s.MemForm) (first : Bool) (r : ThreadRef) (floor : Nat) (q : ErrRec) :
    (State.killAs first s r floor q).MemForm := by
  unfold State.killAs
  split
  · exact h
  · split
    · dsimp only
      split
      · exact (h.logErr _ _).applyKill _ _ _ _
      · exact (h.applyKill _ _ _ _).logErr _ _
    · exact h

theorem State.MemForm.kill {s : State} (h : s.MemForm) (r : ThreadRef) (floor : Nat) (q : ErrRec) : (s.kill r floor q).MemForm := h.killAs _ _ _ _

/-- A trap is taken where the context has a handler and the thread is not in it: the thread enters the handler, and that is all (R382). -/
theorem State.takeTrap_enters {s : State} {r : ThreadRef} {tm : Team} {t : Thread} {st : Stage} (tr : Trap) (htm : s.team r.team = some tm)
    (ht : tm.threads.look r.tid = some t) (hst : s.stageOf tm = some st) (hh : st.traph ≠ 0) (hn : t.handler = false) :
    s.takeTrap r tr = s.setThread r (t.enter tr st.traph) := by
  have hz : ¬(st.traph = 0#64) := hh
  simp [State.takeTrap, htm, ht, hst, hz, hn]

/-- Without a handler, or from within it, the thread is killed with a record of source 1 (R383). -/
theorem State.takeTrap_kills {s : State} {r : ThreadRef} {tm : Team} {t : Thread} {st : Stage} (tr : Trap) (htm : s.team r.team = some tm)
    (ht : tm.threads.look r.tid = some t) (hst : s.stageOf tm = some st) (hh : st.traph = 0 ∨ t.handler = true) :
    s.takeTrap r tr
      = s.kill r 0 { s.errFor tm r.tid 1 with cause := tr.cause.code, pc := tr.epc, addr := tr.eaddr.toNat, info := tr.einfo.toNat } := by
  have hz : st.traph = 0#64 ∨ t.handler = true := hh
  simp [State.takeTrap, htm, ht, hst]
  intro h1 h2
  rcases hz with h | h <;> simp_all

theorem State.MemForm.takeTrap {s : State} (h : s.MemForm) (r : ThreadRef) (tr : Trap) : (s.takeTrap r tr).MemForm := by
  unfold State.takeTrap
  split
  · exact h
  · split
    · split
      · exact h.kill _ _ _
      · exact h.setThread _ _
    · exact h

/-- A precise trap waits for divisions in flight, and is otherwise taken (R95). -/
theorem preciseTrap_form {s : State} (h : s.MemForm) (e : Env) (c : Cause) (ea : DWord) (ei : Word) : (preciseTrap e c ea ei s).MemForm := by
  unfold preciseTrap
  dsimp only
  split
  · exact h.of_mems (by simp)
  · exact h.takeTrap _ _

/-! ### Around an instruction -/

/-- The state that an instruction's own effect holds has canonical memories. -/
def ResForm : Res → Prop
  | .done s _ _ _ | .wait _ s | .trap _ _ _ s | .stop s => s.MemForm

/-- An instruction whose own effect keeps the memories' form. -/
def BodyForm (body : Env → State → Res) : Prop := ∀ e s, s.MemForm → ResForm (body e s)

theorem effect_form {body : Env → State → Res} (hb : BodyForm body) (e : Env) (r : Row) (x : Ops) {s : State} (h : s.MemForm) :
    (effect e r x body s).MemForm := by
  have := hb e s h
  unfold effect
  split <;> simp_all only [ResForm]
  · exact this.updThread _ _
  · exact this.of_mems (by simp)
  · exact preciseTrap_form this _ _ _ _

/-- What has been counted before an instruction's sources or its guard touches no memory. -/
theorem phased_form {s : State} (h : s.MemForm) (e : Env) (p n m : Nat) :
    (if e.t.phase < p then (s.countDead e.counter n).setPhase e.ref m else s).MemForm := by
  split
  · exact (h.countDead _ _).updThread _ _
  · exact h

theorem sources_form {body : Env → State → Res} (hb : BodyForm body) (e : Env) (r : Row) (x : Ops) {s : State} (h : s.MemForm) :
    (sources e r x body s).MemForm := by
  unfold sources
  lift_lets
  intro t empties pending dead n s2 late
  have h2 : s2.MemForm := phased_form h _ _ _ _
  clear_value s2
  split
  · exact preciseTrap_form h _ _ _ _
  · split
    · exact h.of_mems (State.wait_mems ..)
    · split
      · exact preciseTrap_form h2 _ _ _ _
      · split
        · exact h2.of_mems (State.wait_mems ..)
        · exact effect_form hb _ _ _ h2

theorem guarded_form {body : Env → State → Res} (hb : BodyForm body) (e : Env) (r : Row) (x : Ops) {s : State} (h : s.MemForm) :
    (guarded e r x body s).MemForm := by
  unfold guarded
  lift_lets
  intro t dead s2
  have h2 : s2.MemForm := phased_form h _ _ _ _
  clear_value s2
  split
  · exact sources_form hb _ _ _ h
  · split
    · exact h.of_mems (State.wait_mems ..)
    · split
      · exact preciseTrap_form h2 _ _ _ _
      · split
        · exact sources_form hb _ _ _ h2
        · exact h2.updThread _ _

/-- A save area that cannot be read kills the team; nothing else is done. -/
theorem State.MemForm.filled_error {s s' : State} (h : s.MemForm) {e : Env} {mask : BitVec 16} (hf : s.filled e mask = .error s') : s'.MemForm := by
  unfold State.filled at hf
  split at hf
  · cases hf; exact h.killAs _ _ _ _
  · cases hf

theorem pipeline_form {body : Env → State → Res} (hb : BodyForm body) (e : Env) (r : Row) (x : Ops) {s : State} (h : s.MemForm) :
    (pipeline e r x body s).MemForm := by
  unfold pipeline
  dsimp only
  split
  · exact preciseTrap_form h _ _ _ _
  · split
    · exact guarded_form hb _ _ _ h
    · split
      · next e => exact h.filled_error e
      · exact guarded_form hb _ _ _ (h.setThread _ _)

/-- An instruction whose own effect keeps the memories' form keeps it. -/
theorem runInstr_form {i : Instr} {body : Ops → Env → State → Res} (hb : ∀ x, BodyForm (body x)) {s t : State} (h : s.MemForm)
    (ht : runInstr i body s = .next t) : t.MemForm := by
  unfold runInstr at ht
  split at ht
  · cases ht
  · split at ht
    · cases ht; exact pipeline_form (hb _) _ _ _ h
    · cases ht

/-- An instruction that only computes writes no memory. -/
theorem pureBody_form (f : Thread → Eff) : BodyForm (pureBody f) := by
  intro e s h
  unfold pureBody
  dsimp only [ResForm]
  split
  · exact h
  · exact h.raise _ _

end Sys2Proof.Machine
end

