-- ==== Sys2Proof/Laws/PerInstr.lean ====
section
/-!
SUPPORT. One lemma per instruction: it has a row of the opcode table's fields exactly when it has operand fields, and its OPC and MOD fit into
their fields (R29).
-/

namespace Sys2Proof.Laws.Rows

/-- An instruction of the thread has both a row and operand fields, a step of another agent has neither; OPC has 8 bits and MOD has 6 (R29). -/
def Statement (i : Instr) : Prop := i.row.isSome = i.ops.isSome ∧ ∀ r, i.row = some r → r.opc < 256 ∧ r.mod < 64

/-- A row whose OPC and MOD are small enough. -/
theorem of_row {i : Instr} {r : Row} (h : i.row = some r) (ho : i.ops.isSome = true) (h1 : r.opc.blt 256 = true) (h2 : r.mod.blt 64 = true) :
    Statement i := by
  refine ⟨by simp [h, ho], fun q hq => ?_⟩
  cases h.symm.trans hq
  exact ⟨Nat.le_of_ble_eq_true h1, Nat.le_of_ble_eq_true h2⟩

/-- A step of another agent. -/
theorem of_none {i : Instr} (h : i.row = none) (ho : i.ops = none) : Statement i :=
  ⟨by simp [h, ho], fun q hq => by simp [h] at hq⟩

theorem nop (x : Ops) : Statement (.nop x) := of_row rfl rfl rfl rfl
theorem mov (x : Ops) : Statement (.mov x) := of_row rfl rfl rfl rfl
theorem movw (x : Ops) : Statement (.movw x) := of_row rfl rfl rfl rfl
theorem iadd (x : Ops) (m : SatMode) : Statement (.iadd x m) := by
  cases m <;> exact of_row rfl rfl rfl rfl
theorem isub (x : Ops) (m : SatMode) : Statement (.isub x m) := by
  cases m <;> exact of_row rfl rfl rfl rfl
theorem imul (x : Ops) (m : SatMode) : Statement (.imul x m) := by
  cases m <;> exact of_row rfl rfl rfl rfl
theorem imulh (x : Ops) (u : Bool) : Statement (.imulh x u) := by
  cases u <;> exact of_row rfl rfl rfl rfl
theorem imad (x : Ops) (m : SatMode) : Statement (.imad x m) := by
  cases m <;> exact of_row rfl rfl rfl rfl
theorem iadd64 (x : Ops) (m : SatMode) : Statement (.iadd64 x m) := by
  cases m <;> exact of_row rfl rfl rfl rfl
theorem isub64 (x : Ops) (m : SatMode) : Statement (.isub64 x m) := by
  cases m <;> exact of_row rfl rfl rfl rfl
theorem imul64 (x : Ops) (m : SatMode) : Statement (.imul64 x m) := by
  cases m <;> exact of_row rfl rfl rfl rfl
theorem imad64w (x : Ops) (u : Bool) : Statement (.imad64w x u) := by
  cases u <;> exact of_row rfl rfl rfl rfl
theorem imin (x : Ops) (u : Bool) : Statement (.imin x u) := by
  cases u <;> exact of_row rfl rfl rfl rfl
theorem imax (x : Ops) (u : Bool) : Statement (.imax x u) := by
  cases u <;> exact of_row rfl rfl rfl rfl
theorem iabs (x : Ops) (sat : Bool) : Statement (.iabs x sat) := by
  cases sat <;> exact of_row rfl rfl rfl rfl
theorem ineg (x : Ops) (sat : Bool) : Statement (.ineg x sat) := by
  cases sat <;> exact of_row rfl rfl rfl rfl
theorem and (x : Ops) (w : Bool) : Statement (.and x w) := by
  cases w <;> exact of_row rfl rfl rfl rfl
theorem or (x : Ops) (w : Bool) : Statement (.or x w) := by
  cases w <;> exact of_row rfl rfl rfl rfl
theorem xor (x : Ops) (w : Bool) : Statement (.xor x w) := by
  cases w <;> exact of_row rfl rfl rfl rfl
theorem andn (x : Ops) (w : Bool) : Statement (.andn x w) := by
  cases w <;> exact of_row rfl rfl rfl rfl
theorem shl (x : Ops) (w : Bool) : Statement (.shl x w) := by
  cases w <;> exact of_row rfl rfl rfl rfl
theorem shr (x : Ops) (w : Bool) : Statement (.shr x w) := by
  cases w <;> exact of_row rfl rfl rfl rfl
theorem sar (x : Ops) (w : Bool) : Statement (.sar x w) := by
  cases w <;> exact of_row rfl rfl rfl rfl
theorem rot (x : Ops) (w : Bool) : Statement (.rot x w) := by
  cases w <;> exact of_row rfl rfl rfl rfl
theorem popc (x : Ops) (w : Bool) : Statement (.popc x w) := by
  cases w <;> exact of_row rfl rfl rfl rfl
theorem clz (x : Ops) (w : Bool) : Statement (.clz x w) := by
  cases w <;> exact of_row rfl rfl rfl rfl
theorem brev (x : Ops) (w : Bool) : Statement (.brev x w) := by
  cases w <;> exact of_row rfl rfl rfl rfl
theorem bfe (x : Ops) (u : Bool) : Statement (.bfe x u) := by
  cases u <;> exact of_row rfl rfl rfl rfl
theorem bfi (x : Ops) : Statement (.bfi x) := of_row rfl rfl rfl rfl
theorem sel (x : Ops) (w : Bool) : Statement (.sel x w) := by
  cases w <;> exact of_row rfl rfl rfl rfl
theorem icmp (x : Ops) (r : IRel) (t : ITy) : Statement (.icmp x r t) := by
  cases r <;> cases t <;> exact of_row rfl rfl rfl rfl
theorem lea (x : Ops) (sh : BitVec 3) (u : Bool) : Statement (.lea x sh u) := of_row rfl rfl rfl (by
  cases u <;> simp only [Nat.blt, bit] <;> exact Nat.ble_eq_true_of_le (by simp <;> omega))
theorem fadd (x : Ops) (w : Bool) (r : Rnd) : Statement (.fadd x w r) := by
  cases w <;> cases r <;> exact of_row rfl rfl rfl rfl
theorem fsub (x : Ops) (w : Bool) (r : Rnd) : Statement (.fsub x w r) := by
  cases w <;> cases r <;> exact of_row rfl rfl rfl rfl
theorem fmul (x : Ops) (w : Bool) (r : Rnd) : Statement (.fmul x w r) := by
  cases w <;> cases r <;> exact of_row rfl rfl rfl rfl
theorem ffma (x : Ops) (w : Bool) (r : Rnd) : Statement (.ffma x w r) := by
  cases w <;> cases r <;> exact of_row rfl rfl rfl rfl
theorem fmin (x : Ops) (w : Bool) (nan : Bool) : Statement (.fmin x w nan) := by
  cases w <;> cases nan <;> exact of_row rfl rfl rfl rfl
theorem fmax (x : Ops) (w : Bool) (nan : Bool) : Statement (.fmax x w nan) := by
  cases w <;> cases nan <;> exact of_row rfl rfl rfl rfl
theorem fdiv (x : Ops) (w : Bool) (r : Rnd) : Statement (.fdiv x w r) := by
  cases w <;> cases r <;> exact of_row rfl rfl rfl rfl
theorem fsqrt (x : Ops) (w : Bool) (r : Rnd) : Statement (.fsqrt x w r) := by
  cases w <;> cases r <;> exact of_row rfl rfl rfl rfl
theorem frcp (x : Ops) (w : Bool) (r : Rnd) : Statement (.frcp x w r) := by
  cases w <;> cases r <;> exact of_row rfl rfl rfl rfl
theorem frsq (x : Ops) (w : Bool) (r : Rnd) : Statement (.frsq x w r) := by
  cases w <;> cases r <;> exact of_row rfl rfl rfl rfl
theorem fexp2 (x : Ops) (w : Bool) : Statement (.fexp2 x w) := by
  cases w <;> exact of_row rfl rfl rfl rfl
theorem flog2 (x : Ops) (w : Bool) : Statement (.flog2 x w) := by
  cases w <;> exact of_row rfl rfl rfl rfl
theorem fsinpi (x : Ops) (w : Bool) : Statement (.fsinpi x w) := by
  cases w <;> exact of_row rfl rfl rfl rfl
theorem fcospi (x : Ops) (w : Bool) : Statement (.fcospi x w) := by
  cases w <;> exact of_row rfl rfl rfl rfl
theorem fcmp (x : Ops) (w : Bool) (rel : FRel) (u : Bool) : Statement (.fcmp x w rel u) := by
  cases w <;> cases rel <;> cases u <;> exact of_row rfl rfl rfl rfl
theorem fclass (x : Ops) (w : Bool) : Statement (.fclass x w) := by
  cases w <;> exact of_row rfl rfl rfl rfl
theorem cvtfi (x : Ops) (r : Rnd) (w : Bool) (t : ITy) : Statement (.cvtfi x r w t) := by
  cases r <;> cases w <;> cases t <;> exact of_row rfl rfl rfl rfl
theorem cvtif (x : Ops) (r : Rnd) (w : Bool) (t : ITy) : Statement (.cvtif x r w t) := by
  cases r <;> cases w <;> cases t <;> exact of_row rfl rfl rfl rfl
theorem cvtff (x : Ops) (r : Rnd) (k : FfCode) : Statement (.cvtff x r k) := by
  cases r <;> cases k <;> exact of_row rfl rfl rfl rfl
theorem frnd (x : Ops) (r : Rnd) (w : Bool) : Statement (.frnd x r w) := by
  cases r <;> cases w <;> exact of_row rfl rfl rfl rfl
theorem fscalb (x : Ops) (r : Rnd) (w : Bool) : Statement (.fscalb x r w) := by
  cases r <;> cases w <;> exact of_row rfl rfl rfl rfl
theorem fexpn (x : Ops) (w : Bool) : Statement (.fexpn x w) := by
  cases w <;> exact of_row rfl rfl rfl rfl
theorem hadd2 (x : Ops) (r : Rnd) (bf : Bool) : Statement (.hadd2 x r bf) := by
  cases r <;> cases bf <;> exact of_row rfl rfl rfl rfl
theorem hmul2 (x : Ops) (r : Rnd) (bf : Bool) : Statement (.hmul2 x r bf) := by
  cases r <;> cases bf <;> exact of_row rfl rfl rfl rfl
theorem hfma2 (x : Ops) (r : Rnd) (bf : Bool) : Statement (.hfma2 x r bf) := by
  cases r <;> cases bf <;> exact of_row rfl rfl rfl rfl
theorem pcvt (x : Ops) (r : Rnd) (k : PkCode) : Statement (.pcvt x r k) := by
  cases r <;> cases k <;> exact of_row rfl rfl rfl rfl
theorem upcvt (x : Ops) (k : PkCode) : Statement (.upcvt x k) := by
  cases k <;> exact of_row rfl rfl rfl rfl
theorem fdot2 (x : Ops) (r : Rnd) (bf : Bool) : Statement (.fdot2 x r bf) := by
  cases r <;> cases bf <;> exact of_row rfl rfl rfl rfl
theorem ivmk (x : Ops) (k : IvmkKind) (e : Bool) (w : Bool) : Statement (.ivmk x k e w) := by
  cases k <;> cases e <;> cases w <;> exact of_row rfl rfl rfl rfl
theorem ivadd (x : Ops) (e : Bool) (w : Bool) : Statement (.ivadd x e w) := by
  cases e <;> cases w <;> exact of_row rfl rfl rfl rfl
theorem ivsub (x : Ops) (e : Bool) (w : Bool) : Statement (.ivsub x e w) := by
  cases e <;> cases w <;> exact of_row rfl rfl rfl rfl
theorem ivmul (x : Ops) (e : Bool) (w : Bool) : Statement (.ivmul x e w) := by
  cases e <;> cases w <;> exact of_row rfl rfl rfl rfl
theorem ivdiv (x : Ops) (e : Bool) (w : Bool) : Statement (.ivdiv x e w) := by
  cases e <;> cases w <;> exact of_row rfl rfl rfl rfl
theorem ivsqr (x : Ops) (e : Bool) (w : Bool) : Statement (.ivsqr x e w) := by
  cases e <;> cases w <;> exact of_row rfl rfl rfl rfl
theorem ivsqrt (x : Ops) (e : Bool) (w : Bool) : Statement (.ivsqrt x e w) := by
  cases e <;> cases w <;> exact of_row rfl rfl rfl rfl
theorem ivneg (x : Ops) (e : Bool) (w : Bool) : Statement (.ivneg x e w) := by
  cases e <;> cases w <;> exact of_row rfl rfl rfl rfl
theorem ivabs (x : Ops) (e : Bool) (w : Bool) : Statement (.ivabs x e w) := by
  cases e <;> cases w <;> exact of_row rfl rfl rfl rfl
theorem ivmeet (x : Ops) (e : Bool) (w : Bool) : Statement (.ivmeet x e w) := by
  cases e <;> cases w <;> exact of_row rfl rfl rfl rfl
theorem ivjoin (x : Ops) (e : Bool) (w : Bool) : Statement (.ivjoin x e w) := by
  cases e <;> cases w <;> exact of_row rfl rfl rfl rfl
theorem ivmid (x : Ops) (e : Bool) (w : Bool) : Statement (.ivmid x e w) := by
  cases e <;> cases w <;> exact of_row rfl rfl rfl rfl
theorem ivwid (x : Ops) (e : Bool) (w : Bool) : Statement (.ivwid x e w) := by
  cases e <;> cases w <;> exact of_row rfl rfl rfl rfl
theorem ivcmp (x : Ops) (r : IvRel) (e : Bool) (w : Bool) : Statement (.ivcmp x r e w) := by
  cases r <;> cases e <;> cases w <;> exact of_row rfl rfl rfl rfl
theorem ivsplit (x : Ops) (e : Bool) (w : Bool) : Statement (.ivsplit x e w) := by
  cases e <;> cases w <;> exact of_row rfl rfl rfl rfl
theorem ivtest (x : Ops) (t : IvTest) (w : Bool) : Statement (.ivtest x t w) := by
  cases t <;> cases w <;> exact of_row rfl rfl rfl rfl
theorem pand (x : Ops) : Statement (.pand x) := of_row rfl rfl rfl rfl
theorem por (x : Ops) : Statement (.por x) := of_row rfl rfl rfl rfl
theorem pnot (x : Ops) : Statement (.pnot x) := of_row rfl rfl rfl rfl
theorem pxor (x : Ops) : Statement (.pxor x) := of_row rfl rfl rfl rfl
theorem pres (x : Ops) (ut : Bool) : Statement (.pres x ut) := by
  cases ut <;> exact of_row rfl rfl rfl rfl
theorem doti8 (x : Ops) (za : Bool) (zb : Bool) : Statement (.doti8 x za zb) := by
  cases za <;> cases zb <;> exact of_row rfl rfl rfl rfl
theorem doti4 (x : Ops) : Statement (.doti4 x) := of_row rfl rfl rfl rfl
theorem dotn8 (x : Ops) (wa : Bool) (wb : Bool) : Statement (.dotn8 x wa wb) := by
  cases wa <;> cases wb <;> exact of_row rfl rfl rfl rfl
theorem dotn4 (x : Ops) : Statement (.dotn4 x) := of_row rfl rfl rfl rfl
theorem pscl (x : Ops) (r : Rnd) : Statement (.pscl x r) := by
  cases r <;> exact of_row rfl rfl rfl rfl
theorem tshape (x : Ops) : Statement (.tshape x) := of_row rfl rfl rfl rfl
theorem tshapeFree (x : Ops) : Statement (.tshapeFree x) := of_row rfl rfl rfl rfl
theorem tshapeRs (x : Ops) : Statement (.tshapeRs x) := of_row rfl rfl rfl rfl
theorem trd (x : Ops) : Statement (.trd x) := of_row rfl rfl rfl rfl
theorem tld (x : Ops) (sp : Space) : Statement (.tld x sp) := by
  cases sp <;> exact of_row rfl rfl rfl rfl
theorem tst (x : Ops) (sp : Space) : Statement (.tst x sp) := by
  cases sp <;> exact of_row rfl rfl rfl rfl
theorem mma (x : Ops) (z : Bool) : Statement (.mma x z) := by
  cases z <;> exact of_row rfl rfl rfl rfl
theorem accz (x : Ops) : Statement (.accz x) := of_row rfl rfl rfl rfl
theorem accrd (x : Ops) (f : AccFmt) : Statement (.accrd x f) := by
  cases f <;> exact of_row rfl rfl rfl rfl
theorem accwr (x : Ops) (f : AccFmt) : Statement (.accwr x f) := by
  cases f <;> exact of_row rfl rfl rfl rfl
theorem mctx (x : Ops) : Statement (.mctx x) := of_row rfl rfl rfl rfl
theorem mctxRel (x : Ops) : Statement (.mctxRel x) := of_row rfl rfl rfl rfl
theorem elect (x : Ops) (core : Bool) : Statement (.elect x core) := by
  cases core <;> exact of_row rfl rfl rfl rfl
theorem msync (x : Ops) : Statement (.msync x) := of_row rfl rfl rfl rfl
theorem bra (x : Ops) : Statement (.bra x) := of_row rfl rfl rfl rfl
theorem brx (x : Ops) : Statement (.brx x) := of_row rfl rfl rfl rfl
theorem brt (x : Ops) : Statement (.brt x) := of_row rfl rfl rfl rfl
theorem call (x : Ops) : Statement (.call x) := of_row rfl rfl rfl rfl
theorem callx (x : Ops) : Statement (.callx x) := of_row rfl rfl rfl rfl
theorem ret (x : Ops) : Statement (.ret x) := of_row rfl rfl rfl rfl
theorem exit (x : Ops) : Statement (.exit x) := of_row rfl rfl rfl rfl
theorem spawn (x : Ops) : Statement (.spawn x) := of_row rfl rfl rfl rfl
theorem yield (x : Ops) : Statement (.yield x) := of_row rfl rfl rfl rfl
theorem trap (x : Ops) : Statement (.trap x) := of_row rfl rfl rfl rfl
theorem bkpt (x : Ops) : Statement (.bkpt x) := of_row rfl rfl rfl rfl
theorem sys (x : Ops) : Statement (.sys x) := of_row rfl rfl rfl rfl
theorem bar (x : Ops) : Statement (.bar x) := of_row rfl rfl rfl rfl
theorem bara (x : Ops) : Statement (.bara x) := of_row rfl rfl rfl rfl
theorem barw (x : Ops) : Statement (.barw x) := of_row rfl rfl rfl rfl
theorem rvx (x : Ops) : Statement (.rvx x) := of_row rfl rfl rfl rfl
theorem rvred (x : Ops) (op : RvOp) : Statement (.rvred x op) := by
  cases op <;> exact of_row rfl rfl rfl rfl
theorem waita (x : Ops) (sc : Scope) (sp : Space) (ne : Bool) : Statement (.waita x sc sp ne) := by
  cases sc <;> cases sp <;> cases ne <;> exact of_row rfl rfl rfl rfl
theorem qpush (x : Ops) (nb : Bool) (w : Bool) : Statement (.qpush x nb w) := by
  cases nb <;> cases w <;> exact of_row rfl rfl rfl rfl
theorem qpop (x : Ops) (grp : Bool) (nb : Bool) : Statement (.qpop x grp nb) := by
  cases grp <;> cases nb <;> exact of_row rfl rfl rfl rfl
theorem qcnt (x : Ops) (rst : Bool) : Statement (.qcnt x rst) := by
  cases rst <;> exact of_row rfl rfl rfl rfl
theorem qclose (x : Ops) : Statement (.qclose x) := of_row rfl rfl rfl rfl
theorem qstat (x : Ops) : Statement (.qstat x) := of_row rfl rfl rfl rfl
theorem ld (x : Ops) (sx : Bool) (sz : MSize) (sp : Space) : Statement (.ld x sx sz sp) := by
  cases sx <;> cases sz <;> cases sp <;> exact of_row rfl rfl rfl rfl
theorem st (x : Ops) (sz : MSize) (sp : Space) : Statement (.st x sz sp) := by
  cases sz <;> cases sp <;> exact of_row rfl rfl rfl rfl
theorem ldi (x : Ops) (w : Bool) (sp : Space) : Statement (.ldi x w sp) := by
  cases w <;> cases sp <;> exact of_row rfl rfl rfl rfl
theorem sti (x : Ops) (w : Bool) (sp : Space) : Statement (.sti x w sp) := by
  cases w <;> cases sp <;> exact of_row rfl rfl rfl rfl
theorem ldt (x : Ops) (sx : Bool) (sz : MSize) (sp : Space) : Statement (.ldt x sx sz sp) := by
  cases sx <;> cases sz <;> cases sp <;> exact of_row rfl rfl rfl rfl
theorem stt (x : Ops) (sz : MSize) (sp : Space) : Statement (.stt x sz sp) := by
  cases sz <;> cases sp <;> exact of_row rfl rfl rfl rfl
theorem pref (x : Ops) : Statement (.pref x) := of_row rfl rfl rfl rfl
theorem fence (x : Ops) (k : MOrd) : Statement (.fence x k) := by
  cases k <;> exact of_row rfl rfl rfl rfl
theorem cflush (x : Ops) (inv : Bool) : Statement (.cflush x inv) := by
  cases inv <;> exact of_row rfl rfl rfl rfl
theorem cinv (x : Ops) (sc : Scope) : Statement (.cinv x sc) := by
  cases sc <;> exact of_row rfl rfl rfl rfl
theorem atom (x : Ops) (op : AOp) (sp : Space) : Statement (.atom x op sp) := by
  cases op <;> cases sp <;> exact of_row rfl rfl rfl rfl
theorem atomc (x : Ops) (sp : Space) : Statement (.atomc x sp) := by
  cases sp <;> exact of_row rfl rfl rfl rfl
theorem red (x : Ops) (op : AOp) (sp : Space) : Statement (.red x op sp) := by
  cases op <;> cases sp <;> exact of_row rfl rfl rfl rfl
theorem atomf (x : Ops) (op : AfOp) (sp : Space) : Statement (.atomf x op sp) := by
  cases op <;> cases sp <;> exact of_row rfl rfl rfl rfl
theorem atom64 (x : Ops) (op : AOp) (sp : Space) : Statement (.atom64 x op sp) := by
  cases op <;> cases sp <;> exact of_row rfl rfl rfl rfl
theorem atomc64 (x : Ops) (sp : Space) : Statement (.atomc64 x sp) := by
  cases sp <;> exact of_row rfl rfl rfl rfl
theorem skbind (x : Ops) (clr : Bool) : Statement (.skbind x clr) := by
  cases clr <;> exact of_row rfl rfl rfl rfl
theorem skfree (x : Ops) : Statement (.skfree x) := of_row rfl rfl rfl rfl
theorem skins (x : Ops) (del : Bool) : Statement (.skins x del) := by
  cases del <;> exact of_row rfl rfl rfl rfl
theorem skqry (x : Ops) : Statement (.skqry x) := of_row rfl rfl rfl rfl
theorem skmerge (x : Ops) : Statement (.skmerge x) := of_row rfl rfl rfl rfl
theorem skfold (x : Ops) : Statement (.skfold x) := of_row rfl rfl rfl rfl
theorem skclr (x : Ops) : Statement (.skclr x) := of_row rfl rfl rfl rfl
theorem skstat (x : Ops) : Statement (.skstat x) := of_row rfl rfl rfl rfl
theorem cpy (x : Ops) (k : CpyKind) (dsp : Space) (ssp : Space) : Statement (.cpy x k dsp ssp) := by
  cases k <;> cases dsp <;> cases ssp <;> exact of_row rfl rfl rfl rfl
theorem cpyw (x : Ops) (ssp : Space) : Statement (.cpyw x ssp) := by
  cases ssp <;> exact of_row rfl rfl rfl rfl
theorem cpyl (x : Ops) (fill : Bool) : Statement (.cpyl x fill) := by
  cases fill <;> exact of_row rfl rfl rfl rfl
theorem coll (x : Ops) (sk : Bool) : Statement (.coll x sk) := by
  cases sk <;> exact of_row rfl rfl rfl rfl
theorem hwait (x : Ops) : Statement (.hwait x) := of_row rfl rfl rfl rfl
theorem htest (x : Ops) : Statement (.htest x) := of_row rfl rfl rfl rfl
theorem hcancel (x : Ops) : Statement (.hcancel x) := of_row rfl rfl rfl rfl
theorem hmov (x : Ops) : Statement (.hmov x) := of_row rfl rfl rfl rfl
theorem cslot (x : Ops) : Statement (.cslot x) := of_row rfl rfl rfl rfl
theorem cslotFree (x : Ops) : Statement (.cslotFree x) := of_row rfl rfl rfl rfl
theorem srd (x : Ops) : Statement (.srd x) := of_row rfl rfl rfl rfl
theorem swr (x : Ops) : Statement (.swr x) := of_row rfl rfl rfl rfl
theorem feat (x : Ops) : Statement (.feat x) := of_row rfl rfl rfl rfl
theorem eret (x : Ops) : Statement (.eret x) := of_row rfl rfl rfl rfl
theorem tlbi (x : Ops) (all : Bool) (sc : Scope) : Statement (.tlbi x all sc) := by
  cases all <;> cases sc <;> exact of_row rfl rfl rfl rfl
theorem evrd (x : Ops) : Statement (.evrd x) := of_row rfl rfl rfl rfl
theorem evcfg (x : Ops) : Statement (.evcfg x) := of_row rfl rfl rfl rfl
theorem extensionSlot (n : BitVec 4) : Statement (.extensionSlot n) := of_none rfl rfl
theorem padWord : Statement (.padWord) := of_none rfl rfl
theorem nonInstruction : Statement (.nonInstruction) := of_none rfl rfl
theorem heldTrap (t : ThreadRef) : Statement (.heldTrap t) := of_none rfl rfl
theorem producerCompletion (t : ThreadRef) (op : Nat) : Statement (.producerCompletion t op) := of_none rfl rfl
theorem waitEnd (t : ThreadRef) : Statement (.waitEnd t) := of_none rfl rfl
theorem pickerOverride (core : Nat) (bench : Nat) (cls : Nat) : Statement (.pickerOverride core bench cls) := of_none rfl rfl
theorem yieldExpiry (t : ThreadRef) : Statement (.yieldExpiry t) := of_none rfl rfl
theorem eventWindowRestart (core : Nat) (cls : Nat) : Statement (.eventWindowRestart core cls) := of_none rfl rfl
theorem arbiterPass (part : Nat) (choice : Nat) : Statement (.arbiterPass part choice) := of_none rfl rfl
theorem preemption (team : Nat) : Statement (.preemption team) := of_none rfl rfl
theorem teamPark (team : Nat) : Statement (.teamPark team) := of_none rfl rfl
theorem rackFire (team : Nat) (cond : Nat) : Statement (.rackFire team cond) := of_none rfl rfl
theorem teamRestore (team : Nat) : Statement (.teamRestore team) := of_none rfl rfl
theorem displacement (team : Nat) (core : Nat) : Statement (.displacement team core) := of_none rfl rfl
theorem spawnRingStart (team : Nat) : Statement (.spawnRingStart team) := of_none rfl rfl
theorem teamExit (team : Nat) : Statement (.teamExit team) := of_none rfl rfl
theorem barrierWatchdog (team : Nat) (w : WatchItem) : Statement (.barrierWatchdog team w) := of_none rfl rfl
theorem queueServe (ctx : Nat) (queue : Nat) : Statement (.queueServe ctx queue) := of_none rfl rfl
theorem qpushAccept (ctx : Nat) (queue : Nat) : Statement (.qpushAccept ctx queue) := of_none rfl rfl
theorem engineCompletion (core : Nat) (op : Nat) : Statement (.engineCompletion core op) := of_none rfl rfl
theorem groupAssembly (die : Nat) (slot : Nat) (peers : List PeerRank) (order : Nat) : Statement (.groupAssembly die slot peers order) := of_none rfl rfl
theorem collAbort (group : List Nat) (num : Nat) (received : List Nat) : Statement (.collAbort group num received) := of_none rfl rfl
theorem weltEnqueue (core : Nat) (op : Nat) : Statement (.weltEnqueue core op) := of_none rfl rfl
theorem matrixCommandExecute (core : Nat) (mc : Nat) (agree : Bool) : Statement (.matrixCommandExecute core mc agree) := of_none rfl rfl
theorem sketchOperation (t : ThreadRef) (op : Nat) : Statement (.sketchOperation t op) := of_none rfl rfl
theorem homeAtomic (t : ThreadRef) (op : Nat) : Statement (.homeAtomic t op) := of_none rfl rfl
theorem homeRequest (t : ThreadRef) (op : Nat) : Statement (.homeRequest t op) := of_none rfl rfl
theorem hbmReply (stack : Nat) (tag : Nat) : Statement (.hbmReply stack tag) := of_none rfl rfl
theorem scrubPass (stack : Nat) : Statement (.scrubPass stack) := of_none rfl rfl
theorem scrubEscalation (stack : Nat) : Statement (.scrubEscalation stack) := of_none rfl rfl
theorem frameMigration (stack : Nat) (src : Nat) (dst : Nat) : Statement (.frameMigration stack src dst) := of_none rfl rfl
theorem wsRefresh (die : Nat) : Statement (.wsRefresh die) := of_none rfl rfl
theorem splitChange (core : Nat) (split : Nat) : Statement (.splitChange core split) := of_none rfl rfl
theorem faultRecord (ctx : Nat) : Statement (.faultRecord ctx) := of_none rfl rfl
theorem uncorrectableError (e : ErrSite) : Statement (.uncorrectableError e) := of_none rfl rfl
theorem correctedError (e : ErrSite) : Statement (.correctedError e) := of_none rfl rfl
theorem ctxtab (vf : Nat) (v : DWord) : Statement (.ctxtab vf v) := of_none rfl rfl
theorem ctxcnt (vf : Nat) (v : DWord) : Statement (.ctxcnt vf v) := of_none rfl rfl
theorem qtab (vf : Nat) (v : DWord) : Statement (.qtab vf v) := of_none rfl rfl
theorem qcount (vf : Nat) (v : DWord) : Statement (.qcount vf v) := of_none rfl rfl
theorem fresume (vf : Nat) (ctx : Nat) (seq : Nat) : Statement (.fresume vf ctx seq) := of_none rfl rfl
theorem fresumeDeny (vf : Nat) (ctx : Nat) (seq : Nat) : Statement (.fresumeDeny vf ctx seq) := of_none rfl rfl
theorem tlbinvVa (vf : Nat) (ctx : Nat) (va : DWord) : Statement (.tlbinvVa vf ctx va) := of_none rfl rfl
theorem tlbinvAll (vf : Nat) (ctx : Nat) : Statement (.tlbinvAll vf ctx) := of_none rfl rfl
theorem doorbell (vf : Nat) (queue : Nat) (v : DWord) : Statement (.doorbell vf queue v) := of_none rfl rfl
theorem unlistedRegisterWrite (vf : Nat) (off : Nat) (v : DWord) : Statement (.unlistedRegisterWrite vf off v) := of_none rfl rfl
theorem launch (vf : Nat) (queue : Nat) : Statement (.launch vf queue) := of_none rfl rfl
theorem wait (vf : Nat) (queue : Nat) : Statement (.wait vf queue) := of_none rfl rfl
theorem wsload (vf : Nat) (queue : Nat) : Statement (.wsload vf queue) := of_none rfl rfl
theorem fill (vf : Nat) (queue : Nat) : Statement (.fill vf queue) := of_none rfl rfl
theorem copy (vf : Nat) (queue : Nat) : Statement (.copy vf queue) := of_none rfl rfl
theorem reservedTypePacket (vf : Nat) (queue : Nat) : Statement (.reservedTypePacket vf queue) := of_none rfl rfl
theorem packetCompletion (vf : Nat) (queue : Nat) (index : Nat) : Statement (.packetCompletion vf queue index) := of_none rfl rfl
theorem hostMemAccess (write : Bool) (pa : Nat) (size : Nat) (data : Nat) : Statement (.hostMemAccess write pa size data) := of_none rfl rfl
theorem flitReceive (port : Nat) (good : Bool) (seq : Nat) : Statement (.flitReceive port good seq) := of_none rfl rfl
theorem linkDown (port : Nat) : Statement (.linkDown port) := of_none rfl rfl
theorem remoteRequest (peer : Nat) (part : Nat) (r : PeerReq) : Statement (.remoteRequest peer part r) := of_none rfl rfl
theorem boot (img : FwImage) : Statement (.boot img) := of_none rfl rfl
theorem firmwareImage (img : FwImage) : Statement (.firmwareImage img) := of_none rfl rfl
theorem partitionCreate (p : PartSpec) : Statement (.partitionCreate p) := of_none rfl rfl
theorem partitionDestroy (part : Nat) : Statement (.partitionDestroy part) := of_none rfl rfl
theorem faultRingEntryCleared (ctx : Nat) (entry : Nat) : Statement (.faultRingEntryCleared ctx entry) := of_none rfl rfl
theorem hostCxlCacheSnoop (line : Nat) (invalidate : Bool) (data : List Byte) : Statement (.hostCxlCacheSnoop line invalidate data) := of_none rfl rfl

end Sys2Proof.Laws.Rows
end

