-- ==== Sys2Proof/Laws/Run.lean ====
section
/-!
SUPPORT. What an instruction that is about to have its effect comes to: the one lemma through which statements about `exec` go, and what
the last part of an instruction does to its thread.
-/

namespace Sys2Proof.Machine

@[simp] theorem State.setPhase_setPhase (s : State) (r : ThreadRef) (m n : Nat) : (s.setPhase r m).setPhase r n = s.setPhase r n := by
  simp [State.setPhase, State.updThread_updThread]

@[simp] theorem State.count_nil (s : State) (k : Counter) : s.count k [] = s := rfl

@[simp] theorem State.countDead_zero (s : State) (k : Counter) : s.countDead k 0 = s := rfl

/-- The environment holds the thread that the state holds. -/
theorem State.thread_of_env {s : State} {c : Current} {e : Env} (h : s.env c = some e) : s.thread c.ref = some e.t ∧ e.ref = c.ref := by
  unfold State.env at h
  simp only [Option.bind_eq_some_iff] at h
  obtain ⟨tm, htm, pl, hpl, st, hst, t, ht, h⟩ := h
  split at h <;> simp only [Option.map_eq_some_iff, reduceCtorEq] at h
  obtain ⟨core, hc, rfl⟩ := h
  exact ⟨by simp [State.thread, htm, ht], rfl⟩

theorem State.thread_of_executing {s : State} {e : Env} (h : s.executing = some e) : s.thread e.ref = some e.t := by
  unfold State.executing at h
  obtain ⟨c, -, hc⟩ := Option.bind_eq_some_iff.1 h
  obtain ⟨h1, h2⟩ := State.thread_of_env hc
  rw [h2, h1]

/-- The effect of an instruction, from what its own part comes to. -/
theorem effect_eq_tookPlace {i : Instr} {r : Row} {x : Ops} (hr : i.row = some r) (hx : i.ops = some x) (e : Env)
    (body : Env → State → Res) (s : State) : effect e r x body s = e.tookPlace i (body e s) := by
  unfold effect Env.tookPlace
  split <;> simp_all [State.leaving, marksOf, Env.nextPc]
  split <;> rfl

/-- An instruction that is about to have its effect has it, its dead reads counted (R34, R43). -/
theorem runInstr_ready {i : Instr} {s : State} {e : Env} {r : Row} {x : Ops} (body : Ops → Env → State → Res) (h : Runs i s e)
    (hr : i.row = some r) (hx : i.ops = some x) : runInstr i body s = .next (effect e r x (body x) (s.counted e i)) := by
  obtain ⟨he, hrd⟩ := h
  obtain ⟨c, hc, hec⟩ := Option.bind_eq_some_iff.1 he
  simp only [Env.ready, hr, hx, Bool.and_eq_true, List.all_eq_true, decide_eq_true_eq] at hrd
  obtain ⟨⟨⟨⟨⟨hb, ha⟩, hg⟩, hw⟩, hd⟩, hl⟩ := hrd
  have e1 : ((rowNamed r x).any fun g => decide (16 * e.st.gran ≤ g.toNat)) = false := by
    simp only [List.any_eq_false, decide_eq_true_eq, Nat.not_le]; exact fun g hm => hb g hm
  have e2 : ((rowEps r x).filter fun g => !e.t.full g) = [] := by
    simp only [List.filter_eq_nil_iff, Bool.not_eq_true', Bool.not_eq_false]
    intro g hm
    apply hw
    simp only [rowEps, rowWaits, List.mem_append] at hm ⊢
    rcases hm with (hm | hm) | hm <;> split at hm <;> simp_all
  have e3 : ((rowWaits r x).filter fun g => !e.t.full g) = [] := by
    simp only [List.filter_eq_nil_iff, Bool.not_eq_true', Bool.not_eq_false]; exact hw
  have e4 : ((rowDests r x).filter fun g => !e.t.full g) = [] := by
    simp only [List.filter_eq_nil_iff, Bool.not_eq_true', Bool.not_eq_false]; exact hd
  have e5 (hm : e.t.modeT = true) : ((rowReads r x).filter fun g => e.t.isDead g && g != x.g) = [] := by
    simp only [List.filter_eq_nil_iff, Bool.and_eq_true, not_and]
    intro g hg h1; simp_all
  have src : ∀ q : State, sources e r x (body x) q = effect e r x (body x)
      (if e.t.phase < 2 then (q.countDead e.counter (e.deadReads i).length).setPhase e.ref 2 else q) := by
    intro q
    unfold sources Env.deadReads
    simp only [e2, e3, e4, hr, hx, List.isEmpty_nil, Bool.not_true, Bool.false_eq_true, if_false]
    cases hm : e.t.modeT
    · simp
    · simp [e5 hm]
  unfold runInstr
  simp only [hc, hec, hr, hx, pipeline, e1, Bool.false_eq_true, if_false, ha, if_true]
  congr 1
  unfold guarded State.counted State.guardCounted
  simp only [hx]
  by_cases hz : x.g = 0
  · simp only [hz, if_true, src]; simp
  · simp only [hz, decide_false, Bool.false_or, Bool.and_eq_true, Bool.or_eq_true, Bool.not_eq_true'] at hg
    obtain ⟨⟨g1, g2⟩, g3⟩ := hg
    have g4 : (e.t.isDead x.g && e.t.modeT) = false := by rcases g2 with h | h <;> simp [h]
    simp only [if_neg hz, g1, g4, g3, Bool.not_true, Bool.false_eq_true, if_false, if_true, src]
    have hz' : ¬x.g = 0#8 := hz
    simp [hz']

/-- An instruction that only computes, by the function it is given (R43). -/
theorem computes_of_pure {i : Instr} {r : Row} {x : Ops} (f : Ops → Thread → Eff) (hr : i.row = some r) (hx : i.ops = some x)
    (hi : ∀ s, exec i s = runInstr i (fun x => pureBody (f x)) s) : Computes i (f x) := by
  intro s e h
  rw [hi, runInstr_ready _ h hr hx, effect_eq_tookPlace hr hx]
  rfl

end Sys2Proof.Machine
end

