-- ==== Sys2Proof/Tests/Slice0.lean ====
section
/-!
SUPPORT. Tests: ill-formed terms, words of every instruction, examples of the spec on one step, and for every statement states that meet
its hypotheses.
-/

namespace Sys2Proof.Tests

set_option Elab.async false

open Sys2Proof.Machine

/-- The fields of an instruction without marks and guard. -/
def ops (ln : Len) (d a b c : Reg) (ext : DWord := 0) : Ops :=
  { len := ln, d := d, a := a, b := b, c := c, ep := 0, dk := 0, g := 0, gs := 0, ext := ext }

/-! ### Well-formedness: each check refuses a term -/

/-- A misaligned pair (R30), a misaligned quad (R30), an unused field (R31), an EP bit on an immediate (R31), a wrong length (R40), a guard
select without a guard (R32), an extra word in the S form (R37). -/
theorem test_illformed_fields : [Instr.movw (ops .s 7 8 0 0), .iadd64 (ops .s 8 9 10 0) .wrap, .ivadd (ops .s 8 12 18 0) false true,
    .mov (ops .s 7 9 1 0), .nop (ops .s 0 0 0 1), .srd { ops .s 7 0 0 3 with ep := 4 }, .iadd { ops .s 7 9 11 0 with dk := 4 } .wrap,
    .nop (ops .m 0 0 0 0), .ffma (ops .m 4 5 6 7) false .rne, .nop { ops .s 0 0 0 0 with gs := 1 }, .mov (ops .s 7 9 0 0 5)].all
    (fun i => !i.wf) = true := by decide +kernel

/-- A tile above 31 and a queue above 63 (R30); MEMX bit 31, a scope on a relaxed access, none on an ordered one, a reserved scope and a hint
where there is none (R38, R248); branch offsets that are not multiples of 4 (R37); an engine word's reserved bits and an index without CW (R311);
a welt's O beyond the accumulators (R318). -/
theorem test_illformed_words : [Instr.trd (ops .s 8 32 0 0), .qstat (ops .s 8 0 0 64), .ld (ops .m 7 8 0 0 0x80000000) false .b32 .glb,
    .ld (ops .m 7 8 0 0 0x04000000) false .b32 .glb, .ld (ops .m 7 8 0 0 0x20000000) false .b32 .glb,
    .ld (ops .m 7 8 0 0 0x34000000) false .b32 .glb, .st (ops .m 0 8 9 0 0x24000000) .b32 .glb, .atom (ops .m 7 8 9 0 0x01000000) .add .glb,
    .bra (ops .m 0 0 0 0 2), .brt (ops .l 0 9 0 0 0x0000000100000004), .cpyl (ops .l 7 8 10 12 0xA0000000) false,
    .cpyl (ops .l 7 8 10 12 0x20000001) false, .cpyw (ops .l 7 8 16 3 (0x10000000 + 6144 * 2 ^ 41)) .glb].all
    (fun i => !i.wf) = true := by decide +kernel

/-- Limits of single instructions: unsigned equality (R101), a barrier above 15 (R202), a group above 32 (R204), a sign-extended word (R249), a
store to WS (R222), a queue key above 4,095 (R214), a fence without scope (R252), a rank of 0 (R251), a widening with a rounding (R114), the
scope THR for WAITA (R211), a side register inside the interval (R140). -/
theorem test_illformed_limits : [Instr.icmp (ops .s 7 9 11 0) .eq .z32, .bar (ops .s 0 0 0 16), .rvx (ops .s 7 9 11 6), .rvx (ops .s 7 9 11 0),
    .ld (ops .s 7 8 0 0) true .b32 .glb, .st (ops .s 0 8 9 0) .b32 .ws, .qpush (ops .m 7 8 0 3 4096) false false, .fence (ops .s 0 0 0 0) .ar,
    .fence (ops .s 1 0 0 0) .rlx, .ldt (ops .s 7 8 9 0) false .b32 .glb, .cvtff (ops .s 8 9 0 0) .rtz .f64f32,
    .waita (ops .s 7 8 9 0) .thr .glb false, .ivsplit (ops .s 8 10 0 9) false false, .atom (ops .s 7 8 9 0) .addI64 .glb].all
    (fun i => !i.wf) = true := by decide +kernel

/-! ### Decoding: a word of every instruction -/

/-- Every word of a list is the encoding of its instruction and decodes to it. -/
def reads (l : List (Nat × Nat × Instr)) : Bool :=
  l.all fun p => decide (decodeTableWord p.1 p.2.1 = some p.2.2) && decide (encode p.2.2 = some (leBytes (p.1 / 8) p.2.1))

/-- One word of every instruction of a family, put together by hand from its row and the field maps (R24, R29, R37). -/
def wordsInt : List (Nat × Nat × Instr) :=
  [
    (64, 0x1, .nop (ops .s 0 0 0 0)),
    (96, 0xDEADBEEF0000000000001C06, .mov (ops .m 7 0 0 0 0xDEADBEEF)),
    (128, 0x123456789ABCDEF000000000000200B, .movw (ops .l 8 0 0 0 0x123456789ABCDEF)),
    (64, 0xD052C002C241C0D, .iadd { (ops .s 7 9 11 0) with ep := 3, dk := 1, g := 5, gs := 1 } .satU),
    (96, 0x800000000000000000241C12, .isub (ops .m 7 9 0 0 0x80000000) .wrap),
    (64, 0x40000002C241C15, .imul (ops .s 7 9 11 0) .sat),
    (64, 0x80000002C241C19, .imulh (ops .s 7 9 11 0) true),
    (64, 0x342C241C1D, .imad (ops .s 7 9 11 13) .wrap),
    (128, 0x80000000000000000400000000282023, .iadd64 (ops .l 8 10 0 0 0x8000000000000000) .sat),
    (64, 0xC00000030282025, .isub64 (ops .s 8 10 12 0) .satU),
    (64, 0x30282029, .imul64 (ops .s 8 10 12 0) .wrap),
    (64, 0x80000382C24202D, .imad64w (ops .s 8 9 11 14) true)] ++ [
    (64, 0x2C241C31, .imin (ops .s 7 9 11 0) false),
    (96, 0x50800000000241C36, .imax (ops .m 7 9 0 0 0x5) true),
    (64, 0x400000000241C39, .iabs (ops .s 7 9 0 0) true),
    (64, 0x241C3D, .ineg (ops .s 7 9 0 0) false),
    (64, 0x400000030282041, .and (ops .s 8 10 12 0) true),
    (64, 0x2C241C45, .or (ops .s 7 9 11 0) false),
    (96, 0xFFFFFFFF0000000000241C4A, .xor (ops .m 7 9 0 0 0xFFFFFFFF) false),
    (64, 0x40000003028204D, .andn (ops .s 8 10 12 0) true),
    (64, 0x400000034282051, .shl (ops .s 8 10 13 0) true),
    (96, 0x40000000000241C56, .shr (ops .m 7 9 0 0 0x4) false),
    (64, 0x2C241C59, .sar (ops .s 7 9 11 0) false),
    (64, 0x40000002C28205D, .rot (ops .s 8 10 11 0) true)] ++ [
    (64, 0x400000000281C61, .popc (ops .s 7 10 0 0) true),
    (64, 0x241C65, .clz (ops .s 7 9 0 0) false),
    (64, 0x400000000282069, .brev (ops .s 8 10 0 0) true),
    (64, 0x80000002C241C6D, .bfe (ops .s 7 9 11 0) true),
    (64, 0x342C241C71, .bfi (ops .s 7 9 11 13)),
    (64, 0x400003C30282075, .sel (ops .s 8 10 12 15) true),
    (64, 0x7400000030281C79, .icmp (ops .s 7 10 12 0) .ge .z64),
    (64, 0x340000002C28207D, .lea (ops .s 8 10 11 0) 5 true)]

theorem test_decode_int : reads wordsInt = true := by decide +kernel

/-- One word of every instruction of a family, put together by hand from its row and the field maps (R24, R29, R37). -/
def wordsFloat : List (Nat × Nat × Instr) :=
  [
    (64, 0x3000000030282081, .fadd (ops .s 8 10 12 0) true .dyn),
    (96, 0x3F8000000800000000241C86, .fsub (ops .m 7 9 0 0 0x3F800000) false .rup),
    (128, 0x3FF0000000000000240000000028208B, .fmul (ops .l 8 10 0 0 0x3FF0000000000000) true .rtz),
    (64, 0xC0000342C241C8D, .ffma (ops .s 7 9 11 13) false .rdn),
    (64, 0x6000000030282091, .fmin (ops .s 8 10 12 0) true true),
    (64, 0x400000002C241C95, .fmax (ops .s 7 9 11 0) false true),
    (64, 0x2000000030282099, .fdiv (ops .s 8 10 12 0) true .rne),
    (64, 0x241C9D, .fsqrt (ops .s 7 9 0 0) false .rne),
    (64, 0x800000000241CA1, .frcp (ops .s 7 9 0 0) false .rup),
    (64, 0x20000000002820A5, .frsq (ops .s 8 10 0 0) true .rne),
    (64, 0x20000000002820A9, .fexp2 (ops .s 8 10 0 0) true),
    (64, 0x241CAD, .flog2 (ops .s 7 9 0 0) false)] ++ [
    (64, 0x241CB1, .fsinpi (ops .s 7 9 0 0) false),
    (64, 0x20000000002820B5, .fcospi (ops .s 8 10 0 0) true),
    (64, 0x6800000030281CB9, .fcmp (ops .s 7 10 12 0) true .lt true),
    (64, 0x2000000000281CBD, .fclass (ops .s 7 10 0 0) true)]

theorem test_decode_float : reads wordsFloat = true := by decide +kernel

/-- One word of every instruction of a family, put together by hand from its row and the field maps (R24, R29, R37). -/
def wordsConvert : List (Nat × Nat × Instr) :=
  [
    (64, 0xE4000000002820C1, .cvtfi (ops .s 8 10 0 0) .rtz true .z64),
    (64, 0x8000000000281CC5, .cvtif (ops .s 7 10 0 0) .rne false .i64),
    (64, 0x800000000281CC9, .cvtff (ops .s 7 10 0 0) .rup .f32f64),
    (64, 0x2C000000002820CD, .frnd (ops .s 8 10 0 0) .rdn true),
    (64, 0x200000002C2820D1, .fscalb (ops .s 8 10 11 0) .rne true),
    (64, 0x2000000000281CD5, .fexpn (ops .s 7 10 0 0) true),
    (64, 0x240000002C241CD9, .hadd2 (ops .s 7 9 11 0) .rtz true),
    (96, 0x3C003C000000000000241CDE, .hmul2 (ops .m 7 9 0 0 0x3C003C00) .rne false),
    (64, 0x300000342C241CE1, .hfma2 (ops .s 7 9 11 13) .dyn true),
    (64, 0x4000000030281CE5, .pcvt (ops .s 7 10 12 0) .rne .n8),
    (64, 0xC000001C00241CE9, .upcvt (ops .s 7 9 0 7) .i4),
    (64, 0x200000342C241CED, .fdot2 (ops .s 7 9 11 13) .rne true)]

theorem test_decode_convert : reads wordsConvert = true := by decide +kernel

/-- One word of every instruction of a family, put together by hand from its row and the field maps (R24, R29, R37). -/
def wordsInterval : List (Nat × Nat × Instr) :=
  [
    (64, 0x400000030282101, .ivmk (ops .s 8 10 12 0) .bounds false true),
    (64, 0x800000030282105, .ivadd (ops .s 8 10 12 0) true false),
    (64, 0x400000040302109, .ivsub (ops .s 8 12 16 0) false true),
    (64, 0x3028210D, .ivmul (ops .s 8 10 12 0) false false),
    (64, 0xC00000040302111, .ivdiv (ops .s 8 12 16 0) true true),
    (64, 0x800000000282115, .ivsqr (ops .s 8 10 0 0) true false),
    (64, 0x282119, .ivsqrt (ops .s 8 10 0 0) false false),
    (64, 0x40000000030211D, .ivneg (ops .s 8 12 0 0) false true),
    (64, 0xC00000000302121, .ivabs (ops .s 8 12 0 0) true true),
    (64, 0x30282125, .ivmeet (ops .s 8 10 12 0) false false),
    (64, 0x800000030282129, .ivjoin (ops .s 8 10 12 0) true false),
    (64, 0x40000000030292D, .ivmid (ops .s 10 12 0 0) false true)] ++ [
    (64, 0x281D31, .ivwid (ops .s 7 10 0 0) false false),
    (64, 0xD800000030281D35, .ivcmp (ops .s 7 10 12 0) .ple true false),
    (64, 0x400001C00302139, .ivsplit (ops .s 8 12 0 7) false true),
    (64, 0x5400000028301D3D, .ivtest (ops .s 7 12 10 0) .mem true)]

theorem test_decode_interval : reads wordsInterval = true := by decide +kernel

/-- One word of every instruction of a family, put together by hand from its row and the field maps (R24, R29, R37). -/
def wordsDot : List (Nat × Nat × Instr) :=
  [
    (64, 0x2C241D41, .pand (ops .s 7 9 11 0)),
    (64, 0x2C241D45, .por (ops .s 7 9 11 0)),
    (64, 0x241D49, .pnot (ops .s 7 9 0 0)),
    (64, 0x2C241D4D, .pxor (ops .s 7 9 11 0)),
    (64, 0x400000000241D51, .pres (ops .s 7 9 0 0) true),
    (64, 0x40000342C241D55, .doti8 (ops .s 7 9 11 13) true false),
    (64, 0x342C241D59, .doti4 (ops .s 7 9 11 13)),
    (64, 0x80000342C241D5D, .dotn8 (ops .s 7 9 11 13) false true),
    (64, 0x342C241D61, .dotn4 (ops .s 7 9 11 13)),
    (64, 0x800000C2C241D65, .pscl (ops .s 7 9 11 3) .rup)]

theorem test_decode_dot : reads wordsDot = true := by decide +kernel

/-- One word of every instruction of a family, put together by hand from its row and the field maps (R24, R29, R37). -/
def wordsMatrix : List (Nat × Nat × Instr) :=
  [
    (64, 0x307D81, .tshape (ops .s 31 12 0 0)),
    (64, 0x400000000007D81, .tshapeFree (ops .s 31 0 0 0)),
    (96, 0x1000100800000000007D82, .tshapeRs (ops .m 31 0 0 0 0x100010)),
    (64, 0x7C2185, .trd (ops .s 8 31 0 0)),
    (96, 0x30000000800007C00241D8A, .tld (ops .m 7 9 0 31 0x3000000) .ws),
    (128, 0x99210000050400007C00241D8F, .tst (ops .l 7 9 0 31 0x9921000005) .loc),
    (96, 0x4004000000007C7992, .mma (ops .m 30 31 0 0 0x40) true),
    (64, 0x2C240195, .accz (ops .s 0 9 11 0)),
    (96, 0x800080800003400241D9A, .accrd (ops .m 7 9 0 13 0x80008) .bf16),
    (128, 0x7110000010C0000342C24019F, .accwr (ops .l 0 9 11 13 0x711000001) .n8),
    (64, 0x1DA1, .mctx (ops .s 7 0 0 0)),
    (64, 0x400000000001DA1, .mctxRel (ops .s 7 0 0 0))] ++ [
    (64, 0x400000000001DA5, .elect (ops .s 7 0 0 0) true),
    (64, 0x1DA9, .msync (ops .s 7 0 0 0))]

theorem test_decode_matrix : reads wordsMatrix = true := by decide +kernel

/-- One word of every instruction of a family, put together by hand from its row and the field maps (R24, R29, R37). -/
def wordsControl : List (Nat × Nat × Instr) :=
  [
    (96, 0xFFFFFFFC02050000000001C2, .bra { (ops .m 0 0 0 0 0xFFFFFFFC) with ep := 0, dk := 0, g := 5, gs := 2 }),
    (64, 0x2801C5, .brx (ops .s 0 10 0 0)),
    (128, 0x400000002000000000002401CB, .brt (ops .l 0 9 0 0 0x4000000020)),
    (96, 0x10000000000000021CE, .call (ops .m 8 0 0 0 0x100)),
    (64, 0x2821D1, .callx (ops .s 8 10 0 0)),
    (64, 0x2801D5, .ret (ops .s 0 10 0 0)),
    (64, 0x1D9, .exit (ops .s 0 0 0 0)),
    (96, 0x800000003400001DDE, .spawn (ops .m 7 0 0 13 0x80)),
    (64, 0x1E1, .yield (ops .s 0 0 0 0)),
    (64, 0x200000001E5, .trap (ops .s 0 0 0 128)),
    (64, 0x1E9, .bkpt (ops .s 0 0 0 0)),
    (96, 0x123400000000000001EE, .sys (ops .m 0 0 0 0 0x1234))]

theorem test_decode_control : reads wordsControl = true := by decide +kernel

/-- One word of every instruction of a family, put together by hand from its row and the field maps (R24, R29, R37). -/
def wordsSync : List (Nat × Nat × Instr) :=
  [
    (64, 0x3C00000201, .bar (ops .s 0 0 0 15)),
    (64, 0xC00001E05, .bara (ops .s 7 0 0 3)),
    (64, 0xC00240209, .barw (ops .s 0 9 0 3)),
    (64, 0x142C241E0D, .rvx (ops .s 7 9 11 5)),
    (64, 0x1400000800241E11, .rvred (ops .s 7 9 0 2) .maxI32),
    (64, 0x4C0000002C281E15, .waita (ops .s 7 10 11 0) .sys .glb true),
    (64, 0xC0000FC2C241E19, .qpush (ops .s 7 9 11 63) true true),
    (96, 0x64040000140024221E, .qpop (ops .m 8 9 0 5 0x64) true false),
    (64, 0x400001400241E21, .qcnt (ops .s 7 9 0 5) true),
    (64, 0x1800000225, .qclose (ops .s 0 0 0 6)),
    (64, 0x1800002229, .qstat (ops .s 8 0 0 6))]

theorem test_decode_sync : reads wordsSync = true := by decide +kernel

/-- One word of every instruction of a family, put together by hand from its row and the field maps (R24, R29, R37). -/
def wordsMemory : List (Nat × Nat × Instr) :=
  [
    (96, 0x32FFFFFC9000000000281E42, .ld (ops .m 7 10 0 0 0x32FFFFFC) true .b16 .glb),
    (64, 0x4400020030240245, .st (ops .s 0 9 12 128) .b128 .loc),
    (64, 0x1800000400242249, .ldi (ops .s 8 9 0 1) true .ws),
    (96, 0x44000010000000003028024E, .sti (ops .m 0 10 12 0 0x44000010) false .glb),
    (64, 0x3800001C50282251, .ldt (ops .s 8 10 20 7) false .b64 .ws),
    (64, 0x2000000C50281E55, .stt (ops .s 7 10 20 3) .b32 .glb),
    (96, 0x3000040000000000028025A, .pref (ops .m 0 10 0 0 0x3000040)),
    (64, 0x300000000000125D, .fence (ops .s 4 0 0 0) .ar),
    (64, 0x400000800280261, .cflush (ops .s 0 10 0 2) true),
    (96, 0x200C00000000280266, .cinv (ops .m 0 10 0 0 0x20) .pkg)]

theorem test_decode_memory : reads wordsMemory = true := by decide +kernel

/-- One word of every instruction of a family, put together by hand from its row and the field maps (R24, R29, R37). -/
def wordsAtomic : List (Nat × Nat × Instr) :=
  [
    (96, 0x68000004800000002C281E82, .atom (ops .m 7 10 11 0 0x68000004) .maxZ .glb),
    (64, 0x40000342C241E85, .atomc (ops .s 7 9 11 13) .loc),
    (64, 0xA000000030280289, .red (ops .s 0 10 12 0) .addI64 .glb),
    (64, 0x500000003028228D, .atomf (ops .s 8 10 12 0) .maxF64 .glb),
    (64, 0x4400000030242291, .atom64 (ops .s 8 9 12 0) .exch .loc),
    (64, 0x3830282295, .atomc64 (ops .s 8 10 12 14) .glb)]

theorem test_decode_atomic : reads wordsAtomic = true := by decide +kernel

/-- One word of every instruction of a family, put together by hand from its row and the field maps (R24, R29, R37). -/
def wordsSketch : List (Nat × Nat × Instr) :=
  [
    (64, 0x40000FC002802C1, .skbind (ops .s 0 10 0 63) true),
    (64, 0x4000002C5, .skfree (ops .s 0 0 0 1)),
    (64, 0x40000082C2802C9, .skins (ops .s 0 10 11 2) true),
    (64, 0x800281ECD, .skqry (ops .s 7 10 0 2)),
    (64, 0x80C0002D1, .skmerge (ops .s 0 0 3 2)),
    (64, 0x8000002D5, .skfold (ops .s 0 0 0 2)),
    (64, 0x8000002D9, .skclr (ops .s 0 0 0 2)),
    (64, 0x8000022DD, .skstat (ops .s 8 0 0 2))]

theorem test_decode_sketch : reads wordsSketch = true := by decide +kernel

/-- One word of every instruction of a family, put together by hand from its row and the field maps (R24, R29, R37). -/
def wordsEngine : List (Nat × Nat × Instr) :=
  [
    (128, 0x200000001800004030241F03, .cpy (ops .l 7 9 12 16 0x20000000) .gth .loc .glb),
    (128, 0x2FFF05110000000800007840281F07, .cpyw (ops .l 7 10 16 30 0x2FFF0511000000) .ws),
    (128, 0x40000000040000382C281F0B, .cpyl (ops .l 7 10 11 14 0x40000000) true),
    (128, 0x200000000400003000241F0F, .coll (ops .l 7 9 0 12 0x20000000) true),
    (64, 0x242311, .hwait (ops .s 8 9 0 0)),
    (64, 0x242315, .htest (ops .s 8 9 0 0)),
    (64, 0x241F19, .hcancel (ops .s 7 9 0 0)),
    (64, 0x241F1D, .hmov (ops .s 7 9 0 0)),
    (64, 0x241F21, .cslot (ops .s 7 9 0 0)),
    (64, 0x400000000241F21, .cslotFree (ops .s 7 9 0 0))]

theorem test_decode_engine : reads wordsEngine = true := by decide +kernel

/-- One word of every instruction of a family, put together by hand from its row and the field maps (R24, R29, R37). -/
def wordsSystem : List (Nat × Nat × Instr) :=
  [
    (64, 0x2800002341, .srd (ops .s 8 0 0 10)),
    (64, 0x6000240345, .swr (ops .s 0 9 0 24)),
    (64, 0x400001F49, .feat (ops .s 7 0 0 1)),
    (64, 0x34D, .eret (ops .s 0 0 0 0)),
    (64, 0x1C00000000000351, .tlbi (ops .s 0 0 0 0) true .pkg),
    (64, 0xDC00001F55, .evrd (ops .s 7 0 0 55)),
    (64, 0x9400240359, .evcfg (ops .s 0 9 0 37))]

theorem test_decode_system : reads wordsSystem = true := by decide +kernel

/-! ### States that meet the statements' hypotheses -/

/-- The loaded program (team 1, thread 0, core 0) while it executes an instruction. -/
def base : State := { State.reset.withFetchWord 64 1 with cur := some ⟨⟨1, 0⟩, [1, 0]⟩, nextId := 60 }

/-- The instruction is about to have its effect, and the executing thread's view meets a condition. -/
def holds (s : State) (i : Instr) (f : Env → Bool) : Bool :=
  match s.executing with
  | some e => e.ready i && f e
  | none => false

theorem runs_of_holds {s : State} {i : Instr} {f : Env → Bool} (h : holds s i f = true) : ∃ e, Runs i s e ∧ f e = true := by
  unfold holds at h
  split at h
  next e he => exact ⟨e, ⟨he, (Bool.and_eq_true_iff.1 h).1⟩, (Bool.and_eq_true_iff.1 h).2⟩
  next => cases h

/-- Each instruction is about to have its effect. -/
def allRun (s : State) (l : List Instr) : Bool := l.all fun i => holds s i fun _ => true

/-- The executing thread with some registers. -/
def withRegs (s : State) (l : List (Reg × Word)) : State := s.updThread ⟨1, 0⟩ fun t => t.wrs l

/-- The executing thread changed. -/
def withThread (s : State) (f : Thread → Thread) : State := s.updThread ⟨1, 0⟩ f

/-- A trap held for a thread. -/
def heldRace : Trap := { cause := .race, deferred := true, epc := 0x200000, eaddr := 0, einfo := 0, einst := [] }

/-- An operation of one access, at 0x1000. -/
def opOf (kind : OpKind) (size data : Nat) (done : Option Nat) (n : Nat) : MemOp :=
  { id := 50, kind := kind, accs := [{ id := 51, at_ := ⟨.hbm, 0x1000⟩, size := size, data := data, done := done, early := false }], ord := .rlx, scope := .thr, cmp := 0
    dst := 40, dstN := n, core := 0, pc := 0x200000, va := 0x1000, conds := {}, einst := [], hint := 0, seen := [], area := [], grain := 32, cp := 0, n := 0 }

/-- The thread has an operation that has not been performed. -/
def unsettled (s : State) : State := withThread s fun t => { t with ops := [opOf .store 4 0 none 0] }

/-- The thread has 63 operations in flight. -/
def crowded (s : State) : State := withThread s fun t => { t with ops := (List.range 63).map fun k => { opOf .compare 4 0 (some 0) 1 with id := 50 + k } }

/-- The thread has a pending request of a kind. -/
def asking (s : State) (k : PKind) : State :=
  withThread s fun t => { t with pend := some { id := 45, kind := k, dst := 44, size := 1, val := 0, arg := 0, pc := 0x200000, einst := [] } }

def xs : Ops := ops .s 40 8 16 24
def xm : Ops := ops .m 40 8 0 24 0x20
def xl : Ops := ops .l 40 8 0 0 0x3FF0000000000000

theorem witness_MovesAndWrappingIntegers : allRun base [.nop xs, .mov xs, .mov xm, .movw xs, .movw xl, .sel xs true, .lea xs 7 false,
    .iadd xs .wrap, .iadd xm .wrap, .isub xs .wrap, .imul xs .wrap, .imad xs .wrap, .iadd64 xl .wrap, .isub64 xs .wrap, .imul64 xs .wrap,
    .imulh xs false, .imulh xs true, .imad64w xs true, .imad64w xs false, .imin xs true, .imax xs false, .iabs xs false, .ineg xs false] = true := by
  decide +kernel

theorem witness_IntegerResultsSaturate : (SatMode.sat ≠ .wrap ∧ SatMode.satU ≠ .wrap) ∧ allRun base [.iadd xs .sat, .iadd xm .satU, .isub xs .satU,
    .imul xs .sat, .imad xs .sat, .iadd64 xs .sat, .isub64 xs .sat, .imul64 xs .satU, .iabs xs true, .ineg xs true] = true := by decide +kernel

theorem witness_BitInstructionsComplete : allRun base [.and xs false, .or xs false, .xor xm false, .andn xs false, .and xs true, .or xs true,
    .xor xm true, .andn xs true, .shl xs false, .shl xm false, .shr xs true, .sar xs false, .rot xs true, .popc xs false, .clz xs true,
    .brev xs true, .bfe xs false, .bfe xm true, .bfi xs] = true := by decide +kernel

theorem witness_PredicatesComplete : allRun base [.icmp xs .eq .i32, .icmp xm .lt .z64, .pand xs, .por xs, .pnot xs, .pxor xs, .pres xs true] = true := by
  decide +kernel

theorem witness_FloatInstructionsComplete : allRun base [.fadd xs false .rne, .fadd xl true .dyn, .fsub xs true .rtz, .fmul xs false .rup,
    .ffma xs true .rdn, .fmin xs false true, .fmax xs true false, .fcmp xs false .un true, .fclass xs true, .frcp xs false .rne, .frsq xs true .rne,
    .fexp2 xs false, .flog2 xs true, .fsinpi xs false, .fcospi xs true, .fdiv xs false .rne, .fsqrt xs false .dyn] = true
    ∧ holds base (.fdiv xs true .rne) (fun e => decide (e.t.inFlight < 63)) = true
    ∧ holds base (.fsqrt xs true .rne) (fun e => decide (e.t.inFlight < 63)) = true := by decide +kernel

theorem witness_RoundingIsCorrect : ([f64, f32, f16, b16].all fun f => [RMode.rne, .rtz, .rup, .rdn].all fun mode =>
    [(1, f.qmin - 2), (2 ^ (f.fbits + 1) + 1, -1), (3, 0), (3, f.qmin - 1)].all fun (m, e) => decide (m ≠ 0) && !(f.roundExact mode true m e).2.ov
      && !(f.value 1).isNan && !(f.value 1).isInf) = true ∧ (f32.roundExact .rtz true 3 (f32.qmin - 1)).2.uf = true := by decide +kernel

/-- A code is a number and stands for a value, as a program tests it. -/
def isRat (f : FFmt) (c : Nat) (q : Rat) : Bool := !(f.value c).isNan && !(f.value c).isInf && decide (ratOf (f.value c) = q)

/-- Overflow, special codes; for the functions of one operand NaNs, infinities, zeros, a negative number, an integer, half an odd integer and a power of two;
for the comparisons no NaN, one, two, and zeros of unlike signs. -/
theorem witness_SpecialFloatResults : ([f64, f32, f16, b16].all fun f =>
    (f.roundExact .rne true 1 1100).2.ov && (f.value f.nanCode).isNan && (f.value f.infCode).isInf && (f.value 0).isZero
      && (let one := f.value ((f.roundExact .rne false 1 0).1); !one.isNan && !one.isInf && !one.isZero && (f.value (f.infCode + 1)).isSnan)) = true
    ∧ f32.value 0x7F800000 = .inf false ∧ f32.value 0xFF800000 = .inf true ∧ f64.value 0x7FF0000000000000 = .inf false
    ∧ f64.value 0xFFF0000000000000 = .inf true
    ∧ (isRat f32 0xBF800000 (-1) && isRat f32 0x40400000 3 && isRat f32 0x3FC00000 (1 + 1 / 2) && isRat f32 0x3E800000 ((2 : Rat) ^ (-2 : Int))
      && isRat f64 0xBFF0000000000000 (-1) && isRat f64 0x4008000000000000 3 && isRat f64 0x3FF8000000000000 (1 + 1 / 2)
      && isRat f64 0x3FD0000000000000 ((2 : Rat) ^ (-2 : Int))) = true
    ∧ f32.qmin ≤ 3 ∧ (3 : Int) ≤ f32.bias ∧ f64.qmin ≤ 3 ∧ (3 : Int) ≤ f64.bias
    ∧ (f32.value 0).isZero = true ∧ (f32.value 0x80000000).isZero = true ∧ (f32.value 0).neg ≠ (f32.value 0x80000000).neg
    ∧ (f64.value 0x8000000000000000).neg = true ∧ (f32.value 0x7FC00000).isNan = true ∧ (f32.value 0x3F800000).isNan = false := by
  decide +kernel

/-- Numbers with a zero of either sign, a product, a quotient and a root that do not overflow; pairs of FP16 and of BF16 numbers; one term of a narrow
product, and none. -/
theorem witness_SumsAndProductsRoundOnce : (f32.value 0x3F800000 = .fin false (2 ^ 23) (-23) ∧ f32.value 0x80000000 = .fin true 0 (-149))
    ∧ (f64.value 1 = .fin false 1 (-1074) ∧ f16.value 0x3C00 = .fin false (2 ^ 10) (-10) ∧ b16.value 0x3F80 = .fin false (2 ^ 7) (-7))
    ∧ (f32.div .rne 0x3F800000 0x40400000).2.ov = false ∧ (f32.rcp .rne 0x40400000).2.ov = false
    ∧ ([f16, b16].all fun f => !(f.value 0x3C00).isNan && !(f.value 0x3C00).isInf) = true ∧ (0x3C003C00 : Word).toNat % 2 ^ 16 = 0x3C00
    ∧ (0x3C003C00 : Word).toNat / 2 ^ 16 = 0x3C00 := by
  decide +kernel

theorem witness_ConversionsComplete : allRun base [.cvtfi xs .rtz false .i32, .cvtfi xs .dyn true .z64, .cvtif xs .rne true .i64, .cvtif xs .rne false .z32,
    .cvtff xs .rne .f32f64, .cvtff xs .rne .f64f32, .cvtff xs .rne .f16f32, .cvtff xs .rne .f32f16, .cvtff xs .rne .bf16f32, .cvtff xs .rne .f32bf16,
    .cvtff xs .rne .f16f64, .cvtff xs .rne .f64f16, .frnd xs .rup true, .fscalb xs .rne false, .fscalb xm .rne true, .fexpn xs true] = true := by
  decide +kernel

theorem witness_PackedAndNarrowInstructionsComplete : allRun base [.hadd2 xs .rne true, .hmul2 xm .rne false, .hfma2 xs .dyn false, .fdot2 xs .rne true,
    .pcvt xs .rne .n8, .pcvt xs .rne .i4, .upcvt { xs with c := 0 } .f16, .upcvt { xs with c := 7 } .n4, .doti8 xs true false, .doti4 xs, .dotn8 xs true false,
    .dotn4 xs, .pscl { xs with c := 3 } .rne] = true := by decide +kernel

/-- Special operands of FFMA, FDOT2 and the dot products: infinity times zero, a NaN, a signalling one, infinite products and addends. -/
theorem witness_SpecialFloatResults_fused : (f32.value 0x7F800001).isSnan = true ∧ (f32.value 0x7FC00000).isNan = true ∧ (f32.value 0x7FC00000).isSnan = false
    ∧ ([f16, b16].all fun f => let inf := 0x10001 * f.infCode
      (f.value (inf % 2 ^ 16)).isInf && (f.value (inf / 2 ^ 16)).isInf && (f.value 0).isZero && !(f.value 0).neg && (f.value (f.signed true f.infCode)).neg
        && (f.value f.nanCode).isNan && !(f.value f.nanCode).isSnan && (f.value (f.infCode + 1)).isSnan) = true := by decide +kernel

/-- A number of each kind for the conversions: 2.5 rounds in every mode, a power of two, and an integer that FP32 holds. -/
theorem witness_ConversionsComplete_values : f32.value 0x40200000 = .fin false (5 * 2 ^ 21) (-22) ∧ absOf (2 ^ 24 : Int) ≤ 2 ^ (f32.fbits + 1)
    ∧ ([(f64, 0x7FF8000000000000), (f32, 0x7FC00000), (f16, 0x7E00), (b16, 0x7FC0)].all fun p => (p.1.value p.2).isNan && (p.1.value p.1.infCode).isInf
      && (p.1.value 0).isZero && (match p.1.value 1 with
        | .fin _ m _ => decide (m ≠ 0)
        | _ => false)) = true ∧ f16.fbits ≤ f32.fbits ∧ f16.ebits ≤ f32.ebits := by decide +kernel

/-- Codes of the packed formats, and sources above the largest number of each and below. -/
theorem witness_PackedAndNarrowInstructionsComplete_values : isRat f32 0x42060000 (67 / 2) = true ∧ narrowValue 4 3 0x7F = 31 ∧ narrowValue 2 15 0x7F = 114688
    ∧ (PkCode.value .n8 0x80).isNan = true ∧ (PkCode.value .f16 0x7C00).isInf = true ∧ (PkCode.value .f16 0x7C00).isNan = false := by decide +kernel

/-! ### Intervals -/

/-- Operand pairs: [1, 2] at 8, [3, 4] at 16, the empty interval at 24, a malformed one at 32, [−4, −1] at 36; [1, 2] and the empty interval of FP64
at 48 and 56. -/
def ivState (mode : Word) : State := withThread base fun t => { t with mode := mode }.wrs
  ([(8, 0x3F800000), (9, 0x40000000), (16, 0x40400000), (17, 0x40800000), (24, 0x7F800000), (25, 0xFF800000), (32, 0x40000000), (33, 0x3F800000)] ++
    w2 48 0x3FF0000000000000 ++ w2 50 0x4000000000000000 ++ [(36, 0xC0800000), (37, 0xBF800000)] ++ w2 56 0x7FF0000000000000 ++ w2 58 0xFFF0000000000000)

/-- The interval instructions of two operands, and of one. -/
def ivTwo (x : Ops) (ex w : Bool) : List Instr :=
  [.ivadd x ex w, .ivsub x ex w, .ivmul x ex w, .ivdiv x ex w, .ivmeet x ex w, .ivjoin x ex w, .ivcmp x .lt ex w, .ivcmp x .sub ex w]

def ivOne (x : Ops) (ex w : Bool) : List Instr := [.ivsqr x ex w, .ivsqrt x ex w, .ivneg x ex w, .ivabs x ex w, .ivmid x ex w, .ivwid x ex w]

theorem witness_IntervalInstructionsComplete :
    ((ivTwo xs false false).all fun i => holds (ivState 0) i fun e => (ivIn false e.t 8).isSome && (ivIn false e.t 16).isSome) = true
    ∧ ((ivOne xs false false ++ [Instr.ivtest xs .mem false, .ivtest xs .bnd false]).all fun i => holds (ivState 0) i fun e => (ivIn false e.t 8).isSome) = true
    ∧ ((ivTwo { xs with b := 24 } true false).all fun i => holds (ivState 0) i fun e => decide (ivIn false e.t 24 = some .empty)) = true
    ∧ ((ivOne { xs with a := 24 } false false).all fun i => holds (ivState 0x10) i fun e => decide (ivIn false e.t 24 = some .empty) && e.t.mode.getLsbD 4)
      = true := by
  decide +kernel

theorem witness_IvmkCompletes : holds (ivState 0) (.ivmk { xs with b := 9 } .bounds false false) (fun e => (ivPair f32 (e.t.rd 8).toNat (e.t.rd 9).toNat).isSome)
      = true
    ∧ holds (ivState 0) (.ivmk { xs with a := 24, b := 25 } .bounds true false)
      (fun e => decide (ivPair f32 (e.t.rd 24).toNat (e.t.rd 25).toNat = some .empty)) = true
    ∧ holds (ivState 0) (.ivmk xs .pt false false) (fun e => !(f32.value (e.t.rd 8).toNat).isNan && !(f32.value (e.t.rd 8).toNat).isInf) = true
    ∧ holds (ivState 0) (.ivmk { xs with a := 48 } .cvt false false) (fun e => (ivIn true e.t 48).isSome) = true := by
  decide +kernel

theorem witness_IntervalFaults_malformed :
    ((ivTwo { xs with a := 32 } true false ++ ivOne { xs with a := 32 } true false ++ [Instr.ivtest { xs with a := 32 } .mem false,
      .ivsplit { xs with a := 32 } true false]).all fun i => holds (ivState 0) i fun e =>
        decide (ivIn false e.t 32 = none) && !e.t.dividing && (regRange 0 (16 * e.st.gran)).all e.t.full) = true
    ∧ ((ivTwo { xs with b := 32 } true false).all fun i => holds (ivState 0) i fun e => decide (ivIn false e.t 32 = none) && !e.t.dividing) = true
    ∧ holds (ivState 0) (.ivmk { xs with a := 32, b := 33 } .bounds true false)
      (fun e => decide (ivPair f32 (e.t.rd 32).toNat (e.t.rd 33).toNat = none) && !e.t.dividing) = true
    ∧ holds (ivState 0) (.ivmk { xs with a := 25 } .pt true false) (fun e => (f32.value (e.t.rd 25).toNat).isInf && !e.t.dividing) = true
    ∧ holds (ivState 0) (.ivmk { xs with a := 32 } .cvt true false) (fun e => decide (ivIn true e.t 32 = none) && !e.t.dividing) = true := by
  decide +kernel

theorem witness_IntervalFaults_empty :
    ((ivOne { xs with a := 24 } false false ++ [Instr.ivsplit { xs with a := 24 } false false]).all fun i => holds (ivState 0) i fun e =>
      decide (ivIn false e.t 24 = some .empty) && !e.t.dividing && !e.t.mode.getLsbD 4 && (regRange 0 (16 * e.st.gran)).all e.t.full) = true
    ∧ ([{ xs with a := 24 }, { xs with b := 24 }].all fun (x : Ops) => (ivTwo x false false).all fun i => holds (ivState 0) i fun e =>
      (decide (ivIn false e.t x.a = some .empty) || decide (ivIn false e.t x.b = some .empty)) && (ivIn false e.t x.a).isSome
        && (ivIn false e.t x.b).isSome && !e.t.dividing && !e.t.mode.getLsbD 4) = true
    ∧ holds (ivState 0) (.ivmeet xs false false) (fun e => match ivIn false e.t 8, ivIn false e.t 16 with
      | some a, some b => decide (a.meet b = .empty)
      | _, _ => false) = true
    ∧ holds (ivState 0) (.ivsqrt { xs with a := 36 } false false) (fun e => (ivIn false e.t 36).any fun a => decide (f32.ivSqrt a = none)) = true
    ∧ holds (ivState 0) (.ivmk { xs with a := 24, b := 25 } .bounds false false)
      (fun e => decide (ivPair f32 (e.t.rd 24).toNat (e.t.rd 25).toNat = some .empty)) = true
    ∧ holds (ivState 0) (.ivmk { xs with a := 56 } .cvt false false) (fun e => decide (ivIn true e.t 56 = some .empty)) = true := by
  decide +kernel

/-- The number lies in the interval, as a program tests it. -/
def inIv (a : Iv) (q : Rat) : Bool :=
  match a with
  | .empty => false
  | .mk lo hi => (decide (lo = .inf true) || (!lo.isNan && !lo.isInf && decide (ratOf lo ≤ q)))
      && (decide (hi = .inf false) || (!hi.isNan && !hi.isInf && decide (q ≤ ratOf hi)))

theorem ivHas_iff (a : Iv) (q : Rat) : ivHas a q ↔ inIv a q = true := by
  cases a <;> simp [ivHas, inIv, isNumber, and_assoc]

/-- [1, 2] and [2, ∞] share 2 and are no empty intervals, and the second has no 0; [−4, −1] and [0, 2] share nothing, the second has 0, and the first no
root; [1, 2] has a member from 0 on, and its root exists; its bounds are values in order. -/
theorem witness_IntervalResultsEnclose :
    (∃ a b, ivPair f32 0x3F800000 0x40000000 = some a ∧ ivPair f32 0x40000000 0x7F800000 = some b ∧ a ≠ .empty ∧ b ≠ .empty ∧ a.meet b ≠ .empty
      ∧ ivHas a 2 ∧ ivHas b 2 ∧ ¬ivHas b 0 ∧ (0 : Rat) ≤ 2 ∧ (f32.ivSqrt a).isSome = true
      ∧ a = .mk (f32.value 0x3F800000) (f32.value 0x40000000))
    ∧ ((f32.value 0x3F800000).isNan = false ∧ (f32.value 0x40000000).isNan = false
      ∧ isRat f32 0x3F800000 1 = true ∧ isRat f32 0x40000000 2 = true ∧ (1 : Rat) ≤ 2)
    ∧ ∃ a b, ivPair f32 0xC0800000 0xBF800000 = some a ∧ ivPair f32 0 0x40000000 = some b ∧ a ≠ .empty ∧ b ≠ .empty ∧ ivHas b 0
      ∧ a = .mk (.fin true (2 ^ 23) (-21)) (.fin true (2 ^ 23) (-23)) := by
  simp only [ivHas_iff]
  exact ⟨⟨_, _, rfl, rfl, by decide +kernel⟩, by decide +kernel, ⟨_, _, rfl, rfl, by decide +kernel⟩⟩

/-- 1.5 lies between the bounds of [1, 2], and nothing between those of a point; intervals with one infinite bound, with the other, and with two. -/
theorem witness_IntervalResultsEnclose_midpoints : isRat f32 0x3FC00000 (3 / 2) = true ∧ (1 : Rat) < 3 / 2 ∧ (3 / 2 : Rat) < 2
    ∧ (∀ (v : FVal) (c : Nat), ¬(isNumber (f32.value c) ∧ ltVal v (f32.value c) ∧ ltVal (f32.value c) v))
    ∧ ivPair f32 0xFF800000 0x3F800000 = some (.mk (.inf true) (.fin false (2 ^ 23) (-23)))
    ∧ ivPair f32 0x3F800000 0x7F800000 = some (.mk (.fin false (2 ^ 23) (-23)) (.inf false))
    ∧ ivPair f32 0xFF800000 0x7F800000 = some (.mk (.inf true) (.inf false)) :=
  ⟨by decide +kernel, by decide +kernel, by decide +kernel, fun _ _ h => h.2.1.2 h.2.2.1, by decide +kernel, by decide +kernel, by decide +kernel⟩

/-- A bound that is zero: of [−0, 1]. -/
theorem witness_IntervalResultsEnclose_zero : (f32.value 0x80000000).isZero = true ∧ (ivPair f32 0x80000000 0x3F800000).isSome = true := by decide +kernel

/-! ### Control flow and traps -/

theorem witness_BranchesAndCallsComplete :
    ([Instr.bra { xm with ext := 0x40 }, .call { xm with ext := 0x40 }, .brx xs, .ret xs, .callx xs].all fun i => holds base i fun e =>
      decide (e.t.pair 8 &&& 3 = 0) && decide ((e.t.pc + (BitVec.ofNat 32 0x40).signExtend 64) &&& 3 = 0)) = true
    ∧ holds base (.brt { xl with ext := 0x0000000800000004 }) (fun e => decide (e.t.rd 8 = 0)) = true
    ∧ holds (withRegs base [(8, 0xFFFFFFFE)]) (.brt { xl with ext := 0x0000000800000004 })
      (fun e => decide (e.t.rd 8 ≠ 0 ∧ e.t.rd 8 ≠ 0xFFFFFFFF ∧ (e.t.pc + 4) &&& 3 = 0)) = true
    ∧ holds (withRegs base [(8, 1)]) (.brt { xl with ext := 0x0000000100000001 })
      (fun e => decide (e.t.rd 8 ≠ 0 ∧ e.t.rd 8 ≠ 0xFFFFFFFF ∧ (e.t.pc + 1) &&& 3 ≠ 0) && !e.t.dividing) = true
    ∧ holds (withRegs base [(8, 0xFFFFFFFF)]) (.brt { xl with ext := 0x0000000100000001 })
      (fun e => decide (e.t.rd 8 = 0xFFFFFFFF ∧ (e.t.pc + 1) &&& 3 ≠ 0) && !e.t.dividing) = true
    ∧ holds (withRegs base [(8, 0xFFFFFFFF)]) (.brt { xl with ext := 0x0000000800000004 }) (fun e => decide (e.t.rd 8 = 0xFFFFFFFF ∧ (e.t.pc + 8) &&& 3 = 0))
      = true
    ∧ ([Instr.brx xs, .ret xs, .callx xs].all fun i => holds (withRegs base [(8, 2)]) i fun e => !e.t.dividing && decide (e.t.pair 8 &&& 3 ≠ 0)) = true
    ∧ ([Instr.bra { xm with ext := 1 }, .call { xm with ext := 3 }].all fun i => holds base i fun e =>
      !e.t.dividing && decide ((e.t.pc + 1) &&& 3 ≠ 0) && decide ((e.t.pc + 3) &&& 3 ≠ 0)) = true := by
  decide +kernel

theorem witness_ExitAndYieldComplete : allRun base [.exit xs, .yield xs] = true := by decide +kernel

/-- A spawn: target, its registers, budgets. -/
def spawnState : State := (withRegs base (w2 8 0x200040 ++ [(24, 0x0001)])).updStage 2 0 fun st => { st with spawnsMax := 1 }

/-- The child that SPAWN creates, before it has a seat. -/
def spawnChild (x : Ops) (e : Env) : Thread :=
  ({ Thread.fresh (spawnTarget x e) (e.t.mode &&& 0x1F) with
    regs := copyGranules ((e.t.rd x.c).setWidth 16 &&& BitVec.ofNat 16 (2 ^ e.st.gran - 1)) (finishThread e.t (marksOf (.spawn x)) [] [] 0) } : Thread).wr x.d
      (0x80000000 ||| BitVec.ofNat 32 e.ref.tid)

/-- What the ring's entry of a child comes to. -/
def ringGives (i : Instr) (s : State) (e : Env) (child : Thread) : Except (Nat × Option Nat) State :=
  (s.counted e i).writeRing e.pl.ctxNum e.st (e.tm.ringHead + e.tm.ring.length) { child with loc := .ring } (e.tm.maxTid + 1) false

/-- A child waits in the ring already, of 2^n entries, at an address. -/
def ringed (s : State) (n : Nat) (at_ : DWord) : State :=
  (s.updTeam 1 fun tm => { tm with ring := [(9, false)] }).updStage 2 0 fun st => { st with srlog := n, sring := at_ }

/-- The loaded program's page is read-only. -/
def readOnly (s : State) : State := s.store ⟨.hbm, 0x100000⟩ 8 0x09

/-- A creation of a child: the request, the order, an identifier, the budget, a seat, the ring. -/
def creates (s : State) (i : Instr) (child : Env → Thread) (f : Env → Bool) : Bool :=
  let free (e : Env) : Bool := e.t.pend.isNone && e.t.settled && !e.t.dividing && f e
  let room (e : Env) : Bool := free e && decide (e.tm.maxTid + 1 ≤ 65535 ∧ e.tm.spawns + 1 ≤ e.st.spawnsMax)
  let inRing (e : Env) : Bool := room e && decide (e.tm.ring ≠ [] ∧ e.tm.ring.length < 2 ^ e.st.srlog)
  holds (asking s .rvx) i (fun e => e.t.pend.isSome && f e)
    && holds (unsettled s) i (fun e => e.t.pend.isNone && !e.t.settled && f e)
    && holds (s.updTeam 1 fun tm => { tm with maxTid := 65535 }) i (fun e => free e && decide (65535 < e.tm.maxTid + 1))
    && holds (s.updStage 2 0 fun st => { st with spawnsMax := 0 }) i (fun e => free e && decide (e.tm.maxTid + 1 ≤ 65535 ∧ e.st.spawnsMax < e.tm.spawns + 1))
    && holds s i (fun e => room e && decide (e.tm.ring = [])
      && ((s.counted e i).seatIn e.tm e.st.gran (e.tm.benchesFrom e.tcore e.bench)).isSome)
    && holds (ringed s 0 0x10000) i (fun e => room e && decide (e.tm.ring ≠ [] ∧ 2 ^ e.st.srlog ≤ e.tm.ring.length))
    && holds (ringed s 1 0x10000) i (fun e => inRing e && (ringGives i (ringed s 1 0x10000) e (child e)).toOption.isSome)
    && holds (readOnly (ringed s 1 0x10000)) i (fun e => inRing e && match ringGives i (readOnly (ringed s 1 0x10000)) e (child e) with
      | .error (_, none) => true
      | _ => false)
    && holds (ringed s 1 (2 ^ 40)) i (fun e => inRing e && match ringGives i (ringed s 1 (2 ^ 40)) e (child e) with
      | .error (_, some _) => true
      | _ => false)

def xSpawn : Ops := { xs with b := 0 }

theorem witness_SpawnCreatesTheChild : creates spawnState (.spawn xSpawn) (spawnChild xSpawn) (fun e =>
      (maskRegs ((e.t.rd 24).setWidth 16) e.st.gran).all e.t.full && decide (spawnTarget xSpawn e &&& 3 = 0)) = true
    ∧ holds (withThread spawnState fun t => t.markEmpty 3) (.spawn xSpawn) (fun e => !(maskRegs ((e.t.rd 24).setWidth 16) e.st.gran).all e.t.full) = true
    ∧ holds (withRegs spawnState (w2 8 0x200042)) (.spawn xSpawn) (fun e => (maskRegs ((e.t.rd 24).setWidth 16) e.st.gran).all e.t.full
      && decide (spawnTarget xSpawn e &&& 3 ≠ 0) && !e.t.dividing) = true := by decide +kernel

/-- Thread 0's granule 12 is absent; its save area is mapped, or poisoned. -/
def absentGranule (p : List Range) : State := { withThread base fun t => { t with absent := 0x1000, regsAt := 0x400200 } with poison := p }

theorem witness_SpawnCreatesTheChild_filled :
    holds (absentGranule []) (.spawn xSpawn) (fun e => match (absentGranule []).filled e 0x1000 with
      | .ok _ => true
      | .error _ => false) = true
    ∧ holds (absentGranule [⟨.hbm, 0x400500, 0x400540⟩]) (.spawn xSpawn) (fun e => match (absentGranule [⟨.hbm, 0x400500, 0x400540⟩]).filled e 0x1000 with
      | .ok _ => false
      | .error _ => true) = true := by decide +kernel

theorem witness_IvsplitCompletes :
    holds (ivState 0) (.ivsplit { xs with a := 24 } true false) (fun e => (regRange 0 (16 * e.st.gran)).all e.t.full
      && decide (ivIn false e.t 24 = some .empty)) = true := by decide +kernel

theorem witness_IvsplitCompletes_child :
    holds (withThread (ivState 0) fun t => t.markEmpty 200) (.ivsplit xs false false) (fun e => !(regRange 0 (16 * e.st.gran)).all e.t.full) = true
    ∧ holds (withRegs base [(8, 0x3F800000), (9, 0x3F800001)]) (.ivsplit xs false false) (fun e => match ivIn false e.t 8 with
      | some (.mk lo hi) => !(lo.ltn (f32.value (f32.ivMid lo hi)) && (f32.value (f32.ivMid lo hi)).ltn hi)
      | _ => false) = true
    ∧ creates ((ivState 0).updStage 2 0 fun st => { st with gran := 4 }) (.ivsplit xs false false) (fun e => spawnChild xs e) (fun e => (regRange 0 (16 * e.st.gran)).all e.t.full && match ivIn false e.t 8 with
      | some (.mk lo hi) => lo.ltn (f32.value (f32.ivMid lo hi)) && (f32.value (f32.ivMid lo hi)).ltn hi
      | _ => false) = true := by decide +kernel

theorem witness_SoftwareTrapsAreTaken : ([Instr.trap xs, .trap { xm with ext := 7 }, .bkpt xs, .sys xs].all fun i => holds base i fun e => !e.t.dividing)
    = true := by decide +kernel

/-- Thread 0 of team 1 as the state holds it. -/
def seen (s : State) (f : Team → Stage → Thread → Bool) : Bool :=
  match s.team 1 with
  | some tm => match tm.threads.look 0, s.stageOf tm with
    | some t, some st => f tm st t
    | _, _ => false
  | none => false

theorem witness_TrapEntrySavesAndJumps : seen base (fun _ st t => decide (st.traph ≠ 0) && !t.handler) = true := by decide +kernel

theorem witness_TrapWithoutHandlerKills : seen (base.updStage 2 0 fun st => { st with traph := 0 }) (fun _ st _ => decide (st.traph = 0)) = true
    ∧ ([{ heldRace with deferred := false }, { heldRace with cause := .malformedInterval }].all fun (tr : Trap) =>
      seen (withThread base fun t => { t with handler := true }) fun _ _ t => t.handler && decide (tr.deferred = false ∨ tr.cause = .malformedInterval)) = true := by
  decide +kernel

/-- ERET with no operands. -/
def bareOps : Ops := ops .s 0 0 0 0

theorem witness_EretReturns : holds (withThread base fun t => { t with handler := true }) (.eret bareOps) (fun e => e.t.handler) = true
    ∧ holds base (.eret bareOps) (fun e => !e.t.handler) = true ∧ (Instr.eret bareOps).wf = true ∧ (0 : Word).getLsbD 0 = false := by decide +kernel

/-- A command of the executing thread stands in a matrix queue: its flags may still be set. -/
def flagging (s : State) : State := withThread s fun t => { t with ops := [opOf (.atomicF .addF32) 4 0 none 1] }

theorem witness_SystemRegistersComplete :
    ([Instr.srd { xs with c := 9 }, .swr { xs with c := 9 }].all fun i => holds (withRegs base [(8, 0x7F1B)]) i fun e => !base.flagsPending e.ref
        && decide ((e.t.rd 8).toNat % 8 ≤ 3 ∧ e.t.rd 8 &&& 0xFFFF80E0 = 0)) = true
    ∧ ([Instr.srd { xs with c := 9 }, .swr { xs with c := 9 }].all fun i => holds (flagging base) i fun e => (flagging base).flagsPending e.ref) = true
    ∧ allRun base [.srd { xs with c := 0x0A }, .srd { xs with c := 0x18 }, .feat { xs with c := 0 }, .feat { xs with c := 5 }] = true
    ∧ ([4, 0x20].all fun v => holds (withRegs base [(8, v)]) (.swr { xs with c := 9 }) fun e =>
        !(withRegs base [(8, v)]).flagsPending e.ref && decide (3 < v.toNat % 8 ∨ v &&& 0xFFFF80E0 ≠ 0) && !e.t.dividing) = true
    ∧ holds (withRegs base [(8, 1)]) (.swr { xs with c := 0x18 }) (fun e => decide ((e.t.rd 8).toNat ≤ 1)) = true
    ∧ holds (withRegs base [(8, 2)]) (.swr { xs with c := 0x18 }) (fun e => decide (1 < (e.t.rd 8).toNat) && !e.t.dividing) = true
    ∧ ([Instr.evrd { xs with c := 0x37 }, .evrd { xs with c := 0x07 }, .evcfg { xs with c := 0x30 }].all fun i => holds base i (fun e => !e.t.dividing)
        && holds (withThread base fun t => { t with ops := [opOf .arith 8 0 (some 0) 2] }) i (fun e => e.t.dividing)) = true
    ∧ ([0x00, 0x17, 0x24, 0x30].all fun c => holds (withRegs base [(8, 3)]) (.evcfg { xs with c := c }) fun e => !e.t.dividing && decide ((e.t.rd 8).toNat ≤ 3))
      = true
    ∧ holds (withRegs base [(8, 4)]) (.evcfg { xs with c := 0x30 }) (fun e => !e.t.dividing && decide (3 < (e.t.rd 8).toNat)) = true := by decide +kernel

/-- The thread waits on a word of a region. -/
def watching (s : State) : State := withThread s fun t => { t with status := .waiting (.address ⟨.hbm, 0x1000⟩ 0x1000 0 false .pkg) }

theorem witness_TlbiInvalidatesAndWaits :
    holds (withThread base fun t => { t with resume := some (.translations 60 [0] none) }) (.tlbi xs false .team)
      (fun e => decide (e.t.resume = some (.translations 60 [0] none))) = true
    ∧ holds (withRegs base (w2 8 (2 ^ 55))) (.tlbi xs false .team) (fun e => decide (e.t.resume = none) && e.t.settled && !canonical (e.t.pair 8).toNat) = true
    ∧ holds base (.tlbi xs true .team) (fun e => decide (e.t.resume = none) && e.t.settled) = true
    ∧ holds base (.tlbi xs false .pkg) (fun e => decide (e.t.resume = none) && e.t.settled && canonical (e.t.pair 8).toNat) = true
    ∧ holds (unsettled base) (.tlbi xs true .team) (fun e => decide (e.t.resume = none) && !e.t.settled
      && decide (e.tm.coreOf e.t ∈ scopeCores .team e ∧ e.pl.ctxNum = 0 ∧ e.tm.phase ≠ .parked)) = true
    ∧ seen (watching base) (fun _ _ t => decide (t.status = .waiting (.address ⟨.hbm, 0x1000⟩ 0x1000 0 false .pkg))) = true := by decide +kernel

/-! ### Encoding and fetch -/

theorem witness_DecodingInvertsEncoding : (Instr.imul (ops .s 4 5 6 0) .sat).wf = true
    ∧ (Instr.imul (ops .s 4 5 6 0) .sat).ops = some (ops .s 4 5 6 0) ∧ (encode (.imul (ops .s 4 5 6 0) .sat)).isSome = true := by
  decide +kernel

theorem witness_EncodingInvertsDecoding : (decode [0x01, 0, 0, 0, 0, 0, 0, 0, 9]).toOption = some (.nop (ops .s 0 0 0 0))
    ∧ (decode [0xFC, 0xFF, 0xFF, 0xFF]).toOption = some .padWord ∧ (decode [0x9D, 3, 0, 0, 0, 0, 0, 0]).toOption = some (.extensionSlot 7) := by decide +kernel

theorem witness_PatternsThatAreNoInstruction : (leNat [0xFC, 0xFF, 0xFF, 0xFF] = 0xFFFFFFFC ∧ leNat [0, 0, 0, 0] % 4 = 0)
    ∧ (leNat [0x03, 0, 0, 0] % 4 ≠ 0 ∧ [0x03, 0, 0, 0].length < 4 * (3 + 1)) ∧ (leNat [0x81, 3, 0, 0] / 64 % 16 = 0xE ∧ leNat [0xC1, 3, 0, 0] / 64 % 16 = 0xF)
    ∧ (base.executing.map fun e => e.t.dividing) = some false := by decide +kernel

/-- The executing thread's view, and what its fetch needs. -/
def fetches (s : State) (f : Env → Target → Bool) : Bool :=
  match s.executing with
  | some e => canonical e.t.pc.toNat && (match (s.translate e.core e.pl.ctxNum none e.t.pc.toNat).1 with
    | .ok x => x.x && (let t := x.place e.t.pc.toNat; f e { t with addr := t.addr / 32 * 32 })
    | .error _ => false)
  | none => false

/-- The loaded program with its page on a peer package. -/
def remotePage : State := base.store ⟨.hbm, 0x100000⟩ 8 0x839

/-- The port over which an address of peer memory is reached is down. -/
def downTo (s : State) (a : Nat) : State := { s with ports := [(Config.route a, { s.port 0 with down := true })] }

theorem downTo_linkDead (s : State) (a : Nat) : (downTo s a).linkDead ⟨.peer, a⟩ = true := by
  simp [downTo, State.linkDead, State.port, Tbl.look]

/-- The executing thread's view meets a condition. -/
def sees (s : State) (f : Env → Bool) : Bool :=
  match s.executing with
  | some e => f e
  | none => false

theorem witness_FetchReadsTheBlock :
    fetches base (fun e b => ((base.core e.core).icache.all fun k => decide (k.1 ≠ b)) && !base.poisoned (b.range 32)) = true
    ∧ fetches (base.updCore 0 fun c => { c with icache := [(⟨.hbm, 0x200020⟩, leBytes 32 0), (⟨.hbm, 0x200000⟩, leBytes 32 1)] })
      (fun _ b => decide (b = ⟨.hbm, 0x200000⟩)) = true
    ∧ fetches remotePage (fun _ b => decide (b.mem = .peer) && !remotePage.linkDead b) = true
    ∧ fetches (downTo remotePage 0x200000) (fun _ b => decide (b = ⟨.peer, 0x200000⟩)) = true := by decide +kernel

/-- A package whose next step is the issue of its thread. -/
def issuing (s : State) (f : List Byte → Bool) : Bool :=
  match s.agenda with
  | .issue r :: rest =>
    let q : State := { s with agenda := rest }
    match q.env { ref := r, words := [] } with
    | some e => q.picked e && e.t.yieldTo.isNone && e.t.late.isNone && (e.t.heldNow.isNone || !e.t.atBoundary) && e.t.denied.isNone && (match q.fetch e with
      | .ok (bs, _) => f bs
      | .error _ => false)
    | none => false
  | _ => false

/-- An instruction of two words whose second lies in the next block: the first stands in the last four bytes of the block at the loaded program. -/
def atBlockEnd : State := ((State.reset.withFetchWord 64 1).updThread ⟨1, 0⟩ fun t => { t with pc := t.pc + 28 }).store ⟨.hbm, 0x20001C⟩ 4 1

theorem witness_StepRunsTheDecodedInstruction : issuing (State.reset.withFetchWord 64 1) (fun bs => (decode bs).toOption.isSome) = true
    ∧ issuing (State.reset.withFetchWord 64 0) (fun bs => match decode bs with
      | .error .illegal => true
      | _ => false) = true
    ∧ issuing atBlockEnd (fun bs => match decode bs with
      | .error .fetchBoundary => true
      | _ => false) = true := by decide +kernel

theorem witness_EveryStepKeepsTheMemoryForm : (base.mems.all fun e => Memory.wf e.2) = true ∧ (match step (State.reset.withFetchWord 64 1) with
    | .next _ => true
    | _ => false) = true := by decide +kernel

/-! ### Guards, sources and frames -/

/-- The names of an instruction are the kernel's and present. -/
def present (i : Instr) (e : Env) : Bool :=
  match i.row, i.ops with
  | some r, some x => (rowNamed r x).all (fun g => decide (g.toNat < 16 * e.st.gran)) && decide (granulesOf (rowNamed r x) &&& e.t.absent = 0)
  | _, _ => false

/-- Registers of the thread are dead. -/
def dead (s : State) (l : List Reg) : State := withThread s fun t => l.foldl Thread.markDead t

theorem witness_GuardedOffInstructionsSkip : ([(0, 0), (1, 1), (2, 5), (3, 7), (0, 0xFFFFFFFF), (2, 0)].all fun (p : Nat × Nat) =>
    let i : Instr := .iadd { xs with g := 3, gs := BitVec.ofNat 2 p.1 } .wrap
    sees (withRegs base [(3, BitVec.ofNat 32 p.2)]) fun e => present i e && e.t.full 3 && !e.t.isDead 3 && (let v := e.t.rd 3
      match p.1 with
      | 0 => decide (v = 0 ∨ v = 0xFFFFFFFF)
      | 1 => decide (v ≠ 0)
      | 2 => decide (v ≠ 0xFFFFFFFF)
      | _ => decide (v ≠ 0 ∧ v ≠ 0xFFFFFFFF))) = true
    ∧ (let i : Instr := .iadd { xs with g := 3, gs := 0 } .wrap
      sees (dead base [3]) (fun e => present i e && e.t.full 3 && e.t.isDead 3 && !e.t.modeT && decide (e.t.rd 3 = 0)) = true
      ∧ sees (withThread (dead base [3]) fun t => { t with mode := 8 }) (fun e => present i e && e.t.full 3 && e.t.isDead 3 && e.t.modeT && !e.t.dividing) = true
      ∧ sees (withThread base fun t => t.markEmpty 3) (fun e => present i e && !e.t.full 3) = true) := by decide +kernel

/-- An integer sum with an EP bit on A and its row. -/
def epAdd : Instr := .iadd { xs with ep := 1 } .wrap

theorem witness_SourcesComeFirst :
    sees (withThread base fun t => (t.markEmpty 8).markEmpty 16) (fun e => present epAdd e && !e.t.dividing && (match epAdd.row, epAdd.ops with
      | some r, some x => ((rowEps r x).filter fun g => !e.t.full g) == [8]
      | _, _ => false)) = true
    ∧ sees (withThread base fun t => t.markEmpty 16) (fun e => present (.iadd xs .wrap) e && (match (Instr.iadd xs .wrap).row with
      | some r => ((rowEps r xs).filter fun g => !e.t.full g) == [] && ((rowWaits r xs).filter fun g => !e.t.full g) == [16]
      | none => false)) = true
    ∧ sees (withThread base fun t => { t with mode := 8 }.markDead 8 |>.markDead 16) (fun e => e.t.modeT && decide (e.t.phase < 2)
      && (match (Instr.iadd xs .wrap).row with
        | some r => ((rowReads r xs).filter fun g => e.t.isDead g) == [8, 16] && ((rowWaits r xs).filter fun g => !e.t.full g) == []
        | none => false)) = true
    ∧ sees (withThread base fun t => t.markEmpty 40) (fun e => (match (Instr.iadd xs .wrap).row with
        | some r => ((rowDests r xs).filter fun g => !e.t.full g) == [40] && ((rowReads r xs).filter fun g => e.t.isDead g) == []
        | none => false)) = true
    ∧ sees (base.updStage 2 0 fun st => { st with gran := 2 }) (fun e => !e.t.dividing && (match (Instr.iadd xs .wrap).row with
        | some r => (rowNamed r xs).any fun g => decide (16 * e.st.gran ≤ g.toNat)
        | none => false)) = true := by decide +kernel

/-- In mode Z a sum runs on two dead sources: they read 0, and two dead reads are counted; with a dead guard one more is. -/
theorem witness_SourcesComeFirst_dead : holds (dead base [3, 8, 16]) (.iadd xs .wrap) (fun e => e.t.isDead 8 && e.t.isDead 16 && !e.t.modeT
      && decide (e.t.phase = 0 ∧ e.t.rd 8 = 0 ∧ (e.deadReads (.iadd xs .wrap)).length = 2)) = true
    ∧ holds (withThread (dead base [8]) fun t => t.wr 3 1) (.iadd { xs with g := 3 } .wrap) (fun e => e.t.isDead 8) = true := by decide +kernel

theorem witness_ComputingTouchesOnlyItsRegisters : computesOnly (.iadd xs .wrap) = true
    ∧ sees base (fun e => present (.iadd xs .wrap) e && !e.t.handler && decide (e.st.traph ≠ 0)) = true
    ∧ (match exec (.iadd xs .wrap) base with
      | .next _ => true
      | _ => false) = true := by decide +kernel

/-! ### Synchronization and queues -/

/-- A team of two threads; thread 1 has arrived at barrier 2, thread 0 too when asked. -/
def teamOf2 (arrived : List Nat) : State := base.updTeam 1 fun tm => { tm with
  maxTid := 1
  threads := tm.threads ++ [(1, { Thread.fresh 0x200000 0 with loc := .slot 0 0 1 })]
  barriers := [(2, { gen := 0xFFFFFFFF, arrived := arrived, since := 0, elapsed := 0, fired := false })] }

def bar2 : Ops := { xs with c := 2 }

theorem witness_BarriersComplete :
    ([Instr.bara bar2, .bar bar2].all fun i => holds (teamOf2 [1]) i fun e =>
      !(e.tm.barrier 2).arrived.contains e.ref.tid && e.t.settled && e.t.pend.isNone && decide (e.t.resume = none)
        && (e.tm.live.all fun t => t = e.ref.tid || (e.tm.barrier 2).arrived.contains t)) = true
    ∧ ([Instr.bara bar2, .bar bar2].all fun i => holds (asking (teamOf2 [1]) .rvx) i fun e =>
      !(e.tm.barrier 2).arrived.contains e.ref.tid && e.t.pend.isSome && e.t.resume.isNone) = true
    ∧ holds (teamOf2 []) (.bar bar2) (fun e => e.t.settled && e.t.pend.isNone && !(e.tm.live.all fun t => t = e.ref.tid || (e.tm.barrier 2).arrived.contains t)) = true
    ∧ ([Instr.bara bar2, .bar bar2].all fun i => holds (teamOf2 [0]) i fun e => (e.tm.barrier 2).arrived.contains e.ref.tid && e.t.resume.isNone) = true
    ∧ ([Instr.bara bar2, .bar bar2].all fun i => holds (unsettled (teamOf2 [])) i fun e =>
      !(e.tm.barrier 2).arrived.contains e.ref.tid && !e.t.settled && e.t.resume.isNone) = true
    ∧ holds (withThread (teamOf2 []) fun t => { t with resume := some (.barrier 2 5) }) (.bar bar2)
      (fun e => decide (e.t.resume = some (.barrier 2 5)) && decide ((e.tm.barrier 2).gen ≠ 5)) = true
    ∧ holds (withThread (teamOf2 [0]) fun t => { t with resume := some (.barrier 2 0xFFFFFFFF) }) (.bar bar2)
      (fun e => decide (e.t.resume = some (.barrier 2 0xFFFFFFFF)) && decide ((e.tm.barrier 2).gen = 0xFFFFFFFF)) = true
    ∧ holds (teamOf2 []) (.barw bar2) (fun e => decide ((e.tm.barrier 2).gen ≠ (e.t.rd 8).toNat)) = true
    ∧ holds (withRegs (teamOf2 []) [(8, 0xFFFFFFFF)]) (.barw bar2) (fun e => decide ((e.tm.barrier 2).gen = (e.t.rd 8).toNat)) = true := by
  decide +kernel

/-- Two threads with pending requests of these kinds, for groups of 2. -/
def rdvState (k0 k1 : PKind) : State := (teamOf2 []).updTeam 1 fun tm => { tm with threads := tm.threads.map fun (n : Nat × Thread) =>
  (n.1, { n.2 with pend := some { id := 45, kind := if n.1 = 0 then k0 else k1, dst := 40, size := 1, val := 5 + BitVec.ofNat 32 n.1, arg := 1, pc := 0x200000, einst := [] } }) }

/-- The request of a present thread of team 1. -/
def pendOf (s : State) (p : Nat) : Option Pending := (s.team 1).bind fun tm => (tm.present p).bind fun t => t.pend

/-- What completing the instance of threads 0 and 1 gives a thread: its destination and its held traps. -/
def rdvGives (k0 k1 : PKind) (p : Nat) : Option (Word × Nat) := ((rdvState k0 k1).completeRdv 1 0 1).thread ⟨1, p⟩ |>.map fun u => (u.rd 40, u.held.length)

/-- The operators of RVRED. -/
def rvOps : List RvOp := [.addF32, .addI32, .minF32, .maxF32, .minI32, .maxI32]

theorem witness_RendezvousInstructionsComplete :
    ((Instr.rvx { xs with c := 1 } :: rvOps.map (Instr.rvred { xs with c := 5 })).all fun i =>
      holds base i (fun e => e.t.pend.isNone && decide (e.t.inFlight < 63) && e.t.settled)
        && holds (asking base .rvx) i (fun e => e.t.pend.isSome)
        && holds (crowded base) i (fun e => e.t.pend.isNone && decide (63 ≤ e.t.inFlight))
        && holds (unsettled base) i (fun e => e.t.pend.isNone && decide (e.t.inFlight < 63) && !e.t.settled)) = true
    ∧ ((PKind.rvx :: rvOps.map PKind.rvred).all fun k => [0, 1].all fun p =>
      (pendOf (rdvState k k) p).any fun r => decide (r.dst ≠ 0 ∧ r.kind = k)) = true
    ∧ ((pendOf (rdvState .rvx (.rvred .addI32)) 0).map fun r => r.kind) ≠ ((pendOf (rdvState .rvx (.rvred .addI32)) 1).map fun r => r.kind) := by
  decide +kernel

/-- R205, R207, R209: the exchange gives both the value at position 1, the sum both the sum; unlike requests give 0 and a held trap. -/
theorem test_rendezvous : [rdvGives .rvx .rvx 0, rdvGives .rvx .rvx 1, rdvGives (.rvred .addI32) (.rvred .addI32) 1, rdvGives .rvx (.rvred .addI32) 0] =
    [some (6, 0), some (6, 0), some (11, 0), some (0, 1)] := by decide +kernel

/-- An access resolves to a place of this package, and the place meets a condition. -/
def goes (s : State) (e : Env) (sp : Space) (a n : Nat) (need : Need) (f : Target → State → Bool) : Bool :=
  match s.resolve e sp a n n need with
  | (.at_ t _, s') => decide (t.mem ≠ .peer) && f t s'
  | _ => false

/-- Reading a range at issue has nothing to wait for and finds no poison. -/
def readable (s : State) (e : Env) (t : Target) (n : Nat) : Bool := s.readReady e.ref e.core e.t (t.range n) && !s.poisoned (t.range n)

/-- The word is read: the relation holds or not, or an earlier store holds the read back. -/
def waitsOn (s : State) (ne ready holds_ : Bool) (v : Word) : Bool := holds (withRegs s (w2 8 0x1000 ++ [(16, v)])) (.waita xs .team .glb ne) fun e =>
  goes (s.counted e (.waita xs .team .glb ne)) e .glb 0x1000 4 .read fun t s' => let q := s'.keepPage e
    !q.linkDead t && decide (t.mem ≠ .peer) && (readable q e t 4 == ready) && (!ready || (decide (BitVec.ofNat 32 (q.load t 4) = e.t.rd 16) == !ne) == holds_)

theorem witness_WaitaCompletes : waitsOn base false true true 0 = true ∧ waitsOn base true true true 1 = true ∧ waitsOn base false true false 1 = true
    ∧ waitsOn base true true false 0 = true ∧ waitsOn (unsettled base) false false false 0 = true := by decide +kernel

/-- Queue 4 of context 0, bound to the running pipeline. -/
def queue4 (closed : Bool) (items : Nat) (pushes : List (ThreadRef × Item)) : Queue :=
  { pipe := some 2, cap := 2, keys := 3, isize := 16, remote := false, closed := closed
    items := (List.range items).map fun k => { seq := k, key := k % 2, data := leBytes 16 (k + 1), from_ := none }
    nextSeq := 9, counts := [(1, 0xFFFFFFFF)], leases := [], pops := [], pushes := pushes }

def qState (u : Queue) : State := base.setQueue 0 4 u

def xq : Ops := { xs with c := 4, b := 48 }

/-- An item that waits for a place since the request of a number. -/
def waiting (n : Nat) : Item := { seq := n, key := 2, data := leBytes 16 7, from_ := none }

/-- A queue instruction of the thread on queue 4, before and after the requests that came earlier are served. -/
def onQueue (s : State) (i : Instr) (f : Env → Queue → Queue → Bool) : Bool := holds s i fun e =>
  match s.boundQueue e.pl.ctxNum 4 with
  | some u => !e.t.dividing && f e u ((((s.counted e i).serveAll e.pl.ctxNum 4).queue e.pl.ctxNum 4).getD u)
  | none => false

/-- The queue of 64-byte items. -/
def wide (u : Queue) : Queue := { u with isize := 64 }

/-- A store of the thread to scratchpad address 0x100 has still to be performed. -/
def spadBusy (s : State) : State := withThread s fun t => { t with ops := [{ opOf .store 4 0 none 0 with
  accs := [{ id := 51, at_ := ⟨.spad 1 0, 0x100⟩, size := 4, data := 0, done := none, early := false }] }] }

/-- A push on an open queue with room, on a full one, on one that others wait for, and on a closed one; one that has been accepted; one that waits for a request,
for its order, for its item; of a remote queue, its port up and down. -/
theorem witness_QueueInstructionsComplete_push : ([true, false].all fun nb => [true, false].all fun w =>
    let push : Instr := .qpush xq nb w
    let sized (u : Queue) : Queue := if w then wide u else u
    let at_ (s : State) : State := withRegs s [(48, 2), (8, 0x100)]
    let on (s : State) (f : Env → Queue → Bool) : Bool := onQueue (at_ s) push fun e u y =>
      e.t.resume.isNone && decide (u.isize = (if w then 64 else 16) ∧ (e.t.rd 48).toNat < u.keys ∧ e.localCheck 0x100 64 = none ∧ (e.t.rd 8).toNat = 0x100) && f e y
    let acts (s : State) (f : Queue → Bool) : Bool := on s fun e y => e.t.pend.isNone && e.t.settled && s.readReady e.ref e.core e.t ((e.localPlace 0x100).range 64) && f y
    acts (qState (sized (queue4 false 1 []))) (fun y => !y.remote && !y.closed && decide (y.items.length < y.cap ∧ y.pushes = []))
    && acts (qState (sized (queue4 false 2 []))) (fun y => !y.remote && !y.closed && decide (y.cap ≤ y.items.length))
    && acts (qState (sized (queue4 false 2 [(⟨1, 0⟩, waiting 3)]))) (fun y => !y.remote && !y.closed && decide (y.pushes ≠ []))
    && acts (qState (sized (queue4 true 0 []))) (fun y => !y.remote && y.closed)
    && acts (qState { sized (queue4 false 0 []) with remote := true }) (fun y => y.remote)
    && on (asking (qState (sized (queue4 false 1 []))) .rvx) (fun e _ => e.t.pend.isSome)
    && on (unsettled (qState (sized (queue4 false 1 [])))) (fun e _ => e.t.pend.isNone && !e.t.settled)
    && on (spadBusy (qState (sized (queue4 false 1 [])))) (fun e _ => e.t.pend.isNone && !(spadBusy (qState (sized (queue4 false 1 [])))).readReady e.ref e.core e.t
      ((e.localPlace 0x100).range 64))
    && holds (withThread (qState (queue4 false 1 [])) fun t => { t with resume := some (.push 4) }) push (fun e => decide (e.t.resume = some (.push 4)))
    && !(qState (queue4 false 1 [])).linkDead ⟨.peer, 0⟩ && decide (((qState (queue4 false 1 [])).port (Config.routeQueue 0 4)).down = false)) = true := by
  decide +kernel

/-- The checks of R219: no queue, an item of another size, a key too large, a misaligned and an absent item; a limit of 0 and of 257, a misaligned and an absent
block; a remote queue. -/
theorem witness_QueueInstructionsComplete_faults : ([true, false].all fun nb =>
    let push : Instr := .qpush xq nb true
    let pop : Instr := .qpop xq true nb
    let at_ (u : Queue) (k a : Word) : State := withRegs (qState u) [(48, k), (8, a)]
    ([push, .qpush xq nb false, pop, .qcnt xq false, .qclose xq, .qstat xq].all fun i => holds base i fun e =>
      decide (base.boundQueue e.pl.ctxNum 4 = none) && e.t.resume.isNone && !e.t.dividing)
    && onQueue (at_ (queue4 false 1 []) 0 0x100) push (fun e u _ => e.t.resume.isNone && decide (u.isize ≠ 64))
    && onQueue (at_ (wide (queue4 false 1 [])) 3 0x100) push (fun e u _ => decide (u.isize = 64 ∧ u.keys ≤ (e.t.rd 48).toNat))
    && ([0x101, 0x40000].all fun a => onQueue (at_ (wide (queue4 false 1 [])) 0 a) push fun e u _ => decide (u.isize = 64 ∧ (e.t.rd 48).toNat < u.keys)
      && (decide (a.toNat % 16 ≠ 0) || decide (a.toNat % 16 = 0 ∧ e.localCheck a.toNat 64 ≠ none)))
    && ([(0, 0x100), (257, 0x100), (1, 0x101), (1, 0x40000)].all fun (p : Word × Word) => onQueue (at_ (queue4 false 1 []) p.1 p.2) pop fun e u _ =>
      !u.remote && (decide (p.1.toNat = 0 ∨ 256 < p.1.toNat) || decide (p.2.toNat % 16 ≠ 0) || decide (e.localCheck p.2.toNat (p.1.toNat * 16) ≠ none)))
    && ([pop, .qcnt xq false, .qclose xq].all fun i => onQueue (qState { queue4 false 1 [] with remote := true }) i fun _ u _ => u.remote)
    && onQueue (at_ (queue4 false 1 []) 0 3) (.qcnt xq nb) (fun e u _ => !u.remote && decide (u.keys ≤ (e.t.rd 8).toNat))) = true := by decide +kernel

/-- The port of a queue's peer is down. -/
theorem witness_QueueInstructionsComplete_port (s : State) (ctx n : Nat) :
    (({ s with ports := [(Config.routeQueue ctx n, { s.port 0 with down := true })] } : State).port (Config.routeQueue ctx n)).down = true := by
  simp [State.port, Tbl.look]

theorem witness_QueueInstructionsComplete_pop : ([(false, 0), (true, 1), (true, 256)].all fun (p : Bool × Nat) =>
    let at_ (s : State) : State := withRegs s [(48, BitVec.ofNat 32 p.2), (8, 0x100)]
    let pop : Instr := .qpop xq p.1 false
    let n := if p.1 then p.2 else 1
    let q4 : State := qState { queue4 false 1 [] with keys := 300 }
    let fits (s : State) (f : Env → Bool) : Bool := onQueue (at_ s) pop fun e u _ => !u.remote && decide (0 < n ∧ n ≤ 256 ∧ e.localCheck 0x100 (n * 16) = none) && f e
    fits q4 (fun e => decide (e.t.pend = none ∧ e.t.inFlight < 63) && q4.readReady e.ref e.core e.t ((e.localPlace 0x100).range 4096))
    && fits (crowded q4) (fun e => decide (63 ≤ e.t.inFlight))
    && fits (asking q4 .rvx) (fun e => e.t.pend.isSome && decide (e.t.inFlight < 63))
    && fits (spadBusy q4) (fun e => e.t.pend.isNone && decide (e.t.inFlight < 63) && !(spadBusy q4).readReady e.ref e.core e.t ((e.localPlace 0x100).range (n * 16))))
      = true := by decide +kernel

theorem witness_QueueInstructionsComplete_rest :
    ([true, false].all fun f => onQueue (withRegs (qState (queue4 false 1 [])) [(8, 2)]) (.qcnt xq f) fun e u _ => !u.remote && decide ((e.t.rd 8).toNat < 3)) = true
    ∧ ([Instr.qclose xq, .qstat xq].all fun i => onQueue (qState (queue4 false 1 [])) i fun _ u _ => !u.remote) = true := by decide +kernel

/-- Thread 0 waits with a QPOP `.grp` of limit 2 into g40 and g41, items to scratchpad address 0x100. -/
def popState (u : Queue) : State := (qState { u with pops := [⟨1, 0⟩] }).updThread ⟨1, 0⟩ fun t =>
  { t with pend := some { id := 45, kind := .qpop true false, dst := 40, size := 4, val := 0x100, arg := 2, pc := 0x200000, einst := [] } }

/-- A QPOP that can be answered, and came before the first push that waits; a push that waits with room, and came before the QPOP. -/
theorem witness_QueueUnitServes :
    ([queue4 false 2 [], queue4 true 0 [], queue4 false 1 [(⟨1, 0⟩, waiting 50)]].all fun u => match (popState u).popReady { u with pops := [⟨1, 0⟩] } with
      | some (r, p, _) => decide (r = ⟨1, 0⟩ ∧ p.dst = 40) && (((popState u).team 1).all fun tm => tm.ring.isEmpty)
          && decide ((popState u).boundQueue 0 4 = some { u with pops := [⟨1, 0⟩] }) && u.pushes.all fun y => decide (p.id < y.2.seq)
      | none => false) = true
    ∧ (let u := queue4 false 1 [(⟨1, 0⟩, waiting 3)]
      (qState u).boundQueue 0 4 = some u ∧ u.closed = false ∧ u.items.length < u.cap ∧ (qState u).popReady u = none
      ∧ (match (popState u).popReady { u with pops := [⟨1, 0⟩] } with
        | some (_, p, _) => decide (3 ≤ p.id)
        | none => false) = true) := by decide +kernel

/-! ### Memory -/

/-- The addresses at the edges of R222, R223 and R225: a misaligned one, the first non-canonical one, the first beyond LOCAL, a core that
the team has not, the first beyond the scratchpad, WS without a carve-out, an unmapped page. -/
def edges : List (Space × Nat) := [(.glb, 0x1001), (.glb, 2 ^ 55), (.loc, 2 ^ 26), (.loc, 2 ^ 24), (.loc, 262144), (.ws, 0), (.glb, 2 ^ 30)]

theorem witness_AddressesAreChecked : (edges.all fun (p : Space × Nat) =>
    (formsOf { xs with c := 0 } false true .b64 .add .addF64 p.1).all fun m => holds (withRegs base (w2 8 (BitVec.ofNat 64 p.2))) m.i fun e =>
      !e.t.dividing && decide (memAddr { xs with c := 0 } p.1 m.scale e.t = p.2) && (match p.1 with
        | .glb => decide (p.2 % m.n ≠ 0) || decide (p.2 / 2 ^ 55 ≠ 0 ∧ p.2 / 2 ^ 55 ≠ 511) || ((base.core e.core).tlb.isEmpty && e.t.lastPage.isNone
            && (match base.walk e.pl.ctxNum p.2 with
              | .error _ => true
              | .ok _ => false))
        | .loc => decide (p.2 / 2 ^ 26 ≠ 0) || decide (e.tm.cores.length ≤ p.2 / 2 ^ 24 % 4) || decide (e.st.spad < p.2 % 2 ^ 24 + m.n)
        | .ws => (base.parts.look e.pl.part).all fun q => decide ((q.wsOn (e.core / 64)).length * 2 ^ 26 < p.2 + m.n))) = true := by decide +kernel

theorem witness_AddressesAreChecked_permission : holds (withRegs (readOnly base) (w2 8 0x1000)) (.st { xs with c := 0 } .b64 .glb) (fun e =>
    decide (e.st.traph ≠ 0) && !e.t.handler && (match (withRegs (readOnly base) (w2 8 0x1000)).walk e.pl.ctxNum 0x1000 with
      | .ok x => !x.grants .write
      | .error _ => false)) = true := by decide +kernel

/-- A filter's descriptor (R278), its state at an address, with a size and a type. -/
def filterDesc (st : Nat) (b : Nat := 6) (ty : Nat := 1) : List Byte :=
  leBytes 1 ty ++ leBytes 1 b ++ leBytes 1 3 ++ leBytes 1 0 ++ leBytes 4 0x1234 ++ leBytes 8 0 ++ leBytes 8 st ++ leBytes 8 0

/-- The descriptor at 0x8000, its address in g8; two formatted instances, bound to slots 5 and 6. -/
def unbound : State :=
  let s := withRegs (base.setBytes ⟨.hbm, 0x8000⟩ (filterDesc 0x3000)) (w2 8 0x8000 ++ [(16, 1)])
  match s.makeBind 0 (filterDesc 0x3000), s.makeBind 0 (filterDesc 0x5000) with
  | some k, some kc => (s.skFormat k).skFormat kc
  | _, _ => s

def bound56 : State :=
  match unbound.makeBind 0 (filterDesc 0x3000), unbound.makeBind 0 (filterDesc 0x5000) with
  | some k, some kc => (unbound.setBind 0 5 (some k)).setBind 0 6 (some kc)
  | _, _ => unbound

/-- The page from 2^30 on is a window to slot 5 of the context (R287). -/
def windowed (s : State) : State := s.store ⟨.hbm, 0x100008⟩ 8 (2 ^ 56 + 5 * 2 ^ 57 + 0x19)

/-- An access goes to the window. -/
def inWin (s : State) (e : Env) (a n : Nat) (need : Need) (f : State → Bool) : Bool :=
  match s.resolve e .glb a n n need with
  | (.window k key _, s') => decide (k = 5 ∧ key = BitVec.ofNat 32 (a / 4)) && f s'
  | _ => false

/-- The instruction runs in a state on an address, and its view and the state after its event counts meet a condition. -/
def reachesAt (s : State) (a : Nat) (i : Instr) (f : State → Env → Bool) : Bool :=
  let s := withRegs s (w2 8 (BitVec.ofNat 64 a))
  holds s i fun e => f (s.counted e i) e

/-- Operands whose short form has offset 0. -/
def xz : Ops := { xs with c := 0 }

theorem witness_LoadsAndStoresAreIssued :
    ([(Instr.ld xz true .b8 .glb, 1), (.ld xz false .b128 .glb, 16), (.ldi xz true .glb, 16)].all fun (p : Instr × Nat) => [base, crowded base].all fun s =>
      reachesAt s 0x1000 p.1 fun s e => goes s e .glb 0x1000 p.2 .read fun _ _ => true) = true
    ∧ ([(Instr.st xz .b32 .loc, 4), (.st xz .b128 .loc, 16), (.sti xz false .loc, 8)].all fun (p : Instr × Nat) => reachesAt base 0x3FFF0 p.1 fun s e =>
      goes s e .loc 0x3FFF0 p.2 .write fun _ _ => true) = true
    ∧ holds (withRegs base (w2 8 0x1000)) (.ld xm true .b32 .glb) (fun e => decide (memAddr xm .glb 4 e.t = 0x1020)) = true
    ∧ (base.thread ⟨1, 0⟩).isSome = true := by decide +kernel

/-- The window: of a bound and of an unbound slot; a query, an insert, and every other form. -/
theorem witness_LoadsAndStoresAreIssued_window :
    ([bound56, unbound, crowded bound56].all fun s =>
      ([MSize.b8, .b16, .b32, .b64, .b128].all fun sz => reachesAt (windowed s) 0x40001000 (.ld xz false sz .glb) (fun s e => inWin s e 0x40001000 sz.bytes .read fun _ => true)
        && reachesAt (windowed s) 0x40001000 (.st xz sz .glb) fun s e => inWin s e 0x40001000 sz.bytes .write fun _ => true)
      && ([true, false].all fun w => reachesAt (windowed s) 0x40001000 (.ldi xz w .glb) (fun s e => inWin s e 0x40001000 (if w then 16 else 8) .read fun _ => true)
        && reachesAt (windowed s) 0x40001000 (.sti xz w .glb) fun s e => inWin s e 0x40001000 (if w then 16 else 8) .write fun _ => true)) = true
    ∧ ([(1, true), (0xFFFFFFFF, false)].all fun (p : Word × Bool) => reachesAt (withRegs (windowed bound56) [(16, p.1)]) 0x40001000 (.st xz .b32 .glb) fun s e =>
      inWin s e 0x40001000 4 .write fun s => (s.bound e.pl.ctxNum 5).any fun k => k.allows (e.t.rd 16).toInt false == p.2) = true
    ∧ reachesAt (windowed unbound) 0x40001000 (.ld xz false .b32 .glb) (fun s e => (s.bound e.pl.ctxNum 5).isNone) = true := by decide +kernel

/-- A shape record: elements of 4 bytes, or of 1 byte, rank 2, 100 × 100 from an address, box 8 × 4, a clip mode. -/
def shapeBytes (elog : Nat := 2) (clip : Nat := 0) (from_ : Nat := 0x1000) : List Byte :=
  leBytes 8 from_ ++ leBytes 1 elog ++ leBytes 1 2 ++ leBytes 1 clip ++ leBytes 2 0 ++ leBytes 1 3 ++ leBytes 2 0 ++ leBytes 4 100 ++ leBytes 4 100
    ++ leBytes 24 0 ++ leBytes 8 (2 ^ elog) ++ leBytes 8 (100 * 2 ^ elog) ++ leBytes 40 0 ++ leBytes 2 8 ++ leBytes 2 4 ++ leBytes 20 0

/-- LDT and STT of a record at 0x40000, its address in g8, an index in g16 and g17. -/
def shapes (s : State) (d : List Byte) (k0 k1 : Word) (f : State → Env → Target → State → Need → Bool) : Bool :=
  let s := withRegs (s.setBytes ⟨.hbm, 0x40000⟩ d) (w2 8 0x40000 ++ [(16, k0), (17, k1)])
  [(Instr.ldt { xs with c := 2 } false .b32 .glb, Need.read), (.stt { xs with c := 2 } .b32 .glb, .write)].all fun (p : Instr × Need) => holds s p.1 fun e =>
    goes (s.counted e p.1) e .glb 0x40000 128 .read fun t s' => f s e t s' p.2

/-- The record has been read and is good. -/
def goodAt (e : Env) (t : Target) (s' : State) : Bool :=
  e.t.pend.isNone && readable s' e t 128 && elemOk (s'.bytes t 128) && decide ((shapeOf (s'.bytes t 128)).rank = 2 ∧ 2 ^ (shapeOf (s'.bytes t 128)).elog = 4)

/-- A store of the thread to an address has still to be performed. -/
def storing (s : State) (a : Nat) : State := withThread s fun t => { t with ops := [{ opOf .store 4 0 none 0 with
  accs := [{ id := 51, at_ := ⟨.hbm, a⟩, size := 4, data := 0, done := none, early := false }] }] }

/-- An index in bounds: its element goes to a place, or into a window; with the 64th operation the load waits. One out of bounds, under both clip modes. -/
theorem witness_ShapedAccessesComplete_good :
    ([(0, 0), (99, 99)].all fun (p : Word × Word) => [base, crowded base].all fun s => shapes s shapeBytes p.1 p.2 fun _ e t s' need => goodAt e t s'
      && (let r := shapeOf (s'.bytes t 128); r.inBounds [p.1.toInt, p.2.toInt] && goes s' e .glb (r.addr [p.1.toInt, p.2.toInt]).toNat 4 need fun _ _ => true)) = true := by decide +kernel

theorem witness_ShapedAccessesComplete_window :
    shapes (windowed base) (shapeBytes 2 0 0x40001000) 0 0 (fun _ e t s' need => goodAt e t s'
      && (let r := shapeOf (s'.bytes t 128); r.inBounds [0, 0] && inWin s' e (r.addr [0, 0]).toNat 4 need fun _ => true)) = true := by decide +kernel

theorem witness_ShapedAccessesComplete_clip :
    ([0, 1].all fun clip => [(100, 0), (0xFFFFFFFF, 0)].all fun (p : Word × Word) => shapes base (shapeBytes 2 clip) p.1 p.2 fun _ e t s' _ => goodAt e t s'
      && (let r := shapeOf (s'.bytes t 128); decide (r.clip = clip) && !r.inBounds [p.1.toInt, p.2.toInt])) = true := by decide +kernel

/-- A record in a window; one that is read behind a request, or behind a store; a poisoned one; one of elements of another size. -/
theorem witness_ShapedAccessesComplete_record :
    ([(Instr.ldt { xs with c := 2 } false .b32 .glb), .stt { xs with c := 2 } .b32 .glb].all fun i => reachesAt (windowed base) 0x40001000 i fun s e =>
      inWin s e 0x40001000 128 .read fun _ => true) = true
    ∧ shapes (asking base .rvx) shapeBytes 0 0 (fun _ e _ _ _ => e.t.pend.isSome) = true
    ∧ shapes (storing base 0x40004) shapeBytes 0 0 (fun _ e t s' _ => e.t.pend.isNone && !s'.readReady e.ref e.core e.t (t.range 128)) = true
    ∧ shapes { base with poison := [⟨.hbm, 0x40020, 0x40040⟩] } shapeBytes 0 0 (fun _ e t s' _ =>
        e.t.pend.isNone && s'.readReady e.ref e.core e.t (t.range 128) && s'.poisoned (t.range 128)) = true
    ∧ shapes base (shapeBytes 0) 0 0 (fun _ e t s' _ => readable s' e t 128 && decide (2 ^ (shapeOf (s'.bytes t 128)).elog ≠ 4)) = true := by decide +kernel

/-- The line at 0x1004 resolves for a need; whether it is a peer package's, and whether the thread may act on it. -/
def lineAt (s : State) (i : Instr) (need : Need) (peer ready : Bool) : Bool := reachesAt s 0x1004 i fun s e =>
  match s.resolve e .glb 0x1004 1 1 need with
  | (.at_ t _, s') => (decide (t.mem = .peer) == peer)
      && ((s'.keepPage e).readReady e.ref e.core e.t ⟨t.mem, t.addr / 512 * 512, t.addr / 512 * 512 + 512⟩ == ready)
  | _ => false

/-- CINV once the line may be acted on: an acquire under way on its cores, or none; first, or looking again. -/
def cinvAt (s : State) (again busy : Bool) : Bool :=
  reachesAt (withThread s fun t => { t with resume := if again then some (.acquires 60 [0]) else none }) 0x1004 (.cinv xz .team) fun s e =>
    match s.resolve e .glb 0x1004 1 1 .read with
    | (.at_ t _, s') => let z := s'.keepPage e
        z.readReady e.ref e.core e.t ⟨t.mem, t.addr / 512 * 512, t.addr / 512 * 512 + 512⟩
          && (z.acquiring (match e.t.resume with
            | some (.acquires n _) => n
            | _ => z.nextId) (scopeCores .team e) == busy)
    | _ => false

/-- An acquire of the other thread of the team is under way. -/
def acquiring2 : State := (teamOf2 []).updThread ⟨1, 1⟩ fun t => { t with ops := [{ opOf (.load false) 4 0 none 1 with ord := .acq }] }

theorem witness_FencesAndCacheInstructionsComplete :
    ([Instr.fence xs .rel, .fence xs .ar, .fence xs .acq].all fun i => holds base i fun e => e.t.settled && e.t.readsDone) = true
    ∧ ([Instr.fence xs .rel, .fence xs .ar].all fun i => holds (unsettled base) i fun e => !e.t.settled) = true
    ∧ holds (withThread base fun t => { t with ops := [opOf (.load false) 4 0 none 1] }) (.fence xs .acq) (fun e => !e.t.readsDone) = true
    ∧ lineAt base (.pref xz) .read false true = true
    ∧ (let q : State := { base with poison := [⟨.hbm, 0x1020, 0x1040⟩] }
      reachesAt q 0x1004 (.pref xz) fun s e => match s.resolve e .glb 0x1004 1 1 .read with
        | (.at_ t _, s') => s'.poisoned ⟨t.mem, t.addr / 512 * 512, t.addr / 512 * 512 + 512⟩
        | _ => false) = true
    ∧ reachesAt base (2 ^ 40) (.pref xz) (fun s e => match s.resolve e .glb (2 ^ 40) 1 1 .read with
      | (.at_ .., _) => false
      | _ => true) = true
    ∧ ([true, false].all fun inv => let need : Need := if inv then .write else .read
      lineAt base (.cflush xz inv) need false true && lineAt (unsettled base) (.cflush xz inv) need false false
        && lineAt remotePage (.cflush xz inv) need true true && reachesAt (windowed base) 0x40001004 (.cflush xz inv) fun s e => inWin s e 0x40001004 1 need fun _ => true) = true
    ∧ reachesAt (windowed base) 0x40001004 (.cinv xz .team) (fun s e => inWin s e 0x40001004 1 .read fun _ => true) = true
    ∧ lineAt (unsettled base) (.cinv xz .team) .read false false = true
    ∧ (cinvAt base false false && cinvAt base true false && cinvAt acquiring2 false true && cinvAt acquiring2 true true) = true := by decide +kernel

theorem witness_AtomicsAreIssued : ([xz, { xz with d := 0 }].all fun x => [base, crowded base].all fun s =>
    [(Instr.atom x .min .glb, 4), (.atomc x .glb, 4), (.red x .addF32 .glb, 4), (.red x .addI64 .glb, 8), (.atomf x .addF64 .glb, 8), (.atomf x .maxF32 .glb, 4),
      (.atom64 x .add .glb, 8), (.atomc64 x .glb, 8)].all fun (p : Instr × Nat) => reachesAt s 0x1000 p.1 (fun s e => goes s e .glb 0x1000 p.2 .both fun _ _ => true)
        && reachesAt (windowed s) 0x40001000 p.1 fun s e => inWin s e 0x40001000 p.2 .both fun _ => true) = true
    ∧ holds base (.atom64 { xz with d := 0 } .add .loc) (fun _ => true) = true := by decide +kernel

/-- The stitches of the clock have issued. -/
def issued (s : State) : State := s.updCore 0 fun c => { c with stitch := [] }

def opState (o : MemOp) : State := issued (withThread base fun t => { t with ops := [o] })

/-- The access may be performed, and the core is not in the middle of its stitch. -/
def performs (o : MemOp) : Bool :=
  match (opState o).accessOf ⟨1, 0⟩ 51 with
  | some (t, p, a) => decide (p = o) && (opState o).accessReady ⟨1, 0⟩ t p a && !(opState o).inRefresh p.core a.at_
      && (opState o).cacheRoom p.cp p.core a.at_ p.kind.use p.hint && !(opState o).linkDead a.at_
      && !(opState o).poisoned a.range && decide (a.data < 2 ^ (8 * a.size)) && !(opState o).inStitch p.core ⟨1, 0⟩
  | none => false

theorem witness_HomesPerformAccesses : ([opOf (.load true) 2 0 none 1, opOf (.loadIv false) 8 0 none 2, opOf .store 8 77 none 0, opOf (.atomic .min) 4 0x80000000 none 1,
    opOf (.atomic .add) 8 0 none 0, opOf (.atomic .maxZ) 4 3 none 1, opOf .compare 8 5 none 2, opOf (.atomicF .addF32) 4 0x3F800000 none 0,
    opOf (.atomicF .minF32) 4 0 none 1, opOf (.atomicF .maxF32) 4 0 none 1, opOf (.atomicF .addF64) 8 1 none 2, opOf (.atomicF .minF64) 8 1 none 2,
    opOf (.atomicF .maxF64) 8 1 none 2].all performs) = true := by decide +kernel

/-- The operation can complete. -/
def completes (o : MemOp) : Bool :=
  seen (opState o) fun _ _ t => decide (t.status ≠ .exited) && decide (t.ops.find? (fun p => p.id == o.id) = some o) && decide (o.dst ≠ 0)
    && !(opState o).awaitsReply o && !(opState o).inStitch o.core ⟨1, 0⟩

/-- The load of two doublewords has taken its values. -/
def bothDone (kind : OpKind) (v w : Nat) : MemOp :=
  { opOf kind 8 0 none 4 with accs := [⟨51, ⟨.hbm, 0x1000⟩, 8, 0, some v, false⟩, ⟨52, ⟨.hbm, 0x1008⟩, 8, 0, some w, false⟩] }

theorem witness_ProducersComplete : ([opOf (.load true) 1 0 (some 0xFF) 1, opOf (.load false) 4 0 (some 0xFFFFFFFF) 1, opOf .compare 4 0 (some 3) 1,
    opOf (.atomic .add) 4 0 (some 3) 1, opOf (.skQuery 1 2) 0 0 (some 3) 1, { opOf (.atomicF .addF64) 8 0 (some 3) 2 with conds := { nx := true } },
    opOf (.load false) 8 0 (some (2 ^ 64 - 1)) 2, opOf (.atomic .add) 8 0 (some 3) 2, opOf .compare 8 0 (some 3) 2,
    { opOf .arith 8 0 (some 0x7FF0000000000000) 2 with conds := { dz := true } }, bothDone (.load false) 5 (2 ^ 64 - 1)].all completes) = true
    ∧ ([0x400000003F800000, 0x3F80000040000000].all fun v => completes (opOf (.loadIv false) 8 0 (some v) 2)
      && ((ivPair f32 (v % 2 ^ 32) (v / 2 ^ 32)).isSome == decide (v = 0x400000003F800000))) = true
    ∧ ([(0x3FF0000000000000, 0x4000000000000000), (0x4000000000000000, 0x3FF0000000000000)].all fun (p : Nat × Nat) => completes (bothDone (.loadIv true) p.1 p.2)
      && ((ivPair f64 p.1 p.2).isSome == decide (p.1 < p.2))) = true := by decide +kernel

/-! ### Sketches -/

def xk : Ops := { xs with c := 5 }

/-- The binding of slot 5 at the descriptor in g8. -/
def binding (s : State) (f : Bool) (g : Env → Target → State → Bool) : Bool := holds s (.skbind xk f) fun e =>
  goes (s.counted e (.skbind xk f)) e .glb 0x8000 32 .read fun t s' => g e t s'

/-- The descriptor has been read, and the slot is free. -/
def described (e : Env) (t : Target) (s' : State) : Bool := e.t.pend.isNone && readable s' e t 32 && (s'.bound 0 5).isNone

/-- The binding that would be made, whose state meets no other and may be taken at once or not. -/
def binds (s : State) (f free : Bool) (g : Bind → State → List Byte → Bool) : Bool := binding s f fun e t s' => described e t s'
  && (s'.context 0).slots.isEmpty && (match s'.makeBind 0 (s'.bytes t 32) with
    | some k => ((e.t.skReady 5 && k.ranges.all (s'.readReady e.ref e.core e.t)) == free) && g k s' (s'.bytes t 32)
    | none => false)

/-- A slot is bound to an instance that has been formatted. -/
def withSlot (s : State) (slot : Nat) (d : List Byte) : State :=
  match s.makeBind 0 d with
  | some k => (s.skFormat k).setBind 0 slot (some k)
  | none => s

theorem witness_SketchInstructionsComplete_bind : ([true, false].all fun f =>
    binding (asking unbound .rvx) f (fun e _ _ => e.t.pend.isSome)
    && binding (storing unbound 0x8004) f (fun e t s' => e.t.pend.isNone && !s'.readReady e.ref e.core e.t (t.range 32))
    && binding bound56 f (fun e t s' => e.t.pend.isNone && readable s' e t 32 && (s'.bound 0 5).isSome)
    && binding (unbound.setBytes ⟨.hbm, 0x8000⟩ [9]) f (fun e t s' => described e t s' && (s'.makeBind 0 (s'.bytes t 32)).isNone)
    && binding (withSlot unbound 6 (filterDesc 0x3000)) f (fun e t s' => described e t s' && (match s'.makeBind 0 (s'.bytes t 32) with
      | some k => (s'.context 0).slots.any fun b => b.2.meets k
      | none => false))
    && binds (storing unbound 0x3004) f false (fun _ _ _ => true)
    && binds unbound f true (fun k s' d => descAgrees (s'.skBytes k 0 32) d && k.ranges.all fun r => !s'.poisoned r)
    && binds (unbound.setBytes ⟨.hbm, 0x3000⟩ [2]) f true (fun k s' d => !descAgrees (s'.skBytes k 0 32) d)) = true := by decide +kernel

/-- An instruction on slots 5 and 6: its thread comes to it, or has waited for its operation; its instances meet a condition. -/
def onSlots (s : State) (i : Instr) (f : Env → Option Bind → Option Bind → Bool) : Bool := [none, some (Wait.sketch 5), some (.sketch 6)].all fun w =>
  holds (withThread s fun t => { t with resume := w }) i fun e => decide (e.t.resume = w) && f e (s.bound 0 5) (s.bound 0 6)

/-- What a fold or a merge reads at issue is in order. -/
def judged (s : State) (i : Instr) (slots : List Nat) (pend ready : Bool) : Bool := holds s i fun e => (e.t.pend.isSome == pend)
  && (slots.all (fun n => (s.bound 0 n).any fun b => (blockRanges b.frames b.state 64).all ((s.counted e i).readOrdered e.ref e.core e.t)
    && s.instanceFree false e.ref s.nextId 0 n b.ranges) == ready)

theorem witness_SketchInstructionsComplete_slots :
    ([Instr.skfree xk, .skfold xk, .skclr xk, .skmerge { xk with b := 6 }, .skins xk false, .skqry xk, .skstat xk].all fun i =>
      onSlots unbound i (fun _ k kc => k.isNone && kc.isNone) && onSlots bound56 i fun e k kc => k.isSome && kc.isSome && decide (e.t.inFlight < 63)) = true
    ∧ ([Instr.skqry xk, .skstat xk].all fun i => onSlots (crowded bound56) i fun e k _ => k.isSome && decide (63 ≤ e.t.inFlight)) = true
    ∧ ([true, false].all fun f => [0, 1, 0xFFFFFFFF].all fun w => onSlots (withRegs bound56 [(16, w)]) (.skins xk f) fun e k _ =>
      k.any fun k => k.allows (if f then -(e.t.rd 16).toInt else (e.t.rd 16).toInt) f == decide (f = false ∧ w ≠ 0xFFFFFFFF)) = true
    ∧ ((unbound.bound 0 6).isNone && onSlots (withSlot unbound 5 (filterDesc 0x3000)) (.skmerge { xk with b := 6 }) fun _ k kc => k.isSome && kc.isNone) = true
    ∧ onSlots bound56 (.skmerge { xk with b := 5 }) (fun _ k _ => k.isSome) = true
    ∧ ([6, 5].all fun b => let s := withSlot bound56 6 (filterDesc 0x5000 b)
      onSlots s (.skmerge { xk with b := 6 }) fun _ k kc => match k, kc with
        | some k, some kc => decide (kc.state ≠ k.state) && (decide ((s.skNow kc).b = (s.skNow k).b ∧ (s.skNow kc).ty = (s.skNow k).ty
            ∧ (s.skNow kc).dk = (s.skNow k).dk ∧ (s.skNow kc).cw = (s.skNow k).cw ∧ (s.skNow kc).seed = (s.skNow k).seed) == decide (b = 6))
        | _, _ => false) = true
    ∧ ([6, 4].all fun b => let s := withSlot bound56 5 (filterDesc 0x3000 b)
      onSlots s (.skfold xk) fun _ k _ => k.any fun k => decide ((s.skNow k).ty ≠ 3) && (decide ((s.skNow k).b = 4) == decide (b = 4))) = true := by decide +kernel

theorem witness_SketchInstructionsComplete_judged : ([(Instr.skfold xk, [5]), (.skmerge { xk with b := 6 }, [6, 5])].all fun (p : Instr × List Nat) =>
    judged (asking bound56 .rvx) p.1 p.2 true true && judged (storing bound56 0x3004) p.1 p.2 false false && judged bound56 p.1 p.2 false true) = true := by
  decide +kernel

/-- An operation of the thread on slot 5 and, for a merge, on slot 6. -/
def skOpState (kind : OpKind) (first : Option Nat) : State := bound56.updThread ⟨1, 0⟩ fun t => { t with ops := [{ opOf kind 0 0 none 1 with
  accs := match kind with
    | .skWork (.merge _ _) => [⟨50, ⟨.hbm, 0x5000⟩, 0, 0, first, false⟩, ⟨51, ⟨.hbm, 0x3000⟩, 0, 0, none, false⟩]
    | _ => [⟨51, ⟨.hbm, 0x3000⟩, 0, 0, none, false⟩] }] }

/-- The sketch unit may perform an access of it. -/
def skPerforms (kind : OpKind) (first : Option Nat) (id slot : Nat) : Bool :=
  let s := skOpState kind first
  match s.accessOf ⟨1, 0⟩ id, s.bound (s.ctxOf ⟨1, 0⟩) slot with
  | some (t, o, a), some k => decide (o.skSlot a = some slot ∧ o.kind = kind) && s.sketchReady ⟨1, 0⟩ t o a slot k && (k.readBy o).all (fun g => !s.poisoned g)
      && decide (o.dstN ≠ 0 ∧ (s.skNow k).ty = 1 ∧ 4 ≤ (s.skNow k).b ∧ k.frames = [⟨.hbm, k.state⟩])
  | _, _ => false

theorem witness_SketchUnitPerforms :
    ([OpKind.skQuery 5 77, .skStat 5, .skInsert 5 77 1, .skWork (.fold 5), .skWork (.clear 5), .skWork (.free 5)].all fun k => skPerforms k none 51 5) = true
    ∧ (skOpState (.skWork (.free 5)) none).slotBusy 0 5 = false
    ∧ skPerforms (.skWork (.merge 5 6)) none 50 6 = true ∧ skPerforms (.skWork (.merge 5 6)) (some 0) 51 5 = true := by decide +kernel

/-! ### Engines, handles and matrix contexts -/

/-- A tile descriptor (R147): base and size in bytes, format, rows and columns. -/
def tileOf (b size fmt rows cols : Nat) : Tile := BitVec.ofNat 128 (b / 256 + 2 ^ 16 * (size / 256) + 2 ^ 32 * (fmt + 16 + 2 ^ 8 * (rows - 1) + 2 ^ 16 * (cols - 1)))

/-- Tiles 3 and 4 of matrix context 0; handle entry 0 is pending, entry 1 is completed; shape records at 0x40000 and 0x41000. -/
def engState : State := ((base.setBytes ⟨.hbm, 0x40000⟩ shapeBytes).setBytes ⟨.hbm, 0x41000⟩ (shapeBytes 0)).updCore 0 fun c => { c with
  mc0 := { c.mc0 with tiles := [(3, tileOf 0 4096 3 16 32), (4, tileOf 8192 4096 3 16 32)] }
  handles := [(0, { gen := 5, pending := true, owner := 1, scope := .team, err := 0, rmask := 0 }),
    (1, { gen := 7, pending := false, owner := 1, scope := .team, err := 2, rmask := 3 })]
  freed := [(1, 0)] }

/-- Room among the outstanding operations and in the handle table. -/
def hasRoom (s : State) (e : Env) : Bool := decide (e.t.inFlight < 63) && (s.core e.core).freeHandle.isSome

/-- No handle entry is free. -/
def noEntry (s : State) : State := s.updCore 0 fun c => { c with freed := [], handles := c.handles ++ (List.range 1022).map fun k =>
  (k + 2, { gen := 0, pending := true, owner := 1, scope := .team, err := 0, rmask := 0 }) }

def xe : Ops := ops .s 48 8 16 24

theorem witness_CopiesAreHandedOver :
    ([Instr.cpy xe .lin .glb .loc, .cpy xe .fill .loc .glb, .cpy xe .lin .loc .ws, .cpyl xe true, .cpyl xe false].all fun i =>
      holds (withRegs engState (w2 8 0x2000 ++ w2 16 0x3000 ++ w2 24 0)) i fun e => hasRoom engState e && decide ((e.t.rd 24).toNat = 0)) = true
    ∧ ([Instr.cpy xe .lin .glb .loc, .cpy xe .fill .loc .glb, .cpyl xe true, .cpyl xe false].all fun i =>
      let s := withRegs engState (w2 8 0x2000 ++ w2 16 0x3000 ++ w2 24 0x40)
      holds s i fun e => hasRoom s e
        && ([(.glb, 0x2000), (.loc, 0x3000), (.loc, 0x2000), (.glb, 0x3000)].all fun (p : Space × Nat) => decide (s.boundsFault e p.1 p.2 0x40 = none))) = true
    ∧ holds engState (.cpyl { xe with len := .l, ext := 0x0000FFFC20000001 } true) (fun e => match (engineWord { xe with len := .l, ext := 0x0000FFFC20000001 }).2 with
      | some (off, _) => decide (e.localCheck off 4 = none)
      | none => true) = true := by
  decide +kernel

/-- A gather, with its record's address in g16, or a scatter, with it in g8, of the record at 0x40000; the index is 3, 5, and the other side at 0x2000. -/
def records (s : State) (f : Env → Target → State → Bool → Bool) : Bool := [true, false].all fun gth =>
  let s := withRegs s ((if gth then w2 8 0x2000 ++ w2 16 0x40000 else w2 8 0x40000 ++ w2 16 0x2000) ++ [(24, 3), (25, 5)])
  let i : Instr := if gth then .cpy xe .gth .loc .glb else .cpy xe .sct .glb .loc
  holds s i fun e => goes (s.counted e i) e .glb 0x40000 128 .read fun t s' => f e t (s'.keepPage e) gth

/-- A legal record; an illegal one; one that is read behind a request and behind a store. -/
theorem witness_CopiesAreHandedOver_records :
    records engState (fun e t z gth => hasRoom engState e && e.t.pend.isNone && readable z e t 128 && shapeOk (z.bytes t 128)
      && (let r := (shapeOf (z.bytes t 128)).based .glb
        decide (0x2000 % r.n = 0 ∧ z.recordFault e .glb r (r.elements [3, 5]) = none
          ∧ z.denseFault e .loc r 0x2000 (if gth then List.range r.count else r.scattered [3, 5]) = none))) = true
    ∧ records (engState.setBytes ⟨.hbm, 0x40000⟩ (shapeBytes 5)) (fun e t z _ => e.t.pend.isNone && readable z e t 128 && !shapeOk (z.bytes t 128)) = true
    ∧ records (asking engState .rvx) (fun e _ _ _ => e.t.pend.isSome) = true
    ∧ records (storing engState 0x40004) (fun e t z _ => e.t.pend.isNone && !z.readReady e.ref e.core e.t (t.range 128)) = true := by decide +kernel

/-- The 64th outstanding operation waits, and so does one that finds no handle entry free. -/
theorem witness_handsOver_waits : ([Instr.cpy xe .lin .glb .loc, .msync xe, .cpyl xe true].all fun i =>
    holds (crowded engState) i (fun e => decide (63 ≤ e.t.inFlight))
      && holds (noEntry engState) i fun e => decide (e.t.inFlight < 63) && ((noEntry engState).core e.core).freeHandle.isNone) = true := by decide +kernel

/-- A collective record (R322): one rank, `.add.i32`-like op and kind, slot 2, lanes. -/
def collBytes (op lanes : Nat) : List Byte := [0, 0, 0, 0, 1, 1, 1, 1, 1, BitVec.ofNat 8 op, 0, 2] ++ leBytes 4 lanes ++ leBytes 48 0

/-- Slot 2 of die 0 belongs to context 0; the record at 0x50000; a bound sketch on slot 5. -/
def collState (op lanes : Nat) : State :=
  let s := bound56.setBytes ⟨.hbm, 0x50000⟩ (collBytes op lanes)
  s.setDie 0 { s.die 0 with slots := [(2, { ctx := 0, alg := 0, issued := [] })] }

/-- What a COLL needs of its record, slot and partition; its operation has been aborted or not. -/
def collReady (sk late : Bool) (s : State) (e : Env) : Bool := hasRoom s e && goes (s.counted e (.coll xe sk)) e .glb 0x50000 64 .read fun t s' =>
  let p := s'.keepPage e
  let r := collOf (p.bytes t 64)
  let g := r.group e.pl.ctxNum
  readable p e t 64 && collOk sk (p.bytes t 64) && ((p.die 0).aborted.contains (g, (p.die 0).nextColl r.slot g) == late)
    && ((p.die 0).slots.look 2).any (fun k => decide (k.ctx = e.pl.ctxNum)) && (p.parts.look e.pl.part).any (fun y => decide (y.collWeight.getD 0 0 ≠ 0))
    && decide (r.die = 0 ∧ p.boundsFault e .glb 0x2000 16 = none)

/-- The abort of the first operation of the record's group is noted. -/
def noted (op lanes : Nat) : State :=
  let s := collState op lanes
  s.setDie 0 { s.die 0 with aborted := [((collOf (collBytes op lanes)).group 0, 0)] }

/-- The command queue of matrix context 0 is full, or a landed welt waits for it. -/
def noCommands (s : State) (full : Bool) : State := s.updCore 0 fun c =>
  if full then { c with mc0 := { c.mc0 with queue := List.replicate 64 ⟨41, ⟨1, 0⟩, 0, 0, .accz 0 32, none, []⟩ } }
  else { c with ops := [{ id := 40, ref := ⟨1, 0⟩, tcore := 0, mc := 0, slot := 0, dreg := 0, pc := 0, einst := [], scope := .team, cw := none,
                          kind := .cpyw .glb (shapeOf (shapeBytes 0)) [0, 0] 3 3 4 64 true, stage := .landed,
                          owns := [], atHome := [], wrote := [], paused := none, rmask := 0, admitted := false, assembled := false, peers := [], order := 0 }] }

/-- Whether a command may join the queue of context 0. -/
def takesCommands (s : State) : Bool := decide (((s.core 0).mc 0).queue.length < 64 ∧ (s.core 0).landed 0 = [])

theorem witness_MatrixCopiesAndCollectivesAreHandedOver :
    ([Instr.tld { xe with b := 0, c := 3 } .glb, .tst { xe with b := 0, c := 3 } .loc, .msync xe].all fun i => let s := withRegs engState (w2 8 0x2000)
      holds s i fun e => hasRoom s e && decide (s.mcOf e = some 0) && (let tile := ((s.core 0).mc 0).tile 3
        tileValid tile && decide (s.boundsFault e .glb 0x2000 (tileSize tile) = none ∧ s.boundsFault e .loc 0x2000 (tileSize tile) = none))) = true
    ∧ ([(engState, true), (noCommands engState true, false), (noCommands engState false, false)].all fun (p : State × Bool) =>
      let s := withRegs p.1 [(8, 0x100), (16, 0x40), (24, 0x0307)]
      holds s (.accrd xe .b32) fun e => hasRoom s e && decide (s.mcOf e = some 0) && (takesCommands s == p.2)
        && decide (e.localCheck 0x100 (8 * 16) = none ∧ 0x40 + 8 * 4 ≤ 196608)) = true
    ∧ ([(collState 1 4, false), (noted 1 4, true)].all fun (p : State × Bool) => let s := withRegs p.1 (w2 8 0x1000 ++ w2 16 0x2000 ++ w2 24 0x50000)
      holds s (.coll xe false) (collReady false p.2 s)) = true
    ∧ ([(collState 5 0, false), (noted 5 0, true)].all fun (p : State × Bool) => let s := withRegs p.1 ([(8, 5)] ++ w2 24 0x50000)
      holds s (.coll xe true) fun e => collReady true p.2 s e && (s.bound e.pl.ctxNum 5).any fun b => decide ((skParams b.desc).ty + 4 = 5)) = true
    ∧ (let i : Instr := .cpyw { xe with len := .l, c := 3, ext := BitVec.ofNat 64 (3 * 2 ^ 59 + 4 * 2 ^ 54) } .glb
      let s := withRegs engState (w2 8 0x41000 ++ [(16, 3), (17, 5)])
      holds s i fun e => hasRoom s e && goes (s.counted e i) e .glb 0x41000 128 .read fun t s' =>
        let p := s'.keepPage e
        let r := (shapeOf (p.bytes t 128)).based .glb
        let m := (p.core 0).mc 0
        readable p e t 128 && shapeOk (p.bytes t 128) && tileValid (m.tile 3) && fitsTile r (m.tile 3)
          && decide (p.mcOf e = some 0 ∧ mmaCheck m 3 4 0 = none ∧ p.recordFault e .glb r (r.elements [3, 5]) = none)) = true := by decide +kernel

/-- The token of an entry of this team core. -/
def tokState (tok : Word) : State := withRegs engState [(8, tok)]

/-- An engine operation of the thread on handle entry 0. -/
def engOpOf (kind : EngKind) (stage : EngStage) : EngOp :=
  { id := 40, ref := ⟨1, 0⟩, tcore := 0, mc := 0, slot := 0, dreg := 0, pc := 0, einst := [], scope := .team, cw := none, kind := kind, stage := stage,
    owns := [], atHome := [], wrote := [], paused := none, rmask := 0, admitted := false, assembled := false, peers := [], order := 0 }

/-- An operation holds entry 0, and a matrix queue stands. -/
def heldOp (o : EngOp) (l : List MCmd) : State := (tokState (5 * 1024)).updCore 0 fun c => { c with ops := [o], mc0 := { c.mc0 with queue := l } }

/-- A command that drains for the operation of number 40, and one that does not. -/
def drain40 : MCmd := ⟨41, ⟨1, 0⟩, 0, 0, .accrd .b32 0 0 1 1 4 40, none, []⟩
def zero32 : MCmd := ⟨42, ⟨1, 0⟩, 0, 0, .accz 0 32, none, []⟩

/-- A collective's kind. -/
def collKind (sk : Bool) : EngKind := if sk then .collSk (collOf (collBytes 5 0)) 5 0 else .coll (collOf (collBytes 1 4)) 0x1000 0x2000 0

/-- Operations that HCANCEL finds pending, of every kind, as far as they may have come (R310, R329). -/
def cancelled : List (EngOp × List MCmd) :=
  [(engOpOf (.lin .glb .glb 0 0 32) .waiting, []), (engOpOf (.lin .glb .glb 0 0 4) (.begun [1, 2, 3, 4]), []), (engOpOf (.fill .loc 0 5 32) .waiting, []),
    (engOpOf .msync .waiting, []), (engOpOf .accrd .waiting, [zero32, drain40]), (engOpOf .accrd .waiting, [drain40]),
    (engOpOf (.cpyw .glb (shapeOf (shapeBytes 0)) [0, 0] 3 3 4 64 true) .landed, [])]
  ++ [true, false].flatMap fun sk => [(engOpOf (collKind sk) .waiting, []), ({ engOpOf (collKind sk) .waiting with admitted := true }, []),
    (engOpOf (collKind sk) (.begun []), []), (engOpOf (collKind sk) (.result [] []), []), (engOpOf (collKind sk) (.failed 1), []), (engOpOf (collKind sk) (.failed 2), [])]

theorem witness_HandlesAndSlotsComplete :
    ([Instr.hwait xe, .htest xe, .hcancel xe].all fun i => holds (tokState (7 * 1024 + 1)) i fun e =>
      (let h := (engState.core 0).handle 1; decide (h.gen = 7 ∧ h.owner = e.ref.team ∧ h.err < 128) && !h.pending)
      && decide (e.tcore = 0)) = true
    ∧ ([Instr.hwait xe, .htest xe].all fun i => holds (tokState (5 * 1024)) i fun _ => ((engState.core 0).handle 0).pending) = true
    ∧ (cancelled.all fun (p : EngOp × List MCmd) => let s := heldOp p.1 p.2
      holds s (.hcancel xe) fun _ => ((s.core 0).handle 0).pending && decide ((s.core 0).ops.find? (fun o => o.slot == 0) = some p.1)) = true
    ∧ ([Instr.hwait xe, .htest xe, .hcancel xe].all fun i => holds (tokState (2 ^ 30 + 5 * 1024)) i fun e => decide ((e.t.rd 8).toNat / 2 ^ 30 ≠ e.tcore)) = true
    ∧ ([Instr.hwait xe, .htest xe, .hcancel xe].all fun i => holds ((tokState (7 * 1024 + 1)).updCore 0 fun c =>
      { c with handles := c.handles.put 1 { c.handle 1 with owner := 9 } }) i fun e => decide (e.ref.team ≠ 9)) = true
    ∧ ([Instr.hwait xe, .htest xe, .hcancel xe].all fun i => holds (tokState (8 * 1024 + 1)) i fun _ => decide (((engState.core 0).handle 1).gen ≠ 8)) = true
    ∧ allRun (tokState 3) [.hmov xe, .cslot xe, .cslotFree xe] = true
    ∧ holds (withRegs (engState.setDie 0 { engState.die 0 with slots := (List.range 16).map fun k => (k, { ctx := 0, alg := 0, issued := [] }) }) [(8, 2)])
      (.cslot xe) (fun _ => true) = true
    ∧ holds (tokState 2) (.cslot xe) (fun _ => (engState.die 0).slots.isEmpty) = true
    ∧ ([true, false].all fun busy => let s0 := withRegs (collState 1 4) [(8, 2)]
      let s := if busy then s0.updCore 0 fun c => { c with ops := [engOpOf (collKind false) .waiting] } else s0
      holds s (.cslotFree xe) fun e => ((s.die 0).slots.look 2 |>.any fun k => decide (k.ctx = e.pl.ctxNum)) && (s.slotRuns 0 2 == busy)) = true
    ∧ holds (tokState 3) (.cslotFree xe) (fun _ => ((tokState 3).die 0).slots.isEmpty) = true := by decide +kernel

/-- A new descriptor in g8 to g11; immediates in g16. -/
def matState (b24 : Word) : State := withRegs engState (w2 8 (BitVec.ofNat 64 (tileOf 16384 4096 3 16 16).toNat) ++ w2 10 0 ++ [(16, 0x20), (24, b24)])

theorem witness_MatrixInstructionsComplete :
    ([Instr.tshape { xe with d := 9 }, .tshapeFree { xe with d := 9 }, .tshapeRs { xm with d := 3, ext := 0x000F0F13 }].all fun i => holds (matState 0) i fun e =>
      decide ((matState 0).mcOf e = some 0) && !((matState 0).core 0).tileBusy 0 9 && !((matState 0).core 0).tileBusy 0 3
        && tileLegal (e.t.quad 8) && !(((matState 0).core 0).mc 0).overlaps 9 (e.t.quad 8) && tileValid ((((matState 0).core 0).mc 0).tile 3)
        && (let r := BitVec.ofNat 128 ((tileOf 0 4096 3 16 32).toNat / 2 ^ 64 * 2 ^ 64 + 0x000F0F13 * 2 ^ 32 + (tileOf 0 4096 3 16 32).toNat % 2 ^ 32)
          tileLegal r && !(((matState 0).core 0).mc 0).overlaps 3 r)) = true
    ∧ ([Instr.trd { xe with a := 3 }, .mctx xe, .mctxRel xe, .elect xe true].all fun i => holds (matState 0) i fun e => decide ((matState 0).mcOf e = some 0)) = true
    ∧ ([(matState 0x0307, true), (noCommands (matState 0x0307) true, false), (noCommands (matState 0x0307) false, false)].all fun (p : State × Bool) =>
      holds p.1 (.mma { xe with d := 3, a := 4 } true) (fun _ => (takesCommands p.1 == p.2) && decide (mmaCheck ((p.1.core 0).mc 0) 3 4 0x20 = none))
      && holds (withRegs p.1 [(8, 196608 - 32)]) (.accz xe) (fun e => decide ((e.t.rd 8).toNat + (e.t.rd 16).toNat = 196608))
      && (let s := withRegs p.1 [(8, 0x100)]
        holds s (.accwr xe .b32) fun e => decide (e.localCheck 0x100 (8 * 16) = none) && e.t.pend.isNone
          && (s.counted e (.accwr xe .b32)).readReady e.ref e.core e.t ((e.localPlace 0x100).range (8 * 16)))) = true
    ∧ holds (withRegs (asking (matState 0x0307) .rvx) [(8, 0x100)]) (.accwr xe .b32) (fun e => decide (e.localCheck 0x100 (8 * 16) = none) && e.t.pend.isSome) = true
    ∧ (let s := withRegs (spadBusy (matState 0x0307)) [(8, 0x100)]
      holds s (.accwr xe .b32) fun e => e.t.pend.isNone && !(s.counted e (.accwr xe .b32)).readReady e.ref e.core e.t ((e.localPlace 0x100).range (8 * 16))) = true
    ∧ ([Instr.mctx xe, .mctxRel xe].all fun i => holds ((matState 0).updCore 0 fun c => { c with mc0 := { c.mc0 with team := none } }) i fun e =>
      decide (((matState 0).updCore 0 fun c => { c with mc0 := { c.mc0 with team := none } }).mcOf e = none)) = true
    ∧ holds (teamOf2 []) (.elect xe false) (fun e => e.tm.threads.all fun y => !decide (y.1 < e.ref.tid)) = true
    ∧ holds ({ teamOf2 [] with cur := some ⟨⟨1, 1⟩, [1]⟩ }) (.elect xe false) (fun e => e.tm.threads.any fun y => decide (y.1 < e.ref.tid ∧ y.2.status ≠ .exited))
      = true := by decide +kernel

/-! ### Examples of the spec, one step each -/

/-- Registers of the executing thread after an instruction has run with some register values; `none` where there is no next state. -/
def gives (l : List (Reg × Word)) (i : Instr) (rs : List Reg) : Option (List Word) :=
  match exec i (withRegs base l) with
  | .next t => (t.thread ⟨1, 0⟩).map fun u => rs.map u.rd
  | _ => none

/-- The sticky bits of the mode word after an instruction (R83). -/
def sticks (l : List (Reg × Word)) (i : Instr) : Option Nat :=
  match exec i (withRegs base l) with
  | .next t => (t.thread ⟨1, 0⟩).map fun u => u.mode.toNat / 256 % 128
  | _ => none

/-- R99, R100: `and.b64 g8, g8, −64` clears the low six bits; `bfe.z32 g1, g2, 0x0805` takes 8 bits from bit 5. -/
theorem test_bits : gives [(8, 0xFFFFFFFF), (9, 0x12345678)] (.and (ops .m 8 8 0 0 0xFFFFFFC0) true) [8, 9] = some [0xFFFFFFC0, 0x12345678]
    ∧ gives [(2, 0xABCDE)] (.bfe (ops .m 1 2 0 0 0x0805) true) [1] = some [0xE6] := by decide +kernel

/-- R120: the packing of 1.0, 20.0, −1.0, 33.5 into N8 writes 0x7FB07430 and raises inexact (bit 12) and narrow saturation (bit 14). -/
theorem test_pack_n8 : gives [(4, 0x3F800000), (5, 0x41A00000), (6, 0xBF800000), (7, 0x42060000)] (.pcvt (ops .s 1 4 6 0) .rne .n8) [1] = some [0x7FB07430]
    ∧ sticks [(4, 0x3F800000), (5, 0x41A00000), (6, 0xBF800000), (7, 0x42060000)] (.pcvt (ops .s 1 4 6 0) .rne .n8) = some 0x50 := by decide +kernel

/-- R86's examples: 0.3, 30.5 and −1/128 into N8; 3.0 and 1.5 into N4. -/
theorem test_narrow_codes : gives [(4, 0x3E99999A), (5, 0x41F40000), (6, 0xBC000000), (7, 0)] (.pcvt (ops .s 1 4 6 0) .rne .n8) [1] = some [0x00007E13]
    ∧ gives [(4, 0x40400000), (5, 0x3FC00000)] (.pcvt (ops .s 1 4 8 0) .rne .n4) [1] = some [0x46] := by decide +kernel

/-- R123: an undecided predicate. -/
theorem test_undecided : gives [(6, 0xFFFFFFFF), (8, 1)] (.pand (ops .s 7 6 8 0)) [7] = some [0xFFFFFFFF]
    ∧ gives [(6, 0xFFFFFFFF), (8, 1)] (.por (ops .s 7 6 8 0)) [7] = some [1] ∧ gives [(6, 0xFFFFFFFF)] (.pres (ops .s 9 6 0 0) true) [9] = some [1]
    ∧ gives [(6, 0xFFFFFFFF)] (.pres (ops .s 9 6 0 0) false) [9] = some [0] ∧ gives [(6, 7)] (.pres (ops .s 9 6 0 0) false) [9] = some [1] := by
  decide +kernel

/-- R130: the square of [−4, 4], its product by itself, and the root of [−1, 4]. -/
theorem test_intervals : gives [(8, 0xC0800000), (9, 0x40800000)] (.ivsqr (ops .s 40 8 0 0) false false) [40, 41] = some [0, 0x41800000]
    ∧ gives [(8, 0xC0800000), (9, 0x40800000)] (.ivmul (ops .s 40 8 8 0) false false) [40, 41] = some [0xC1800000, 0x41800000]
    ∧ gives [(8, 0xBF800000), (9, 0x40800000)] (.ivsqrt (ops .s 40 8 0 0) false false) [40, 41] = some [0, 0x40000000] := by decide +kernel

/-- Signed saturation sets NS, and wrapping addition wraps (R96). -/
theorem test_saturation : gives [(8, 0x7FFFFFFF), (9, 1)] (.iadd (ops .s 7 8 9 0) .sat) [7] = some [0x7FFFFFFF]
    ∧ sticks [(8, 0x7FFFFFFF), (9, 1)] (.iadd (ops .s 7 8 9 0) .sat) = some 0x40
    ∧ gives [(8, 0x7FFFFFFF), (9, 1)] (.iadd (ops .s 7 8 9 0) .wrap) [7] = some [0x80000000] := by decide +kernel

/-- The state of the next step. -/
def stepped (s : State) : Option DWord :=
  match step s with
  | .next t => (t.thread ⟨1, 0⟩).map fun u => u.pc
  | _ => none

/-- R25: at a pad word the program counter moves to the next block and nothing else happens; a wait-free `nop` advances by 8 (R24). -/
theorem test_fetch : stepped (withThread ((State.reset.withFetchWord 64 1).setBytes ⟨.hbm, 0x200014⟩ (leBytes 4 0xFFFFFFFC)) fun t => { t with pc := 0x200014 })
    = some 0x200020 ∧ stepped (State.reset.withFetchWord 64 1) = some 0x200008 := by decide +kernel

/-- Four threads of team 1 with a pending sum each; thread 3 may have exited. -/
def rdv4 (last : Bool) : State := base.updTeam 1 fun tm => { tm with maxTid := 3, threads := (List.range (if last then 4 else 3)).map fun n =>
  (n, { Thread.fresh 0x200000 0 with loc := .slot 0 0 n, pend := some { id := 45, kind := .rvred .addF32, dst := 40, size := 2, val := if n = 0 then 0x4B800000 else 0x3F800000, arg := 0, pc := 0x200000, einst := [] } }) }

/-- R210: the tree of four gives 0x4B800001; with thread 3 exited, 0x4B800000. -/
theorem test_reduction_tree : ([true, false].map fun l => ((rdv4 l).completeRdv 1 0 2).thread ⟨1, 1⟩ |>.map fun u => u.rd 40) = [some 0x4B800001, some 0x4B800000] := by
  decide +kernel

/-- R327: 2^24, 1, 1, 1 added by rank order, and deterministically. -/
theorem test_collective_sums :
    (let p : List Part := [0x4B800000, 0x3F800000, 0x3F800000, 0x3F800000].mapIdx fun r v => ⟨r, 4 * r, 4, leBytes 4 v⟩
     [(reduceLane 1 16 0 p 0).1, (reduceLane 0 16 0 p 0).1]) = [0x4B800000, 0x4B800001] := by decide +kernel

/-- A frequency sketch with b = 4, d = 2, 8-bit counters that may be deleted from, its state at 0x3000 (R279). -/
def freq : State × Bind := (base, { desc := leBytes 4 0x00020402 ++ leBytes 4 0 ++ leBytes 4 3 ++ leBytes 4 0 ++ leBytes 8 0x3000 ++ leBytes 8 0, state := 0x3000, frames := [⟨.hbm, 0⟩] })

/-- The instance after inserts of keys 1, 3, 2 with weights 2, 5, 1; then of key 3 with weight 300; then key 1 deleted three times. -/
def freq3 : State := ((((freq.1.skFormat freq.2).skInsert freq.2 1 2).1.skInsert freq.2 3 5).1.skInsert freq.2 2 1).1
def freq6 : State × Bool := freq3.skInsert freq.2 3 300
def freq9 : State := (freq6.1.skInsert freq.2 1 (-3)).1

/-- The worked frequency sketch of 12_sketches.md: answers, the event of step 6, the flags, TOTAL and a pinned counter. -/
theorem test_frequency_sketch : [freq3.skQuery freq.2 5, freq3.skQuery freq.2 1, freq6.1.skQuery freq.2 3, freq6.1.skQuery freq.2 5] = [0, 2, 255, 0]
    ∧ freq6.2 = true ∧ [freq6.1.skGet freq.2 0x20 4, freq9.skGet freq.2 0x20 4, freq9.skGet freq.2 0x28 8, freq9.skGet freq.2 77 1] = [1, 3, 305, 255] := by
  decide +kernel

/-- R285, R286: key 1 alone in a distinct counter with p = 4 is in register 9 with rank 1, and the estimate is 16 ln(16/15) = 1.0326 as FP32. -/
theorem test_distinct :
    (let k : Bind := { freq.2 with desc := leBytes 8 0x0403 ++ leBytes 8 0 ++ leBytes 8 0x3000 ++ leBytes 8 0 }
     let s := ((freq.1.skFormat k).skInsert k 1 1).1
     (s.skGet k (64 + 9) 1, s.skGet k 0x24 4, s.skQuery k 0)) = (1, 1, 0x3F842CC6) := by decide +kernel


/-! ### From a new partition to a running program -/

/-- A partition of cluster 0 and HBM unit 0 whose region control block stands at 0x3000. -/
def spec0 : PartSpec :=
  { num := 0, clusters := [0], hbmUnits := [0], visible := [0], wsUnits := [(0, 3)], collWeight := [1, 0, 0, 0], linkWeight := List.replicate 16 1,
    vfs := [3], admits := [(9, 8, [0])], rcb := 0x3000, waitFloor := 4096, logBase := 0x10000, logN := 6 }

/-- A region control block of a level that sets every field (R350). -/
def rcbTop : List Byte :=
  [1, 7] ++ leBytes 2 0 ++ leBytes 4 0 ++ leBytes 8 0 ++ leBytes 2 0 ++ leBytes 2 4 ++ leBytes 4 64 ++ leBytes 4 16384 ++ leBytes 4 262144 ++ leBytes 4 3072
    ++ leBytes 4 64 ++ leBytes 4 4096 ++ leBytes 4 0 ++ leBytes 2 1 ++ [0, 0] ++ leBytes 4 0 ++ leBytes 8 0x300000 ++ leBytes 64 0

/-- One that inherits all. -/
def rcbBelow (kind : Nat) (parent : Nat) (kernel : Nat) : List Byte :=
  leBytes 8 kind ++ leBytes 8 parent ++ leBytes 0x50 0 ++ leBytes 8 kernel ++ leBytes 24 0

/-- Page tables at 0x1000, control blocks at 0x3000, pipeline record, kernel descriptor, context table, queue table: all as a host writes them. -/
def hostImage : List (Nat × List Byte) :=
  [(0x1000, leBytes 8 0x2003), (0x2000, leBytes 8 0x39 ++ leBytes 8 0x21), (0x3000, rcbTop), (0x3080, rcbBelow 2 0x3000 0), (0x3100, rcbBelow 3 0x3080 0),
    (0x3180, rcbBelow 4 0x3100 0x5000), (0x4000, leBytes 4 0 ++ [1, 1] ++ leBytes 10 0), (0x4010, leBytes 4 0 ++ [0xFF, 0] ++ leBytes 2 1 ++ leBytes 24 0),
    (0x4030, leBytes 4 0 ++ leBytes 4 4 ++ leBytes 2 1 ++ [16, 0] ++ leBytes 4 0),
    (0x5000, leBytes 8 0 ++ leBytes 8 0x6000 ++ [1, 1] ++ leBytes 2 2 ++ leBytes 44 0), (0x6000, leBytes 8 0x1D9),
    (0x7000, leBytes 8 0x3080 ++ leBytes 8 0x1000 ++ leBytes 8 0 ++ [4, 1] ++ leBytes 38 0), (0x8000, leBytes 8 0x9000 ++ [2, 0, 1] ++ leBytes 21 0)]

/-- Firmware runs and has made the partition; the host has written its image and the packets of queue 0 of virtual function 3. The unit's other bytes
are taken to be zeros, so that the tests can be evaluated. -/
def hosted (packets : List (List Byte)) : State :=
  let s : State := { State.reset with firmware := { State.reset.firmware with running := some 1, held := false } }
  let s := match exec (.partitionCreate spec0) s with
    | .next t => { t with hbmKeys := [], wsKeys := [], firmware := { t.firmware with hdm := [(0, 2 ^ 30)] } }
    | _ => s
  let s := (hostImage ++ [(0x9000, packets.flatten)]).foldl (fun (s : State) (p : Nat × List Byte) => s.setBytes ⟨.hbm, p.1⟩ p.2) s
  { s with vfs := s.vfs.upd 3 fun v => { v with ctxtab := 0x7000, ctxcnt := 1, qtab := 0x8000, qcount := 2, queues := [(0, { wr := packets.length, rd := 0, err := false })] } }

/-- Outcomes in a row. -/
def thenDo (s : State) : List Instr → State
  | [] => s
  | i :: l => match exec i s with
    | .next t => thenDo t l
    | _ => s

/-- A LAUNCH packet (R365) with EMUL: it signals 5 at 0xA000. -/
def launchPacket : List Byte := leBytes 8 1 ++ leBytes 8 0x3100 ++ leBytes 8 0x4000 ++ leBytes 8 0x1234 ++ leBytes 8 0xA000 ++ leBytes 8 5 ++ [1] ++ leBytes 15 0

/-! ### Engines at work -/

/-- Matrix context 0 with integer tiles 5 and 6 (I8, 2 × 4, rows 32 bytes apart by R148), and one command in its queue. -/
def mcState (kind : MKind) (halt : Bool) : State := ((engState.setBytes ⟨.oper 0 0, 0x4000⟩ [1, 2, 3, 4]).setBytes ⟨.oper 0 0, 0x4020⟩ [255, 0, 0, 1]).updCore 0 fun c => { c with
  mc0 := { c.mc0 with
    tiles := c.mc0.tiles ++ [(5, tileOf 0x4000 256 6 2 4), (6, tileOf 0x4000 256 6 2 4)]
    halt := halt
    queue := [{ id := 30, ref := ⟨1, 0⟩, tcore := 0, pc := 0x200000, kind := kind, welt := none, einst := [] }] }
  ops := [{ engOpOf .accrd .waiting with id := 29, slot := 0 }] }

def mmaKind (z : Bool) : MKind := .mma 5 6 (tileOf 0x4000 256 6 2 4) (tileOf 0x4000 256 6 2 4) 0x20 z 7

/-- In a stage of redundant mode. -/
def redundantState : State := (mcState (mmaKind true) false).updStage 2 0 fun st => { st with redundant := true }

theorem witness_MatrixUnitExecutes :
    ([mmaKind true, mmaKind false, .accz 196576 32, .accrd .b32 0x100 0 2 4 16 29, .accwr .b32 0 1 2 [5, 6] none, .accwr .b32 0 1 2 [5, 6] (some (0x40, 9))].all fun k =>
      [true, false].all fun h => let s := issued (mcState k h)
      (s.commandReady 0 0).any (fun c => !s.inStitch 0 c.ref && decide (c.kind = k ∧ c.ref.team = 1)) && (s.commandReady 0 1).isNone
        && ((s.core 0).op 29).any (fun o => decide (o.kind = .accrd ∧ o.ref.team = 1))) = true
    ∧ ([none, some (0x40, 9), some (0x100, 9)].all fun cw => let s := issued ((mcState (.accrd .b32 0x100 0 2 4 16 29) false).updOp 0 29 fun o => { o with cw := cw })
      (s.commandReady 0 0).isSome && ((s.core 0).op 29).any fun o => decide (o.cw = cw)) = true
    ∧ (let s := issued redundantState
      (s.commandReady 0 0).any (fun c => s.isRedundant c && !s.inStitch 0 c.ref && decide (c.ref = ⟨1, 0⟩))
        && (s.thread ⟨1, 0⟩).any fun t => decide (t.status ≠ .exited ∧ t.held = [])) = true := by decide +kernel

/-- Blocks of the kinds of R158, one scale, and an accumulator code of FP32, with what R157 and R158 give. -/
def blockCases : List (Nat × List (FVal × FVal) × FVal × Nat × Conds) :=
  let one : FVal := .fin false 1 0
  let two : FVal := .fin true 2 0
  let zero : FVal := .fin false 0 0
  [ -- a poisoned scale comes before a signalling element
    (0x3F800000, [(.nan true, one)], .nan false, 0x7FC00000, {}),
    (0x3F800000, [(.nan true, one)], one, 0x7FC00000, { nv := true }),
    (0x7F800001, [(.nan false, one)], one, 0x7FC00000, { nv := true }),
    (0x3F800000, [(.nan false, .inf true), (.inf false, zero)], one, 0x7FC00000, {}),
    (0x3F800000, [(.inf false, zero)], one, 0x7FC00000, { nv := true }),
    (0x3F800000, [(.inf false, one), (.inf false, two)], one, 0x7FC00000, { nv := true }),
    (0x3F800000, [(.inf false, one)], zero, 0x7FC00000, { nv := true }),
    (0x3F800000, [(.inf false, two), (one, one)], one, 0xFF800000, {}),
    (0x7F800000, [(.inf false, two)], one, 0x7FC00000, { nv := true }),
    (0x7FC00000, [(.inf false, two)], one, 0x7FC00000, {}),
    (0xFF800000, [(one, two)], one, 0xFF800000, {}),
    (0x7FC00001, [(one, two)], one, 0x7FC00000, {}),
    -- 2^24 + (1·1 + 1·1) · 0.5 is halfway, and goes to the even code; −2 + 1·1 + 1·1 is +0
    (0x4B800000, [(one, one), (one, one)], .fin false 1 (-1), 0x4B800000, { nx := true }),
    (0x4B800000, [(one, one), (one, one)], one, 0x4B800001, {}),
    (0xC0000000, [(one, one), (one, one)], one, 0, {}) ]

theorem witness_MatrixUnitExecutes_blocks : (blockCases.all fun b => decide (addBlock false b.1 b.2.1 b.2.2.1 (.fin false 1 0) = b.2.2.2)) = true
    ∧ addBlock true 0x7FFFFFFF [(.fin false 3 0, .fin true 1 0), (.fin false 2 0, .fin false 2 0)] (.fin false 1 0) (.fin false 1 0)
        = (0x7FFFFFFF, { ns := true }) := by decide +kernel

theorem witness_MatrixUnitExecutes_scales : isScale (s8Value 0xFF) ∧ isScale (s8Value 0) ∧ isScale (s8Value 0x7C) :=
  ⟨.inl rfl, .inr ⟨_, _, rfl⟩, .inr ⟨_, _, rfl⟩⟩

/-- R157: 1·1 + 2·2 + 3·3 + 4·4 and −1·1 + 0 + 0 + 1·4 are added to accumulators 0x20 and 0x22 (row 0 and row 1 against row 0). -/
theorem test_integer_product : (match exec (.matrixCommandExecute 0 0 true) (issued (mcState (mmaKind true) false)) with
    | .next t => [0x20, 0x22].map fun k => (BitVec.ofNat 32 (t.load ⟨.acc 0 0, 4 * k⟩ 4)).toInt
    | _ => []) = [30, 3] := by decide +kernel

/-- A core with one engine operation, whose handle entry is pending. -/
def workState (o : EngOp) : State := engState.updCore 0 fun c => { c with ops := [o] }

/-- The operation's range may be written. -/
def mayLand (o : EngOp) (a n : Nat) : Bool :=
  let s := workState o
  decide (a % 2 ^ 24 + n ≤ 2 ^ 24) && !s.isPaused o && (s.reach 0 o).isSome
    && s.mayWrite o (rangesAt ((List.range n).map fun k => some (localByte 1 ((a + k) % 2 ^ 32))))

/-- A part of a collective with `ranks` ranks along its first axis, on slot 2. -/
def partOf (ranks : Nat) (stage : EngStage) : EngOp :=
  engOpOf (.coll { coord := [0, 0, 0], die := 0, ext := [ranks, 1, 1, 1], repl := 2, op := 1, kind := 0, slot := 2, lanes := 4, ebase := 0, run := 0,
                   nelem := 0 } 0x1000 0x2000 7) stage

/-- The part on a core of die 0 whose slot 2 belongs to the context. -/
def partState (ranks : Nat) (stage : EngStage) : State :=
  (collState 1 4).updCore 0 fun c => { c with ops := [partOf ranks stage], handles := [(0, { gen := 5, pending := true, owner := 1, scope := .team, err := 0, rmask := 0 })] }

/-- A welted copy into tile 3, at a stage. -/
def weltOp (stage : EngStage) : EngOp := engOpOf (.cpyw .glb (shapeOf (shapeBytes 0)) [0, 0] 3 3 4 64 true) stage

/-- A welted copy whose bytes may be written, with room in the queue of its context, with a full queue, or behind a landed welt. -/
def mayWelt (l : List MCmd) (landed room : Bool) : Bool :=
  let o := weltOp (.begun (List.replicate 32 5))
  let s := (workState o).updCore 0 fun c => { c with ops := (if landed then [{ weltOp .landed with id := 39, slot := 1 }] else []) ++ c.ops, mc0 := { c.mc0 with queue := l } }
  let m := (s.core 0).mc 0
  (s.core 0).op 40 == some o && !s.isPaused o && (s.team 1).any (fun tm => (s.pipeOf tm).isSome && decide (tm.phase ≠ .killed))
    && decide (s.tileHome 0 o = (.oper 0 0, m))
    && s.mayWrite o (rangesAt (((⟨.oper 0 0, tileBase (m.tile 3)⟩ : Target).span (tileRows (m.tile 3) * tilePitch (m.tile 3))).map some))
    && (decide (m.queue.length < 64 ∧ (s.core 0).landed 0 = []) == room)

theorem witness_EnginesComplete_welts : (mayWelt [] false true && mayWelt (List.replicate 64 zero32) false false && mayWelt [] true false) = true
    ∧ (let s := workState (weltOp .landed)
      ((s.core 0).landed 0).head? = some (weltOp .landed) ∧ ((s.core 0).mc 0).queue.length < 64 ∧ ((s.team 1).any fun tm => decide (tm.phase ≠ .killed)) = true) := by
  decide +kernel

/-- A group's only rank here agrees with itself; of two, one waits here and a peer's rank agrees or not. -/
theorem witness_EnginesComplete_groups :
    ([(1, []), (2, [{ index := 1, kind := 0, op := 1, lanes := 4, nelem := 0, alg := 0, ebase := 0, run := 0, data := [1, 1, 1, 1], state := [] }]),
      (2, [{ index := 1, kind := 0, op := 2, lanes := 4, nelem := 0, alg := 0, ebase := 0, run := 0, data := [1, 1, 1, 1], state := [] }])].all fun (p : Nat × List PeerRank) =>
      let s := partState p.1 .waiting
      let o := partOf p.1 .waiting
      decide (s.unassembled 0 2 = some (0, o)) && (match o.kind.coll? with
        | some (r, num) => let g := r.group (s.ctxOf o.ref)
          let recs := recsOf (s.partsOf g num)
          groupFull r recs p.2 && (p.2.isEmpty || !s.cutOff g) && (s.groupAgrees 0 r recs p.2 == p.2.all fun k => decide (k.op = 1))
        | none => false)) = true
    ∧ ([EngStage.waiting, .begun [], .exchanged [] [], .result [] []].all fun g => let s := partState 2 g
      match (partOf 2 g).kind.coll? with
      | some (r, num) => let gr := r.group 0
        decide ((groupRanks gr).1 = 1 ∧ (groupRanks gr).2 = 2) && (s.partsOf gr num).map (fun p => p.2) == [partOf 2 g]
          && (recsOf (s.partsOf gr num)).all fun p => decide (p.2.rank ∉ [1])
      | none => false) = true := by decide +kernel

/-! ### Engines that move bytes -/

/-- The page of an address and its translation, where no older one of the page is held. -/
def pageAt (s : State) (r : Reach) (a : Nat) : Option (Nat × Xlate) :=
  let p := a / 4096 * 4096
  match s.walk r.ctx p with
  | .ok x => if (s.oldXlates (some r.core) r.ctx p).isEmpty then some (p, x) else none
  | .error _ => none

theorem pageAt_of {s : State} {r : Reach} {a p : Nat} {x : Xlate} (h : pageAt s r a = some (p, x)) :
    s.oldXlates (some r.core) r.ctx p = [] ∧ s.walk r.ctx p = .ok x := by
  simp only [pageAt] at h
  split at h
  next hx =>
    split at h
    next ho => simp only [Option.some.injEq, Prod.mk.injEq] at h; obtain ⟨rfl, rfl⟩ := h; exact ⟨List.isEmpty_iff.mp ho, hx⟩
    next => cases h
  next => cases h

/-- Whether a place is the one that an address reaches; all addresses in GLOBAL are of one page. -/
def reachB (s : State) (r : Reach) (g : Option (Nat × Xlate)) (need : Need) (sp : Space) (sw : Nat → Nat) (a : Nat) (t : Target) : Bool :=
  match sp with
  | .glb => g.any fun g => decide (a / 4096 * 4096 = g.1) && g.2.grants need && g.2.sk.isNone
      && decide (t = { g.2.place g.1 with addr := (g.2.place g.1).addr + a % 4096 })
  | .loc => decide (t = ⟨.spad r.team (sw (a % 2 ^ 32) / 2 ^ 24 % 4), sw (a % 2 ^ 32) % 2 ^ 24⟩)
  | .ws => (s.parts.look r.part).any fun p => decide (p.wsPlace (r.core / 64) a 1 = some t)

theorem reaches_of {s : State} {r : Reach} {b : Nat} {need : Need} {sp : Space} {sw : Nat → Nat} {a : Nat} {t : Target}
    (h : reachB s r (pageAt s r b) need sp sw a t = true) : reaches s r need sp sw a t := by
  cases sp with
  | glb =>
    simp only [reachB, Option.any_eq_true, Bool.and_eq_true, decide_eq_true_eq, Option.isNone_iff_eq_none] at h
    obtain ⟨⟨p, x⟩, hp, ⟨⟨rfl, hg⟩, hn⟩, ht⟩ := h
    exact ⟨(pageAt_of hp).1, x, (pageAt_of hp).2, hg, hn, ht⟩
  | loc => simpa [reachB, reaches] using h
  | ws => simpa [reachB, reaches, Option.any_eq_true] using h

/-- Whether there is a place, which meets a condition. -/
def hasPlace (o : Option (Option Target)) (f : Target → Bool) : Bool :=
  match o with
  | some (some t) => f t
  | some none | none => false

theorem hasPlace_of {o : Option (Option Target)} {f : Target → Bool} (h : hasPlace o f = true) : ∃ t, o = some (some t) ∧ f t = true := by
  match o, h with
  | some (some t), h => exact ⟨t, rfl, h⟩

/-- Whether places are those of consecutive addresses. -/
def consecutiveB (s : State) (r : Reach) (b : Nat) (need : Need) (sp : Space) (sw : Nat → Nat) (a n : Nat) (ps : List (Option Target)) : Bool :=
  decide (ps.length = n) && (List.range n).all fun k => hasPlace ps[k]? fun t => reachB s r (pageAt s r b) need sp sw (a + k) t

theorem consecutive_of {s : State} {r : Reach} {b : Nat} {need : Need} {sp : Space} {sw : Nat → Nat} {a n : Nat} {ps : List (Option Target)}
    (h : consecutiveB s r b need sp sw a n ps = true) : consecutive s r need sp sw a n ps := by
  simp only [consecutiveB, Bool.and_eq_true, decide_eq_true_eq, List.all_eq_true, List.mem_range] at h
  exact ⟨h.1, fun k hk => let ⟨t, ht, hr⟩ := hasPlace_of (h.2 k hk); ⟨t, ht, reaches_of hr⟩⟩

/-- Whether places are those of a box's elements. -/
def elementwiseB (s : State) (r : Reach) (b : Nat) (need : Need) (sp : Space) (rec_ : Shape) (address : Nat → Option Nat) (ps : List (Option Target)) : Bool :=
  decide (ps.length = rec_.count * rec_.n) && (List.range rec_.count).all fun m => (List.range rec_.n).all fun j =>
    match address m with
    | some a => hasPlace ps[m * rec_.n + j]? fun t => reachB s r (pageAt s r b) need sp rec_.swizzle (a + j) t
    | none => decide (ps[m * rec_.n + j]? = some none)

theorem elementwise_of {s : State} {r : Reach} {b : Nat} {need : Need} {sp : Space} {rec_ : Shape} {address : Nat → Option Nat} {ps : List (Option Target)}
    (h : elementwiseB s r b need sp rec_ address ps = true) : elementwise s r need sp rec_ address ps := by
  simp only [elementwiseB, Bool.and_eq_true, decide_eq_true_eq, List.all_eq_true, List.mem_range] at h
  refine ⟨h.1, fun m j hm hj => ?_⟩
  have hj := h.2 m hm j hj
  revert hj
  cases address m with
  | none => exact of_decide_eq_true
  | some a => exact fun h => let ⟨t, ht, hr⟩ := hasPlace_of h; ⟨t, ht, reaches_of hr⟩

/-- Whether places are an operation's source. -/
def sourceB (s : State) (r : Reach) (o : EngOp) (ps : List (Option Target)) : Bool :=
  let tile (t : Nat) : Bool := let d := (s.tileHome r.core o).2.tile t
    decide (ps = (List.range (tileSize d)).map fun k => some ⟨(s.tileHome r.core o).1, tileBase d + k⟩)
  match o.kind with
  | .lin _ sp _ b n => consecutiveB s r b .read sp id b n ps
  | .gather _ sp _ rec_ k0 | .cpyw sp rec_ k0 _ _ _ _ _ => elementwiseB s r rec_.base .read sp rec_ (boxAddress sp rec_ k0) ps
  | .scatter _ sp rec_ b k0 => elementwiseB s r rec_.base .read sp rec_
      (fun m => if m ∈ rec_.scattered k0 then some (if sp = .ws then (b + m * rec_.n) % 2 ^ 32 else b + m * rec_.n) else none) ps
  | .tld sp a t => consecutiveB s r a .read sp id a (tileSize ((s.tileHome r.core o).2.tile t)) ps
  | .tst _ _ t => tile t
  | .coll rec_ a _ _ => if rec_.kind = 1 ∧ rec_.rank ≠ 0 then decide (ps = []) else consecutiveB s r a .read .glb id a (4 * rec_.lanes) ps
  | .fill .. | .accrd | .msync | .collSk .. => false

theorem sourceOf_of {s : State} {r : Reach} {o : EngOp} {ps : List (Option Target)} (h : sourceB s r o ps = true) : sourceOf s r o ps := by
  unfold sourceB at h
  unfold sourceOf tilePlaces
  generalize o.kind = k at h ⊢
  cases k <;> first
    | exact consecutive_of h | exact elementwise_of h | exact of_decide_eq_true h | cases h | skip
  simp only at h ⊢
  split at h
  next hc => rw [if_pos hc]; exact of_decide_eq_true h
  next hc => rw [if_neg hc]; exact consecutive_of h

/-- Whether places are an operation's destination. -/
def destinationB (s : State) (r : Reach) (o : EngOp) (ps : List (Option Target)) : Bool :=
  match o.kind with
  | .lin sp _ a _ n | .fill sp a _ n => consecutiveB s r a .write sp id a n ps
  | .gather sp _ a rec_ _ => consecutiveB s r a .write sp rec_.swizzle a rec_.boxBytes ps
  | .scatter sp _ rec_ _ k0 => elementwiseB s r rec_.base .write sp rec_ (boxAddress sp rec_ k0) ps
  | .tld _ _ t => let d := (s.tileHome r.core o).2.tile t
    decide (ps = (List.range (tileSize d)).map fun k => some ⟨(s.tileHome r.core o).1, tileBase d + k⟩)
  | .tst sp a t => consecutiveB s r a .write sp id a (tileSize ((s.tileHome r.core o).2.tile t)) ps
  | .coll rec_ _ a _ => consecutiveB s r a .write .glb id a (4 * rec_.lanes * if rec_.kind = 2 then rec_.ranks else 1) ps
  | .cpyw .. | .accrd | .msync | .collSk .. => false

theorem destinationOf_of {s : State} {r : Reach} {o : EngOp} {ps : List (Option Target)} (h : destinationB s r o ps = true) : destinationOf s r o ps := by
  unfold destinationB at h
  unfold destinationOf tilePlaces
  generalize o.kind = k at h ⊢
  cases k <;> first
    | exact consecutive_of h | exact elementwise_of h | exact of_decide_eq_true h | cases h

/-- Tile 5 of 256 bytes, and a piece of the weight store. -/
def byteState (o : EngOp) : State :=
  let s := (workState o).updCore 0 fun c => { c with mc0 := { c.mc0 with tiles := c.mc0.tiles ++ [(5, tileOf 0x4000 256 6 2 4)] } }
  { s with parts := s.parts.map fun p => (p.1, { p.2 with wsUnits := [(0, 3)] }) }

/-- A record of 8 × 4 bytes, and a box that starts before it. -/
def rec8 : Shape := shapeOf (shapeBytes 0)

/-- The operations of each kind. -/
def movers (stage : Nat → EngStage) : List EngOp :=
  [ engOpOf (.lin .loc .glb 0x100 0x2000 8) (stage 8), engOpOf (.lin .glb .loc 0x2000 0x100 8) (stage 8),
    engOpOf (.gather .glb .glb 0x2000 rec8 [-1, 0]) (stage 32), engOpOf (.gather .loc .glb 0x100 rec8 [97, 0]) (stage 32),
    engOpOf (.scatter .glb .loc rec8 0x100 [95, 0]) (stage 32), engOpOf (.tld .glb 0x2000 5) (stage 256), engOpOf (.tst .glb 0x2000 5) (stage 256) ]

/-- A source may be read. -/
def engReads (s : State) (o : EngOp) : Bool := match s.reach 0 o with
  | some r => (match s.srcPlaces r o with
    | .ok ps => sourceB s r o ps && !s.isPaused o && !s.portGone ps && !s.peerRefuses ps && decide (o.stage = .waiting) && s.issuerDone o.ref o.id
        && ps.all (fun t => t.all fun t => !s.inRefresh 0 t) && s.sourceFree 0 o (rangesAt ps) && !(rangesAt ps).any s.poisoned
    | .error _ => false)
  | none => false


/-- A payload may be written. -/
def engWrites (s : State) (o : EngOp) : Bool := match s.reach 0 o with
  | some r => (match s.dstPlaces r o with
    | .ok ps => destinationB s r o ps && !s.isPaused o && !s.portGone ps && !s.peerRefuses ps
        && s.mayWrite o (rangesAt (ps.map fun t => t.filter fun t => o.wrote.all fun g => !g.meets (t.range 1)))
        && (o.held.all fun u => s.mayWrite o (rangesAt (ps.map fun t => t.filter fun t => u.meets (t.range 1))))
    | .error _ => false)
  | none => false

/-- What an operation of each kind reads and writes; a payload written in part, of which units are held; a peer's answer makes no part wait. -/
theorem witness_EnginesComplete_moves :
    ((movers fun _ => .waiting).all fun o => engReads (byteState o) o) = true
    ∧ engReads (byteState (engOpOf (.lin .loc .ws 0x100 0x1000 8) .waiting)) (engOpOf (.lin .loc .ws 0x100 0x1000 8) .waiting) = true
    ∧ engReads (partState 1 .waiting) { partOf 1 .waiting with admitted := true } = true := by decide +kernel

theorem witness_EnginesComplete_writes :
    ((movers fun n => .begun (List.replicate n 7)).all fun o => engWrites (byteState o) o) = true
    ∧ engWrites (byteState (engOpOf (.fill .glb 0x2000 0x11223344 32) .waiting)) (engOpOf (.fill .glb 0x2000 0x11223344 32) .waiting) = true
    ∧ (let s := partState 1 (.result (List.replicate 16 1) [])
      engWrites s (partOf 1 (.result (List.replicate 16 1) [])) && (match (partOf 1 .waiting).kind.coll? with
        | some (r, num) => s.groupSettled (partOf 1 (.result (List.replicate 16 1) [])) r num && !s.cutOff (r.group 0)
        | none => false)) = true := by decide +kernel

theorem witness_EnginesComplete_units : ((movers fun n => .begun (List.replicate n 7)).all fun o =>
    let o := { o with atHome := [⟨.hbm, 0x2000, 0x2020⟩, ⟨.hbm, 0x105F, 0x1060⟩], wrote := [⟨.hbm, 0x2000, 0x2004⟩] }
    engWrites (byteState o) o && (o.kind.coll?.isNone)) = true := by decide +kernel

/-- Two ranks of a group on die 0, one here and one of a peer, that copy, or whose sketch states agree or differ. -/
def metState (sk agree : Bool) : State × EngOp :=
  let r : CollRec := { coord := [0, 0, 0], die := 0, ext := [2, 1, 1, 1], repl := 2, op := if sk then 5 else 1, kind := 0, slot := 2, lanes := 2, ebase := 0, run := 0, nelem := 0 }
  let p : PeerRank := ⟨1, 0, r.op, 2, 0, 0, 0, 0, [0x03030303, 0x03030303], List.replicate 8 (if agree then 3 else 4)⟩
  let o := { engOpOf (if sk then .collSk r 5 7 else .coll r 0x1000 0x2000 7) (.begun (List.replicate 8 3)) with peers := [p] }
  ((collState 1 4).updCore 0 fun c => { c with ops := [o], handles := [(0, { gen := 5, pending := true, owner := 1, scope := .team, err := 0, rmask := 0 })] }, o)

theorem witness_EnginesComplete_results :
    ([(false, true), (true, true), (true, false)].all fun (q : Bool × Bool) => let (s, o) := metState q.1 q.2
      match o.kind.coll? with
      | some (r, num) => let mine := s.partsOf (r.group (s.ctxOf o.ref)) num
        let ps := mine.filterMap (fun e => e.2.part) ++ o.peers.map (peerPart q.1)
        decide (mine = [(0, o)] ∧ ps.map (fun p => p.rank) = [0, 1]) && !s.cutOff (r.group (s.ctxOf o.ref))
          && ((ps.all fun a => ps.all fun b => decide (a.data.take 8 = b.data.take 8 ∧ a.data.length = b.data.length)) == q.2)
      | none => false) = true
    ∧ (let s := bound56.updCore 0 fun c => { c with ops := [engOpOf (collKind true) (.result (List.replicate 96 0) [])] }
      (s.bound (s.ctxOf ⟨1, 0⟩) 5).any fun k => s.instanceFree true ⟨1, 0⟩ 40 (s.ctxOf ⟨1, 0⟩) 5 k.ranges && !(k.ranges.any s.poisoned)) = true := by decide +kernel

/-- Runs of the fixed tree: [0, 2) and [2, 3) of N = 3, whose last leaf is +0.0; a single run of 8 of N = 3. -/
theorem witness_EnginesComplete_tree :
    (let ps : List Part := [⟨0, 0, 2, leBytes 4 0x40400000⟩, ⟨1, 2, 1, leBytes 4 0x3F800000⟩]
     let v (k : Nat) : Word := if k < 3 then [0x3F800000, 0x40000000, 0x3F800000].getD k 0 else 0
     (ps.all fun q => decide (q.lane 0 = rvTree .addF32 (if q.ebase = 0 then 1 else 0) fun k => v (q.ebase + k)))
       && decide (reduceLane 0 3 0 ps 0 = (rvTree .addF32 2 v, {})) && decide (rvTree .addF32 2 v = 0x40800000)) = true
    ∧ (reduceLane 0 3 0 [⟨0, 0, 8, leBytes 4 0x40400000⟩] 0).1 = 0x40400000 := by decide +kernel

theorem witness_EnginesComplete_boxes : (rec8.rank ≤ rec8.box.length ∧ rec8.rank ≤ rec8.size.length ∧ rec8.rank ≤ rec8.stride.length ∧ rec8.xf = 0)
    ∧ (List.replicate 1024 (0 : Byte)).length = 1024 := ⟨by decide +kernel, List.length_replicate⟩

theorem witness_EnginesComplete :
    (((workState (engOpOf (.lin .loc .glb 0x100 0 4) (.failed 3))).core 0).op 40).isSome = true
    ∧ mayLand (engOpOf (.lin .loc .glb 0x100 0 4) (.begun [1, 2, 3, 4])) 0x100 4 = true
    ∧ mayLand { engOpOf (.fill .loc 0xFFFFF8 0x11223344 8) .waiting with cw := some (0x40, 9) } 0xFFFFF8 8 = true
    ∧ (workState (engOpOf (.fill .loc 0xFFFFF8 0x11223344 8) .waiting)).issuerDone ⟨1, 0⟩ 40 = true
    ∧ ([(false, 0), (true, 10), (true, 90)].all fun (p : Bool × Nat) =>
      let s := (workState (engOpOf .msync .waiting)).updCore 0 fun c => { c with mc0 := { c.mc0 with halt := p.1, haltAt := p.2 } }
      s.msyncDone 0 (engOpOf .msync .waiting) && decide ((s.tileHome 0 (engOpOf .msync .waiting)).2.halt = p.1
        ∧ (s.tileHome 0 (engOpOf .msync .waiting)).2.haltAt = p.2)) = true := by decide +kernel

/-! ### Threads and teams -/

/-- Thread 0 waits. -/
def waitState (s : State) (w : Wait) : State := withThread s fun t => { t with status := .waiting w }

/-- The thread's wait, and what its view meets. -/
def waits (s : State) (f : Env → Wait → Bool) : Bool :=
  match s.waitEnv ⟨1, 0⟩ with
  | some (e, w) => f e w
  | none => false

theorem witness_ThreadEventsComplete_traps :
    ([[], [{ opOf .arith 8 0 (some 0) 2 with dst := 44 }]].all fun l =>
      ((withThread base fun t => { t with held := [heldRace], ops := l }).env ⟨⟨1, 0⟩, []⟩ |>.any fun e =>
        decide (e.t.held = [heldRace] ∧ e.t.resume = none ∧ e.t.phase = 0) && !e.t.handler)
      && ((withThread base fun t => { t with late := some heldRace, ops := l }).env ⟨⟨1, 0⟩, []⟩ |>.any fun e =>
        decide (e.t.late = some heldRace ∧ e.t.yieldTo = none) && (e.t.dividing == !l.isEmpty))) = true
    ∧ ((withThread base fun t => { t with held := [{ heldRace with cause := .malformedInterval }], handler := true }).env ⟨⟨1, 0⟩, []⟩ |>.any fun e =>
      e.t.handler && decide (e.t.held.length = 1)) = true := by decide +kernel

theorem witness_ThreadEventsComplete_waits :
    ([Wait.regs [8], .limit, .allRegs, .exit, .barrier 2 5, .request, .pageFault 3 0, .accesses true, .accesses false, .acquires 60 [0], .sketch 5, .slot 0 2].all fun w =>
      let s := waitState (teamOf2 []) w
      waits s fun e _ => e.t.full 8 && decide (e.t.inFlight < 63 ∧ e.t.ops = [] ∧ s.gen 1 2 ≠ 5 ∧ e.t.pend = none) && (s.context 0).faults.isEmpty
        && (decide (w ≠ .allRegs) || (List.range (16 * e.st.gran)).all fun k => e.t.full (BitVec.ofNat 8 k)) && !s.acquiring 60 [0] && e.t.skReady 5 && !s.slotRuns 0 2) = true
    ∧ ([Wait.divisions, .push 4, .handle (7 * 1024 + 1), .handleEntry, .translations 60 [0] none, .tile 3, .commandQueue, .context, .flags].all fun w =>
      let s := waitState engState w
      waits s fun e _ => !e.t.dividing && decide (s.queue 0 4 = none ∧ s.mcOf e = some 0) && (s.core 0).freeHandle.isSome && s.translationsDone 0 60 [0] none
        && !(s.core 0).tileBusy 0 3 && takesCommands s && ((s.core 0).mc 0).queue.isEmpty && (s.core 0).ops.isEmpty && !s.flagsPending e.ref
        && (match s.resolveHandle e (7 * 1024 + 1) with
          | .entry _ h => !h.pending
          | _ => false)) = true
    ∧ ([Wait.barrier 2 7, .allRegs].all fun w => waits (withThread (waitState (teamOf2 []) w) fun t => { t with late := some heldRace }) fun e _ =>
      e.t.late.isSome && !e.t.dividing) = true
    ∧ ([[], [(⟨.hbm, 0x1000, 0x1020⟩ : Range)]].all fun p =>
      let s := { waitState base (.address ⟨.hbm, 0x1000⟩ 0x1000 5 true .team) with poison := p }
      waits s fun e _ => s.readReady e.ref e.core e.t ⟨.hbm, 0x1000, 0x1004⟩ && decide (BitVec.ofNat 32 (s.load ⟨.hbm, 0x1000⟩ 4) ≠ 5)
        && (s.poisoned ⟨.hbm, 0x1000, 0x1004⟩ == !p.isEmpty)) = true := by decide +kernel

theorem witness_ThreadEventsComplete :
    seen (withThread base fun t => { t with yieldTo := some 0 }) (fun _ _ t => decide (t.yieldTo = some 0)) = true
    ∧ (let s := base.updCore 0 fun c => { c with clock := 255, track := [(0, (⟨1, 0⟩, 0))], rd := [(⟨1, 0⟩, 0)] }
      (s.core 0).track.look 0 = some (⟨1, 0⟩, 0) ∧ 0 + 255 ≤ (s.core 0).clock ∧ (s.core 0).forced.look 0 ≠ some ⟨1, 0⟩ ∧ s.lowestOf 0 0 0 = some ⟨1, 0⟩
        ∧ ⟨1, 0⟩ ∈ s.ready 0 0 0)
    ∧ (let s := base.updCore 0 fun c => { c with clock := 100, events := [(3, { cnt := 5, thr := 9, win := 30, act := 1, start := 40, fired := true })] }
      ((s.core 0).event 3).win ≠ 0 ∧ ((s.core 0).event 3).start + ((s.core 0).event 3).win.toNat ≤ (s.core 0).clock) := by decide +kernel

/-- What a statement about team 1 starts from. -/
def teamSeen (s : State) (f : Team → Pipeline → Stage → Bool) : Bool :=
  match s.team 1 with
  | some tm => match s.pipeOf tm, s.stageOf tm with
    | some p, some st => f tm p st
    | _, _ => false
  | none => false

/-- A small save slot: a stage of one granule whose save area is mapped, and a thread that has waited for 5 clocks. -/
def smallStage (s : State) : State := s.updStage 2 0 fun st => { st with gran := 1, spad := 0, matrix := false, save := 0x400000, barwd := 3, waitth := 4, sring := 0x800000, srlog := 1 }

def dueState : State := smallStage ((waitState (teamOf2 []) (.barrier 2 7)).updTeam 1 fun tm => { tm with
  threads := tm.threads.map fun (t : Nat × Thread) => (t.1, { t.2 with status := .waiting (.barrier 2 7), since := 0 }) }) |>.updCore 0 fun c =>
    { c with clock := 5, mc0 := .fresh }

/-- Every granule of the team's threads is present, and the save image can be written. -/
def savable (s : State) : Bool := teamSeen s fun tm p st => match s.wholeThreads p.ctxNum tm.threads with
  | .ok ts => let whole : Team := { tm with threads := ts }
    (match (s.setTeam 1 whole).writePieces p.ctxNum (st.slotAt tm.saveSlot) ((s.setTeam 1 whole).saveImage 1 whole st) with
    | .ok _ => true
    | .error _ => false)
  | .error _ => false

/-- The wait conditions of a parked team with an entry of the rack. -/
def parkedOn (l : List Cond) : State := (teamOf2 []).updTeam 1 fun tm => { tm with
  phase := .parked, rack := some { conds := l, overflow := false, fired := false, pre := false, bound := false }
  threads := tm.threads.map fun (t : Nat × Thread) => (t.1, { t.2 with status := .waiting (.barrier 2 7) }) }

/-- Thread 5 waits in the spawn ring. -/
def ringState (s : State) : State := s.updTeam 1 fun tm => { tm with maxTid := 5, ring := [(5, false)], threads := tm.threads ++ [(5, { Thread.fresh 0x200000 0 with loc := .ring })] }

/-- A team whose save area holds zeros is being restored. -/
def restoring : State := dueState.updTeam 1 fun tm => { tm with
  phase := .restoring
  threads := tm.threads.map fun (t : Nat × Thread) => (t.1, { t.2 with regsAt := 0x400200 + 288 + 352 * t.1 }) }

theorem witness_TeamEventsComplete :
    (base.parts.look 0).isSome = true
    ∧ ((base.teams.all fun t => decide (t.1 < base.nextId)) = true ∧ (base.teams.map fun t => t.1).Nodup)
    ∧ teamSeen base (fun tm _ _ => decide (tm.phase = .resident)) = true
    ∧ teamSeen dueState (fun tm p st => dueState.drainedTeam 1 tm && decide (tm.phase = .resident) && dueState.due tm st && decide (dueState.rackUsed p.part < 512))
      = true
    ∧ savable dueState = true := by decide +kernel

theorem witness_TeamEventsComplete_rack :
    (let s := dueState.updTeam 1 fun tm => { tm with phase := .chosen }
     (savable s && teamSeen s fun tm p _ => s.drainedTeam 1 tm && (tm.threads.all fun t => t.2.late.isNone) && decide (tm.phase = .chosen ∧ s.rackUsed p.part < 512)) = true)
    ∧ (let s := dueState.updTeam 1 fun tm => { tm with
        phase := .chosen
        threads := tm.threads.map fun (t : Nat × Thread) => (t.1, if t.1 = 0 then { t.2 with late := some heldRace } else t.2) }
     teamSeen s fun tm _ st => decide (tm.phase = .chosen ∧ st.traph ≠ 0) && decide (tm.threads.map fun t => t.1).Nodup && (tm.threads.all fun t => !t.2.handler)
       && (tm.threads.look 0).any fun v => decide (v.late = some heldRace ∧ v.loc = .slot 0 0 0) && !v.dividing) = true
    ∧ (let s := parkedOn [.address ⟨.hbm, 0⟩, .handle 0 0 0, .barrier 2]
      teamSeen s (fun tm p _ => decide (tm.phase = .parked) && s.condHolds p.ctxNum tm (.handle 0 0 0) && s.condHolds p.ctxNum tm (.barrier 2))) = true := by decide +kernel

theorem witness_TeamEventsComplete_restore :
    teamSeen restoring (fun tm p st => decide (tm.phase = .restoring) && !tm.records.isEmpty && (match restoring.readPieces p.ctxNum
        (restoring.savedPieces 1 tm st) with
      | .ok _ => true
      | .error _ => false) && (tm.threads.all fun t => t.2.late.isNone) && decide (tm.threads.map fun t => t.1).Nodup) = true
    ∧ teamSeen { restoring with poison := [⟨.hbm, 0x400000, 0x400020⟩] } (fun tm p st => match { restoring with poison := [⟨.hbm, 0x400000, 0x400020⟩] }.readPieces
        p.ctxNum (restoring.savedPieces 1 tm st) with
      | .ok _ => false
      | .error _ => true) = true := by decide +kernel

theorem witness_TeamEventsComplete_ring :
    teamSeen (ringState base) (fun tm _ st => ((ringState base).seatIn tm st.gran tm.benches).isSome && (tm.threads.look 5).isSome
      && (match (ringState base).team 1, (ringState base).pipes.head? with
        | some tm, some p => !(ringState base).toPark tm p.2 st
        | _, _ => false)) = true
    ∧ (let s := (ringState base).updTeam 1 fun tm => { tm with ring := [(5, true)] }
      let s := s.updThread ⟨1, 5⟩ fun t => { t with pend := some { id := 45, kind := .rvx, dst := 40, size := 2, val := 0, arg := 0, pc := 0x200000, einst := [] } }
      teamSeen s (fun tm p st => (s.seatIn tm st.gran tm.benches).isSome && !s.toPark tm p st && decide (tm.phase = .resident ∧ tm.ring = [(5, true)])
        && (tm.threads.look 5).any fun v => v.pend.isSome) = true) := by decide +kernel

theorem witness_TeamEventsComplete_displace :
    teamSeen (ringState dueState) (fun tm p st => !(ringState dueState).toPark tm p st &&
      let here := tm.threads.filter fun t => decide (t.2.status ≠ .exited) && (match t.2.loc with
        | .slot c _ _ => c == 0
        | .ring | .none => false)
      (here.all fun t => (ringState dueState).waited tm t.2 st.waitth && !t.2.producing) && decide (tm.ring.length < 2 ^ st.srlog)
        && (match highestTid (here.filter fun t => !t.2.stays) with
          | some (tid, v) => decide (tid = 1 ∧ v.loc = .slot 0 0 1 ∧ (tm.threads.look 5).isSome = true)
            && (match (ringState dueState).wholeThread p.ctxNum v with
              | .ok w => decide (w = v)
              | .error _ => false) && (match (ringState dueState).writeRing p.ctxNum st (tm.ringHead + tm.ring.length) v tid true with
            | .ok _ => true
            | .error _ => false)
          | none => false)) = true
    ∧ teamSeen (withThread base fun t => { t with status := .exited }) (fun tm _ _ => (withThread base fun t => { t with status := .exited }).mayLeave 1 tm) = true := by decide +kernel

theorem witness_TeamEventsComplete_watchdog :
    ([(TeamPhase.resident, false), (.parked, false), (.restoring, false), (.resident, true)].all fun (q : TeamPhase × Bool) =>
      let s := (if q.2 then withThread dueState fun t => { t with ops := [{ opOf .arith 8 0 (some 0) 2 with dst := 40 }] } else dueState).updTeam 1 fun tm =>
        { tm with phase := q.1, barriers := [(2, { gen := 7, arrived := [0, 1], since := 1, elapsed := 1, fired := false })]
                  rack := if q.1 = .parked then some { conds := [], overflow := false, fired := false, pre := false, bound := false } else none }
      teamSeen s fun tm p st => decide (tm.age (.barrier 2) (s.ageClock tm p) = some (5, false) ∧ st.barwd ≠ 0 ∧ st.barwd < 5 ∧ st.traph ≠ 0 ∧ tm.phase = q.1)
        && (tm.threads.all fun t => !t.2.handler && timedOut (.barrier 2) t) && (tm.threads.any (fun t => t.2.dividing) == q.2)
        && decide (tm.threads.map fun t => t.1).Nodup) = true := by decide +kernel

/-! ### Memories, errors, the host, packets and firmware -/

/-- A context with a page-fault record that has not been written, its fault ring of 16 entries at host address 0x100. -/
def faultState : State :=
  let f : FaultRec := { seq := 7, kind := 1, reason := 1, core := 0, va := 0x40000000, who := 0, requesters := [.thread ⟨1, 0⟩], slot := none }
  base.setContext 0 { base.context 0 with fring := 0x100, frlog := 4, faults := [f] }

/-- Core 9 has no team and one L1 line. -/
def lineState : State := base.updCore 9 fun c => { c with l1 := [{ line := ⟨.hbm, 0x1000⟩, hint := 0 }] }

/-- A register file's errors have a record, and one of them was reported at clock 0. -/
def correctedState : State := { base with corrected := [{ unit := 1, inst := 0, count := 3, last := some [(0, 0)] }] }

theorem witness_MemoryAndErrorEventsComplete :
    7 ∈ ((base.setStack 2 { base.stack 2 with tags := [5, 7] }).stack 2).tags
    ∧ ((base.stack 11).tags.length < (base.stack 11).scrubBelow ∧ stackOf (4096 * 0) = 0 ∧ stackOf (4096 * 3000000) = 0
      ∧ (base.parts.all fun p => !p.2.owns (4096 * 3000000)) = true ∧ (base.stack 0).remap = [])
    ∧ (base.die 3).refresh ≠ some ((base.core (64 * 3)).clock % 32768 / 512)
    ∧ (0 ≠ (base.core 255).split ∨ 7 ≠ (base.core 255).split) ∧ (base.teams.all fun t => !t.2.cores.contains 255 && !t.2.cores.contains 9) = true
    ∧ (lineState.core 9).l1.length = 1 ∧ (lineState.core 9).l1.Nodup
    ∧ ((faultState.context 0).faults.find? fun f => f.slot.isNone).isSome = true ∧ faultState.byte .host (0x100 + 31) = 0
    ∧ (faultState.setByte .host (0x100 + 15 * 32 + 31) 1).byte .host (0x100 + 15 * 32 + 31) ≠ 0
    ∧ ([ErrSite.regFile ⟨1, 0⟩, .scratchpad 1 0, .matrixStore 1 0 true, .cleanLine 255, .memWord 5 0x1000, .wsWord 3 0].all fun e => (base.site e).isSome) = true
    ∧ (base.site (.regFile ⟨1, 0⟩)).any (fun y => (correctedState.corrected.find? fun o => decide (o.unit = y.unit) && decide (o.inst = y.inst)).isSome
      && decide ((correctedState.core y.core).clock < 65536)) = true
    ∧ seen base (fun _ st t => decide (t.status ≠ .exited ∧ st.fdom % 4 = 0)) = true := by decide +kernel

/-- The partition without a pipeline; its virtual function 3 has a queue whose descriptor stands at 0x8000. -/
def idleVf : State := hosted [launchPacket]

/-- The same while a pipeline runs. -/
def busyVf : State := thenDo idleVf [.launch 3 0]

/-- A record of context 0 of virtual function 3 that a thread, an engine operation and a packet wait on. -/
def waitingVf : State :=
  let f : FaultRec := { seq := 7, kind := 1, reason := 1, core := 0, va := 0x40000000, who := 0,
                        requesters := [.thread ⟨1, 0⟩, .engine 0 40, .packet 3 0 0], slot := none }
  let s := { workState (engOpOf .msync .waiting) with vfs := idleVf.vfs, packets := (thenDo (hosted [leBytes 8 2 ++ leBytes 56 0]) [.wait 3 0]).packets }
  (s.setContext 768 { s.context 768 with faults := [f] }).updThread ⟨1, 0⟩ fun t => { t with status := .waiting (.pageFault 7 0x40000008) }

theorem witness_VirtualFunctionRegistersComplete :
    (idleVf.vfs.look 3).isSome = true ∧ idleVf.pipes = [] ∧ (busyVf.vfs.look 3).isSome = true ∧ (busyVf.pipes.any fun p => p.2.part == 0) = true
    ∧ (idleVf.teams.isEmpty && (waitingVf.teams.all fun tm => tm.2.threads.all fun t => t.2.ops.isEmpty)) = true
    ∧ ((idleVf.vfs.look 3).any fun w => (idleVf.queueDesc w 0).any fun d => decide (d.logN = 2 ∧ (w.queue 0).wr = 1 ∧ (w.queue 0).rd = 0)) = true
    ∧ (0x30 % 8 = 0 ∧ 0x9000 ≤ 0x9000) := by decide +kernel

theorem witness_VirtualFunctionRegistersComplete_release :
    ((waitingVf.vfs.look 3).any fun w => decide (w.ctxNum 3 0 = 768)) = true ∧ ((waitingVf.context 768).faults.any fun f => decide (f.requesters.length = 3)) = true
    ∧ ((waitingVf.core 0).op 40).isSome = true ∧ (waitingVf.packets.map fun p => (p.vf, p.queue, p.index)) = [(3, 0, 0)] ∧ (waitingVf.thread ⟨1, 0⟩).any (fun t => decide (t.status = .waiting (.pageFault 7 0x40000008))) = true := by decide +kernel

/-- R364: the doorbell takes 0 to 4 beyond RDIDX of a queue of 4 entries; 5 puts it into error. -/
theorem test_doorbell : ([0, 1, 4, 5].map fun v => match exec (.doorbell 3 0 v) idleVf with
    | .next t => ((t.vfs.look 3).map fun w => ((w.queue 0).wr, (w.queue 0).err))
    | _ => none) = [some (1, false), some (1, false), some (4, false), some (1, true)] := by decide +kernel

/-- Packets (R365): a FILL of 32 bytes, one with a reserved bit, a WAIT for 5, a WSLOAD, a COPY, and a reserved type. -/
def packetsOf (k : Nat) : List Byte :=
  match k with
  | 0 => leBytes 8 4 ++ leBytes 8 0xB000 ++ leBytes 8 0x11223344 ++ leBytes 8 32 ++ leBytes 8 0xA000 ++ leBytes 8 5 ++ leBytes 16 0
  | 1 => leBytes 8 0x10004 ++ leBytes 56 0
  | 2 => leBytes 8 2 ++ leBytes 8 0xA000 ++ leBytes 8 5 ++ leBytes 40 0
  | 3 => leBytes 8 3 ++ leBytes 8 0x2000 ++ leBytes 8 0 ++ leBytes 8 512 ++ leBytes 8 0xA000 ++ leBytes 8 5 ++ leBytes 16 0
  | 4 => leBytes 8 5 ++ leBytes 8 0xB000 ++ leBytes 8 0x2000 ++ leBytes 8 32 ++ leBytes 8 0xA000 ++ leBytes 8 5 ++ leBytes 16 0
  | 5 => leBytes 8 3 ++ leBytes 8 1 ++ leBytes 48 0
  | 6 => leBytes 8 5 ++ leBytes 8 1 ++ leBytes 48 0
  | 7 => leBytes 8 6 ++ leBytes 56 0
  | 8 => leBytes 8 0x10001 ++ leBytes 56 0
  | 10 => leBytes 8 1 ++ leBytes 8 0x3200 ++ leBytes 8 0x4000 ++ leBytes 40 0
  | 11 => leBytes 8 3 ++ leBytes 8 0x40000000 ++ leBytes 8 0 ++ leBytes 8 512 ++ leBytes 32 0
  | 12 => leBytes 8 5 ++ leBytes 8 0xB000 ++ leBytes 8 0x40000000 ++ leBytes 8 32 ++ leBytes 32 0
  | _ => launchPacket

/-- The processor can begin the first packet of the queue, which is of a type and broken or not. -/
def begins (k ty : Nat) (bad : Bool) : Bool :=
  let s := hosted [packetsOf k]
  match s.served 3 0 with
  | some x =>
    let n := x.v.ctxNum 3 x.d.ctx
    let s1 := s.loadContext n x.pt x.e
    (s.unstarted 3 0).isNone && decide (x.u.rd < x.u.wr) && (s.context n).faults.isEmpty && s.packets.isEmpty
      && (match s1.readGlobal n (x.d.base + 64 * (x.u.rd % 2 ^ x.d.logN)) 64 with
        | .ok b => s.mayBegin x 3 0 b && decide (packetType b = ty) && ((!packetForm b || !packetRules x.pt b) == bad)
        | .error _ => false)
  | none => false

/-- The packet after it has started, and what follows. -/
def startedPacket (k : Nat) (i : Instr) : State := thenDo (hosted [packetsOf k]) [i]

/-- Its completion can be written. -/
def canEnd (s : State) (f : Packet → Bool) : Bool :=
  match s.packets.find? fun k => k.is 3 0 0 with
  | some p => p.started && !s.packetPaused p && !p.denied && f p && (match s.putSignal p 5 with
    | .ok _ => true
    | .error _ => false)
  | none => false

/-- A LAUNCH whose teams have all left. -/
def ranOut : State := thenDo (startedPacket 9 (.launch 3 0)) [] |> fun s => { s with pipes := s.pipes.map fun (p : Nat × Pipeline) =>
  (p.1, { p.2 with stages := p.2.stages.map fun st => { st with next := st.teams } }) }

/-- What the plan of a LAUNCH, or the source of a WSLOAD or COPY, answers when the packet starts: a failure code, or none. -/
def planned (k : Nat) : Option (Option Nat) :=
  let s := hosted [packetsOf k]
  (s.served 3 0).map fun x =>
    let n := x.v.ctxNum 3 x.d.ctx
    let r := (s.loadContext n x.pt x.e).consume x 3 0 (packetsOf k)
    let b := packetsOf k
    let code {α : Type} (a : Except Halt α) : Option Nat := match a with
      | .error (.code c) => some c
      | .error _ => some 99
      | .ok _ => none
    if packetType b = 1 then code (r.1.tryLaunch x.e x.pt r.2)
    else code (r.1.vread n (field b (if packetType b = 3 then 8 else 0x10) 8) (field b 0x18 8))

/-- A FILL or COPY writes its bytes, then its completion. -/
def writesOut (s : State) : Bool := canEnd s fun k => !k.written && (match s.writeGlobal k.ctx (field k.bytes 8 8) k.fillBytes with
  | .ok u => (match (u.updPacket k fun q => { q with written := true }).putSignal k 5 with
    | .ok _ => true
    | .error _ => false)
  | .error _ => false)

theorem witness_PacketsComplete_start :
    ([(0, 4, false), (1, 4, true), (2, 2, false), (3, 3, false), (4, 5, false)].all fun (p : Nat × Nat × Bool) => begins p.1 p.2.1 p.2.2) = true := by decide +kernel

theorem witness_PacketsComplete_startBroken :
    ([(5, 3, true), (6, 5, true), (7, 6, true), (8, 1, true), (9, 1, false)].all fun (p : Nat × Nat × Bool) => begins p.1 p.2.1 p.2.2) = true := by decide +kernel

theorem witness_PacketsComplete_planned : [3, 4, 9].map planned = [some none, some none, some none] := by decide +kernel

theorem witness_PacketsComplete_plannedCodes : [10, 11, 12].map planned = [some (some 4), some (some 5), some (some 5)] := by decide +kernel

theorem witness_PacketsComplete_end :
    canEnd (startedPacket 1 (.fill 3 0)) (fun p => decide (p.code = 1)) = true
    ∧ canEnd ranOut (fun p => decide (p.code = 0 ∧ packetType p.bytes = 1) && (p.pipe.bind fun n => (ranOut.pipes.look n).map fun y => ranOut.pipeDone n y).any id)
      = true := by decide +kernel

theorem witness_PacketsComplete_wait :
    canEnd ((startedPacket 2 (.wait 3 0)).setBytes ⟨.hbm, 0xA000⟩ [5]) (fun p => match ((startedPacket 2 (.wait 3 0)).setBytes ⟨.hbm, 0xA000⟩ [5]).readGlobal p.ctx 0xA000 8 with
      | .ok l => decide (field p.bytes 0x10 8 ≤ leNat l) && !((startedPacket 2 (.wait 3 0)).setBytes ⟨.hbm, 0xA000⟩ [5]).signalHeld p.ctx 0xA000
      | .error _ => false) = true := by decide +kernel

theorem witness_PacketsComplete_written :
    ([false, true].all fun w => let s := { startedPacket 3 (.wsload 3 0) with packets := (startedPacket 3 (.wsload 3 0)).packets.map fun p => { p with written := w } }
      canEnd s fun p => decide (3 ≤ packetType p.bytes ∧ p.written = w) && (s.parts.look (ctxPart p.ctx)).isSome && s.dieClear (ctxPart p.ctx) 0) = true := by decide +kernel

theorem witness_PacketsComplete_out :
    ([(0, Instr.fill 3 0), (4, .copy 3 0)].all fun (p : Nat × Instr) => writesOut (startedPacket p.1 p.2)) = true
    ∧ (let s := startedPacket 0 (.fill 3 0)
      s.packets.any fun p => let p := { p with denied := true }; p.started && p.denied && decide (p.code = 0) && !s.packetPaused p) = true := by decide +kernel

/-- Firmware that runs and holds no die. -/
def running : State := { State.reset with firmware := { State.reset.firmware with running := some 1, held := false } }

theorem witness_FabricAndFirmwareComplete :
    (State.reset.firmware.held = true ∧ idleVf.firmware.held = false)
    ∧ (idleVf.hostReaches (2 ^ 30 - 1) = true ∧ base.hostReaches 0 = false ∧ idleVf.hostMay ⟨.hbm, 2 ^ 30 - 4, 2 ^ 30⟩ = true ∧ idleVf.hostMay ⟨.host, 0, 512⟩ = true)
    ∧ (idleVf.ownerOf 0 = some 0 ∧ idleVf.ownerOf (2 ^ 30) = none ∧ (idleVf.parts.look 48).isNone = true ∧ idleVf.byte .hbm (0x10000 + 63) = 0)
    ∧ ((base.port 15).down = false ∧ (base.port 0).got = 0)
    ∧ ({ base with ports := [(15, { base.port 15 with retries := 16 })] }.port 15).retries = 16
    ∧ base.admitted 9 8 = none ∧ ((idleVf.admitted 9 8).any fun a => unitsReach a.2.1 a.2.2 (2 ^ 30 - 4) 4) = true
    ∧ idleVf.peerMay ⟨.hbm, 2 ^ 30 - 4, 2 ^ 30⟩ = true ∧ ((idleVf.admitted 9 8).any fun a => !unitsReach a.2.1 a.2.2 (2 ^ 30) 4) = true
    ∧ (leBytes 512 1).length ≤ 512
    ∧ State.reset.firmware.running = none ∧ running.firmware.held = false ∧ running.partOk spec0 = true ∧ idleVf.pipes = [] ∧ (idleVf.parts.look 0).isSome = true := by
  decide +kernel

end Sys2Proof.Tests
end

/-! The canonical form of memories: the operations that leave every memory as it was -/
section
namespace Sys2Proof.Machine

/-! ### Machine/Access -/

@[simp] theorem State.askPass_mems (s : State) (part : Nat) : (s.askPass part).mems = s.mems := rfl
@[simp] theorem State.askPassOf_mems (s : State) (tm : Team) : (s.askPassOf tm).mems = s.mems := by unfold State.askPassOf; split <;> simp
@[simp] theorem State.fireRack_mems (s : State) (n : Nat) : (s.fireRack n).mems = s.mems := by unfold State.fireRack; split <;> simp

/-! ### Machine/Homes -/

@[simp] theorem State.noteWrite_mems (s : State) (g : Agent) (r : Range) : (s.noteWrite g r).mems = s.mems := rfl

/-! ### Machine/Flags -/

@[simp] theorem State.raiseLast_mems (s : State) (k : Counter) (cs : List Conds) : (s.raiseLast k cs).mems = s.mems := by simp [State.raiseLast]

/-! ### Machine/Xlate -/

/-- A translation fills a TLB and nothing else. -/
@[simp] theorem State.translate_mems (s : State) (core ctx : Nat) (last : Option Xlate) (va : Nat) :
    (s.translate core ctx last va).2.mems = s.mems := by
  unfold State.translate
  dsimp only
  repeat' split
  all_goals simp
@[simp] theorem State.newFault_mems (s : State) (ctx : Nat) (q : Requester) (kind reason core : Nat) (va : DWord) (who : Nat) :
    (s.newFault ctx q kind reason core va who).1.mems = s.mems := by
  unfold State.newFault
  dsimp only
  split <;> simp
@[simp] theorem State.threadFault_mems (s : State) (e : Env) (kind reason a : Nat) : (s.threadFault e kind reason a).mems = s.mems := by
  simp [State.threadFault]

/-! ### Machine/Memory -/

@[simp] theorem State.keepPage_mems (s : State) (e : Env) : (s.keepPage e).mems = s.mems := by simp [State.keepPage]
@[simp] theorem State.released_mems (s : State) (r : ThreadRef) : (s.released r).mems = s.mems := by simp [State.released]
@[simp] theorem State.raceFence_mems (s : State) (r : ThreadRef) (core : Nat) (k : MOrd) (sc : Scope) : (s.raceFence r core k sc).mems = s.mems := by
  unfold State.raceFence
  dsimp only
  repeat' split
  all_goals simp

/-! ### Machine/Caches -/

@[simp] theorem State.holdRead_mems (s : State) (u : Range) (agent : Nat) : (s.holdRead u agent).mems = s.mems := rfl
@[simp] theorem State.holdWrite_mems (s : State) (u : Range) (agent : Nat) : (s.holdWrite u agent).mems = s.mems := rfl
@[simp] theorem State.l1Touch_mems (s : State) (core : Nat) (t : Target) (hint : Nat) : (s.l1Touch core t hint).mems = s.mems := rfl
@[simp] theorem State.coherent_mems (s : State) (grain cp core : Nat) (t : Target) (use : HomeUse) (hint : Nat) :
    (s.coherent grain cp core t use hint).mems = s.mems := by
  unfold State.coherent
  dsimp only
  repeat' split
  all_goals simp
@[simp] theorem State.leaveL1_mems (s : State) (core : Nat) (line : Target) : (s.leaveL1 core line).mems = s.mems := rfl
@[simp] theorem State.leaveL2_mems (s : State) (slice : Nat) (line : Target) : (s.leaveL2 slice line).mems = s.mems := rfl
@[simp] theorem State.makeL2Room_mems (s : State) (t : Target) : (s.makeL2Room t).mems = s.mems := by
  unfold State.makeL2Room
  repeat' split
  all_goals simp
@[simp] theorem State.makeL1Room_mems (s : State) (core : Nat) (t : Target) : (s.makeL1Room core t).mems = s.mems := by
  unfold State.makeL1Room
  dsimp only
  repeat' split
  all_goals simp
@[simp] theorem State.l2Bring_mems (s : State) (t : Target) (valid dirty : BitVec 16) (hint perm : Nat) :
    (s.l2Bring t valid dirty hint perm).mems = s.mems := by
  unfold State.l2Bring
  dsimp only
  repeat' split
  all_goals simp
@[simp] theorem State.l2Engine_mems (s : State) (r : Range) (sectors : Target → BitVec 16) : (s.l2Engine r sectors).mems = s.mems :=
  State.foldl_mems (fun _ _ => State.l2Bring_mems ..) _ _
@[simp] theorem State.l2Results_mems (s : State) (r : Range) : (s.l2Results r).mems = s.mems := by simp [State.l2Results]
@[simp] theorem State.flushLine_mems (s : State) (line : Target) (inv : Bool) : (s.flushLine line inv).mems = s.mems := by
  unfold State.flushLine; split <;> simp
@[simp] theorem State.prefetch_mems (s : State) (core : Nat) (t : Target) (grain cp hint : Nat) :
    (s.prefetch core t grain cp hint).mems = s.mems := by
  have hold (l : List Range) (s : State) : (l.foldl (fun s u => s.holdRead u core) s).mems = s.mems :=
    State.foldl_mems (fun _ _ => State.holdRead_mems ..) l s
  unfold State.prefetch
  dsimp only
  repeat' split
  all_goals simp [hold]
@[simp] theorem State.changeSplit_mems (s : State) (core split : Nat) : (s.changeSplit core split).mems = s.mems :=
  State.foldl_mems (fun _ _ => State.leaveL1_mems ..) _ _

/-! ### Machine/SketchUnit -/

@[simp] theorem State.skWrote_mems (s : State) (g : Agent) (k : Bind) : (s.skWrote g k).mems = s.mems :=
  State.foldl_mems (fun _ _ => State.wroteBy_mems ..) _ _
@[simp] theorem State.setBind_mems (s : State) (ctx slot : Nat) (k : Option Machine.Bind) : (s.setBind ctx slot k).mems = s.mems := rfl

/-! ### Machine/MemInstr -/

@[simp] theorem State.issue_mems (s : State) (e : Env) (o : MemOp) : (s.issue e o).mems = s.mems := by unfold State.issue; split <;> simp
@[simp] theorem State.dropLine_mems (s : State) (line : Range) (cores : List Nat) : (s.dropLine line cores).mems = s.mems := rfl

/-! ### Machine/Matrix -/

@[simp] theorem State.updMc_mems (s : State) (core mc : Nat) (f : MatCtx → MatCtx) : (s.updMc core mc f).mems = s.mems := rfl
@[simp] theorem State.nextSeq_mems (s : State) (core mc : Nat) : (s.nextSeq core mc).mems = s.mems := rfl

/-! ### Machine/Copies -/

@[simp] theorem State.forgetAbort_mems (s : State) (die : Nat) (g : List Nat) (num : Nat) : (s.forgetAbort die g num).mems = s.mems := rfl

/-! ### Machine/System -/

@[simp] theorem State.invalidate_mems (s : State) (ctx : Nat) (va : Option Nat) (cores : List Nat) : (s.invalidate ctx va cores).mems = s.mems :=
  State.foldl_mems (fun _ _ => State.fireRack_mems ..) _ _

/-! ### Machine/Fetch -/

@[simp] theorem State.cacheBlock_mems (s : State) (core : Nat) (t : Target) : (s.cacheBlock core t).mems = s.mems := by
  unfold State.cacheBlock; split <;> simp
@[simp] theorem State.retrack_mems (s : State) (core bench cls : Nat) : (s.retrack core bench cls).mems = s.mems := by
  unfold State.retrack
  dsimp only
  split <;> simp
@[simp] theorem State.restamp_mems (s : State) (core : Nat) : (s.restamp core).mems = s.mems := rfl
@[simp] theorem State.retrackAll_mems (s : State) (core : Nat) : (s.retrackAll core).mems = s.mems :=
  State.foldl_mems (fun _ _ => State.foldl_mems (fun _ _ => State.retrack_mems ..) _ _) _ _
@[simp] theorem State.formSlot_mems (core bench : Nat) (s : State) (slot : Nat) : (State.formSlot core bench s slot).mems = s.mems := by
  unfold State.formSlot
  dsimp only
  repeat' split
  all_goals simp
@[simp] theorem State.formStitches_mems (s : State) (core : Nat) : (s.formStitches core).mems = s.mems :=
  State.foldl_mems (fun _ _ => State.foldl_mems (fun _ _ => State.formSlot_mems ..) _ _) _ _

/-! ### Machine/Queues -/

@[simp] theorem State.setQueue_mems (s : State) (ctx q : Nat) (x : Queue) : (s.setQueue ctx q x).mems = s.mems := rfl
@[simp] theorem State.acceptPush_mems (s : State) (ctx q : Nat) (r : ThreadRef) : (s.acceptPush ctx q r).mems = s.mems := by
  unfold State.acceptPush
  repeat' split
  all_goals simp

/-! ### Machine/Threads -/

@[simp] theorem State.performed_mems (s : State) (r : ThreadRef) (o : MemOp) (id v : Nat) (c : Conds) : (s.performed r o id v c).mems = s.mems := by
  unfold State.performed
  dsimp only
  repeat' split
  all_goals simp
@[simp] theorem State.tookEarly_mems (s : State) (r : ThreadRef) (o : MemOp) (id v : Nat) :
    (s.tookEarly r o id v).mems = s.mems := by simp [State.tookEarly]
@[simp] theorem State.sendTag_mems (s : State) (a : Access) : (s.sendTag a).mems = s.mems := by unfold State.sendTag; split <;> simp
@[simp] theorem State.noteAhead_mems (s : State) (r : ThreadRef) (t : Thread) (o : MemOp) (a : Access) : (s.noteAhead r t o a).mems = s.mems := by
  unfold State.noteAhead; split <;> simp
@[simp] theorem State.freed_mems (s : State) (ctx slot : Nat) : (s.freed ctx slot).mems = s.mems := rfl

/-! ### Machine/Copier -/

@[simp] theorem State.engineFail_mems (s : State) (core : Nat) (o : EngOp) (err : Nat) : (s.engineFail core o err).mems = s.mems := by
  unfold State.engineFail; split <;> simp
@[simp] theorem State.walked_mems (s : State) (core ctx : Nat) (l : List (Nat × Nat)) : (s.walked core ctx l).mems = s.mems :=
  State.foldl_mems (fun _ _ => State.foldl_mems (fun _ _ => State.translate_mems ..) _ _) _ _
@[simp] theorem State.enterWelt_mems (s : State) (core : Nat) (o : EngOp) : (s.enterWelt core o).mems = s.mems := by
  unfold State.enterWelt; split <;> simp

/-! ### Machine/MatrixUnit -/

@[simp] theorem State.popCommand_mems (s : State) (core mc : Nat) : (s.popCommand core mc).mems = s.mems := rfl
@[simp] theorem State.discard_mems (s : State) (core : Nat) (c : MCmd) : (s.discard core c).mems = s.mems := by
  unfold State.discard
  repeat' split
  all_goals simp

/-! ### Machine/Placement -/

@[simp] theorem State.toSplit_mems (s : State) (core split : Nat) : (s.toSplit core split).mems = s.mems := by unfold State.toSplit; split <;> simp
@[simp] theorem State.without_mems (s : State) (n : Nat) : (s.without n).mems = s.mems := by simp [State.without]
@[simp] theorem State.unspare_mems (s : State) (part : Nat) : (s.unspare part).mems = s.mems := rfl
@[simp] theorem State.passMade_mems (s : State) (part : Nat) (pt : Partition) : (s.passMade part pt).mems = s.mems :=
  State.foldl_mems (fun _ _ => State.updCore_mems ..) _ _

/-! ### Machine/Errors -/

@[simp] theorem State.refetch_mems (s : State) (core : Nat) : (s.refetch core).mems = s.mems := rfl
@[simp] theorem State.poisonUnit_mems (s : State) (r : Range) : (s.poisonUnit r).mems = s.mems := by unfold State.poisonUnit; split <;> simp

/-! ### Machine/VfRegs -/

@[simp] theorem State.updVf_mems (s : State) (vf : Nat) (f : Vf → Vf) : (s.updVf vf f).mems = s.mems := rfl

/-! ### Machine/Launch -/

@[simp] theorem State.loadKernel_mems (s : State) (l : Loaded) : (s.loadKernel l).mems = s.mems := rfl
@[simp] theorem State.startPipe_mems (s : State) (pk : Packet) (p : Plan) (nums : List Nat) : (s.startPipe pk p nums).mems = s.mems :=
  State.foldl_mems (fun _ _ => State.setQueue_mems ..) _ _

/-! ### Machine/Packets -/

@[simp] theorem State.updPacket_mems (s : State) (p : Packet) (f : Packet → Packet) : (s.updPacket p f).mems = s.mems := rfl
@[simp] theorem State.dropPacket_mems (s : State) (p : Packet) : (s.dropPacket p).mems = s.mems := rfl
@[simp] theorem State.pausePacket_mems (s : State) (p : Packet) (va reason : Nat) : (s.pausePacket p va reason).mems = s.mems := by
  simp [State.pausePacket]
@[simp] theorem State.loadContext_mems (s : State) (n : Nat) (pt : Machine.Partition) (e : List Byte) : (s.loadContext n pt e).mems = s.mems := rfl
@[simp] theorem State.dropWs_mems (s : State) (pt : Machine.Partition) (die : Nat) : (s.dropWs pt die).mems = s.mems := rfl

/-! ### Machine/Fabric -/

@[simp] theorem State.hostUnit_mems (s : State) (write : Bool) (t : Target) : (s.hostUnit write t).mems = s.mems := by
  unfold State.hostUnit
  dsimp only
  repeat' split
  all_goals simp
@[simp] theorem State.hostUnits_mems (s : State) (write : Bool) (t : Target) (n : Nat) : (s.hostUnits write t n).mems = s.mems :=
  State.foldl_mems (fun _ _ => State.hostUnit_mems ..) _ _
@[simp] theorem State.hostPermit_mems (s : State) (t : Target) (perm : Nat) : (s.hostPermit t perm).mems = s.mems := rfl
@[simp] theorem State.setPort_mems (s : State) (n : Nat) (p : Port) : (s.setPort n p).mems = s.mems := rfl

/-! ### Machine/Flow -/

@[simp] theorem State.dropRequest_mems (s : State) (r : ThreadRef) : (s.dropRequest r).mems = s.mems := by simp [State.dropRequest]

/-! ### Machine/Parking -/

@[simp] theorem State.dropPushes_mems (s : State) (ctx n : Nat) (keep : Nat → Bool) : (s.dropPushes ctx n keep).mems = s.mems := rfl
@[simp] theorem State.startRing_mems (s : State) (n : Nat) (seat : Nat × Nat × Nat) :
    (s.startRing n seat).mems = s.mems := by simp [State.startRing]
@[simp] theorem State.endLeases_mems (s : State) (ctx n : Nat) : (s.endLeases ctx n).mems = s.mems := rfl

/-! ### Machine/Schedule -/

@[simp] theorem State.closeIssue_mems (core : Nat) (r : ThreadRef) (s : State) : (State.closeIssue core r s).mems = s.mems := rfl

/-! ### Machine/Step -/

@[simp] theorem State.ticked_mems (s : State) : (s.ticked).mems = s.mems := rfl

end Sys2Proof.Machine
end


/-! The canonical form of memories: the operations that write bytes, clear a memory or drop cells -/
section
namespace Sys2Proof.Machine

/-! ### What an operation may answer -/

/-- The state that an operation answers, where it can be made, has canonical memories. -/
def OptForm (o : Option State) : Prop := ∀ t ∈ o, t.MemForm

/-- The state that an operation answers, where it is not stopped by an error, has canonical memories. -/
def OkForm {ε : Type} (r : Except ε State) : Prop := ∀ t, r = .ok t → t.MemForm

/-- The state after a step, where one is made, has canonical memories. -/
def OutForm (o : Host.Outcome State Fault Refusal) : Prop := ∀ t, o = .next t → t.MemForm

theorem optForm_none : OptForm none := fun _ h => nomatch h

theorem optForm_some {s : State} (h : s.MemForm) : OptForm (some s) := fun _ e => Option.some.inj e ▸ h

theorem optForm_unless {c : Prop} [Decidable c] {o : Option State} (h : OptForm o) : OptForm (if c then none else o) := by
  split
  · exact optForm_none
  · exact h

theorem optForm_bind {α : Type} {o : Option α} {f : α → Option State} (h : ∀ a, OptForm (f a)) : OptForm (o.bind f) := by
  cases o with
  | none => exact optForm_none
  | some a => exact h a

theorem optForm_map {α : Type} {o : Option α} {f : α → State} (h : ∀ a, (f a).MemForm) : OptForm (o.map f) := by
  cases o with
  | none => exact optForm_none
  | some a => exact optForm_some (h a)

theorem optForm_getD {o : Option State} (ho : OptForm o) {s : State} (h : s.MemForm) : (o.getD s).MemForm := by
  cases o with
  | none => exact h
  | some t => exact ho t rfl

theorem okForm_ok {ε : Type} {s : State} (h : s.MemForm) : OkForm (.ok s : Except ε State) := fun _ e => Except.ok.inj e ▸ h

theorem okForm_error {ε : Type} (e : ε) : OkForm (.error e) := fun _ h => nomatch h

theorem outForm_next {s : State} (h : s.MemForm) : OutForm (.next s) := fun _ e => Host.Outcome.next.inj e ▸ h

theorem outForm_fault (c : Fault) : OutForm (.fault c) := fun _ h => nomatch h

theorem outForm_orNotEnabled {o : Option State} (h : OptForm o) : OutForm (orNotEnabled o) := by
  cases o with
  | none => exact outForm_fault _
  | some s => exact outForm_next (h s rfl)

theorem outForm_andThen {f : State → State} (hf : ∀ s : State, s.MemForm → (f s).MemForm) {o : Host.Outcome State Fault Refusal}
    (h : OutForm o) : OutForm (andThen f o) := by
  cases o with
  | next s => exact outForm_next (hf s (h s rfl))
  | fault c => exact outForm_fault c
  | refused r => exact fun _ e => nomatch e

/-- What another agent does about a thread. -/
theorem outForm_withEnv {f : Env → State → State} {s : State} (h : ∀ e, (f e s).MemForm) : OutForm (withEnv f s) := by
  unfold withEnv
  repeat' split
  exacts [outForm_fault _, outForm_next (h _), outForm_fault _]

/-! ### Memories that lose cells -/

/-- A memory that loses cells keeps its form. -/
theorem Memory.wf_filter {m : Memory} (p : Host.Cell → Bool) (h : m.wf = true) : Memory.wf (m.filter p) = true := by
  rw [Memory.wf_iff] at h ⊢
  exact ⟨fun c hc => h.1 c (List.mem_of_mem_filter hc), h.2.filter _⟩

/-- The memories that are left of some keep their form. -/
theorem State.MemForm.of_subset {s t : State} (h : s.MemForm) (e : t.mems ⊆ s.mems) : t.MemForm := fun m hm => h m (e hm)

/-- What units hold is forgotten when they get another key (R362). -/
theorem State.MemForm.rekey {s : State} (h : s.MemForm) (hbm : List Nat) (ws : List (Nat × Nat)) (key : Option Nat) :
    (s.rekey hbm ws key).MemForm := by
  intro e he
  obtain ⟨m, hm, rfl⟩ := List.mem_map.1 he
  exact Memory.wf_filter _ (h m hm)

theorem State.MemForm.holdDies {s : State} (h : s.MemForm) : s.holdDies.MemForm :=
  State.MemForm.of_subset (State.MemForm.foldl (fun _ _ h => h.rekey _ _ _) _ h) (List.filter_subset_self _)

theorem State.MemForm.loadImage {s : State} (h : s.MemForm) (img : FwImage) : (s.loadImage img).MemForm := by
  unfold State.loadImage
  split
  · exact h
  · exact h.holdDies

/-! ### Writes at the homes -/

theorem State.MemForm.writeBytes {s : State} (h : s.MemForm) (g : Agent) (t : Target) (l : List Byte) : (s.writeBytes g t l).MemForm := h.setBytes t l

theorem State.MemForm.writeData {s : State} (h : s.MemForm) (g : Agent) (chain : Bool) (t : Target) (n v : Nat) :
    (s.writeData g chain t n v).MemForm := h.store t n v

theorem State.MemForm.remoteWrite {s : State} (h : s.MemForm) (atomic : Bool) (t : Target) (n v : Nat) : (s.remoteWrite atomic t n v).MemForm :=
  State.MemForm.writeData (h.of_mems (by simp)) _ _ _ _ _

theorem State.MemForm.completionWord {s : State} (h : s.MemForm) (g : Agent) (team : Nat) (cw : Option (Nat × Word)) :
    (s.completionWord g team cw).MemForm := by
  unfold State.completionWord
  split
  · exact h.writeData _ _ _ _ _
  · exact h

theorem State.MemForm.finishOp {s : State} (h : s.MemForm) (core : Nat) (o : EngOp) (rmask : Word) : (s.finishOp core o rmask).MemForm :=
  (h.completionWord _ _ _).of_mems (State.completeHandle_mems ..)

theorem okForm_writeGlobal {s : State} (h : s.MemForm) (ctx va : Nat) (l : List Byte) : OkForm (s.writeGlobal ctx va l) := fun _ e => h.writeGlobal e

theorem okForm_writePieces {s : State} (h : s.MemForm) (ctx base : Nat) (l : List (Nat × List Byte)) : OkForm (s.writePieces ctx base l) := by
  induction l generalizing s with
  | nil => exact okForm_ok h
  | cons p l ih =>
    unfold State.writePieces
    split
    · next e => exact ih (h.writeGlobal e)
    · exact okForm_error _

theorem State.MemForm.putMatrix {s : State} (h : s.MemForm) (core k : Nat) (b : List Byte) : (s.putMatrix core k b).MemForm :=
  State.MemForm.of_mems ((h.setBytes _ _).setBytes _ _) (State.updCore_mems ..)

/-! ### Records, kills and races -/

theorem State.MemForm.logPart {s : State} (h : s.MemForm) (part : Option Nat) (src unit addr info : Nat) :
    (s.logPart part src unit addr info).MemForm := by
  unfold State.logPart
  split <;> exact h.logErr _ _

theorem State.MemForm.logStaging {s : State} (h : s.MemForm) (part : Option Nat) (core : Nat) (o : EngOp) : (s.logStaging part core o).MemForm := by
  unfold State.logStaging
  split
  · exact h.logStage _ _
  · exact h.logPart _ _ _ _ _

theorem State.MemForm.correct {s : State} (h : s.MemForm) (x : Site) : (s.correct x).MemForm := by
  unfold State.correct
  lift_lets
  intro is old now due clocks new noted blank
  have hn : noted.MemForm := h
  clear_value noted due
  repeat' split
  exacts [hn.logErr _ _, hn.logErr _ _, hn]

theorem State.MemForm.fillFails {s : State} (h : s.MemForm) (e : Env) (va : Nat) : (s.fillFails e va).MemForm := h.killAs _ _ _ _

theorem State.MemForm.poisonKill {s : State} (h : s.MemForm) (r : ThreadRef) (pc : DWord) (t : Target) : (s.poisonKill r pc t).MemForm := by
  unfold State.poisonKill
  split
  · exact h.killAs _ _ _ _
  · exact h

theorem State.MemForm.linkKill {s : State} (h : s.MemForm) (r : ThreadRef) (pc : DWord) (port : Nat) : (s.linkKill r pc port).MemForm := by
  unfold State.linkKill
  split
  · exact h.killAs _ _ _ _
  · exact h

theorem State.MemForm.contain {s : State} (h : s.MemForm) (r : ThreadRef) (floor src unit : Nat) : (s.contain r floor src unit).MemForm := by
  unfold State.contain
  split
  · exact h.killAs _ _ _ _
  · exact h

theorem State.MemForm.deadAccess {s : State} (h : s.MemForm) (r : ThreadRef) (o : MemOp) (a : Access) : (s.deadAccess r o a).MemForm :=
  State.MemForm.linkKill (h.of_mems (by simp)) _ _ _

theorem State.MemForm.reportRace {s : State} (h : s.MemForm) (tm : Team) (st : Stage) (a : RaceAccess) : (s.reportRace tm st a).MemForm := by
  unfold State.reportRace
  dsimp only
  split
  · exact h.logStage _ _
  · exact h.of_mems (by simp)

/-- The race detector looks at an access: no memory changes but by a record of a race. -/
theorem State.MemForm.raceAccess {s : State} (h : s.MemForm) (a : RaceAccess) : (s.raceAccess a).MemForm := by
  unfold State.raceAccess
  split
  · split
    · exact h
    · lift_lets
      intro me ctx at_ sector here old th' race heard new shadowed
      have h1 : heard.MemForm := h.setThread _ _
      have h2 : shadowed.MemForm := by
        unfold shadowed
        split <;> exact h1
      clear_value shadowed
      repeat' split
      exacts [h, h2.reportRace _ _ _, h2]
  · exact h

theorem State.MemForm.raceOp {s : State} (h : s.MemForm) (r : ThreadRef) (o : MemOp) (a : Access) (write : Bool) : (s.raceOp r o a write).MemForm :=
  h.raceAccess _

theorem State.MemForm.raceRead {s : State} (h : s.MemForm) (e : Env) (va n : Nat) (t : Target) : (s.raceRead e va n t).MemForm :=
  State.MemForm.foldl (fun _ _ h => h.raceAccess _) _ h

/-! ### Threads that take a trap late -/

theorem State.MemForm.takeLate {s : State} (h : s.MemForm) (r : ThreadRef) (tr : Trap) : (s.takeLate r tr).MemForm := (h.updThread _ _).takeTrap _ _

theorem State.MemForm.takeKept {s : State} (h : s.MemForm) (n : Nat) : (s.takeKept n).MemForm := by
  unfold State.takeKept
  split
  · exact h
  · refine State.MemForm.foldl (fun s t h => ?_) _ h
    repeat' split
    exacts [h, (h.takeLate _ _).ringSync _, h]

theorem State.MemForm.timeout {s : State} (h : s.MemForm) (parked : Bool) (r : ThreadRef) (w : WatchItem) : (s.timeout parked r w).MemForm := by
  unfold State.timeout
  dsimp only
  repeat' split
  exacts [h, h.of_mems (by simp), h.updThread _ _, (h.takeTrap _ _).ringSync _]

theorem State.MemForm.timeoutKill {s : State} (h : s.MemForm) (n : Nat) (tm : Team) (w : WatchItem) (tid : Nat) :
    (State.timeoutKill n tm w s tid).MemForm := by
  unfold State.timeoutKill
  dsimp only
  repeat' split
  exacts [h, h, h.kill _ _ _]

/-! ### Queues -/

theorem State.MemForm.servePop {s : State} (h : s.MemForm) (ctx q : Nat) (r : ThreadRef) (p : Pending) (a : PopAnswer) :
    (s.servePop ctx q r p a).MemForm := by
  unfold State.servePop
  split
  · exact h
  · exact State.MemForm.answer (State.MemForm.updThread (State.MemForm.writeBytes (h.of_mems (by simp)) _ _ _) _ _) _ _

theorem State.MemForm.serveSome {s : State} (h : s.MemForm) (ctx q n : Nat) : (State.serveSome ctx q n s).MemForm := by
  induction n generalizing s with
  | zero => exact h
  | succ n ih =>
    unfold State.serveSome
    split
    · exact ih (h.servePop _ _ _ _ _)
    · exact ih (h.of_mems (by simp))
    · exact h

theorem State.MemForm.serveAll {s : State} (h : s.MemForm) (ctx q : Nat) : (s.serveAll ctx q).MemForm := by
  unfold State.serveAll
  split
  · exact h.serveSome _ _ _
  · exact h

theorem State.MemForm.remoteAppend {s : State} (h : s.MemForm) (ctx q key : Nat) (data : List Byte) : (s.remoteAppend ctx q key data).MemForm := by
  have hs : (s.serveAll ctx q).MemForm := h.serveAll ctx q
  unfold State.remoteAppend
  dsimp only
  repeat' split
  exacts [hs, hs, hs.of_mems (by simp)]

theorem State.MemForm.closeQueue {s : State} (h : s.MemForm) (ctx q : Nat) : (s.closeQueue ctx q).MemForm := by
  have hs : (s.serveAll ctx q).MemForm := h.serveAll ctx q
  unfold State.closeQueue
  dsimp only
  split
  · exact hs.of_mems (by simp)
  · exact hs

theorem State.MemForm.closeQueues {s : State} (h : s.MemForm) (pn : Nat) : (s.closeQueues pn).MemForm := by
  unfold State.closeQueues
  split
  · exact h
  · refine State.MemForm.foldl (fun s q h => ?_) _ h
    repeat' split
    exacts [h, h.closeQueue _ _, h]

theorem State.MemForm.arriveAt {s : State} (h : s.MemForm) (e : Env) (n : Nat) : (s.arriveAt e n).MemForm :=
  State.MemForm.testSync (h.of_mems (by simp)) _

theorem State.MemForm.serveRemote {s : State} (h : s.MemForm) (part : Nat) (r : PeerReq) : (s.serveRemote part r).MemForm := by
  cases r with
  | load _ _ => exact h
  | store _ _ => exact h.remoteWrite _ _ _ _
  | atomic _ _ _ _ => exact h.remoteWrite _ _ _ _
  | atomicF _ _ _ => exact h.remoteWrite _ _ _ _
  | compare _ _ _ _ =>
    simp only [State.serveRemote]
    split
    · exact h.remoteWrite _ _ _ _
    · exact h
  | push _ _ _ _ => exact h.remoteAppend _ _ _ _

/-! ### The clock of a core -/

theorem State.MemForm.clockMove {s : State} (h : s.MemForm) (core : Nat) : (s.clockMove core).MemForm :=
  (h.settle core).of_mems (by simp [State.clockMove])

end Sys2Proof.Machine
end


/-! The canonical form of memories: sketch units, matrix contexts and engines -/
section
namespace Sys2Proof.Machine

/-! ### Sketch units -/

theorem State.MemForm.skPut {s : State} (h : s.MemForm) (k : Bind) (o : Nat) (l : List Byte) : (s.skPut k o l).MemForm :=
  (h.writeBlocks _ _ _ _).of_mems (State.homePut_mems ..)

theorem State.MemForm.skSet {s : State} (h : s.MemForm) (k : Bind) (o n v : Nat) : (s.skSet k o n v).MemForm := h.skPut _ _ _

theorem State.MemForm.skFlag {s : State} (h : s.MemForm) (k : Bind) (f : Nat) : (s.skFlag k f).MemForm := h.skSet _ _ _ _

theorem State.MemForm.skFormat {s : State} (h : s.MemForm) (k : Bind) : (s.skFormat k).MemForm := h.skPut _ _ _

theorem State.MemForm.skClear {s : State} (h : s.MemForm) (k : Bind) : (s.skClear k).MemForm := (h.skPut _ _ _).skPut _ _ _

theorem State.MemForm.skAddTotal {s : State} (h : s.MemForm) (k : Bind) (v : Int) : (s.skAddTotal k v).MemForm := h.skSet _ _ _ _

theorem State.MemForm.skSetBit {s : State} (h : s.MemForm) (k : Bind) (j : Nat) : (s.skSetBit k j).MemForm := by
  unfold State.skSetBit
  dsimp only
  split
  · exact h
  · exact (h.skSet _ _ _ _).skSet _ _ _ _

theorem State.MemForm.skTest {s : State} (h : s.MemForm) (k : Bind) : (s.skTest k).1.MemForm := by
  unfold State.skTest
  lift_lets
  intro p thr
  clear_value thr
  split
  · exact h.skFlag _ _
  · exact h

theorem State.MemForm.skRow {s : State} (h : s.MemForm) (k : Bind) (p : SkParams) (x : Word) (v : Int) (i : Nat) : (s.skRow k p x v i).1.MemForm := by
  unfold State.skRow
  dsimp only
  repeat' split
  exacts [h, (h.skSet _ _ _ _).skSet _ _ _ _, (h.skSet _ _ _ _).skFlag _ _, h.skSet _ _ _ _]

theorem State.MemForm.skMerge {s : State} (h : s.MemForm) (k : Bind) (src : List Byte) : (s.skMerge k src).1.MemForm := by
  unfold State.skMerge
  lift_lets
  intro p mine theirs total finish n cs joined
  have hf (body : List Byte) : (finish body).MemForm := ((h.skPut _ _ _).skSet _ _ _ _).skSet _ _ _ _
  have hj : joined.MemForm := (hf _).skFlag _ _
  clear_value finish joined
  repeat' split
  exacts [h, (hf _).skTest _, hj.skFlag _ _, hj, hf _]

theorem State.MemForm.skFold {s : State} (h : s.MemForm) (k : Bind) : (s.skFold k).1.MemForm := by
  unfold State.skFold
  lift_lets
  intro p q old cs new put folded
  have hf : folded.MemForm := ((h.skPut _ _ _).skSet _ _ _ _).skSet _ _ _ _
  clear_value folded
  repeat' split
  exacts [h, hf.skTest _, hf.skFlag _ _, hf]

theorem State.MemForm.skInsert {s : State} (h : s.MemForm) (k : Bind) (x : Word) (v : Int) : (s.skInsert k x v).1.MemForm := by
  unfold State.skInsert
  extract_lets p bits rows added j t rank old ranked counted
  have hb : bits.MemForm := State.MemForm.foldl (fun _ _ h => h.skSetBit _ _) _ h
  have hr : rows.1.MemForm := List.foldlRecOn (motive := fun r : State × Bool => r.1.MemForm) _ _ h fun _ hr _ _ => hr.skRow _ _ _ _ _
  have ha : added.MemForm := hr.skAddTotal _ _
  have hk : ranked.MemForm := by
    unfold ranked
    split
    · exact h.skSet _ _ _ _
    · exact h
  have hc : counted.MemForm := by
    unfold counted
    split
    · exact hk.skSet _ _ _ _
    · exact hk
  clear_value bits rows added ranked counted
  split
  · exact (hb.skAddTotal _ _).skTest _
  · split
    · exact ha.skFlag _ _
    · exact ha
  · exact hc.skAddTotal _ _

theorem State.MemForm.mergeAll {s : State} (h : s.MemForm) (k : Bind) (l : List Byte) : (s.mergeAll k l).1.MemForm :=
  List.foldlRecOn (motive := fun r : State × Bool => r.1.MemForm) _ _ h fun _ hr _ _ => hr.skMerge _ _

theorem State.MemForm.skPoisoned {s : State} (h : s.MemForm) (r : ThreadRef) (o : MemOp) (at_ : Target) : (s.skPoisoned r o at_).MemForm := by
  unfold State.skPoisoned
  lift_lets
  intro gone dropped
  have hd : dropped.MemForm := h.updThread _ _
  clear_value dropped gone
  repeat' split
  exacts [hd.logStage _ _, hd, hd.poisonKill _ _ _]

/-! ### Matrix contexts -/

theorem State.MemForm.setAcc {s : State} (h : s.MemForm) (core mc : Nat) (l : List (Nat × Nat × Conds)) : (s.setAcc core mc l).MemForm :=
  State.MemForm.foldl (fun _ _ h => h.store _ _ _) _ h

theorem State.MemForm.mismatch {s : State} (h : s.MemForm) (core mc : Nat) (c : MCmd) (seq : Nat) : (s.mismatch core mc c seq).MemForm := by
  unfold State.mismatch
  lift_lets
  intro halted
  have hh : halted.MemForm := h.of_mems (State.updMc_mems ..)
  clear_value halted
  split
  · exact hh
  · lift_lets
    intro gone
    clear_value gone
    split
    · exact hh.kill _ _ _
    · exact hh.of_mems (by simp)

theorem State.MemForm.runCommand {s : State} (h : s.MemForm) (core mc : Nat) (c : MCmd) (agree : Bool) : (s.runCommand core mc c agree).MemForm := by
  unfold State.runCommand
  split
  · split
    · exact h.mismatch _ _ _ _
    · exact (h.setAcc _ _ _).of_mems (State.raiseLast_mems ..)
  · exact State.MemForm.foldl (fun _ _ h => h.store _ _ _) _ h
  · split
    · exact h
    · refine State.MemForm.finishOp (State.MemForm.of_mems ?_ (State.raiseLast_mems ..)) _ _ _
      exact State.MemForm.foldl (fun _ _ h => h.writeData _ _ _ _ _) _ h
  · exact ((h.setAcc _ _ _).completionWord _ _ _).of_mems (State.raiseLast_mems ..)

theorem State.MemForm.acquire {s : State} (h : s.MemForm) (n tc core : Nat) (kept : Option MatCtx) : (s.acquire n tc core kept).MemForm := by
  unfold State.acquire
  dsimp only
  split
  · exact ((h.clearMem _).clearMem _).of_mems (State.setCore_mems ..)
  · exact ((h.moveMem _ _).moveMem _ _).of_mems (State.setCore_mems ..)

theorem State.MemForm.keepMatrix {s : State} (h : s.MemForm) (n : Nat) (cores : List (Nat × Nat)) : (s.keepMatrix n cores).MemForm := by
  refine State.MemForm.foldl (fun s c h => ?_) _ h
  split
  · exact h
  · exact State.MemForm.updTeam (((h.moveMem _ _).moveMem _ _).of_mems (State.setCore_mems ..)) _ _

/-! ### Engines -/

theorem State.MemForm.engineStop {s : State} (h : s.MemForm) (core : Nat) (o : EngOp) (x : Nat × Option Nat) : (s.engineStop core o x).MemForm := by
  have hf : (s.engineFail core o 2).MemForm := h.of_mems (by simp)
  unfold State.engineStop
  dsimp only
  repeat' split
  exacts [h.of_mems (by simp), hf.logStage _ _, hf]

/-- An engine writes a part of its result through to the homes, and does what comes after. -/
theorem optForm_writePart {s : State} (h : s.MemForm) (r : Reach) (o : EngOp) (l : List Byte) (pick : Target → Bool) {after : State → State}
    (ha : ∀ s : State, s.MemForm → (after s).MemForm) : OptForm (s.writePart r o l pick after) := by
  unfold State.writePart
  dsimp only
  repeat' split
  · exact optForm_some (h.engineStop _ _ _)
  · exact optForm_some (h.of_mems (by simp))
  · exact optForm_some (h.of_mems (by simp))
  · exact optForm_none
  · refine optForm_some (ha _ (State.MemForm.of_mems ?_ (State.foldl_mems (fun _ _ => State.l2Results_mems ..) _ _)))
    exact State.MemForm.of_mems (State.MemForm.putAt (h.of_mems (by simp)) _ _) (State.homeWrote_mems ..)

theorem optForm_engineWrite {s : State} (h : s.MemForm) (core op k : Nat) : OptForm (s.engineWrite core op k) :=
  optForm_bind fun _ => optForm_bind fun _ => optForm_bind fun _ => optForm_bind fun _ =>
    optForm_writePart h _ _ _ _ fun _ h => h.of_mems (State.updOp_mems ..)

theorem optForm_ownUnit {s : State} (h : s.MemForm) (core op k : Nat) : OptForm (s.ownUnit core op k) := by
  refine optForm_bind fun _ => optForm_bind fun _ => ?_
  dsimp only
  split
  · exact optForm_some (h.of_mems (by simp))
  · exact optForm_none

theorem State.MemForm.land {s : State} (h : s.MemForm) (core : Nat) (o : EngOp) : (s.land core o).MemForm := by
  have hc := h.completionWord (o.scopeAgent core) o.ref.team o.cw
  unfold State.land
  dsimp only
  split
  · repeat' split
    all_goals exact hc.of_mems (by simp)
  all_goals exact h.finishOp _ _ _

theorem optForm_writePayload {s : State} (h : s.MemForm) (r : Reach) (o : EngOp) (l : List Byte) {after : State → State}
    (ha : ∀ s : State, s.MemForm → (after s).MemForm) : OptForm (s.writePayload r o l after) :=
  optForm_writePart h _ _ _ _ fun _ h => ha _ (h.land _ _)

theorem optForm_readSource {s : State} (h : s.MemForm) (r : Reach) (o : EngOp) (d : List Byte) : OptForm (s.readSource r o d) := by
  unfold State.readSource
  split
  · exact optForm_some (h.engineStop _ _ _)
  · lift_lets
    intro left now rs got
    split
    · exact optForm_some (h.of_mems (by simp))
    split
    · exact optForm_some (h.of_mems (by simp))
    split
    · exact optForm_none
    split
    · exact optForm_some (h.of_mems (by simp))
    · exact optForm_some (h.of_mems (by simp))

theorem optForm_exchange {s : State} (h : s.MemForm) (o : EngOp) (r : CollRec) (num : Nat) : OptForm (s.exchange o r num) := by
  unfold State.exchange
  lift_lets
  intro mine sk parts
  clear_value sk
  split
  · exact optForm_none
  · dsimp only
    split
    · exact optForm_some (h.of_mems (State.foldl_mems (fun _ _ => State.updOp_mems ..) _ _))
    · exact optForm_some (h.of_mems (State.foldl_mems (fun _ _ => State.updOp_mems ..) _ _))

theorem optForm_admitGroup {s : State} (h : s.MemForm) (o : EngOp) (r : CollRec) (num : Nat) : OptForm (s.admitGroup o r num) := by
  unfold State.admitGroup
  dsimp only
  split
  · exact optForm_none
  · exact optForm_some (h.of_mems (State.foldl_mems (fun _ _ => State.updOp_mems ..) _ _))

theorem optForm_beginPart {s : State} (h : s.MemForm) (core : Nat) (o : EngOp) : OptForm (s.beginPart core o) := by
  unfold State.beginPart
  split
  · exact optForm_none
  split
  · refine optForm_bind fun k => ?_
    repeat' split
    exacts [optForm_none, optForm_some (h.of_mems (by simp)), optForm_some (h.of_mems (by simp))]
  · exact optForm_bind fun _ => optForm_bind fun _ => optForm_readSource h _ _ _
  all_goals exact optForm_none

theorem optForm_partMove {s : State} (h : s.MemForm) (core : Nat) (o : EngOp) (r : CollRec) (n : Nat) : OptForm (s.partMove core o r n) := by
  have hw : OptForm (if o.admitted then s.beginPart core o else s.admitGroup o r n) := by
    split
    · exact optForm_beginPart h _ _
    · exact optForm_admitGroup h _ _ _
  unfold State.partMove
  split
  exacts [hw, hw, optForm_exchange h _ _ _, optForm_some (h.of_mems (by simp)), optForm_none, optForm_none, optForm_none]

theorem optForm_beginCopy {s : State} (h : s.MemForm) (core : Nat) (o : EngOp) : OptForm (s.beginCopy core o) := by
  unfold State.beginCopy
  split
  · exact optForm_none
  split
  · exact optForm_none
  · exact optForm_none
  · exact optForm_none
  · exact optForm_none
  · exact optForm_none
  all_goals exact optForm_bind fun _ => optForm_bind fun _ => optForm_readSource h _ _ _

theorem optForm_engineBegin {s : State} (h : s.MemForm) (core op : Nat) : OptForm (s.engineBegin core op) := by
  refine optForm_bind fun o => ?_
  repeat' split
  exacts [optForm_beginCopy h _ _, optForm_some (h.of_mems (by simp)), optForm_partMove h _ _ _ _]

theorem optForm_finishColl {s : State} (h : s.MemForm) (core : Nat) (o : EngOp) (l : List Byte) (cs : List Conds) :
    OptForm (s.finishColl core o l cs) := by
  unfold State.finishColl
  split
  · refine optForm_bind fun k => ?_
    have hm : (((k.ranges.foldl State.l2Results (s.mergeAll k l).1).skWrote (o.scopeAgent core) k).finishOp core o o.rmask).MemForm :=
      State.MemForm.finishOp (State.MemForm.of_mems (h.mergeAll k l) (by simp [State.foldl_mems])) _ _ _
    dsimp only
    repeat' split
    exacts [optForm_none, optForm_some (h.of_mems (by simp)), optForm_some (hm.of_mems (by simp)), optForm_some hm]
  · refine optForm_bind fun r => optForm_writePayload h _ _ _ fun s h => ?_
    split
    · exact h
    · exact h.raise _ _
  all_goals exact optForm_none

theorem optForm_completeOp {s : State} (h : s.MemForm) (core : Nat) (o : EngOp) : OptForm (s.completeOp core o) := by
  have hp (d : List Byte) : OptForm ((s.reach core o).bind fun r => s.writePayload r o (s.payload core o d) id) :=
    optForm_bind fun _ => optForm_writePayload h _ _ _ fun _ h => h
  have hf (d : List Byte) (c : List Conds) : OptForm (s.finishColl core o d c) := optForm_finishColl h _ _ _ _
  unfold State.completeOp
  split
  · exact optForm_some (h.of_mems (by simp))
  · exact optForm_none
  · split
    · exact optForm_some (h.of_mems (by simp))
    · exact optForm_none
  · exact optForm_unless (hp _)
  · exact optForm_unless (hp _)
  · exact optForm_unless (hp _)
  · exact optForm_unless (hp _)
  · exact optForm_unless (hp _)
  · exact optForm_unless (hp _)
  · exact optForm_unless (hp _)
  · exact optForm_unless (hf _ _)
  · exact optForm_unless (hf _ _)
  · exact optForm_none

end Sys2Proof.Machine
end


/-! The canonical form of memories: placing and parking of teams, packets, records and registers -/
section
namespace Sys2Proof.Machine

/-! ### Placing teams -/

theorem optForm_placeNew {s : State} (h : s.MemForm) (pn k : Nat) (cores : List Nat) : OptForm (s.placeNew pn k cores) := by
  unfold State.placeNew
  split
  · exact optForm_none
  split
  · exact optForm_none
  extract_lets n need id index born
  refine optForm_unless ?_
  split
  · exact optForm_none
  · extract_lets tm placed told
    have ht : told.MemForm := h.of_mems (by simp [told, placed])
    refine optForm_some (State.MemForm.foldl (fun s c h => ?_) _ ht)
    extract_lets halved filled
    have hh : halved.MemForm := h.of_mems (State.toSplit_mems ..)
    have hf : filled.MemForm := hh.setBytes _ _
    clear_value filled
    split
    · exact hf.acquire _ _ _ _
    · exact hf

theorem optForm_placeBack {s : State} (h : s.MemForm) (n : Nat) (cores : List Nat) : OptForm (s.placeBack n cores) := by
  unfold State.placeBack
  split
  · exact optForm_none
  split
  · extract_lets back mc need
    refine optForm_unless ?_
    split
    · exact optForm_none
    · refine optForm_some (State.MemForm.foldl (fun s c h => ?_) _ (h.of_mems (State.setTeam_mems ..)))
      have hs (k : Nat) : (s.toSplit c.2 k).MemForm := h.of_mems (State.toSplit_mems ..)
      dsimp only
      split
      · exact (hs _).acquire _ _ _ _
      · exact hs _
  · exact optForm_none

/-- Every way to place a team of a stage. -/
theorem placements_form {s : State} (h : s.MemForm) (part pn k : Nat) : ∀ t ∈ s.placements part pn k, t.MemForm := by
  intro t ht
  unfold State.placements at ht
  split at ht
  · split at ht
    · obtain ⟨cores, -, he⟩ := List.mem_filterMap.1 ht
      exact optForm_placeBack h _ _ t he
    · obtain ⟨cores, -, he⟩ := List.mem_filterMap.1 ht
      exact optForm_placeNew h _ _ _ t he
  · cases ht

theorem optForm_placeOne {s : State} (h : s.MemForm) (part choice : Nat) : OptForm (s.placeOne part choice) := by
  intro t ht
  obtain ⟨c, -, hc⟩ := List.exists_of_findSome?_eq_some ht
  exact placements_form h _ _ _ t (List.mem_of_getElem? hc)

theorem State.MemForm.passFrom {s : State} (h : s.MemForm) (part n choice : Nat) : (s.passFrom part n choice).MemForm := by
  induction n generalizing s choice with
  | zero => exact h
  | succ n ih =>
    unfold State.passFrom
    split
    · next e => exact ih (optForm_placeOne h _ _ _ e) _
    · exact h

theorem State.MemForm.preempt {s : State} (h : s.MemForm) (part : Nat) : (s.preempt part).MemForm := by
  unfold State.preempt
  split
  · split
    · exact h
    · extract_lets going s0 fitsOn plans
      clear_value plans
      split
      · exact h
      · split
        · exact h
        · exact State.MemForm.foldl (fun _ _ h => h.updTeam _ _) _ h
  · exact h

/-! ### Parking -/

theorem optForm_parkWhole {s : State} (h : s.MemForm) (n : Nat) (tm : Team) (p : Pipeline) (st : Stage) (pre : Bool) :
    OptForm (s.parkWhole n tm p st pre) := by
  unfold State.parkWhole
  split
  · exact optForm_none
  · next e =>
    have hw := okForm_writePieces h _ _ _ _ e
    exact optForm_some ((hw.keepMatrix n (positions tm.cores)).of_mems (by simp))

theorem optForm_park {s : State} (h : s.MemForm) (n : Nat) (tm : Team) (p : Pipeline) (st : Stage) (pre : Bool) : OptForm (s.park n tm p st pre) := by
  unfold State.park
  split
  · exact optForm_none
  · exact optForm_parkWhole (h.of_mems (State.setTeam_mems ..)) _ _ _ _ _

theorem State.MemForm.parkFailed {s : State} (h : s.MemForm) (n : Nat) (tm : Team) : (s.parkFailed n tm).MemForm := (h.updTeam _ _).logStage _ _

theorem State.MemForm.parkOr {s : State} (h : s.MemForm) (n : Nat) (tm : Team) (p : Pipeline) (st : Stage) (pre : Bool) :
    (s.parkOr n tm p st pre).MemForm := by
  unfold State.parkOr
  split
  · next e => exact optForm_park h _ _ _ _ _ _ e
  · exact h.parkFailed _ _

theorem State.MemForm.takeSaved {s : State} (h : s.MemForm) (n : Nat) (tm : Team) (st : Stage) (ps : List (List Byte)) :
    (s.takeSaved n tm st ps).MemForm :=
  State.MemForm.foldl (fun _ _ h => h.putMatrix _ _ _) _
    (State.MemForm.foldl (fun _ _ h => h.setBytes _ _) _ (h.of_mems (State.setTeam_mems ..)))

theorem State.MemForm.freeTeam {s : State} (h : s.MemForm) (n : Nat) (tm : Team) : (s.freeTeam n tm).MemForm := by
  refine State.MemForm.of_mems (State.MemForm.foldl (fun s c h => ?_) (positions tm.cores) h) rfl
  refine State.MemForm.clearMem (State.MemForm.clearMem (State.MemForm.clearMem ?_ _) _) _
  split
  · exact (h.clearMem _).clearMem _
  · exact h

theorem optForm_displace {s : State} (h : s.MemForm) (n tc : Nat) : OptForm (s.displace n tc) := by
  unfold State.displace
  split
  · exact optForm_none
  split
  · refine optForm_unless (optForm_bind fun x => ?_)
    split
    · split
      · exact optForm_none
      · next e => exact optForm_some ((okForm_writeGlobal h _ _ _ _ e).of_mems (by simp))
    · exact optForm_none
  · exact optForm_none

theorem optForm_ringStart {s : State} (h : s.MemForm) (n : Nat) : OptForm (s.ringStart n) := by
  unfold State.ringStart
  split
  · exact optForm_none
  split
  · exact optForm_unless (optForm_map fun _ => h.of_mems (State.startRing_mems ..))
  · exact optForm_none

/-! ### Packets -/

theorem State.MemForm.logPacket {s : State} (h : s.MemForm) (p : Packet) (code : Nat) : (s.logPacket p code).MemForm := h.logErr _ _

theorem State.MemForm.failPacket {s : State} (h : s.MemForm) (p : Packet) (code : Nat) : (s.failPacket p code).MemForm :=
  State.MemForm.logPacket (h.of_mems (State.updPacket_mems ..)) _ _

theorem okForm_putSignal {s : State} (h : s.MemForm) (p : Packet) (v : Nat) : OkForm (s.putSignal p v) := by
  unfold State.putSignal
  split
  · exact okForm_ok h
  · exact okForm_writeGlobal h _ _ _

theorem State.MemForm.signalPacket {s : State} (h : s.MemForm) (p : Packet) (v : Nat) : (s.signalPacket p v).MemForm := by
  unfold State.signalPacket
  split
  · next e => exact (okForm_putSignal h _ _ _ e).of_mems (by simp)
  · exact h.of_mems (by simp)
  · exact (h.logPacket _ _).of_mems (State.dropPacket_mems ..)

theorem State.MemForm.signalCode {s : State} (h : s.MemForm) (p : Packet) (code : Nat) : (s.signalCode p code).MemForm := h.signalPacket _ _

theorem State.MemForm.wsWrite {s : State} (h : s.MemForm) (pt : Partition) (die off : Nat) (l : List Byte) : (s.wsWrite pt die off l).MemForm := by
  refine State.MemForm.foldl (fun s c h => ?_) _ h
  split
  · exact h.writeBytes _ _ _
  · exact h

theorem optForm_finishPacket {s : State} (h : s.MemForm) (p : Packet) : OptForm (s.finishPacket p) := by
  unfold State.finishPacket
  extract_lets b v wrote
  have hw {s : State} (h : s.MemForm) : (wrote s).MemForm := h.of_mems (State.updPacket_mems ..)
  split
  · split
    · exact optForm_none
    · refine optForm_unless ?_
      split
      · exact optForm_some (h.signalCode _ _)
      · exact optForm_some (h.signalPacket _ _)
  · split
    · split
      · exact optForm_some (h.of_mems (by simp))
      · exact optForm_none
    · exact optForm_some (h.of_mems (by simp))
    · exact optForm_some (h.failPacket _ _)
  · split
    · exact optForm_none
    split
    · exact optForm_some (h.signalPacket _ _)
    split
    · exact optForm_some (State.MemForm.signalPacket (hw ((h.wsWrite _ _ _ _).of_mems (State.dropWs_mems ..))) _ _)
    · exact optForm_none
  · split
    · exact optForm_some (h.signalPacket _ _)
    split
    · next e => exact optForm_some (State.MemForm.signalPacket (hw (h.writeGlobal e)) _ _)
    · exact optForm_some (h.of_mems (by simp))
    · exact optForm_some (h.failPacket _ _)

theorem optForm_completePacket {s : State} (h : s.MemForm) (p : Packet) : OptForm (s.completePacket p) := by
  unfold State.completePacket
  refine optForm_unless ?_
  repeat' split
  exacts [optForm_some (h.failPacket _ _), optForm_some (h.of_mems (by simp)), optForm_some (h.signalCode _ _), optForm_finishPacket h _]

theorem State.MemForm.stopQueue {s : State} (h : s.MemForm) (vf q : Nat) (d : QDesc) : (s.stopQueue vf q d).MemForm :=
  State.MemForm.of_mems (State.MemForm.store (h.of_mems (State.updVf_mems ..)) _ _ _) (State.homeWrote_mems ..)

theorem State.MemForm.consume {s : State} (h : s.MemForm) (x : Served) (vf queue : Nat) (b : List Byte) : (s.consume x vf queue b).1.MemForm := by
  unfold State.consume
  extract_lets isLaunch p counted told taken
  have ht : taken.MemForm := State.MemForm.writeBytes (h.of_mems (State.updVf_mems ..)) _ _ _
  clear_value isLaunch taken
  split
  · exact ht
  · exact ht

theorem okForm_tryLaunch {s : State} (h : s.MemForm) (e : List Byte) (pt : Partition) (pk : Packet) : OkForm (s.tryLaunch e pt pk) := by
  unfold State.tryLaunch
  repeat' split
  exacts [okForm_error _, okForm_error _, okForm_error _, okForm_error _, okForm_error _, okForm_error _, okForm_ok (h.of_mems (by simp))]

theorem State.MemForm.startPacket {s : State} (h : s.MemForm) (p : Packet) (pt : Partition) (e : List Byte) : (s.startPacket p pt e).MemForm := by
  have hf (n : Nat) : (s.failPacket p n).MemForm := h.failPacket p n
  have hp (a r : Nat) : (s.pausePacket p a r).MemForm := h.of_mems (by simp)
  have hu (f : Packet → Packet) : (s.updPacket p f).MemForm := h.of_mems (by simp)
  unfold State.startPacket
  dsimp only
  split
  · exact hf _
  split
  · exact hf _
  split
  · exact hf _
  split
  · split
    · next e => exact (okForm_tryLaunch h _ _ _ _ e).of_mems (State.updPacket_mems ..)
    · exact hp _ _
    · exact hf _
  · split
    exacts [hu _, hp _ _, hf _]
  · split
    exacts [hu _, hp _ _, hf _]
  · exact hu _

theorem optForm_serveQueue {s : State} (h : s.MemForm) (vf queue : Nat) (ty : Nat → Bool) {start : Served → Packet → State → State}
    (hs : ∀ x p (s : State), s.MemForm → (start x p s).MemForm) : OptForm (s.serveQueue vf queue ty start) := by
  unfold State.serveQueue
  refine optForm_bind fun x => ?_
  split
  · split
    · exact optForm_some (hs _ _ _ h)
    · exact optForm_none
  · extract_lets n loaded
    have hl : loaded.MemForm := h
    clear_value loaded
    refine optForm_unless ?_
    split
    · exact optForm_some (hl.of_mems (by simp))
    · exact optForm_some (hl.stopQueue _ _ _)
    · split
      · exact optForm_some (hs _ _ _ (hl.consume _ _ _ _))
      · exact optForm_none

theorem outForm_serveType {s : State} (h : s.MemForm) (vf queue ty : Nat) : OutForm (s.serveType vf queue ty) :=
  outForm_orNotEnabled (optForm_serveQueue h _ _ _ fun _ _ _ h => h.startPacket _ _ _)

/-! ### Records that the hardware writes, and registers -/

theorem optForm_writeFault {s : State} (h : s.MemForm) (ctx : Nat) : OptForm (s.writeFault ctx) := by
  unfold State.writeFault
  extract_lets c
  split
  · exact optForm_none
  extract_lets mark noted put
  have hn : noted.MemForm := h.of_mems (State.setContext_mems ..)
  have hp : put.MemForm := hn.writeBytes _ _ _
  clear_value put
  refine optForm_unless (optForm_some ?_)
  split
  · exact hp
  · exact hp

theorem State.MemForm.denyOne {s : State} (h : s.MemForm) (seq : Nat) (q : Requester) : (s.denyOne seq q).MemForm := by
  unfold State.denyOne
  split
  · exact h.updThread _ _
  · split
    · exact h.of_mems (by simp)
    · exact h
  · split
    · exact h
    split
    · exact h.stopQueue _ _ _
    · exact h.of_mems (by simp)

theorem outForm_writeIdle {s : State} (h : s.MemForm) (vf : Nat) (ok : Vf → Bool) (f : Vf → Vf) : OutForm (s.writeIdle vf ok f) := by
  unfold State.writeIdle
  split
  · exact outForm_fault _
  · exact outForm_next (h.of_mems (by simp))

theorem optForm_clearRecord {s : State} (h : s.MemForm) (part entry : Nat) : OptForm (s.clearRecord part entry) := by
  refine optForm_bind fun p => ?_
  split
  · exact optForm_some ((h.setByte _ _ _).of_mems (State.homeWrote_mems ..))
  · exact optForm_none

theorem optForm_readRegister {s : State} (h : s.MemForm) (vf off : Nat) : OptForm (s.readRegister vf off) := optForm_map fun _ => h

theorem optForm_evictL1 {s : State} (h : s.MemForm) (core k : Nat) : OptForm (s.evictL1 core k) := by
  unfold State.evictL1
  split
  · exact optForm_none
  · exact optForm_unless (optForm_some (h.of_mems (by simp)))

theorem optForm_evictL2 {s : State} (h : s.MemForm) (slice k : Nat) : OptForm (s.evictL2 slice k) := by
  unfold State.evictL2
  repeat' split
  exacts [optForm_none, optForm_some (h.of_mems (by simp)), optForm_none]

theorem optForm_unpick {s : State} (h : s.MemForm) (r : ThreadRef) : OptForm (s.unpick r) := optForm_map fun _ => h.of_mems (State.updCore_mems ..)

end Sys2Proof.Machine
end


/-! The canonical form of memories: the parts that the effects of instructions share -/
section
namespace Sys2Proof.Machine

/-! ### The parts that the effects of instructions share -/

@[simp] theorem State.resolve_mems (s : State) (e : Env) (sp : Space) (a align size : Nat) (need : Need) :
    (s.resolve e sp a align size need).2.mems = s.mems := by
  have ht := State.translate_mems s e.core e.pl.ctxNum e.t.lastPage a
  unfold State.resolve
  dsimp only
  repeat' split
  all_goals simp_all

theorem resForm_ite {c : Prop} [Decidable c] {r q : Res} (hr : ResForm r) (hq : ResForm q) : ResForm (if c then r else q) := by
  split
  · exact hr
  · exact hq

theorem inOrder_form {s : State} (h : s.MemForm) (ready : Bool) {k : Unit → Res} (hk : ResForm (k ())) : ResForm (inOrder s ready k) := by
  unfold inOrder
  exact resForm_ite hk h

theorem releasing_form {s : State} (h : s.MemForm) (e : Env) {k : Unit → Res} (hk : ResForm (k ())) :
    ResForm (releasing e s k) := inOrder_form h _ hk

theorem readingNow_form {s : State} (h : s.MemForm) (e : Env) (rs : List Range) {k : Unit → Res} (hk : ResForm (k ())) :
    ResForm (readingNow e s rs k) := inOrder_form h _ hk

theorem judging_form {s : State} (h : s.MemForm) (e : Env) (slot : Nat) (b : Bind) {k : Unit → Res} (hk : ResForm (k ())) :
    ResForm (judging e s slot b k) := inOrder_form h _ hk

theorem awaiting_form {s : State} (h : s.MemForm) (ready : Bool) {k : Unit → Res} (hk : ResForm (k ())) : ResForm (awaiting s ready k) := by
  unfold awaiting
  exact resForm_ite hk h

theorem noting_form {f : State → State} (hf : ∀ s : State, s.MemForm → (f s).MemForm) {r : Res} (hr : ResForm r) : ResForm (r.noting f) := by
  cases r with
  | done s ws pend jump => exact hf s hr
  | wait w s => exact hr
  | trap c ea ei s => exact hr
  | stop s => exact hr

/-- An access that is resolved: no memory changes before what is done at its place. -/
theorem reaching_form {s : State} (h : s.MemForm) (e : Env) (sp : Space) (a align size : Nat) (need : Need) (kind : Nat)
    {window : Nat → Word → State → Res} {k : Target → State → Res}
    (hw : ∀ slot key (s : State), s.MemForm → ResForm (window slot key s))
    (hk : ∀ t (s : State), s.MemForm → ResForm (k t s)) : ResForm (reaching e s sp a align size need kind window k) := by
  have hr : (s.resolve e sp a align size need).2.MemForm := h.of_mems (by simp)
  unfold reaching
  split
  · next er => rw [er] at hr; exact hr
  · next er => rw [er] at hr; exact hr.of_mems (State.threadFault_mems ..)
  · next er => rw [er] at hr; exact hw _ _ _ hr
  · next er => rw [er] at hr; exact hk _ _ hr

theorem accessing_form {s : State} (h : s.MemForm) (e : Env) (sp : Space) (a align size : Nat) (need : Need) (kind : Nat)
    {window : Nat → Word → State → Res} {k : Target → State → Res}
    (hw : ∀ slot key (s : State), s.MemForm → ResForm (window slot key s))
    (hk : ∀ t (s : State), s.MemForm → ResForm (k t s)) : ResForm (accessing e s sp a align size need kind window k) := by
  refine reaching_form h _ _ _ _ _ _ _ hw fun t s h => ?_
  split
  · exact h
  · exact hk t s h

theorem noWindow_form (a : Nat) : ∀ slot key (s : State), s.MemForm → ResForm (noWindow a slot key s) := fun _ _ _ h => h

theorem produce_form {s : State} (h : s.MemForm) (e : Env) (o : MemOp) : ResForm (produce e s o) := by
  unfold produce
  split
  · exact h
  · exact h.of_mems (by simp)

theorem skFault_form {s : State} (h : s.MemForm) (code : Word) : ResForm (skFault code s) := h
theorem tileFault_form {s : State} (h : s.MemForm) (code : Word) : ResForm (tileFault code s) := h
theorem queueFault_form {s : State} (h : s.MemForm) (code : Word) : ResForm (queueFault code s) := h
theorem malformed_form {s : State} (h : s.MemForm) : ResForm (malformed s) := h

theorem jumpTo_form {s : State} (h : s.MemForm) (tgt : DWord) (ws : List (Reg × Word)) : ResForm (jumpTo tgt ws s) := by
  unfold jumpTo
  exact resForm_ite h h

theorem checkCw_form {s : State} (h : s.MemForm) (e : Env) (cw : Option (Nat × Word)) {k : Unit → Res} (hk : ResForm (k ())) :
    ResForm (checkCw e cw s k) := by
  unfold checkCw
  repeat' split
  exacts [hk, h, hk]

theorem checkBounds_form {s : State} (h : s.MemForm) (e : Env) (sp : Space) (a n : Nat) {k : Unit → Res} (hk : ResForm (k ())) :
    ResForm (checkBounds s e sp a n k) := by
  unfold checkBounds
  split
  · exact h
  · exact hk

theorem checkRange_form {s : State} (h : s.MemForm) (e : Env) (sp : Space) (a n : Nat) {k : Unit → Res} (hk : ResForm (k ())) :
    ResForm (checkRange s e sp a n k) := by
  unfold checkRange
  exact resForm_ite hk (checkBounds_form h _ _ _ _ hk)

theorem checkAligned_form {s : State} (h : s.MemForm) (unit : Nat) (l : List Nat) {k : Unit → Res} (hk : ResForm (k ())) :
    ResForm (checkAligned unit l s k) := by
  unfold checkAligned
  split
  · exact h
  · exact hk

theorem checkLength_form {s : State} (h : s.MemForm) (n limit : Nat) {k : Unit → Res} (hk : ResForm (k ())) :
    ResForm (checkLength n limit s k) := by
  unfold checkLength
  exact resForm_ite h hk

theorem orFault_form {s : State} (h : s.MemForm) (f : Option (DWord × Word)) {k : Unit → Res} (hk : ResForm (k ())) : ResForm (orFault f s k) := by
  unfold orFault
  split
  · exact h
  · exact hk

theorem checkSlot_form {s : State} (h : s.MemForm) (r : CollRec) (a : Nat) (e : Env) {k : Unit → Res} (hk : ResForm (k ())) :
    ResForm (checkSlot r a e s k) := by
  unfold checkSlot
  exact resForm_ite hk h

theorem withMc_form {s : State} (h : s.MemForm) (e : Env) {k : Nat → Res} (hk : ∀ mc, ResForm (k mc)) : ResForm (withMc e s k) := by
  unfold withMc
  split
  · exact hk _
  · exact tileFault_form h _

theorem startOp_form {s : State} (h : s.MemForm) (d : Reg) (scope : Scope) (mk : Nat → Nat → EngOp) {after : Nat → State → State}
    (ha : ∀ id (s : State), s.MemForm → (after id s).MemForm) (e : Env) : ResForm (startOp d scope mk after e s) := by
  unfold startOp
  dsimp only
  repeat' split
  exacts [h, h, ha _ _ (h.of_mems (by simp))]

theorem startCopy_form {s : State} (h : s.MemForm) (x : Ops) (cw : Scope × Option (Nat × Word)) (mc : Nat) (kind : EngKind) (owns : List Range)
    (e : Env) : ResForm (startCopy x cw mc kind owns e s) :=
  checkCw_form h _ _ (startOp_form h _ _ _ (fun _ _ h => h) _)

theorem readRecord_form {s : State} (h : s.MemForm) (n a : Nat) (e : Env) {k : List Byte → State → Res}
    (hk : ∀ d (s : State), s.MemForm → ResForm (k d s)) : ResForm (readRecord n a e s k) := by
  refine accessing_form h _ _ _ _ _ _ _ (noWindow_form a) fun t s h => ?_
  have hp : (s.keepPage e).MemForm := h.of_mems (by simp)
  refine readingNow_form hp _ _ ?_
  split
  · exact hp.poisonKill _ _ _
  · exact noting_form (fun _ h => h.raceRead _ _ _ _) (hk _ _ hp)

theorem readShape_form {s : State} (h : s.MemForm) (sp : Space) (a : Nat) (e : Env) {k : Shape → State → Res}
    (hk : ∀ d (s : State), s.MemForm → ResForm (k d s)) : ResForm (readShape sp a e s k) := by
  refine readRecord_form h _ _ _ fun d s h => ?_
  split
  · exact hk _ _ h
  · exact h

theorem setTile_form {s : State} (h : s.MemForm) (mc n : Nat) (t : Tile) (e : Env) : ResForm (setTile mc n t e s) := by
  unfold setTile
  repeat' split
  exacts [tileFault_form h _, tileFault_form h _, h.of_mems (by simp)]

theorem enqueue_form {s : State} (h : s.MemForm) (mc : Nat) (kind : MKind) (e : Env) : ResForm (enqueue mc kind e s) := by
  unfold enqueue
  split
  · exact h
  · exact h.of_mems (by simp)

theorem accChecks_form {s : State} (h : s.MemForm) (f : AccFmt) (x : Ops) (e : Env) {k : Nat → Nat → Nat → Nat → Res}
    (hk : ∀ o rows cols pitch, ResForm (k o rows cols pitch)) : ResForm (accChecks f x e s k) := by
  unfold accChecks
  dsimp only
  repeat' split
  exacts [tileFault_form h _, h, h, checkCw_form h _ _ (hk _ _ _ _)]

theorem tileCopy_form {s : State} (h : s.MemForm) (sp : Space) (x : Ops) (e : Env) {k : Nat → Tile → Nat → Res}
    (hk : ∀ mc t a, ResForm (k mc t a)) : ResForm (tileCopy sp x e s k) := by
  refine withMc_form h _ fun mc => ?_
  dsimp only
  split
  · exact tileFault_form h _
  split
  · exact h
  · exact checkBounds_form h _ _ _ _ (checkCw_form h _ _ (hk _ _ _))

theorem skWorkOp_form {s : State} (h : s.MemForm) (w : SkWork) (slot : Nat) (places : List Target) (area : List Range) (e : Env) :
    ResForm (skWorkOp w slot places area e s) := h.of_mems (State.issue_mems ..)

theorem skOp_form {s : State} (h : s.MemForm) (kind : OpKind) (k : Bind) (dst : Reg) (dstN : Nat) (e : Env) : ResForm (skOp kind k dst dstN e s) := by
  unfold skOp
  dsimp only
  split
  · exact h.of_mems (State.issue_mems ..)
  · exact produce_form h _ _

theorem emptyRule_form {s : State} (h : s.MemForm) (x : Bool) (e : Env) {k : State → Res} (hk : ∀ s : State, s.MemForm → ResForm (k s)) :
    ResForm (emptyRule x e s k) := by
  have hs : ((s.setFlags e.ref flagEI).count e.counter [4]).MemForm := h.of_mems (by simp)
  unfold emptyRule
  dsimp only
  split
  · exact hs
  · exact hk _ hs

theorem withEmpty_form {s : State} (h : s.MemForm) (hit ex : Bool) (e : Env) {k : State → Res} (hk : ∀ s : State, s.MemForm → ResForm (k s)) :
    ResForm (withEmpty hit ex e s k) := by
  unfold withEmpty
  split
  · exact emptyRule_form h _ _ hk
  · exact hk _ h

theorem childOf_form {s : State} (h : s.MemForm) (e : Env) (marks : List Reg) (ws : List (Reg × Word)) (mask : BitVec 16) (child : Thread)
    {k : Thread → Res} (hk : ∀ t, ResForm (k t)) : ResForm (childOf e marks ws mask child s k) := by
  unfold childOf
  split
  · next er => exact h.filled_error er
  · exact hk _

theorem requestBody_form (p : Pending) : BodyForm (requestBody p) := by
  intro e s h
  unfold requestBody
  split
  · exact h
  split
  · exact h
  · exact releasing_form h _ (h.of_mems (by simp))

theorem remotePush_form {s : State} (h : s.MemForm) (ctx q key : Nat) (data : List Byte) (nb : Bool) (x : Ops) (e : Env) :
    ResForm (remotePush ctx q key data nb x e s) := by
  unfold remotePush
  extract_lets port
  split
  · exact h.linkKill _ _ _
  · repeat' split
    exacts [h.of_mems (State.released_mems ..), h, h, h, h, h]

theorem localPush_form {s : State} (h : s.MemForm) (ctx q : Nat) (u : Queue) (key : Nat) (data : List Byte) (nb : Bool) (x : Ops) (e : Env) :
    ResForm (localPush ctx q u key data nb x e s) := by
  have hs := h.serveAll ctx q
  unfold localPush
  dsimp only
  repeat' split
  all_goals exact hs.of_mems (by simp)

theorem pushItem_form {s : State} (h : s.MemForm) (ctx q : Nat) (u : Queue) (key : Nat) (data : List Byte) (nb : Bool) (x : Ops) (e : Env) :
    ResForm (pushItem ctx q u key data nb x e s) := by
  unfold pushItem
  split
  · exact remotePush_form h _ _ _ _ _ _ _
  · exact localPush_form h _ _ _ _ _ _ _ _

/-- The child of a SPAWN or an IVSPLIT: its entry of the spawn ring is the only thing written. -/
theorem newThread_form {s t : State} (h : s.MemForm) (e : Env) (child : Thread) (ht : s.newThread e child = .ok t) : t.MemForm := by
  unfold State.newThread at ht
  extract_lets tm seat at ht
  clear_value seat
  split at ht
  · cases ht
  split at ht
  · cases ht
  split at ht
  · cases ht
    exact State.MemForm.testSync (h.of_mems (by simp)) _
  split at ht
  · cases ht
  split at ht
  · cases ht
  · next hr =>
    cases ht
    exact State.MemForm.testSync ((okForm_writeGlobal h _ _ _ _ hr).of_mems (by simp)) _

theorem spawnedRes_form {s : State} (h : s.MemForm) (e : Env) (child : Thread) (ws : List (Reg × Word)) :
    ResForm (spawnedRes e s (s.newThread e child) ws) := by
  cases hn : s.newThread e child with
  | ok t => exact newThread_form h e child hn
  | overflow n => exact h
  | fault va r =>
    cases r with
    | none => exact h
    | some r => exact h.of_mems (State.threadFault_mems ..)

end Sys2Proof.Machine
end


/-! The canonical form of memories: the effects of instructions -/
section
namespace Sys2Proof.Machine

/-! ### The effects of memory instructions -/

theorem ldBody_form (sx : Bool) (sz : MSize) (sp : Space) (x : Ops) : BodyForm (ldBody sx sz sp x) := by
  intro e s h
  refine accessing_form h _ _ _ _ _ _ _ (fun slot key s h => ?_) fun _ _ h => produce_form h _ _
  refine resForm_ite (noWindow_form _ _ _ _ h) ?_
  split
  · exact h
  · exact produce_form h _ _

theorem stBody_form (sz : MSize) (sp : Space) (x : Ops) : BodyForm (stBody sz sp x) := by
  intro e s h
  refine accessing_form h _ _ _ _ _ _ _ (fun slot key s h => ?_) fun _ _ h => h.of_mems (State.issue_mems ..)
  refine resForm_ite (noWindow_form _ _ _ _ h) ?_
  split
  · exact h
  · exact resForm_ite h (h.of_mems (State.issue_mems ..))

theorem ldiBody_form (w : Bool) (sp : Space) (x : Ops) : BodyForm (ldiBody w sp x) :=
  fun _ _ h => accessing_form h _ _ _ _ _ _ _ (noWindow_form _) fun _ _ h => produce_form h _ _

theorem stiBody_form (w : Bool) (sp : Space) (x : Ops) : BodyForm (stiBody w sp x) :=
  fun _ _ h => accessing_form h _ _ _ _ _ _ _ (noWindow_form _) fun _ _ h => h.of_mems (State.issue_mems ..)

theorem atomBody_form (kind : OpKind) (sp : Space) (n b c dstN : Nat) (x : Ops) : BodyForm (atomBody kind sp n b c dstN x) :=
  fun _ _ h => accessing_form h _ _ _ _ _ _ _ (noWindow_form _) fun _ _ h => resForm_ite (h.of_mems (State.issue_mems ..)) (produce_form h _ _)

/-- A shaped access reads its record first: what follows is told where the element lies, or that there is none. -/
theorem shaped_form {s : State} (h : s.MemForm) (sp : Space) (n : Nat) (x : Ops) (e : Env) {out : State → Res} {k : Nat → State → Res}
    (ho : ∀ s : State, s.MemForm → ResForm (out s)) (hk : ∀ a (s : State), s.MemForm → ResForm (k a s)) :
    ResForm (shaped sp n x e s out k) := by
  refine accessing_form h _ _ _ _ _ _ _ (noWindow_form _) fun t s h => readingNow_form h _ _ ?_
  have hn (a : Nat) (s : State) (h : s.MemForm) : (s.raceRead e a 128 t).MemForm := h.raceRead _ _ _ _
  refine resForm_ite (h.poisonKill _ _ _) (resForm_ite h (resForm_ite ?_ (resForm_ite h ?_)))
  · exact noting_form (hn _) (hk _ _ h)
  · exact noting_form (hn _) (ho _ h)

theorem ldtBody_form (sx : Bool) (sz : MSize) (sp : Space) (x : Ops) : BodyForm (ldtBody sx sz sp x) := by
  intro e s h
  unfold ldtBody
  refine shaped_form h _ _ _ _ (fun s h => h) fun a s h => ?_
  exact accessing_form h _ _ _ _ _ _ _ (noWindow_form _) fun _ _ h => produce_form h _ _

theorem sttBody_form (sz : MSize) (sp : Space) (x : Ops) : BodyForm (sttBody sz sp x) := by
  intro e s h
  unfold sttBody
  refine shaped_form h _ _ _ _ (fun s h => h) fun a s h => ?_
  exact accessing_form h _ _ _ _ _ _ _ (noWindow_form _) fun _ _ h => h.of_mems (State.issue_mems ..)

theorem fenceBody_form (k : MOrd) (sc : Scope) : BodyForm (fenceBody k sc) := by
  intro e s h
  have hf : (s.raceFence e.ref e.core k sc).MemForm := h.of_mems (by simp)
  exact resForm_ite (awaiting_form h _ hf) (resForm_ite hf h)

theorem prefBody_form (x : Ops) : BodyForm (prefBody x) := by
  intro e s h
  have hr : (s.resolve e .glb (memAddr x .glb 512 e.t) 1 1 .read).2.MemForm := h.of_mems (by simp)
  unfold prefBody
  dsimp only
  split
  · next er =>
    rw [er] at hr
    exact hr.of_mems (by simp)
  all_goals exact h

theorem cflushBody_form (inv : Bool) (x : Ops) : BodyForm (cflushBody inv x) := by
  intro e s h
  refine reaching_form h _ _ _ _ _ _ _ (noWindow_form _) fun t s h => ?_
  have hk : (s.keepPage e).MemForm := h.of_mems (by simp)
  exact resForm_ite hk (awaiting_form hk _ (hk.of_mems (State.flushLine_mems ..)))

theorem cinvBody_form (sc : Scope) (x : Ops) : BodyForm (cinvBody sc x) := by
  intro e s h
  refine reaching_form h _ _ _ _ _ _ _ (noWindow_form _) fun t s h => ?_
  have hk : (s.keepPage e).MemForm := h.of_mems (by simp)
  exact resForm_ite hk (resForm_ite hk (hk.of_mems (State.dropLine_mems ..)))

/-! ### The effects of sketch instructions -/

theorem skbindBody_form (clr : Bool) (x : Ops) : BodyForm (skbindBody clr x) := by
  intro e s h
  refine accessing_form h _ _ _ _ _ _ _ (noWindow_form _) fun t s h => readingNow_form h _ _ ?_
  refine resForm_ite (h.poisonKill _ _ _) (noting_form (fun _ h => h.raceRead _ _ _ _) (resForm_ite (skFault_form h _) ?_))
  split
  · exact skFault_form h _
  · next k _ =>
    have hf : ((s.skFormat k).skWrote (.thread e.ref e.core) k).MemForm := State.MemForm.of_mems (h.skFormat k) (State.skWrote_mems ..)
    have hb (s : State) (h : s.MemForm) : (s.setBind e.pl.ctxNum x.c.toNat (some k)).MemForm := h.of_mems (State.setBind_mems ..)
    refine resForm_ite (skFault_form h _) (resForm_ite h (resForm_ite ?_ ?_))
    · exact resForm_ite (hb _ hf) (resForm_ite (hb _ h) h)
    · split
      · exact h.poisonKill _ _ _
      · exact resForm_ite (hb _ hf) (resForm_ite (hb _ h) h)

theorem skfreeBody_form (x : Ops) : BodyForm (skfreeBody x) := by
  intro e s h
  refine resForm_ite h ?_
  split
  · exact skFault_form h _
  · exact skWorkOp_form h _ _ _ _ _

theorem skinsBody_form (del : Bool) (x : Ops) : BodyForm (skinsBody del x) := by
  intro e s h
  unfold skinsBody
  dsimp only
  split
  · exact skFault_form h _
  · exact resForm_ite (skFault_form h _) (skOp_form h _ _ _ _ _)

theorem skqryBody_form (x : Ops) : BodyForm (skqryBody x) := by
  intro e s h
  unfold skqryBody
  dsimp only
  split
  · exact skFault_form h _
  · exact skOp_form h _ _ _ _ _

theorem skstatBody_form (x : Ops) : BodyForm (skstatBody x) := by
  intro e s h
  unfold skstatBody
  dsimp only
  split
  · exact skFault_form h _
  · exact skOp_form h _ _ _ _ _

theorem skmergeBody_form (x : Ops) : BodyForm (skmergeBody x) := by
  intro e s h
  refine resForm_ite h ?_
  split
  · exact resForm_ite h (judging_form h _ _ _ (judging_form h _ _ _ (resForm_ite h (skWorkOp_form h _ _ _ _ _))))
  · exact skFault_form h _

theorem skfoldBody_form (x : Ops) : BodyForm (skfoldBody x) := by
  intro e s h
  refine resForm_ite h ?_
  split
  · exact skFault_form h _
  · exact judging_form h _ _ _ (resForm_ite (skFault_form h _) (skWorkOp_form h _ _ _ _ _))

theorem skclrBody_form (x : Ops) : BodyForm (skclrBody x) := by
  intro e s h
  refine resForm_ite h ?_
  split
  · exact skFault_form h _
  · exact skWorkOp_form h _ _ _ _ _

/-! ### The effects of matrix instructions -/

theorem tshapeBody_form {f : Nat → Env → State → Res} (hf : ∀ mc, BodyForm (f mc)) (x : Ops) : BodyForm (tshapeBody f x) :=
  fun _ _ h => withMc_form h _ fun _ => resForm_ite h (hf _ _ _ h)

theorem trdBody_form (x : Ops) : BodyForm (trdBody x) := fun _ _ h => withMc_form h _ fun _ => h

theorem mctxRelBody_form (x : Ops) : BodyForm (mctxRelBody x) := by
  intro e s h
  unfold mctxRelBody
  split
  · exact h
  · exact resForm_ite h (h.of_mems (by simp))

theorem mmaBody_form (z : Bool) (x : Ops) : BodyForm (mmaBody z x) := by
  refine fun e s h => withMc_form h _ fun mc => ?_
  dsimp only
  split
  · exact tileFault_form h _
  · exact resForm_ite h (enqueue_form (h.of_mems (State.nextSeq_mems ..)) _ _ _)

theorem acczBody_form (x : Ops) : BodyForm (acczBody x) :=
  fun _ _ h => withMc_form h _ fun _ => resForm_ite (tileFault_form h _) (enqueue_form h _ _ _)

theorem accrdBody_form (f : AccFmt) (x : Ops) : BodyForm (accrdBody f x) :=
  fun _ _ h => withMc_form h _ fun _ => accChecks_form h _ _ _ fun _ _ _ _ =>
    resForm_ite h (startOp_form h _ _ _ (fun _ _ h => h.of_mems (State.updMc_mems ..)) _)

theorem accwrBody_form (f : AccFmt) (x : Ops) : BodyForm (accwrBody f x) :=
  fun _ _ h => withMc_form h _ fun _ => accChecks_form h _ _ _ fun _ _ _ _ => readingNow_form h _ _ (enqueue_form h _ _ _)

theorem tldBody_form (sp : Space) (x : Ops) : BodyForm (tldBody sp x) :=
  fun _ _ h => tileCopy_form h _ _ _ fun _ _ _ => startOp_form h _ _ _ (fun _ _ h => h) _

theorem tstBody_form (sp : Space) (x : Ops) : BodyForm (tstBody sp x) :=
  fun _ _ h => tileCopy_form h _ _ _ fun _ _ _ => startOp_form h _ _ _ (fun _ _ h => h) _

theorem electBody_form (core : Bool) (x : Ops) : BodyForm (electBody core x) := fun _ _ h => h

theorem msyncBody_form (x : Ops) : BodyForm (msyncBody x) := fun _ _ h => withMc_form h _ fun _ => startOp_form h _ _ _ (fun _ _ h => h) _

/-! ### The effects of copies and collectives -/

theorem cpyBody_form (k : CpyKind) (dsp ssp : Space) (x : Ops) : BodyForm (cpyBody k dsp ssp x) := by
  intro e s h
  unfold cpyBody
  dsimp only
  cases k with
  | lin =>
    exact checkAligned_form h _ _ (checkLength_form h _ _ (checkRange_form h _ _ _ _ (checkRange_form h _ _ _ _ (startCopy_form h _ _ _ _ _ _))))
  | fill => exact checkAligned_form h _ _ (checkLength_form h _ _ (checkRange_form h _ _ _ _ (startCopy_form h _ _ _ _ _ _)))
  | gth =>
    exact readShape_form h _ _ _ fun _ _ h =>
      checkAligned_form h _ _ (orFault_form h _ (orFault_form h _ (startCopy_form h _ _ _ _ _ _)))
  | sct =>
    exact readShape_form h _ _ _ fun _ _ h =>
      checkAligned_form h _ _ (orFault_form h _ (orFault_form h _ (startCopy_form h _ _ _ _ _ _)))

theorem cpywBody_form (ssp : Space) (x : Ops) : BodyForm (cpywBody ssp x) := by
  refine fun e s h => readShape_form h _ _ _ fun d s h => withMc_form h _ fun mc => ?_
  refine resForm_ite (tileFault_form h _) (resForm_ite (tileFault_form h _) ?_)
  split
  · exact tileFault_form h _
  · exact orFault_form h _ (startCopy_form h _ _ _ _ _ _)

theorem cpylBody_form (fill : Bool) (x : Ops) : BodyForm (cpylBody fill x) := by
  refine fun e s h => resForm_ite ?_ ?_
  · exact checkAligned_form h _ _ (checkLength_form h _ _ (checkRange_form h _ _ _ _ (startCopy_form h _ _ _ _ _ _)))
  · exact checkAligned_form h _ _ (checkLength_form h _ _ (checkRange_form h _ _ _ _ (checkRange_form h _ _ _ _ (startCopy_form h _ _ _ _ _ _))))

theorem startColl_form {s : State} (h : s.MemForm) (x : Ops) (r : CollRec) (mk : Nat → EngKind) (owns : List Range) (e : Env) :
    ResForm (startColl x r mk owns e s) := by
  unfold startColl
  dsimp only
  refine checkCw_form h _ _ (startOp_form h _ _ _ (fun id s h => ?_) _)
  split
  · exact h.of_mems (by simp)
  · exact h.of_mems (State.setDie_mems ..)

theorem collBody_form (sk : Bool) (x : Ops) : BodyForm (collBody sk x) := by
  intro e s h
  unfold collBody
  refine readRecord_form h _ _ _ fun d s h => ?_
  dsimp only
  refine resForm_ite h (resForm_ite ?_ ?_)
  · refine checkSlot_form h _ _ _ ?_
    split
    · exact skFault_form h _
    · exact resForm_ite h (startColl_form h _ _ _ _ _)
  · exact checkAligned_form h _ _ (checkRange_form h _ _ _ _ (checkRange_form h _ _ _ _ (checkSlot_form h _ _ _ (startColl_form h _ _ _ _ _))))

theorem statusBody_form (waits : Bool) (x : Ops) : BodyForm (statusBody waits x) := by
  intro e s h
  unfold statusBody
  dsimp only
  repeat' split
  all_goals exact h

theorem State.cancel_mems (s : State) (core : Nat) (o : EngOp) : (s.cancel core o).1.mems = s.mems := by
  unfold State.cancel
  dsimp only
  repeat' split
  all_goals simp

theorem hcancelBody_form (x : Ops) : BodyForm (hcancelBody x) := by
  intro e s h
  unfold hcancelBody
  dsimp only
  repeat' split
  exacts [h, h, h.of_mems (State.cancel_mems ..), h]

theorem cslotBody_form (x : Ops) : BodyForm (cslotBody x) := by
  intro e s h
  unfold cslotBody
  dsimp only
  repeat' split
  exacts [h, h, h.of_mems (State.setDie_mems ..)]

theorem cslotFreeBody_form (x : Ops) : BodyForm (cslotFreeBody x) := by
  intro e s h
  unfold cslotFreeBody
  dsimp only
  repeat' split
  exacts [h, h, h, h.of_mems (State.setDie_mems ..)]

/-! ### The effects of system instructions -/

theorem srdBody_form (x : Ops) : BodyForm (srdBody x) := fun _ _ h => resForm_ite h h

theorem swrBody_form (x : Ops) : BodyForm (swrBody x) :=
  fun _ _ h => resForm_ite (resForm_ite h (resForm_ite (h.updThread _ _) h)) (resForm_ite h (h.updThread _ _))

theorem featBody_form (x : Ops) : BodyForm (featBody x) := fun _ _ h => h

theorem eretBody_form : BodyForm eretBody := fun _ _ h => resForm_ite (h.updThread _ _) h

theorem tlbiBody_form (all : Bool) (sc : Scope) (x : Ops) : BodyForm (tlbiBody all sc x) := by
  intro e s h
  unfold tlbiBody
  split
  · exact h
  all_goals exact awaiting_form h _ (resForm_ite (h.of_mems (by simp)) (h.of_mems (by simp)))

theorem evrdBody_form (x : Ops) : BodyForm (evrdBody x) := fun _ _ h => resForm_ite h h

theorem evcfgBody_form (x : Ops) : BodyForm (evcfgBody x) := fun _ _ h => resForm_ite h (resForm_ite h (h.of_mems (State.setCore_mems ..)))

/-! ### The effects of interval and division instructions -/

theorem ivBody1_form (ex w : Bool) (f : FFmt → Iv → List (Reg × Word) × Bool) (x : Ops) : BodyForm (ivBody1 ex w f x) := by
  intro e s h
  unfold ivBody1
  split
  · exact malformed_form h
  · exact withEmpty_form h _ _ _ fun _ h => h

theorem ivBody2_form (ex w : Bool) (f : FFmt → Iv → Iv → List (Reg × Word) × Bool) (x : Ops) : BodyForm (ivBody2 ex w f x) := by
  intro e s h
  unfold ivBody2
  split
  · exact withEmpty_form h _ _ _ fun _ h => h
  · exact malformed_form h

theorem ivmkBody_form (k : IvmkKind) (ex w : Bool) (x : Ops) : BodyForm (ivmkBody k ex w x) := by
  intro e s h
  unfold ivmkBody
  extract_lets f bVal make v
  have hm (iv : Option Iv) : ResForm (make iv) := by
    cases iv with
    | none => exact malformed_form h
    | some v => exact withEmpty_form h _ _ _ fun _ h => h
  cases k with
  | bounds => exact hm _
  | pt => exact hm _
  | cvt => exact hm _

theorem ivsplitBody_form (i : Instr) (ex w : Bool) (x : Ops) : BodyForm (ivsplitBody i ex w x) := by
  refine fun e s h => resForm_ite h ?_
  split
  · exact malformed_form h
  · exact emptyRule_form h _ _ fun _ h => h
  · exact resForm_ite h (childOf_form h _ _ _ _ _ fun _ => releasing_form h _ (spawnedRes_form h _ _ _))

theorem divBody_form (x : Ops) (f : Thread → Nat × Conds) : BodyForm (divBody x f) :=
  fun _ _ h => resForm_ite h (h.of_mems (by simp))

/-! ### The effects of control, queue and barrier instructions -/

theorem brtBody_form (x : Ops) : BodyForm (brtBody x) := by
  intro e s h
  unfold brtBody
  split
  exacts [jumpTo_form h _ _, jumpTo_form h _ _, h]

theorem exitBody_form : BodyForm exitBody := fun _ _ h => resForm_ite (h.of_mems (State.dropRequest_mems ..)) (h.endThread _)

theorem spawnBody_form (x : Ops) : BodyForm (spawnBody x) :=
  fun _ _ h => resForm_ite h (resForm_ite h (childOf_form h _ _ _ _ _ fun _ => releasing_form h _ (spawnedRes_form h _ _ _)))

theorem yieldBody_form : BodyForm yieldBody := fun _ _ h => h.updThread _ _

theorem qpushBody_form (nb w : Bool) (x : Ops) : BodyForm (qpushBody nb w x) := by
  intro e s h
  refine resForm_ite (h.of_mems (State.released_mems ..)) ?_
  split
  · exact queueFault_form h _
  · refine resForm_ite (queueFault_form h _) (resForm_ite (queueFault_form h _) (resForm_ite ?_ ?_))
    · dsimp only
      split
      · exact h
      · exact readingNow_form h _ _ (releasing_form h _ (pushItem_form h _ _ _ _ _ _ _ _))
    · exact releasing_form h _ (pushItem_form h _ _ _ _ _ _ _ _)

theorem qpopBody_form (grp nb : Bool) (x : Ops) : BodyForm (qpopBody grp nb x) := by
  intro e s h
  unfold qpopBody
  dsimp only
  split
  · exact queueFault_form h _
  · refine resForm_ite (queueFault_form h _) (resForm_ite (queueFault_form h _) ?_)
    split
    · exact h
    · exact resForm_ite h (resForm_ite h (readingNow_form (s := State.setQueue ..) h _ _ (h.of_mems (by simp))))

theorem qcntBody_form (rst : Bool) (x : Ops) : BodyForm (qcntBody rst x) := by
  intro e s h
  unfold qcntBody
  dsimp only
  split
  · exact queueFault_form h _
  · refine resForm_ite (queueFault_form h _) (resForm_ite (queueFault_form h _) ?_)
    have hs := h.serveAll e.pl.ctxNum x.c.toNat
    show State.MemForm (if _ then _ else _)
    split
    · exact hs.of_mems (State.setQueue_mems ..)
    · exact hs

theorem qcloseBody_form (x : Ops) : BodyForm (qcloseBody x) := by
  intro e s h
  unfold qcloseBody
  dsimp only
  split
  · exact queueFault_form h _
  · exact resForm_ite (queueFault_form h _) (h.closeQueue _ _)

theorem qstatBody_form (x : Ops) : BodyForm (qstatBody x) := by
  intro e s h
  unfold qstatBody
  dsimp only
  split
  · exact queueFault_form h _
  · exact h.serveAll _ _

theorem baraBody_form (x : Ops) : BodyForm (baraBody x) := fun _ _ h => resForm_ite h (releasing_form h _ (h.arriveAt _ _))

theorem barwBody_form (x : Ops) : BodyForm (barwBody x) := fun _ _ h => resForm_ite h h

theorem barBody_form (x : Ops) : BodyForm (barBody x) := by
  intro e s h
  have ha := h.arriveAt e x.c.toNat
  unfold barBody
  dsimp only
  split
  · exact resForm_ite (resForm_ite h h) h
  all_goals exact resForm_ite h (releasing_form h _ (resForm_ite ha ha))

theorem rvxBody_form (x : Ops) : BodyForm (rvxBody x) := fun _ _ h => requestBody_form _ _ _ h

theorem rvredBody_form (op : RvOp) (x : Ops) : BodyForm (rvredBody op x) := fun _ _ h => requestBody_form _ _ _ h

theorem waitaBody_form (sc : Scope) (sp : Space) (ne : Bool) (x : Ops) : BodyForm (waitaBody sc sp ne x) := by
  intro e s h
  unfold waitaBody
  extract_lets a
  have hr : (s.resolve e sp a 4 4 .read).2.MemForm := h.of_mems (by simp)
  split
  · next er => rw [er] at hr; exact hr
  · next er => rw [er] at hr; exact hr.of_mems (State.threadFault_mems ..)
  · next er => rw [er] at hr; exact hr
  · next er =>
    rw [er] at hr
    have hk := hr.of_mems (State.keepPage_mems _ e)
    exact resForm_ite (hk.linkKill _ _ _) (resForm_ite hk (resForm_ite hk (resForm_ite (hk.poisonKill _ _ _) (resForm_ite (hk.raceAccess _) hk))))

end Sys2Proof.Machine
end


/-! The canonical form of memories: the steps of the other agents -/
section
namespace Sys2Proof.Machine

theorem outForm_ite {c : Prop} [Decidable c] {o p : Host.Outcome State Fault Refusal} (ho : OutForm o) (hp : OutForm p) :
    OutForm (if c then o else p) := by
  split
  · exact ho
  · exact hp

/-- A step that is made only under a condition. -/
theorem outForm_when {c : Prop} [Decidable c] {s : State} (h : s.MemForm) : OutForm (if c then .next s else .fault .notEnabled) :=
  outForm_ite (outForm_next h) (outForm_fault _)

/-- A step that is not made under a condition. -/
theorem outForm_unless {c : Prop} [Decidable c] {o : Host.Outcome State Fault Refusal} (h : OutForm o) :
    OutForm (if c then .fault .notEnabled else o) :=
  outForm_ite (outForm_fault _) h

/-- An instruction of a thread, by its own effect. -/
theorem outForm_runInstr {i : Instr} {body : Ops → Env → State → Res} (hb : ∀ x, BodyForm (body x)) {s : State} (h : s.MemForm) :
    OutForm (runInstr i body s) := fun _ e => runInstr_form hb h e

/-! ### Threads and the events of cores -/

theorem execPadWord_form {s : State} (h : s.MemForm) : OutForm (execPadWord s) := outForm_withEnv fun _ => h.updThread _ _

theorem execNonInstruction_form {s : State} (h : s.MemForm) : OutForm (execNonInstruction s) := outForm_withEnv fun _ => preciseTrap_form h _ _ _ _

theorem execExtensionSlot_form {s : State} (h : s.MemForm) (n : BitVec 4) : OutForm (execExtensionSlot n s) :=
  outForm_withEnv fun _ => preciseTrap_form h _ _ _ _

theorem execHeldTrap_form {s : State} (h : s.MemForm) (r : ThreadRef) : OutForm (execHeldTrap r s) := by
  unfold execHeldTrap
  split
  · exact outForm_fault _
  split
  · exact outForm_fault _
  exact outForm_unless (outForm_ite (outForm_next (h.of_mems (State.wait_mems ..))) (outForm_next ((h.updThread _ _).takeTrap _ _)))

theorem execPickerOverride_form {s : State} (h : s.MemForm) (core bench cls : Nat) : OutForm (execPickerOverride core bench cls s) := by
  unfold execPickerOverride
  dsimp only
  split
  · exact outForm_when (h.of_mems (State.setCore_mems ..))
  · exact outForm_fault _

theorem execYieldExpiry_form {s : State} (h : s.MemForm) (r : ThreadRef) : OutForm (execYieldExpiry r s) := by
  unfold execYieldExpiry
  split
  · exact outForm_when (h.updThread _ _)
  · exact outForm_fault _

theorem execEventWindowRestart_form {s : State} (h : s.MemForm) (core cls : Nat) : OutForm (execEventWindowRestart core cls s) :=
  outForm_when (h.of_mems (State.setCore_mems ..))

theorem execProducerCompletion_form {s : State} (h : s.MemForm) (r : ThreadRef) (op : Nat) : OutForm (execProducerCompletion r op s) := by
  unfold execProducerCompletion
  split
  · exact outForm_fault _
  · refine outForm_unless (outForm_next ?_)
    split
    · exact h.of_mems (by simp)
    · exact h.of_mems (by simp)

theorem execWaitEnd_form {s : State} (h : s.MemForm) (r : ThreadRef) : OutForm (execWaitEnd r s) := by
  unfold execWaitEnd
  split
  · exact outForm_fault _
  · exact outForm_when (h.updThread _ _)

/-! ### Homes and sketch units -/

theorem execHomeRequest_form {s : State} (h : s.MemForm) (r : ThreadRef) (id : Nat) : OutForm (execHomeRequest r id s) := by
  unfold execHomeRequest
  split
  · exact outForm_fault _
  next t o a _ =>
  have hd : OutForm (.next (s.deadAccess r o a)) := outForm_next (h.deadAccess _ _ _)
  have hc (use : HomeUse) (write : Bool) : (((s.coherent o.grain o.cp o.core a.at_ use o.hint).raceOp r o a write).sendTag a).MemForm :=
    (State.MemForm.raceOp (h.of_mems (State.coherent_mems ..)) _ _ _ _).of_mems (State.sendTag_mems ..)
  have hr : (((s.coherent o.grain o.cp o.core a.at_ .read o.hint).raceOp r o a false).sendTag a).MemForm := hc .read false
  refine outForm_unless ?_
  split
  case h_3 =>
    have hw := (hc .write true).writeData (.thread r o.core) false a.at_ a.size a.data
    exact outForm_ite hd (outForm_next (hw.of_mems (by simp)))
  case h_1 | h_2 =>
    exact outForm_ite hd (outForm_ite (outForm_next (State.MemForm.poisonKill (hr.of_mems (State.performed_mems ..)) _ _ _))
      (outForm_ite (outForm_next (hr.of_mems (State.performed_mems ..))) (outForm_next (hr.of_mems (State.tookEarly_mems ..)))))
  all_goals exact outForm_fault _

theorem execHomeAtomic_form {s : State} (h : s.MemForm) (r : ThreadRef) (id : Nat) : OutForm (execHomeAtomic r id s) := by
  unfold execHomeAtomic
  split
  · exact outForm_fault _
  refine outForm_unless (outForm_ite (outForm_next (h.deadAccess _ _ _)) ?_)
  extract_lets m w raced written
  have hr : raced.MemForm := (State.MemForm.raceOp (h.of_mems (State.coherent_mems ..)) _ _ _ _).of_mems (State.sendTag_mems ..)
  have hw : written.MemForm := by
    unfold written
    split
    · exact hr.writeData _ _ _ _ _
    · exact hr
  refine outForm_ite (outForm_next (State.MemForm.poisonKill (hr.of_mems (State.performed_mems ..)) _ _ _)) (outForm_next (hw.of_mems (by simp)))

theorem execSketchOperation_form {s : State} (h : s.MemForm) (r : ThreadRef) (id : Nat) : OutForm (execSketchOperation r id s) := by
  unfold execSketchOperation
  split
  · exact outForm_fault _
  split
  · exact outForm_fault _
  refine outForm_unless ?_
  split
  · exact outForm_next (h.skPoisoned _ _ _)
  next t o a _ _ slot k _ _ _ =>
  extract_lets seen answer
  have hs (i : State × Bool) (hi : i.1.MemForm) : OutForm (.next (seen i)) := by
    refine outForm_next ?_
    unfold seen
    dsimp only
    split
    · exact hi.of_mems (by simp)
    · exact hi.of_mems (by simp)
  have ha (v : Nat) : OutForm (.next (answer v)) := by
    refine outForm_next ?_
    unfold answer
    split
    · exact h.of_mems (by simp)
    · exact h.of_mems (by simp)
  clear_value seen answer
  split
  · exact ha _
  · exact ha _
  · exact hs _ (State.MemForm.skInsert (h.of_mems (State.noteAhead_mems ..)) _ _ _)
  · exact hs _ (h.skFold _)
  · exact hs _ (h.skClear _)
  · exact outForm_unless (outForm_next (h.of_mems (State.freed_mems ..)))
  · split
    · refine outForm_ite (outForm_next (h.of_mems (State.performed_mems ..))) (outForm_ite ?_ (outForm_fault _))
      split
      · exact hs _ (h.skMerge _ _)
      · exact outForm_fault _
    · exact outForm_fault _
  all_goals exact outForm_fault _

/-! ### Engines and matrix units -/

theorem execWeltEnqueue_form {s : State} (h : s.MemForm) (core op : Nat) : OutForm (execWeltEnqueue core op s) := by
  unfold execWeltEnqueue
  split
  · exact outForm_fault _
  · exact outForm_unless (outForm_ite (outForm_next (h.of_mems (State.completeHandle_mems ..)))
      (outForm_unless (outForm_next (h.of_mems (State.enterWelt_mems ..)))))

theorem execMatrixCommandExecute_form {s : State} (h : s.MemForm) (core mc : Nat) (agree : Bool) :
    OutForm (execMatrixCommandExecute core mc agree s) := by
  unfold execMatrixCommandExecute
  refine outForm_unless ?_
  split
  · exact outForm_fault _
  · have hp : (s.popCommand core mc).MemForm := h.of_mems (State.popCommand_mems ..)
    exact outForm_unless (outForm_ite (outForm_next (hp.of_mems (State.discard_mems ..))) (outForm_next (hp.runCommand _ _ _ _)))

theorem execGroupAssembly_form {s : State} (h : s.MemForm) (die slot : Nat) (peers : List PeerRank) (order : Nat) :
    OutForm (execGroupAssembly die slot peers order s) := by
  unfold execGroupAssembly
  split
  · exact outForm_fault _
  split
  · exact outForm_fault _
  · exact outForm_unless (outForm_next (h.of_mems (State.foldl_mems (fun _ _ => State.updOp_mems ..) _ _)))

theorem execCollAbort_form {s : State} (h : s.MemForm) (group : List Nat) (num : Nat) (received : List Nat) :
    OutForm (execCollAbort group num received s) :=
  outForm_unless (outForm_next (h.of_mems (State.abortGroup_mems ..)))

theorem execEngineCompletion_form {s : State} (h : s.MemForm) (core op : Nat) : OutForm (execEngineCompletion core op s) :=
  outForm_orNotEnabled (optForm_bind (optForm_completeOp h core))

/-! ### The arbiter and the parking hardware -/

theorem execArbiterPass_form {s : State} (h : s.MemForm) (part choice : Nat) : OutForm (execArbiterPass part choice s) := by
  unfold execArbiterPass
  split
  · exact outForm_fault _
  · refine outForm_next (State.MemForm.preempt (State.MemForm.passFrom (State.MemForm.foldl (fun _ _ h => h.closeQueues _) _ ?_) _ _ _) _)
    exact h.of_mems (State.passMade_mems ..)

theorem execTeamPark_form {s : State} (h : s.MemForm) (n : Nat) : OutForm (execTeamPark n s) := by
  unfold execTeamPark
  split
  · exact outForm_fault _
  split
  · exact outForm_when (h.parkOr _ _ _ _ _)
  · exact outForm_fault _

theorem execPreemption_form {s : State} (h : s.MemForm) (n : Nat) : OutForm (execPreemption n s) := by
  unfold execPreemption
  split
  · exact outForm_fault _
  split
  · exact outForm_ite (outForm_next (h.takeKept _)) (outForm_when (h.parkOr _ _ _ _ _))
  · exact outForm_fault _

theorem execRackFire_form {s : State} (h : s.MemForm) (n cond : Nat) : OutForm (execRackFire n cond s) := by
  unfold execRackFire
  split
  · exact outForm_fault _
  split
  · split
    · exact outForm_fault _
    · exact outForm_when (h.of_mems (State.fireRack_mems ..))
  · exact outForm_fault _

theorem execTeamRestore_form {s : State} (h : s.MemForm) (n : Nat) : OutForm (execTeamRestore n s) := by
  unfold execTeamRestore
  split
  · exact outForm_fault _
  split
  · refine outForm_unless ?_
    split
    · exact outForm_next (h.killAs _ _ _ _)
    · exact outForm_next ((h.takeSaved _ _ _ _).takeKept _)
  · exact outForm_fault _

theorem execSpawnRingStart_form {s : State} (h : s.MemForm) (n : Nat) :
    OutForm (execSpawnRingStart n s) := outForm_orNotEnabled (optForm_ringStart h _)

theorem execDisplacement_form {s : State} (h : s.MemForm) (n tc : Nat) : OutForm (execDisplacement n tc s) :=
  outForm_orNotEnabled (optForm_displace h _ _)

theorem execTeamExit_form {s : State} (h : s.MemForm) (n : Nat) : OutForm (execTeamExit n s) := by
  unfold execTeamExit
  split
  · exact outForm_fault _
  split
  · exact outForm_fault _
  next tm _ _ p _ =>
  have hf : ((s.endLeases p.ctxNum n).freeTeam n tm).MemForm := State.MemForm.freeTeam (h.of_mems (State.endLeases_mems ..)) _ _
  refine outForm_unless (outForm_next (State.MemForm.of_mems (State.MemForm.closeQueues ?_ _) (State.askPass_mems ..)))
  split
  · exact hf.of_mems (State.updStage_mems ..)
  · exact hf

theorem execBarrierWatchdog_form {s : State} (h : s.MemForm) (n : Nat) (w : WatchItem) : OutForm (execBarrierWatchdog n w s) := by
  unfold execBarrierWatchdog
  split
  · exact outForm_fault _
  split
  · split
    · exact outForm_fault _
    · refine outForm_unless (outForm_ite (outForm_next ?_) (outForm_next ?_))
      · exact State.MemForm.foldl (fun _ _ h => h.timeoutKill _ _ _ _) _ (h.updTeam _ _)
      · have ht (parked : Bool) (l : List Nat) :
            (l.foldl (fun s tid => s.timeout parked { team := n, tid := tid } w) (s.updTeam n fun tm => tm.markFired w)).MemForm :=
          State.MemForm.foldl (fun _ _ h => h.timeout _ _ _) _ (h.updTeam _ _)
        split
        · exact (ht _ _).of_mems (State.fireRack_mems ..)
        · exact ht _ _
  · exact outForm_fault _

theorem execQueueServe_form {s : State} (h : s.MemForm) (ctx q : Nat) : OutForm (execQueueServe ctx q s) := by
  unfold execQueueServe
  split
  exacts [outForm_next (h.servePop _ _ _ _ _), outForm_fault _, outForm_fault _]

theorem execQpushAccept_form {s : State} (h : s.MemForm) (ctx q : Nat) : OutForm (execQpushAccept ctx q s) := by
  unfold execQpushAccept
  split
  exacts [outForm_next (h.of_mems (State.acceptPush_mems ..)), outForm_fault _, outForm_fault _]

/-! ### Memory, errors and records -/

theorem execHbmReply_form {s : State} (h : s.MemForm) (stack tag : Nat) : OutForm (execHbmReply stack tag s) :=
  outForm_when (h.of_mems (State.setStack_mems ..))

theorem execScrubPass_form {s : State} (h : s.MemForm) (stack : Nat) : OutForm (execScrubPass stack s) :=
  outForm_when (h.of_mems (State.setStack_mems ..))

theorem execScrubEscalation_form {s : State} (h : s.MemForm) (stack : Nat) : OutForm (execScrubEscalation stack s) :=
  outForm_when (h.of_mems (State.setStack_mems ..))

theorem execFrameMigration_form {s : State} (h : s.MemForm) (stack src dst : Nat) : OutForm (execFrameMigration stack src dst s) :=
  outForm_when (h.of_mems (State.setStack_mems ..))

theorem execWsRefresh_form {s : State} (h : s.MemForm) (die : Nat) : OutForm (execWsRefresh die s) := outForm_when (h.of_mems (State.setDie_mems ..))

theorem execSplitChange_form {s : State} (h : s.MemForm) (core split : Nat) : OutForm (execSplitChange core split s) :=
  outForm_when (h.of_mems (State.changeSplit_mems ..))

theorem execFaultRecord_form {s : State} (h : s.MemForm) (ctx : Nat) : OutForm (execFaultRecord ctx s) :=
  outForm_orNotEnabled (optForm_writeFault h ctx)

theorem execFaultRingEntryCleared_form {s : State} (h : s.MemForm) (ctx entry : Nat) : OutForm (execFaultRingEntryCleared ctx entry s) := by
  have hw (t : Target) : (s.writeBytes .host t [0]).MemForm := h.writeBytes _ _ _
  exact outForm_when (optForm_getD (optForm_writeFault (hw _) _) (hw _))

theorem execCorrectedError_form {s : State} (h : s.MemForm) (e : ErrSite) : OutForm (execCorrectedError e s) := by
  unfold execCorrectedError
  split
  · exact outForm_next (h.correct _)
  · exact outForm_fault _

theorem execUncorrectableError_form {s : State} (h : s.MemForm) (e : ErrSite) : OutForm (execUncorrectableError e s) := by
  have hp (r : Range) : (s.poisonUnit r).MemForm := h.of_mems (State.poisonUnit_mems ..)
  unfold execUncorrectableError
  split
  · exact outForm_fault _
  cases e with
  | regFile r => exact outForm_next (h.contain _ _ _ _)
  | scratchpad n _ => exact outForm_next (h.contain _ _ _ _)
  | matrixStore n _ acc => exact outForm_next (h.contain _ _ _ _)
  | cleanLine c => exact outForm_next (State.MemForm.correct (h.of_mems (State.refetch_mems ..)) _)
  | memWord u pa => exact outForm_next ((hp _).logPart _ _ _ _ _)
  | hostLine u pa => exact outForm_next ((hp _).logPart _ _ _ _ _)
  | wsWord d off => exact outForm_next ((hp _).logPart _ _ _ _ _)
  | collStaging d k =>
    dsimp only
    split
    · exact outForm_fault _
    · exact outForm_next (State.MemForm.logStaging (h.of_mems (State.engineFail_mems ..)) _ _ _)
  | saveArea n => exact outForm_next (h.contain _ _ _ _)

/-! ### Registers of virtual functions, and packets -/

theorem execFresume_form {s : State} (h : s.MemForm) (vf ctx seq : Nat) : OutForm (execFresume vf ctx seq s) := by
  unfold execFresume
  split
  · exact outForm_fault _
  · exact outForm_next (h.of_mems (State.setContext_mems ..))

theorem execFresumeDeny_form {s : State} (h : s.MemForm) (vf ctx seq : Nat) : OutForm (execFresumeDeny vf ctx seq s) := by
  unfold execFresumeDeny
  split
  · exact outForm_fault _
  dsimp only
  split
  · exact outForm_next h
  · exact outForm_next (State.MemForm.foldl (fun _ _ h => h.denyOne _ _) _ (h.of_mems (State.setContext_mems ..)))

theorem execTlbinvVa_form {s : State} (h : s.MemForm) (vf ctx : Nat) (va : DWord) : OutForm (execTlbinvVa vf ctx va s) := by
  unfold execTlbinvVa
  split
  · exact outForm_fault _
  · exact outForm_ite (outForm_next h) (outForm_when (h.of_mems (State.invalidate_mems ..)))

theorem execTlbinvAll_form {s : State} (h : s.MemForm) (vf ctx : Nat) : OutForm (execTlbinvAll vf ctx s) := by
  unfold execTlbinvAll
  split
  · exact outForm_fault _
  · exact outForm_when (h.of_mems (State.invalidate_mems ..))

theorem execDoorbell_form {s : State} (h : s.MemForm) (vf queue : Nat) (v : DWord) : OutForm (execDoorbell vf queue v s) := by
  unfold execDoorbell
  split
  · exact outForm_fault _
  split
  · exact outForm_next h
  · exact outForm_ite (outForm_next h) (outForm_ite (outForm_next (h.stopQueue _ _ _)) (outForm_next (h.of_mems (State.updVf_mems ..))))

theorem execUnlistedRegisterWrite_form {s : State} (h : s.MemForm) (vf off : Nat) (v : DWord) : OutForm (execUnlistedRegisterWrite vf off v s) := by
  unfold execUnlistedRegisterWrite
  split
  · exact outForm_fault _
  · exact outForm_unless (outForm_next h)

theorem execReservedTypePacket_form {s : State} (h : s.MemForm) (vf queue : Nat) : OutForm (execReservedTypePacket vf queue s) :=
  outForm_orNotEnabled (optForm_serveQueue h _ _ _ fun _ _ _ h => (h.failPacket _ _).stopQueue _ _ _)

theorem execPacketCompletion_form {s : State} (h : s.MemForm) (vf queue index : Nat) : OutForm (execPacketCompletion vf queue index s) :=
  outForm_orNotEnabled (optForm_bind fun _ => optForm_completePacket h _)

/-! ### The host, links, peers and firmware -/

theorem execHostMemAccess_form {s : State} (h : s.MemForm) (write : Bool) (pa size data : Nat) :
    OutForm (execHostMemAccess write pa size data s) := by
  have hu (t : Target) : (s.hostUnits write t size).MemForm := h.of_mems (State.hostUnits_mems ..)
  have hl (part : Option Nat) (src : Nat) : (s.logPart part src 0 pa 0).MemForm := h.logPart _ _ _ _ _
  refine outForm_unless (outForm_ite (outForm_unless (outForm_next ?_)) (outForm_next ?_))
  · split
    · exact (hu _).writeData _ _ _ _ _
    · exact hu _
  · split
    · exact hl _ _
    · exact hl _ _

theorem execHostCxlCacheSnoop_form {s : State} (h : s.MemForm) (line : Nat) (invalidate : Bool) (data : List Byte) :
    OutForm (execHostCxlCacheSnoop line invalidate data s) := by
  have hr (r : List Range) (t : Target) : ((s.recall r).hostPermit t 0).MemForm := h.of_mems (by simp)
  refine outForm_unless (outForm_ite (outForm_next ?_) (outForm_next h))
  split
  · exact hr _ _
  · exact (hr _ _).writeBytes _ _ _

theorem execFlitReceive_form {s : State} (h : s.MemForm) (port : Nat) (good : Bool) (seq : Nat) : OutForm (execFlitReceive port good seq s) :=
  outForm_when (h.of_mems (State.setPort_mems ..))

theorem execLinkDown_form {s : State} (h : s.MemForm) (port : Nat) : OutForm (execLinkDown port s) := by
  refine outForm_unless (outForm_next ?_)
  refine State.MemForm.foldl (fun _ _ h => State.MemForm.linkKill (h.updThread _ _) _ _ _) _ ?_
  refine State.MemForm.foldl (fun _ _ h => h.of_mems (State.engineFail_mems ..)) _ ?_
  exact State.MemForm.foldl (fun _ _ h => h.logPart _ _ _ _ _) _ (h.of_mems (State.setPort_mems ..))

theorem execRemoteRequest_form {s : State} (h : s.MemForm) (peer part : Nat) (r : PeerReq) : OutForm (execRemoteRequest peer part r s) := by
  unfold execRemoteRequest
  split
  · exact outForm_next h
  split
  · exact outForm_next (h.serveRemote _ _)
  · exact outForm_ite (outForm_next h) (outForm_when (h.serveRemote _ _))

theorem execBoot_form {s : State} (h : s.MemForm) (img : FwImage) : OutForm (execBoot img s) := outForm_when (h.loadImage img)

theorem execFirmwareImage_form {s : State} (h : s.MemForm) (img : FwImage) : OutForm (execFirmwareImage img s) := outForm_next (h.loadImage img)

theorem execPartitionCreate_form {s : State} (h : s.MemForm) (p : PartSpec) : OutForm (execPartitionCreate p s) :=
  outForm_unless (outForm_next (State.MemForm.foldl (fun _ _ h => h.of_mems (State.updCore_mems ..)) _ (h.rekey _ _ _)))

theorem execPartitionDestroy_form {s : State} (h : s.MemForm) (part : Nat) : OutForm (execPartitionDestroy part s) := by
  unfold execPartitionDestroy
  split
  · exact outForm_fault _
  · exact outForm_unless (outForm_next (State.MemForm.foldl (fun _ _ h => h.of_mems (State.updCore_mems ..)) _ (h.rekey _ _ _)))

end Sys2Proof.Machine
end


/-! The canonical form of memories: O30, every step -/
section
namespace Sys2Proof.Machine

/-! ### Every step -/

theorem bodyForm_ite {c : Prop} [Decidable c] {b d : Env → State → Res} (hb : BodyForm b) (hd : BodyForm d) : BodyForm (if c then b else d) := by
  split
  · exact hb
  · exact hd

/-- An instruction that only computes. -/
theorem outForm_computes {i : Instr} (f : Ops → Thread → Eff) {s : State} (h : s.MemForm) : OutForm (runInstr i (fun x => pureBody (f x)) s) :=
  outForm_runInstr (fun _ => pureBody_form _) h

/-- Executing an instruction, or a step of another agent, keeps the canonical form of every memory. -/
theorem exec_form {s : State} (h : s.MemForm) (i : Instr) : OutForm (exec i s) := by
  cases i with
  | nop | mov | movw | iadd | isub | imul | imulh | imad | iadd64 | isub64 | imul64 | imad64w | imin | imax | iabs | ineg | and | or | xor
  | andn | shl | shr | sar | rot | popc | clz | brev | bfe | bfi | sel | icmp | lea | fadd | fsub | fmul | ffma | fmin | fmax | frcp | frsq
  | fexp2 | flog2 | fsinpi | fcospi | fcmp | fclass | cvtfi | cvtif | cvtff | frnd | fscalb | fexpn | hadd2 | hmul2 | hfma2 | pcvt | upcvt
  | fdot2 | pand | por | pnot | pxor | pres | doti8 | doti4 | dotn8 | dotn4 | pscl =>
    exact outForm_computes _ h
  | fdiv | fsqrt => exact outForm_runInstr (fun _ => bodyForm_ite (divBody_form _ _) (pureBody_form _)) h
  | ivmk => exact outForm_runInstr (ivmkBody_form _ _ _) h
  | ivadd | ivsub | ivmul | ivdiv | ivmeet | ivjoin | ivcmp => exact outForm_runInstr (fun _ => ivBody2_form _ _ _ _) h
  | ivsqr | ivsqrt | ivneg | ivabs | ivmid | ivwid => exact outForm_runInstr (fun _ => ivBody1_form _ _ _ _) h
  | ivsplit => exact outForm_runInstr (ivsplitBody_form _ _ _) h
  | ivtest =>
    refine outForm_runInstr (fun _ _ _ h => ?_) h
    split
    exacts [malformed_form h, h]
  | tshape => exact outForm_runInstr (fun _ => tshapeBody_form (fun _ _ _ h => setTile_form h _ _ _ _) _) h
  | tshapeFree =>
    refine outForm_runInstr (fun _ => tshapeBody_form (fun _ _ _ h => ?_) _) h
    exact h.of_mems (State.updMc_mems ..)
  | tshapeRs =>
    exact outForm_runInstr (fun _ => tshapeBody_form (fun _ _ _ h => resForm_ite (tileFault_form h _) (setTile_form h _ _ _ _)) _) h
  | trd => exact outForm_runInstr trdBody_form h
  | tld => exact outForm_runInstr (tldBody_form _) h
  | tst => exact outForm_runInstr (tstBody_form _) h
  | mma => exact outForm_runInstr (mmaBody_form _) h
  | accz => exact outForm_runInstr acczBody_form h
  | accrd => exact outForm_runInstr (accrdBody_form _) h
  | accwr => exact outForm_runInstr (accwrBody_form _) h
  | mctx | trap | bkpt | sys | hmov =>
    refine outForm_runInstr (fun _ _ _ h => ?_) h
    exact h
  | mctxRel => exact outForm_runInstr mctxRelBody_form h
  | elect => exact outForm_runInstr (electBody_form _) h
  | msync => exact outForm_runInstr msyncBody_form h
  | bra | brx | call | callx | ret => exact outForm_runInstr (fun _ _ _ h => jumpTo_form h _ _) h
  | brt => exact outForm_runInstr brtBody_form h
  | exit => exact outForm_runInstr (fun _ => exitBody_form) h
  | spawn => exact outForm_runInstr spawnBody_form h
  | yield => exact outForm_runInstr (fun _ => yieldBody_form) h
  | bar => exact outForm_runInstr barBody_form h
  | bara => exact outForm_runInstr baraBody_form h
  | barw => exact outForm_runInstr barwBody_form h
  | rvx => exact outForm_andThen (fun _ h => h.testCur) (outForm_runInstr rvxBody_form h)
  | rvred => exact outForm_andThen (fun _ h => h.testCur) (outForm_runInstr (rvredBody_form _) h)
  | waita => exact outForm_runInstr (waitaBody_form _ _ _) h
  | qpush => exact outForm_runInstr (qpushBody_form _ _) h
  | qpop => exact outForm_runInstr (qpopBody_form _ _) h
  | qcnt => exact outForm_runInstr (qcntBody_form _) h
  | qclose => exact outForm_runInstr qcloseBody_form h
  | qstat => exact outForm_runInstr qstatBody_form h
  | ld => exact outForm_runInstr (ldBody_form _ _ _) h
  | st => exact outForm_runInstr (stBody_form _ _) h
  | ldi => exact outForm_runInstr (ldiBody_form _ _) h
  | sti => exact outForm_runInstr (stiBody_form _ _) h
  | ldt => exact outForm_runInstr (ldtBody_form _ _ _) h
  | stt => exact outForm_runInstr (sttBody_form _ _) h
  | pref => exact outForm_runInstr prefBody_form h
  | fence => exact outForm_runInstr (fun _ => fenceBody_form _ _) h
  | cflush => exact outForm_runInstr (cflushBody_form _) h
  | cinv => exact outForm_runInstr (cinvBody_form _) h
  | atom | atomc | red | atomf | atom64 | atomc64 => exact outForm_runInstr (fun _ _ _ h => atomBody_form _ _ _ _ _ _ _ _ _ h) h
  | skbind => exact outForm_runInstr (skbindBody_form _) h
  | skfree => exact outForm_runInstr skfreeBody_form h
  | skins => exact outForm_runInstr (skinsBody_form _) h
  | skqry => exact outForm_runInstr skqryBody_form h
  | skmerge => exact outForm_runInstr skmergeBody_form h
  | skfold => exact outForm_runInstr skfoldBody_form h
  | skclr => exact outForm_runInstr skclrBody_form h
  | skstat => exact outForm_runInstr skstatBody_form h
  | cpy => exact outForm_runInstr (cpyBody_form _ _ _) h
  | cpyw => exact outForm_runInstr (cpywBody_form _) h
  | cpyl => exact outForm_runInstr (cpylBody_form _) h
  | coll => exact outForm_runInstr (collBody_form _) h
  | hwait | htest => exact outForm_runInstr (statusBody_form _) h
  | hcancel => exact outForm_runInstr hcancelBody_form h
  | cslot => exact outForm_runInstr cslotBody_form h
  | cslotFree => exact outForm_runInstr cslotFreeBody_form h
  | srd => exact outForm_runInstr srdBody_form h
  | swr => exact outForm_runInstr swrBody_form h
  | feat => exact outForm_runInstr featBody_form h
  | eret => exact outForm_runInstr (fun _ => eretBody_form) h
  | tlbi => exact outForm_runInstr (tlbiBody_form _ _) h
  | evrd => exact outForm_runInstr evrdBody_form h
  | evcfg => exact outForm_runInstr evcfgBody_form h
  | extensionSlot => exact execExtensionSlot_form h _
  | padWord => exact execPadWord_form h
  | nonInstruction => exact execNonInstruction_form h
  | heldTrap => exact execHeldTrap_form h _
  | producerCompletion => exact execProducerCompletion_form h _ _
  | waitEnd => exact execWaitEnd_form h _
  | pickerOverride => exact execPickerOverride_form h _ _ _
  | yieldExpiry => exact execYieldExpiry_form h _
  | eventWindowRestart => exact execEventWindowRestart_form h _ _
  | arbiterPass => exact execArbiterPass_form h _ _
  | preemption => exact execPreemption_form h _
  | teamPark => exact execTeamPark_form h _
  | rackFire => exact execRackFire_form h _ _
  | teamRestore => exact execTeamRestore_form h _
  | displacement => exact execDisplacement_form h _ _
  | spawnRingStart => exact execSpawnRingStart_form h _
  | teamExit => exact execTeamExit_form h _
  | barrierWatchdog => exact execBarrierWatchdog_form h _ _
  | queueServe => exact execQueueServe_form h _ _
  | qpushAccept => exact execQpushAccept_form h _ _
  | engineCompletion => exact execEngineCompletion_form h _ _
  | groupAssembly => exact execGroupAssembly_form h _ _ _ _
  | collAbort => exact execCollAbort_form h _ _ _
  | weltEnqueue => exact execWeltEnqueue_form h _ _
  | matrixCommandExecute => exact execMatrixCommandExecute_form h _ _ _
  | sketchOperation => exact execSketchOperation_form h _ _
  | homeAtomic => exact execHomeAtomic_form h _ _
  | homeRequest => exact execHomeRequest_form h _ _
  | hbmReply => exact execHbmReply_form h _ _
  | scrubPass => exact execScrubPass_form h _
  | scrubEscalation => exact execScrubEscalation_form h _
  | frameMigration => exact execFrameMigration_form h _ _ _
  | wsRefresh => exact execWsRefresh_form h _
  | splitChange => exact execSplitChange_form h _ _
  | faultRecord => exact execFaultRecord_form h _
  | uncorrectableError => exact execUncorrectableError_form h _
  | correctedError => exact execCorrectedError_form h _
  | ctxtab | ctxcnt | qtab | qcount => exact outForm_writeIdle h _ _ _
  | fresume => exact execFresume_form h _ _ _
  | fresumeDeny => exact execFresumeDeny_form h _ _ _
  | tlbinvVa => exact execTlbinvVa_form h _ _ _
  | tlbinvAll => exact execTlbinvAll_form h _ _
  | doorbell => exact execDoorbell_form h _ _ _
  | unlistedRegisterWrite vf off v => exact execUnlistedRegisterWrite_form h vf off v
  | launch | wait | wsload | fill | copy => exact outForm_serveType h _ _ _
  | reservedTypePacket => exact execReservedTypePacket_form h _ _
  | packetCompletion => exact execPacketCompletion_form h _ _ _
  | hostMemAccess => exact execHostMemAccess_form h _ _ _ _
  | flitReceive => exact execFlitReceive_form h _ _ _
  | linkDown => exact execLinkDown_form h _
  | remoteRequest => exact execRemoteRequest_form h _ _ _
  | boot => exact execBoot_form h _
  | firmwareImage => exact execFirmwareImage_form h _
  | partitionCreate => exact execPartitionCreate_form h _
  | partitionDestroy => exact execPartitionDestroy_form h _
  | faultRingEntryCleared => exact execFaultRingEntryCleared_form h _ _
  | hostCxlCacheSnoop => exact execHostCxlCacheSnoop_form h _ _ _

/-- The state that a fetch leaves, whether it has faulted or not, has canonical memories. -/
def FetchForm : Except State (List Byte × State) → Prop
  | .error s => s.MemForm
  | .ok x => x.2.MemForm

theorem fetch_form {s : State} (h : s.MemForm) (e : Env) : FetchForm (s.fetch e) := by
  have ht : (s.translate e.core e.pl.ctxNum none e.t.pc.toNat).2.MemForm := h.of_mems (State.translate_mems ..)
  unfold State.fetch
  dsimp only
  split
  · exact preciseTrap_form h _ _ _ _
  split
  · next er =>
    rw [er] at ht
    exact ht.of_mems (State.threadFault_mems ..)
  · next er =>
    rw [er] at ht
    repeat' split
    exacts [preciseTrap_form ht _ _ _ _, ht.linkKill _ _ _, preciseTrap_form ht _ _ _ _, ht.poisonKill _ _ _, ht.of_mems (State.cacheBlock_mems ..)]

/-- The state in which a thread issues, or after what its fetch has decided, has canonical memories. -/
def IssueForm : Issue → Prop
  | .run _ s | .over s => s.MemForm
  | .idle => True

theorem issueThread_form {s : State} (h : s.MemForm) (r : ThreadRef) : IssueForm (s.issueThread r) := by
  unfold State.issueThread
  dsimp only
  split
  · trivial
  next e _ =>
  have hf := fetch_form h e
  split
  · trivial
  split
  · show State.MemForm (if _ then _ else _)
    split
    · exact h.of_mems (State.wait_mems ..)
    · exact optForm_getD (optForm_map fun _ => h.takeLate _ _) h
  split
  · exact h
  split
  · exact preciseTrap_form h _ _ _ _
  split
  · next er => rw [er] at hf; exact hf
  next er =>
  rw [er] at hf
  split
  · exact hf
  · exact preciseTrap_form hf _ _ _ _
  · exact hf

theorem issueMove_form {s : State} (h : s.MemForm) (r : ThreadRef) : OutForm (s.issueMove r) := by
  have hi := issueThread_form h r
  unfold State.issueMove
  split
  · exact outForm_orNotEnabled (optForm_unpick h _)
  refine outForm_unless ?_
  split
  · exact outForm_next h
  · next er =>
    rw [er] at hi
    exact outForm_next hi
  · next er =>
    rw [er] at hi
    exact outForm_andThen (fun _ h => h.of_mems (State.closeIssue_mems ..)) (exec_form hi _)

/-- Every move keeps the canonical form of every memory. -/
theorem move_form {s : State} (h : s.MemForm) (m : Move) : OutForm (s.move m) := by
  cases m with
  | issue r => exact issueMove_form h r
  | event i =>
    refine outForm_andThen (fun _ h => ?_) (exec_form ?_ i)
    · exact h
    · exact h
  | clock core => exact outForm_when (h.clockMove core)
  | engineBegin core op => exact outForm_orNotEnabled (optForm_engineBegin h core op)
  | engineOwn core op k => exact outForm_orNotEnabled (optForm_ownUnit h core op k)
  | engineWrite core op k => exact outForm_orNotEnabled (optForm_engineWrite h core op k)
  | tlbEvict core => exact outForm_unless (outForm_next h)
  | icacheEvict core => exact outForm_unless (outForm_next h)
  | l1Evict core k => exact outForm_orNotEnabled (optForm_evictL1 h core k)
  | l2Evict slice k => exact outForm_orNotEnabled (optForm_evictL2 h slice k)
  | readRegister vf off => exact outForm_orNotEnabled (optForm_readRegister h vf off)
  | clearRecord part entry => exact outForm_orNotEnabled (optForm_clearRecord h part entry)
  | setHdm l => exact outForm_unless (outForm_next h)
  | loadImage l => exact outForm_next (h.of_mems (State.loadKernel_mems ..))

theorem step_form {s : State} (h : s.MemForm) : OutForm (step s) := by
  unfold step
  split
  · refine outForm_andThen (fun s h => ?_) (move_form ?_ _)
    · exact h
    · exact h
  · refine outForm_andThen (fun s h => ?_) (move_form h _)
    exact h

/-- Settles O30: a step is one move, and no move writes a memory but by writing bytes, clearing, moving or filtering a memory. -/
theorem everyStepKeepsTheMemoryForm : Obligations.EveryStepKeepsTheMemoryForm := by
  unfold Obligations.EveryStepKeepsTheMemoryForm
  exact fun _ t h e => step_form h t e

end Sys2Proof.Machine
end

/-! The step of a thread that issues (R20, R43, R178) -/
section
namespace Sys2Proof.Machine

/-- The first move of the schedule is the step's. -/
theorem step_of_agenda {s : State} {m : Move} {rest : List Move} (h : s.agenda = m :: rest) :
    step s = andThen State.ticked (State.move { s with agenda := rest } m) := by
  unfold step
  rw [h]

/-- A thread that the picker has put first executes the instruction that its issue comes to, and has then issued. -/
theorem State.issueMove_run {s s' : State} {r : ThreadRef} {e : Env} {i : Instr} (he : s.env { ref := r, words := [] } = some e)
    (hp : s.picked e = true) (hi : s.issueThread r = .run i s') : s.issueMove r = andThen (State.closeIssue e.core r) (exec i s') := by
  simp [State.issueMove, he, hp, hi]

/-- A thread whose fetch has decided what becomes of it has issued too. -/
theorem State.issueMove_over {s s' : State} {r : ThreadRef} {e : Env} (he : s.env { ref := r, words := [] } = some e)
    (hp : s.picked e = true) (hi : s.issueThread r = .over s') : s.issueMove r = .next (s'.closeIssue e.core r) := by
  simp [State.issueMove, he, hp, hi]

/-- A precise trap with no division in flight is taken at once (R95). -/
theorem preciseTrap_taken {e : Env} (h : e.t.dividing = false) (c : Cause) (ea : DWord) (ei : Word) (s : State) :
    preciseTrap e c ea ei s
      = s.takeTrap e.ref { cause := c, deferred := false, epc := e.t.pc, eaddr := ea, einfo := ei, einst := e.words } := by
  simp [preciseTrap, h]

/-- Nothing comes before the instruction of a thread: it does not yield, and has no trap and no denied page fault to take first (R43, R381). -/
structure Env.Unhindered (e : Env) : Prop where
  yields : e.t.yieldTo = none
  late : e.t.late = none
  held : (e.t.heldNow.isSome && e.t.atBoundary) = false
  denied : e.t.denied = none

section
variable {s s' : State} {r : ThreadRef} {e : Env} {bs : List Byte} (he : s.env { ref := r, words := [] } = some e) (hu : e.Unhindered)
  (hf : s.fetch e = .ok (bs, s'))
include he hu hf

/-- Bytes that decode to an instruction are that instruction (R43). -/
theorem State.issueThread_of_decode {i : Instr} (hd : decode bs = .ok i) :
    s.issueThread r = .run i { s' with cur := some { ref := r, words := fetchedWords bs } } := by
  simp [State.issueThread, he, hu.yields, hu.late, hu.held, hu.denied, hf, hd]

/-- Bytes that are no instruction are NON_INSTRUCTION (R44). -/
theorem State.issueThread_of_illegal (hd : decode bs = .error .illegal) :
    s.issueThread r = .run .nonInstruction { s' with cur := some { ref := r, words := fetchedWords bs } } := by
  simp [State.issueThread, he, hu.yields, hu.late, hu.held, hu.denied, hf, hd]

/-- An instruction that would cross its block is the fetch-boundary fault (R26). -/
theorem State.issueThread_of_fetchBoundary (hd : decode bs = .error .fetchBoundary) :
    s.issueThread r = .over (preciseTrap { e with words := fetchedWords bs } .fetchBoundary 0 0 s') := by
  simp [State.issueThread, he, hu.yields, hu.late, hu.held, hu.denied, hf, hd]
end

/-- Settles O29: the step is the issue move of the schedule, and that is the instruction, or the fault, that the issue of the thread comes to. -/
theorem stepRunsTheDecodedInstruction : Obligations.StepRunsTheDecodedInstruction := by
  unfold Obligations.StepRunsTheDecodedInstruction
  intro s s' r rest e bs q closed runs hag henv hpick hy hl hh hn hf
  have hu : e.Unhindered := ⟨hy, hl, by rcases hh with h | h <;> simp [h], hn⟩
  have hstep : step s = andThen State.ticked (q.issueMove r) := step_of_agenda hag
  have hrun {i : Instr} (hi : q.issueThread r = .run i { s' with cur := some { ref := r, words := fetchedWords bs } }) : runs i := by
    show step s = _
    rw [hstep, State.issueMove_run henv hpick hi]
    cases exec i { s' with cur := some { ref := r, words := fetchedWords bs } } <;> rfl
  refine ⟨fun i hd => hrun (State.issueThread_of_decode henv hu hf hd), fun hd => hrun (State.issueThread_of_illegal henv hu hf hd),
    fun hd hdiv => ?_⟩
  obtain ⟨-, href⟩ := State.thread_of_env henv
  have hi := State.issueThread_of_fetchBoundary henv hu hf hd
  rw [preciseTrap_taken (e := { e with words := fetchedWords bs }) hdiv, href] at hi
  rw [hstep, State.issueMove_over henv hpick hi]
  rfl

end Sys2Proof.Machine
end

/-! The frame of the instructions that only compute: sticky flags, threads and registers (R12, R35, R83) -/
section
namespace Sys2Proof.Machine

/-! ### Sticky flags -/

/-- Only sticky flags are set: bits 8 to 14 of the mode word (R83). -/
def Sticky (f : Word) : Prop := f &&& 0xFFFF80FF = 0

theorem sticky_zero : Sticky 0 := rfl

theorem sticky_flagEI : Sticky flagEI := rfl

theorem Sticky.or {f g : Word} (hf : Sticky f) (hg : Sticky g) : Sticky (f ||| g) := by
  unfold Sticky at *
  rw [BitVec.and_or_distrib_right, hf, hg]
  rfl

theorem sticky_condFlags (c : Conds) : Sticky (condFlags c) := by
  have flag (b : Bool) (f : Word) (hf : Sticky f) : Sticky (if b = true then f else 0) := by
    cases b
    · exact sticky_zero
    · exact hf
  unfold condFlags
  exact (((((flag _ _ (by rfl)).or (flag _ _ (by rfl))).or (flag _ _ (by rfl))).or (flag _ _ (by rfl))).or (flag _ _ (by rfl))).or (flag _ _ (by rfl))

theorem sticky_flagsOf (cs : List Conds) : Sticky (flagsOf cs) := by
  have fold : ∀ (cs : List Conds) (f : Word), Sticky f → Sticky (cs.foldl (fun f c => f ||| condFlags c) f) := by
    intro cs
    induction cs with
    | nil => exact fun _ h => h
    | cons c cs ih => exact fun f h => ih _ (h.or (sticky_condFlags c))
  exact fold cs 0 sticky_zero

/-- Setting sticky flags leaves the other fields of the mode word. -/
theorem Sticky.mode_or {f : Word} (h : Sticky f) (m : Word) : (m ||| f) &&& 0xFFFF80FF = m &&& 0xFFFF80FF := by
  unfold Sticky at h
  rw [BitVec.and_or_distrib_right, h]
  exact BitVec.or_zero

/-- A flag that was set stays set. -/
theorem and_not_or_self (m f : Word) : m &&& ~~~(m ||| f) = 0 := by
  simp [BitVec.not_or, ← BitVec.and_assoc]

/-! ### What an instruction that computes may do to its thread -/

/-- Registers outside a list keep their cells; the mode word gains sticky flags at most; operations and the pending request stay. -/
structure Thread.Frame (own : List Reg) (a u : Thread) : Prop where
  cells : ∀ g ∉ own, u.cell g = a.cell g
  mode : ∃ f, Sticky f ∧ u.mode = a.mode ||| f
  ops : u.ops = a.ops
  pend : u.pend = a.pend

/-- A change that touches neither registers nor the mode word, operations and the request. -/
theorem Thread.Frame.of_same {own : List Reg} {a u : Thread} (hr : u.regs = a.regs) (hm : u.mode = a.mode) (ho : u.ops = a.ops)
    (hp : u.pend = a.pend) : Thread.Frame own a u :=
  ⟨fun g _ => by simp [Thread.cell, hr], ⟨0, sticky_zero, by simp [hm]⟩, ho, hp⟩

theorem Thread.Frame.refl (own : List Reg) (a : Thread) : Thread.Frame own a a := .of_same rfl rfl rfl rfl

theorem Thread.Frame.trans {own : List Reg} {a b c : Thread} (h : Thread.Frame own a b) (k : Thread.Frame own b c) : Thread.Frame own a c := by
  obtain ⟨f, hf, hmf⟩ := h.mode
  obtain ⟨g, hg, hmg⟩ := k.mode
  exact ⟨fun r hr => (k.cells r hr).trans (h.cells r hr), ⟨f ||| g, hf.or hg, by rw [hmg, hmf, BitVec.or_assoc]⟩, k.ops.trans h.ops,
    k.pend.trans h.pend⟩

theorem Thread.Frame.mono {own more : List Reg} {a b : Thread} (h : Thread.Frame own a b) (hs : own ⊆ more) : Thread.Frame more a b :=
  { h with cells := fun g hg => h.cells g fun hm => hg (hs hm) }

theorem Thread.frame_setFlags {own : List Reg} {f : Word} (hf : Sticky f) (a : Thread) :
    Thread.Frame own a (if a.status = .exited then a else { a with mode := a.mode ||| f }) := by
  split
  · exact .refl own a
  · exact ⟨fun _ _ => rfl, ⟨f, hf, rfl⟩, rfl, rfl⟩

@[simp] theorem Thread.setCell_mode (t : Thread) (r : Reg) (c : RegCell) : (t.setCell r c).mode = t.mode := by
  unfold Thread.setCell; split <;> rfl
@[simp] theorem Thread.setCell_ops (t : Thread) (r : Reg) (c : RegCell) : (t.setCell r c).ops = t.ops := by
  unfold Thread.setCell; split <;> rfl
@[simp] theorem Thread.setCell_pend (t : Thread) (r : Reg) (c : RegCell) : (t.setCell r c).pend = t.pend := by
  unfold Thread.setCell; split <;> rfl

theorem Thread.frame_setCell {own : List Reg} {r : Reg} (hr : r ∈ own) (a : Thread) (c : RegCell) : Thread.Frame own a (a.setCell r c) := by
  have cells : ∀ g ∉ own, (a.setCell r c).cell g = a.cell g := fun g hg => a.cell_setCell_ne c fun h => hg (h ▸ hr)
  exact ⟨cells, ⟨0, sticky_zero, by simp⟩, by simp, by simp⟩

theorem Thread.frame_foldl {α : Type} {own : List Reg} {f : Thread → α → Thread} {l : List α} (h : ∀ x ∈ l, ∀ a, Thread.Frame own a (f a x))
    (a : Thread) : Thread.Frame own a (l.foldl f a) := by
  induction l generalizing a with
  | nil => exact .refl own a
  | cons x l ih =>
    exact (h x List.mem_cons_self a).trans (ih (fun y hy => h y (List.mem_cons_of_mem x hy)) (f a x))

/-- Dead marks and writes touch no other register (R35). -/
theorem Thread.frame_finishThread {own marks : List Reg} {ws : List (Reg × Word)} (hm : marks ⊆ own) (hw : ∀ w ∈ ws, w.1 ∈ own) (a : Thread)
    (pc : DWord) : Thread.Frame own a (finishThread a marks ws [] pc) := by
  have marked : Thread.Frame own a (marks.foldl Thread.markDead a) := frame_foldl (fun g hg a => frame_setCell (hm hg) a _) a
  have written : Thread.Frame own a ((marks.foldl Thread.markDead a).wrs ws) :=
    marked.trans (frame_foldl (fun w hin a => frame_setCell (hw w hin) a _) _)
  exact written.trans (.of_same rfl rfl rfl rfl)

/-- Entering the handler changes no register, flag, operation or request (R382). -/
theorem Thread.frame_enter (own : List Reg) (a : Thread) (tr : Trap) (traph : DWord) : Thread.Frame own a (a.enter tr traph) :=
  .of_same rfl rfl rfl rfl

end Sys2Proof.Machine
end

/-! The frame of the instructions that only compute: the package (R91, R95, R172, R382) -/
section
namespace Sys2Proof.Machine

/-- The stage of a thread's team. -/
def State.stageFor (s : State) (r : ThreadRef) : Option Stage := (s.team r.team).bind s.stageOf

/-- Of what the frame speaks of, a change from `s` to `t` touches one thread alone, and that as `P` says. -/
structure State.Only (r : ThreadRef) (P : Thread → Thread → Prop) (s t : State) : Prop where
  mems : t.mems = s.mems
  hbmKeys : t.hbmKeys = s.hbmKeys
  wsKeys : t.wsKeys = s.wsKeys
  contexts : t.contexts = s.contexts
  packets : t.packets = s.packets
  stage : t.stageFor r = s.stageFor r
  others : ∀ q, q ≠ r → t.thread q = s.thread q
  thread : ∀ a, s.thread r = some a → ∃ u, t.thread r = some u ∧ P a u

section
variable {r : ThreadRef} {P Q R : Thread → Thread → Prop}

theorem State.Only.trans {s t u : State} (h : State.Only r P s t) (k : State.Only r Q t u) (hpq : ∀ a b c, P a b → Q b c → R a c) :
    State.Only r R s u where
  mems := k.mems.trans h.mems
  hbmKeys := k.hbmKeys.trans h.hbmKeys
  wsKeys := k.wsKeys.trans h.wsKeys
  contexts := k.contexts.trans h.contexts
  packets := k.packets.trans h.packets
  stage := k.stage.trans h.stage
  others q hq := (k.others q hq).trans (h.others q hq)
  thread a ha := by
    obtain ⟨b, hb, hab⟩ := h.thread a ha
    obtain ⟨c, hc, hbc⟩ := k.thread b hb
    exact ⟨c, hc, hpq a b c hab hbc⟩

/-- A change of the cores alone. -/
theorem State.only_updCore (hP : ∀ a, P a a) (s : State) (n : Nat) (f : Core → Core) : State.Only r P s (s.updCore n f) :=
  ⟨rfl, rfl, rfl, rfl, rfl, rfl, fun _ _ => rfl, fun a ha => ⟨a, ha, hP a⟩⟩

theorem State.only_refl (hP : ∀ a, P a a) (s : State) : State.Only r P s s :=
  ⟨rfl, rfl, rfl, rfl, rfl, rfl, fun _ _ => rfl, fun a ha => ⟨a, ha, hP a⟩⟩

/-- A team that is changed but for its threads and its stage keeps every thread, and every thread its stage. -/
theorem State.only_updTeam (hP : ∀ a, P a a) (s : State) (n : Nat) {f : Team → Team}
    (hf : ∀ tm, (f tm).threads = tm.threads ∧ (f tm).pipe = tm.pipe ∧ (f tm).stage = tm.stage) : State.Only r P s (s.updTeam n f) := by
  have threads (q : ThreadRef) : (s.updTeam n f).thread q = s.thread q := by
    unfold State.updTeam
    split
    · next tm htm =>
      by_cases hq : n = q.team
      · subst hq; simp [State.thread, htm, (hf tm).1]
      · simp [State.thread, State.team, State.setTeam, Tbl.look_put_ne _ _ hq]
    · rfl
  have stage : (s.updTeam n f).stageFor r = s.stageFor r := by
    unfold State.updTeam
    split
    · next tm htm =>
      obtain ⟨-, hp, hs⟩ := hf tm
      by_cases hq : n = r.team
      · subst hq; simp [State.stageFor, htm, State.stageOf, State.pipeOf, hp, hs]
      · simp [State.stageFor, State.team, State.setTeam, Tbl.look_put_ne _ _ hq, State.stageOf, State.pipeOf]; rfl
    · rfl
  exact ⟨by simp, by simp, by simp, by simp, by simp, stage, fun q _ => threads q, fun a ha => ⟨a, (threads r).trans ha, hP a⟩⟩

theorem State.stageFor_updThread (s : State) (r : ThreadRef) (f : Thread → Thread) : (s.updThread r f).stageFor r = s.stageFor r := by
  unfold State.updThread
  split
  · next t ht =>
    obtain ⟨tm, htm, -⟩ := State.team_of_thread ht
    simp [State.setThread, State.updTeam, htm, State.stageFor, State.stageOf, State.pipeOf]
  · rfl

theorem State.only_updThread (s : State) {f : Thread → Thread} (hf : ∀ a, P a (f a)) : State.Only r P s (s.updThread r f) :=
  ⟨by simp, by simp, by simp, by simp, by simp, s.stageFor_updThread r f, fun _ hq => s.thread_updThread_ne f hq,
    fun a ha => ⟨f a, State.thread_updThread f ha, hf a⟩⟩

theorem State.only_count (hP : ∀ a, P a a) (s : State) (k : Counter) (l : List Nat) : State.Only r P s (s.count k l) := by
  unfold State.count State.countAt
  split
  · exact only_refl hP s
  · exact only_updCore hP s _ _
end

end Sys2Proof.Machine
end

/-! The frame of the instructions that only compute: around an instruction's own effect (R32 to R35, R43, R89) -/
section
namespace Sys2Proof.Machine

/-- Before a trap or the end of an instruction that computes: its thread keeps its registers, and is in its handler if it was. -/
def Thread.Underway (a u : Thread) : Prop := Thread.Frame [] a u ∧ u.handler = a.handler

theorem Thread.Underway.refl (a : Thread) : a.Underway a := ⟨.refl [] a, rfl⟩

theorem Thread.Underway.trans {a b c : Thread} (h : a.Underway b) (k : b.Underway c) : a.Underway c :=
  ⟨h.1.trans k.1, k.2.trans h.2⟩

/-- A thread outside handler mode, whose context has a handler: a trap enters it. -/
def State.Armed (s : State) (r : ThreadRef) : Prop :=
  ∃ a st, s.thread r = some a ∧ a.handler = false ∧ s.stageFor r = some st ∧ st.traph ≠ 0

section
variable {r : ThreadRef} {own : List Reg} {s t : State}

theorem State.Armed.of_underway (h : s.Armed r) (k : State.Only r Thread.Underway s t) : t.Armed r := by
  obtain ⟨a, st, ha, hh, hst, hz⟩ := h
  obtain ⟨u, hu, hau⟩ := k.thread a ha
  exact ⟨u, st, hu, hau.2.trans hh, k.stage.trans hst, hz⟩

/-- What an instruction has done before its end, and then its end, are within its frame. -/
theorem State.Only.underway_trans {u : State} (h : State.Only r Thread.Underway s t) (k : State.Only r (Thread.Frame own) t u) :
    State.Only r (Thread.Frame own) s u :=
  h.trans k fun _ _ _ hab hbc => (hab.1.mono (List.nil_subset own)).trans hbc

/-- A wait touches its thread alone, and no register of it (R172). -/
theorem State.only_wait (s : State) (r : ThreadRef) (w : Wait) : State.Only r (Thread.Frame own) s (s.wait r w) :=
  (State.only_updThread s fun a => .of_same (u := { a with
      status := .waiting w, since := if a.resume = some w then a.since else s.clockOf r, resume := a.keeps w }) rfl rfl rfl rfl).trans
    (State.only_updTeam (Thread.Frame.refl own) _ _ fun _ => ⟨rfl, rfl, rfl⟩) fun _ _ _ => Thread.Frame.trans

/-- A trap of an armed thread touches that thread alone, and no register of it (R382). -/
theorem State.only_takeTrap (h : s.Armed r) (tr : Trap) : State.Only r (Thread.Frame own) s (s.takeTrap r tr) := by
  obtain ⟨a, st, ha, hh, hst, hz⟩ := h
  obtain ⟨tm, htm, hlook⟩ := State.team_of_thread ha
  have hst : s.stageOf tm = some st := by simpa [State.stageFor, htm] using hst
  have entered : s.takeTrap r tr = s.updThread r fun a => a.enter tr st.traph := by
    rw [State.takeTrap_enters tr htm hlook hst hz hh, State.updThread, ha]
  rw [entered]
  exact only_updThread s fun a => a.frame_enter own tr st.traph

/-- A precise trap, taken at once or kept until the divisions in flight are over (R95). -/
theorem preciseTrap_only {e : Env} (h : s.Armed e.ref) (c : Cause) (ea : DWord) (ei : Word) :
    State.Only e.ref (Thread.Frame own) s (preciseTrap e c ea ei s) := by
  unfold preciseTrap
  dsimp only
  split
  · exact (State.only_updThread s fun a => .of_same rfl rfl rfl rfl).trans (State.only_wait _ _ _) fun _ _ _ => Thread.Frame.trans
  · exact State.only_takeTrap h _

/-- Dead reads that are counted, and the note that they have been (R89). -/
theorem State.only_phased (s : State) (e : Env) (p n m : Nat) : State.Only e.ref Thread.Underway s
    (if e.t.phase < p then (s.countDead e.counter n).setPhase e.ref m else s) := by
  split
  · refine (State.only_count Thread.Underway.refl s _ _).trans (State.only_updThread _ fun a => ?_) fun _ _ _ => Thread.Underway.trans
    exact ⟨.of_same rfl rfl rfl rfl, rfl⟩
  · exact State.only_refl Thread.Underway.refl s

/-- Sticky flags that are set, and events that are counted (R85, R89, R128). -/
theorem State.only_setFlags_count {f : Word} (hf : Sticky f) (s : State) (r : ThreadRef) (k : Counter) (l : List Nat) :
    State.Only r Thread.Underway s ((s.setFlags r f).count k l) := by
  refine (State.only_updThread s fun a => ?_).trans (State.only_count Thread.Underway.refl _ _ _) fun _ _ _ => Thread.Underway.trans
  exact ⟨Thread.frame_setFlags hf a, by split <;> rfl⟩
end

/-! ### From an instruction's own effect to the instruction -/

/-- An effect within the destinations: before it ends nothing but the flags has changed, and it writes destinations only. -/
def ResWithin (r : ThreadRef) (dests : List Reg) (s : State) : Res → Prop
  | .done s' ws pend _ => State.Only r Thread.Underway s s' ∧ (∀ w ∈ ws, w.1 ∈ dests) ∧ pend = []
  | .wait _ s' | .trap _ _ _ s' => State.Only r Thread.Underway s s'
  | .stop _ => False

/-- An instruction whose own effect is within its destinations. -/
def BodyWithin (dests : List Reg) (body : Env → State → Res) : Prop := ∀ e s, ResWithin e.ref dests s (body e s)

section
variable {e : Env} {r : Row} {x : Ops} {body : Env → State → Res} {s : State}

theorem effect_only (hb : BodyWithin (rowDests r x) body) (h : s.Armed e.ref) :
    State.Only e.ref (Thread.Frame (rowDests r x ++ rowMarks r x)) s (effect e r x body s) := by
  have hw := hb e s
  unfold effect
  split
  · next s' ws pend jump hres =>
    rw [hres] at hw
    obtain ⟨hs, hws, rfl⟩ := hw
    exact hs.underway_trans (State.only_updThread _ fun a =>
      Thread.frame_finishThread (List.subset_append_right _ _) (fun w hin => List.mem_append_left _ (hws w hin)) a _)
  · next hres =>
    rw [hres] at hw
    exact State.Only.underway_trans hw (State.only_wait _ _ _)
  · next hres =>
    rw [hres] at hw
    exact State.Only.underway_trans hw (preciseTrap_only (h.of_underway hw) _ _ _)
  · next hres =>
    rw [hres] at hw
    exact hw.elim

theorem sources_only (hb : BodyWithin (rowDests r x) body) (h : s.Armed e.ref) :
    State.Only e.ref (Thread.Frame (rowDests r x ++ rowMarks r x)) s (sources e r x body s) := by
  unfold sources
  lift_lets
  intro t empties pending dead n s2 late
  have h2 : State.Only e.ref Thread.Underway s s2 := State.only_phased _ _ _ _ _
  clear_value s2
  split
  · exact preciseTrap_only h _ _ _
  split
  · exact State.only_wait _ _ _
  split
  · exact h2.underway_trans (preciseTrap_only (h.of_underway h2) _ _ _)
  split
  · exact h2.underway_trans (State.only_wait _ _ _)
  · exact h2.underway_trans (effect_only hb (h.of_underway h2))

theorem guarded_only (hb : BodyWithin (rowDests r x) body) (h : s.Armed e.ref) :
    State.Only e.ref (Thread.Frame (rowDests r x ++ rowMarks r x)) s (guarded e r x body s) := by
  unfold guarded
  lift_lets
  intro t dead s2
  have h2 : State.Only e.ref Thread.Underway s s2 := State.only_phased _ _ _ _ _
  clear_value s2
  split
  · exact sources_only hb h
  split
  · exact State.only_wait _ _ _
  split
  · exact h2.underway_trans (preciseTrap_only (h.of_underway h2) _ _ _)
  split
  · exact h2.underway_trans (sources_only hb (h.of_underway h2))
  · exact h2.underway_trans (State.only_updThread _ fun a =>
      Thread.frame_finishThread (List.nil_subset _) (fun _ hw => absurd hw List.not_mem_nil) a _)

/-- An instruction whose registers are the kernel's and stand in the register file comes to its guard (R30, R43, R391). -/
theorem pipeline_of_present (hn : ∀ g ∈ rowNamed r x, g.toNat < 16 * e.st.gran) (ha : granulesOf (rowNamed r x) &&& e.t.absent = 0) :
    pipeline e r x body s = guarded e r x body s := by
  have hb : ((rowNamed r x).any fun g => decide (16 * e.st.gran ≤ g.toNat)) = false := by simpa using hn
  unfold pipeline
  rw [if_neg (by simp [hb]), if_pos ha]
end

theorem State.armed_of_executing {s : State} {e : Env} (h : s.executing = some e) (hh : e.t.handler = false) (hz : e.st.traph ≠ 0) :
    s.Armed e.ref := by
  obtain ⟨c, -, hc⟩ := Option.bind_eq_some_iff.1 h
  refine ⟨e.t, e.st, State.thread_of_executing h, hh, ?_, hz⟩
  obtain ⟨-, href⟩ := State.thread_of_env hc
  unfold State.env at hc
  simp only [Option.bind_eq_some_iff] at hc
  obtain ⟨tm, htm, pl, hpl, st, hst, t, -, hc⟩ := hc
  split at hc <;> simp only [Option.map_eq_some_iff, reduceCtorEq] at hc
  obtain ⟨core, -, rfl⟩ := hc
  simp [State.stageFor, htm, State.stageOf, hpl, hst]

/-- An instruction with a row, in terms of what executes. -/
theorem runInstr_of_executing {i : Instr} {s : State} {e : Env} {r : Row} {x : Ops} (body : Ops → Env → State → Res) (h : s.executing = some e)
    (hr : i.row = some r) (hx : i.ops = some x) : runInstr i body s = .next (pipeline e r x (body x) s) := by
  obtain ⟨c, hc, he⟩ := Option.bind_eq_some_iff.1 h
  simp [runInstr, hc, he, hr, hx]

end Sys2Proof.Machine
end

/-! The frame of the instructions that only compute: each writes its destinations only (R95 to R145) -/
section
namespace Sys2Proof.Machine

/-! ### Where the writes of a result go -/

/-- Writes of registers among `n` from a base. -/
def WritesIn (d : Reg) (n : Nat) (ws : List (Reg × Word)) : Prop := ∀ w ∈ ws, w.1 ∈ regRange d n

theorem mem_regRange {d : Reg} {n k : Nat} (h : k < n) : d + BitVec.ofNat 8 k ∈ regRange d n :=
  List.mem_map.2 ⟨k, List.mem_range.2 h, rfl⟩

theorem base_mem_regRange {d : Reg} {n : Nat} (h : 0 < n) : d ∈ regRange d n := by
  simpa using mem_regRange (d := d) h

theorem writesIn_w1 {d : Reg} {n : Nat} (h : 0 < n) (v : Word) : WritesIn d n (w1 d v) := by
  intro w hw
  rw [List.mem_singleton.1 hw]
  exact base_mem_regRange h

theorem writesIn_w2 (d : Reg) (v : DWord) : WritesIn d 2 (w2 d v) := by
  intro w hw
  rcases List.mem_pair.1 hw with rfl | rfl
  · exact base_mem_regRange (by decide)
  · exact mem_regRange (k := 1) (by decide)

/-- A result of 32 or 64 bits. -/
theorem writesIn_wN (w : Bool) (d : Reg) (v : DWord) : WritesIn d (wid w) (wN w d v) := by
  cases w
  · exact writesIn_w1 (by decide) _
  · exact writesIn_w2 d v

theorem writesIn_if (w : Bool) (d : Reg) (v : DWord) (u : Word) : WritesIn d (wid w) (if w then w2 d v else w1 d u) := by
  cases w
  · exact writesIn_w1 (by decide) u
  · exact writesIn_w2 d v

/-- An interval's two bounds (R124). -/
theorem writesIn_wIv (w : Bool) (d : Reg) (c : Nat × Nat) : WritesIn d (ivid w) (wIv w d c) := by
  cases w
  · intro u hu
    rcases List.mem_pair.1 hu with rfl | rfl
    · exact base_mem_regRange (by decide)
    · exact mem_regRange (k := 1) (by decide)
  · intro u hu
    simp only [wIv, wN, w2, if_true, List.cons_append, List.nil_append, List.mem_cons, List.not_mem_nil, or_false] at hu
    rcases hu with rfl | rfl | rfl | rfl
    · exact base_mem_regRange (by decide)
    · exact mem_regRange (k := 1) (by decide)
    · exact mem_regRange (k := 2) (by decide)
    · have h : d + 2 + 1 = d + BitVec.ofNat 8 3 := by rw [BitVec.add_assoc]; rfl
      rw [h]
      exact mem_regRange (by decide)

/-- The registers of field D are destinations of the row. -/
theorem WritesIn.dests {r : Row} {x : Ops} {n : Nat} {ws : List (Reg × Word)} (hd : r.d = .dst n) (h : WritesIn x.d n ws) :
    ∀ w ∈ ws, w.1 ∈ rowDests r x := by
  intro w hw
  have := h w hw
  simp only [rowDests, List.mem_append, hd, destRegs]
  tauto

/-! ### The bodies -/

/-- A computation whose writes are within the destinations. -/
theorem pureBody_within {dests : List Reg} {f : Thread → Eff} (h : ∀ t, ∀ w ∈ (f t).ws, w.1 ∈ dests) : BodyWithin dests (pureBody f) := by
  intro e s
  refine ⟨?_, h e.t, rfl⟩
  split
  · exact State.only_refl Thread.Underway.refl s
  · exact State.only_setFlags_count (sticky_flagsOf _) s _ _ _

section
variable {e : Env} {s : State} {dests : List Reg} {ws : List (Reg × Word)}

theorem malformed_within : ResWithin e.ref dests s (malformed s) := State.only_refl Thread.Underway.refl s

/-- An interval result, after the rule of an empty one where it is called for (R128). -/
theorem withEmpty_within (hit ex : Bool) (hw : ∀ w ∈ ws, w.1 ∈ dests) :
    ResWithin e.ref dests s (withEmpty hit ex e s fun s => .done s ws [] none) := by
  have raised := State.only_setFlags_count sticky_flagEI s e.ref e.counter [4]
  unfold withEmpty emptyRule
  dsimp only
  split
  · split
    · exact raised
    · exact ⟨raised, hw, rfl⟩
  · exact ⟨State.only_refl Thread.Underway.refl s, hw, rfl⟩
end

theorem ivBody1_within {dests : List Reg} {w : Bool} {f : FFmt → Iv → List (Reg × Word) × Bool} (ex : Bool) (x : Ops)
    (h : ∀ g a, ∀ u ∈ (f g a).1, u.1 ∈ dests) : BodyWithin dests (ivBody1 ex w f x) := by
  intro e s
  unfold ivBody1
  split
  · exact malformed_within
  · exact withEmpty_within _ _ (h _ _)

theorem ivBody2_within {dests : List Reg} {w : Bool} {f : FFmt → Iv → Iv → List (Reg × Word) × Bool} (ex : Bool) (x : Ops)
    (h : ∀ g a b, ∀ u ∈ (f g a b).1, u.1 ∈ dests) : BodyWithin dests (ivBody2 ex w f x) := by
  intro e s
  unfold ivBody2
  split
  · exact withEmpty_within _ _ (h _ _ _)
  · exact malformed_within

theorem ivmkBody_within {dests : List Reg} {w : Bool} {x : Ops} (k : IvmkKind) (ex : Bool) (h : ∀ c, ∀ u ∈ wIv w x.d c, u.1 ∈ dests) :
    BodyWithin dests (ivmkBody k ex w x) := by
  intro e s
  have made (v : Option Iv) : ResWithin e.ref dests s (match v with
      | none => malformed s
      | some v => withEmpty (ivOut w x.d (fmtW w) v).2 ex e s fun s => .done s (ivOut w x.d (fmtW w) v).1 [] none) := by
    cases v with
    | none => exact malformed_within
    | some v => exact withEmpty_within _ _ (h _)
  cases k
  · exact made _
  · exact made _
  · exact made _

/-! ### The instructions -/

/-- The instruction runs with an effect within its destinations. -/
def RunsWithin (i : Instr) : Prop := ∀ r x, i.row = some r → i.ops = some x →
  ∃ body : Ops → Env → State → Res, exec i = runInstr i body ∧ BodyWithin (rowDests r x) (body x)

section
variable {i : Instr} {r : Row} {x : Ops} {n : Nat} (hr : i.row = some r) (hx : i.ops = some x)
include hr hx

theorem runsWithin_of {body : Ops → Env → State → Res} (he : exec i = runInstr i body) (hb : BodyWithin (rowDests r x) (body x)) :
    RunsWithin i := by
  intro r' x' hr' hx'
  obtain rfl : r = r' := Option.some.inj (hr.symm.trans hr')
  obtain rfl : x = x' := Option.some.inj (hx.symm.trans hx')
  exact ⟨body, he, hb⟩

theorem runsWithin_of_pure {f : Ops → Thread → Eff} (he : exec i = runInstr i fun x => pureBody (f x)) (hd : r.d = .dst n)
    (hw : ∀ t, WritesIn x.d n (f x t).ws) : RunsWithin i :=
  runsWithin_of hr hx he (pureBody_within fun t => (hw t).dests hd)

theorem runsWithin_of_ivBody1 {ex w : Bool} {f : Ops → FFmt → Iv → List (Reg × Word) × Bool}
    (he : exec i = runInstr i fun x => ivBody1 ex w (f x) x) (hd : r.d = .dst n) (hw : ∀ g a, WritesIn x.d n (f x g a).1) : RunsWithin i :=
  runsWithin_of hr hx he (ivBody1_within _ _ fun g a => (hw g a).dests hd)

theorem runsWithin_of_ivBody2 {ex w : Bool} {f : Ops → FFmt → Iv → Iv → List (Reg × Word) × Bool}
    (he : exec i = runInstr i fun x => ivBody2 ex w (f x) x) (hd : r.d = .dst n) (hw : ∀ g a b, WritesIn x.d n (f x g a b).1) : RunsWithin i :=
  runsWithin_of hr hx he (ivBody2_within _ _ fun g a b => (hw g a b).dests hd)
end

/-- Every instruction of rows 0x0 to 0x5 that only computes runs with an effect within its destinations. -/
theorem runsWithin_of_computesOnly {i : Instr} (h : computesOnly i = true) : RunsWithin i := by
  cases i with
  | nop => exact runsWithin_of rfl rfl rfl (pureBody_within fun _ _ hw => absurd hw List.not_mem_nil)
  | mov | iadd | isub | imul | imulh | imad | imin | imax | iabs | ineg | popc | clz | bfe | bfi | icmp | fcmp | fclass | fexpn | hadd2 | hmul2
  | hfma2 | pcvt | upcvt | fdot2 | pand | por | pnot | pxor | pres | doti8 | doti4 | dotn8 | dotn4 =>
    exact runsWithin_of_pure rfl rfl rfl rfl fun _ => writesIn_w1 Nat.one_pos _
  | pscl =>
    refine runsWithin_of_pure rfl rfl rfl rfl fun t => ?_
    unfold psclEff
    dsimp only
    split
    · exact writesIn_w1 Nat.one_pos _
    · exact writesIn_w1 Nat.one_pos _
  | movw | iadd64 | isub64 | imul64 | imad64w | lea => exact runsWithin_of_pure rfl rfl rfl rfl fun _ => writesIn_w2 _ _
  | and | or | xor | andn | brev | sel | fadd | fsub | fmul | ffma | fmin | fmax | frcp | frsq | fexp2 | flog2 | fsinpi | fcospi | cvtfi
  | cvtif | frnd | fscalb => exact runsWithin_of_pure rfl rfl rfl rfl fun _ => writesIn_wN _ _ _
  | shl | shr | sar | rot => exact runsWithin_of_pure rfl rfl rfl rfl fun _ => writesIn_if _ _ _ _
  | cvtff _ _ k =>
    refine runsWithin_of_pure rfl rfl rfl rfl fun _ => ?_
    cases k
    all_goals exact writesIn_wN _ _ _
  | ivmk _ k _ w => cases k <;> exact runsWithin_of rfl rfl rfl (ivmkBody_within _ _ fun _ => (writesIn_wIv w _ _).dests rfl)
  | ivadd | ivsub | ivmul | ivdiv | ivmeet | ivjoin => exact runsWithin_of_ivBody2 rfl rfl rfl rfl fun _ _ _ => writesIn_wIv _ _ _
  | ivcmp => exact runsWithin_of_ivBody2 rfl rfl rfl rfl fun _ _ _ => writesIn_w1 Nat.one_pos _
  | ivsqr | ivsqrt | ivneg | ivabs => exact runsWithin_of_ivBody1 rfl rfl rfl rfl fun _ _ => writesIn_wIv _ _ _
  | ivmid | ivwid => exact runsWithin_of_ivBody1 rfl rfl rfl rfl fun _ _ => writesIn_wN _ _ _
  | ivtest x _ w =>
    refine runsWithin_of rfl rfl rfl fun e s => ?_
    cases rdIv w e.t x.a with
    | none => exact malformed_within
    | some => exact ⟨State.only_refl Thread.Underway.refl s, (writesIn_w1 Nat.one_pos _).dests rfl, rfl⟩
  | cpy _ k => cases k <;> exact absurd h Bool.false_ne_true
  | _ => exact absurd h Bool.false_ne_true

/-- An instruction that only computes, in a thread outside handler mode whose context has a handler, touches that thread alone, within the frame. -/
theorem exec_only_of_computesOnly {i : Instr} {s t : State} {e : Env} {r : Row} {x : Ops} (hc : computesOnly i = true) (hr : i.row = some r)
    (hx : i.ops = some x) (he : s.executing = some e) (hn : namesPresent i e) (hh : e.t.handler = false) (hz : e.st.traph ≠ 0)
    (ht : exec i s = .next t) : State.Only e.ref (Thread.Frame (rowDests r x ++ rowMarks r x)) s t := by
  obtain ⟨hnamed, habsent⟩ := hn r x hr hx
  obtain ⟨body, hi, hb⟩ := runsWithin_of_computesOnly hc r x hr hx
  rw [hi, runInstr_of_executing body he hr hx, pipeline_of_present hnamed habsent] at ht
  obtain rfl := Host.Outcome.next.inj ht
  exact guarded_only hb (State.armed_of_executing he hh hz)

/-- The same memories under the same keys hold the same bytes. -/
theorem State.Only.byte {r : ThreadRef} {P : Thread → Thread → Prop} {s t : State} (h : State.Only r P s t) (k : MemId) (b : Nat) :
    t.byte k b = s.byte k b := by
  have mask : t.mask k b = s.mask k b := by cases k <;> simp [State.mask, h.hbmKeys, h.wsKeys]
  simp [State.byte, State.mem, h.mems, mask]

/-- Settles O34: every instruction of these rows runs with an effect within its destinations, and the guard, the policies, the waits and the traps
around that effect touch nothing else of the frame; the events that it counts are only noted, to be counted when the clock ends. -/
theorem computingTouchesOnlyItsRegisters : Obligations.ComputingTouchesOnlyItsRegisters := by
  unfold Obligations.ComputingTouchesOnlyItsRegisters
  intro i s t e r x hc hr hx he hn hh hz ht
  have h := exec_only_of_computesOnly hc hr hx he hn hh hz ht
  obtain ⟨u, hu, hcells, ⟨f, hf, hmode⟩, hops, hpend⟩ := h.thread e.t (State.thread_of_executing he)
  refine ⟨fun q hq _ => h.others q hq, fun q v hq hv => ⟨v, (h.others q hq).trans hv, rfl, rfl, rfl, rfl, rfl, rfl⟩, fun k b _ => h.byte k b,
    h.contexts, h.packets, u, hu, fun g hd hm => hcells g ?_, ?_, ?_, by rw [hops], hpend, u.rd_zero, fun _ => rfl⟩
  · simp [hd, hm]
  · rw [hmode]; exact hf.mode_or _
  · rw [hmode]; exact and_not_or_self _ _

end Sys2Proof.Machine
end

/-! Decoding and encoding: the codes and the MOD values of the modifiers (R24, R36, R39, R40) -/
section
namespace Sys2Proof

/-! ### Codes: `ofCode` reads what `code` writes, and nothing else -/

@[simp] theorem SatMode.ofCode_eq_some {n : Nat} {v : SatMode} : SatMode.ofCode n = some v ↔ v.code = n := by
  refine ⟨fun h => ?_, ?_⟩
  · unfold SatMode.ofCode at h
    split at h <;> cases h <;> rfl
  · rintro rfl
    cases v <;> rfl

@[simp] theorem Rnd.ofCode_eq_some {n : Nat} {v : Rnd} : Rnd.ofCode n = some v ↔ v.code = n := by
  refine ⟨fun h => ?_, ?_⟩
  · unfold Rnd.ofCode at h
    split at h <;> cases h <;> rfl
  · rintro rfl
    cases v <;> rfl

@[simp] theorem IRel.ofCode_eq_some {n : Nat} {v : IRel} : IRel.ofCode n = some v ↔ v.code = n := by
  refine ⟨fun h => ?_, ?_⟩
  · unfold IRel.ofCode at h
    split at h <;> cases h <;> rfl
  · rintro rfl
    cases v <;> rfl

@[simp] theorem FRel.ofCode_eq_some {n : Nat} {v : FRel} : FRel.ofCode n = some v ↔ v.code = n := by
  refine ⟨fun h => ?_, ?_⟩
  · unfold FRel.ofCode at h
    split at h <;> cases h <;> rfl
  · rintro rfl
    cases v <;> rfl

@[simp] theorem ITy.ofCode_eq_some {n : Nat} {v : ITy} : ITy.ofCode n = some v ↔ v.code = n := by
  refine ⟨fun h => ?_, ?_⟩
  · unfold ITy.ofCode at h
    split at h <;> cases h <;> rfl
  · rintro rfl
    cases v <;> rfl

@[simp] theorem FfCode.ofCode_eq_some {n : Nat} {v : FfCode} : FfCode.ofCode n = some v ↔ v.code = n := by
  refine ⟨fun h => ?_, ?_⟩
  · unfold FfCode.ofCode at h
    split at h <;> cases h <;> rfl
  · rintro rfl
    cases v <;> rfl

@[simp] theorem PkCode.ofCode_eq_some {n : Nat} {v : PkCode} : PkCode.ofCode n = some v ↔ v.code = n := by
  refine ⟨fun h => ?_, ?_⟩
  · unfold PkCode.ofCode at h
    split at h <;> cases h <;> rfl
  · rintro rfl
    cases v <;> rfl

@[simp] theorem IvmkKind.ofCode_eq_some {n : Nat} {v : IvmkKind} : IvmkKind.ofCode n = some v ↔ v.code = n := by
  refine ⟨fun h => ?_, ?_⟩
  · unfold IvmkKind.ofCode at h
    split at h <;> cases h <;> rfl
  · rintro rfl
    cases v <;> rfl

@[simp] theorem IvRel.ofCode_eq_some {n : Nat} {v : IvRel} : IvRel.ofCode n = some v ↔ v.code = n := by
  refine ⟨fun h => ?_, ?_⟩
  · unfold IvRel.ofCode at h
    split at h <;> cases h <;> rfl
  · rintro rfl
    cases v <;> rfl

@[simp] theorem IvTest.ofCode_eq_some {n : Nat} {v : IvTest} : IvTest.ofCode n = some v ↔ v.code = n := by
  refine ⟨fun h => ?_, ?_⟩
  · unfold IvTest.ofCode at h
    split at h <;> cases h <;> rfl
  · rintro rfl
    cases v <;> rfl

@[simp] theorem Space.ofCode_eq_some {n : Nat} {v : Space} : Space.ofCode n = some v ↔ v.code = n := by
  refine ⟨fun h => ?_, ?_⟩
  · unfold Space.ofCode at h
    split at h <;> cases h <;> rfl
  · rintro rfl
    cases v <;> rfl

@[simp] theorem AccFmt.ofCode_eq_some {n : Nat} {v : AccFmt} : AccFmt.ofCode n = some v ↔ v.code = n := by
  refine ⟨fun h => ?_, ?_⟩
  · unfold AccFmt.ofCode at h
    split at h <;> cases h <;> rfl
  · rintro rfl
    cases v <;> rfl

@[simp] theorem RvOp.ofCode_eq_some {n : Nat} {v : RvOp} : RvOp.ofCode n = some v ↔ v.code = n := by
  refine ⟨fun h => ?_, ?_⟩
  · unfold RvOp.ofCode at h
    split at h <;> cases h <;> rfl
  · rintro rfl
    cases v <;> rfl

@[simp] theorem Scope.ofCode_eq_some {n : Nat} {v : Scope} : Scope.ofCode n = some v ↔ v.code = n := by
  refine ⟨fun h => ?_, ?_⟩
  · unfold Scope.ofCode at h
    split at h <;> cases h <;> rfl
  · rintro rfl
    cases v <;> rfl

@[simp] theorem MOrd.ofCode_eq_some {n : Nat} {v : MOrd} : MOrd.ofCode n = some v ↔ v.code = n := by
  refine ⟨fun h => ?_, ?_⟩
  · unfold MOrd.ofCode at h
    split at h <;> cases h <;> rfl
  · rintro rfl
    cases v <;> rfl

@[simp] theorem MSize.ofCode_eq_some {n : Nat} {v : MSize} : MSize.ofCode n = some v ↔ v.code = n := by
  refine ⟨fun h => ?_, ?_⟩
  · unfold MSize.ofCode at h
    split at h <;> cases h <;> rfl
  · rintro rfl
    cases v <;> rfl

@[simp] theorem AOp.ofCode_eq_some {n : Nat} {v : AOp} : AOp.ofCode n = some v ↔ v.code = n := by
  refine ⟨fun h => ?_, ?_⟩
  · unfold AOp.ofCode at h
    split at h <;> cases h <;> rfl
  · rintro rfl
    cases v <;> rfl

@[simp] theorem AfOp.ofCode_eq_some {n : Nat} {v : AfOp} : AfOp.ofCode n = some v ↔ v.code = n := by
  refine ⟨fun h => ?_, ?_⟩
  · unfold AfOp.ofCode at h
    split at h <;> cases h <;> rfl
  · rintro rfl
    cases v <;> rfl

@[simp] theorem CpyKind.ofCode_eq_some {n : Nat} {v : CpyKind} : CpyKind.ofCode n = some v ↔ v.code = n := by
  refine ⟨fun h => ?_, ?_⟩
  · unfold CpyKind.ofCode at h
    split at h <;> cases h <;> rfl
  · rintro rfl
    cases v <;> rfl

theorem Len.ofCode_eq_some {n : Nat} {v : Len} : Len.ofCode n = some v ↔ v.code = n := by
  refine ⟨fun h => ?_, ?_⟩
  · unfold Len.ofCode at h
    split at h <;> cases h <;> rfl
  · rintro rfl
    cases v <;> rfl

/-- A flag that is read from a bit of MOD stands in that bit. -/
theorem bit_modBit (m k : Nat) : bit (modBit m k) k = m / 2 ^ k % 2 * 2 ^ k := by
  unfold bit modBit
  rcases Nat.mod_two_eq_zero_or_one (m / 2 ^ k) with h | h <;> simp [h]

theorem four_mul_bit (w : Bool) : 4 * bit w 0 = bit w 2 := by cases w <;> rfl

theorem ITy.bits_eq_code (t : ITy) : bit t.unsigned 3 + bit t.wide 4 = 8 * t.code := by cases t <;> rfl

/-! ### MOD: what each layout of the modifiers reads -/

section
variable {m k : Nat} {i : Instr}

theorem mod0_eq_some {j : Instr} : mod0 m j = some i ↔ m = 0 ∧ j = i := by
  unfold mod0
  split <;> simp [*]

theorem modFlag_eq_some {f : Bool → Instr} : modFlag m k f = some i ↔ ∃ b, m = bit b k ∧ f b = i := by
  unfold modFlag bit
  have := Nat.two_pow_pos k
  split
  · subst m; simp; omega
  · split <;> simp [*]

theorem modF_eq_some {f : Bool → Rnd → Instr} : modF m f = some i ↔ ∃ w r, m = r.code + bit w 3 ∧ f w r = i := by
  constructor
  · unfold modF
    have := bit_modBit m 3
    simp only [Option.ite_none_right_eq_some, Option.map_eq_some_iff, Rnd.ofCode_eq_some]
    rintro ⟨hm, r, hr, hi⟩
    exact ⟨modBit m 3, r, by omega, hi⟩
  · rintro ⟨w, r, rfl, rfl⟩
    cases w <;> cases r <;> with_unfolding_all rfl

theorem modR_eq_some {f : Rnd → Bool → Instr} : modR m f = some i ↔ ∃ r w, m = r.code + bit w 3 ∧ f r w = i := by
  rw [show modR m f = modF m fun w r => f r w from rfl, modF_eq_some, exists_comm]

theorem modRT_eq_some {f : Rnd → Bool → ITy → Instr} :
    modRT m f = some i ↔ ∃ r w t, m = r.code + bit w 3 + 16 * t.code ∧ f r w t = i := by
  constructor
  · unfold modRT
    have := bit_modBit m 3
    simp only [Option.bind_eq_some_iff, Option.map_eq_some_iff, Rnd.ofCode_eq_some, ITy.ofCode_eq_some]
    rintro ⟨r, hr, t, ht, hi⟩
    exact ⟨r, modBit m 3, t, by omega, hi⟩
  · rintro ⟨r, w, t, rfl, rfl⟩
    cases r <;> cases w <;> cases t <;> with_unfolding_all rfl

theorem modE_eq_some {f : Bool → Bool → Instr} : modE m f = some i ↔ ∃ e w, m = bit e 1 + bit w 0 ∧ f e w = i := by
  constructor
  · unfold modE
    have h1 := bit_modBit m 1
    have h0 := bit_modBit m 0
    simp only [Option.ite_none_right_eq_some, Option.some.injEq]
    rintro ⟨hm, hi⟩
    exact ⟨modBit m 1, modBit m 0, by omega, hi⟩
  · rintro ⟨e, w, rfl, rfl⟩
    cases e <;> cases w <;> with_unfolding_all rfl

theorem mod2_eq_some {f : Bool → Bool → Instr} : mod2 m f = some i ↔ ∃ a b, m = bit a 0 + bit b 1 ∧ f a b = i := by
  rw [show mod2 m f = modE m fun b a => f a b from rfl, modE_eq_some, exists_comm]
  simp only [Nat.add_comm]

theorem modMem_code (f : Bool → MSize → Space → Instr) (sx : Bool) (sz : MSize) (sp : Space) :
    modMem (sp.code + 4 * sz.code + bit sx 5) f = some (f sx sz sp) := by
  cases sx <;> cases sz <;> cases sp <;> with_unfolding_all rfl

theorem modMem_eq_some {f : Bool → MSize → Space → Instr} (hm : m < 64) :
    modMem m f = some i ↔ ∃ sx sz sp, m = sp.code + 4 * sz.code + bit sx 5 ∧ f sx sz sp = i := by
  constructor
  · unfold modMem
    have := bit_modBit m 5
    simp only [Option.bind_eq_some_iff, Option.map_eq_some_iff, MSize.ofCode_eq_some, Space.ofCode_eq_some]
    rintro ⟨sz, hz, sp, hp, hi⟩
    exact ⟨modBit m 5, sz, sp, by omega, hi⟩
  · rintro ⟨sx, sz, sp, rfl, rfl⟩
    exact modMem_code f sx sz sp
end

end Sys2Proof
end

/-! Decoding and encoding: an instruction and its row build each other (R36, R40, R42) -/
section
namespace Sys2Proof

/-- The instruction has these fields, and its row has this OPC and MOD. -/
structure Instr.Coded (i : Instr) (opc m : Nat) (x : Ops) : Prop where
  ops : i.ops = some x
  row : ∃ r, i.row = some r ∧ r.opc = opc ∧ r.mod = m

theorem ite_eq_some {α : Type} {c : Prop} [Decidable c] {a b : α} {o : Option α} :
    (if c then some a else o) = some b ↔ (c ∧ a = b) ∨ (¬c ∧ o = some b) := by
  split <;> simp [*]

/-- What an opcode and a MOD value build has these fields, and its row has this opcode and this MOD. -/
theorem coded_of_build {opc m : Nat} {x : Ops} (hm : m < 64) : ∀ i, build opc m x = some i → i.Coded opc m x := by
  have b0 := bit_modBit m 0
  have b1 := bit_modBit m 1
  have b2 := bit_modBit m 2
  have b3 := bit_modBit m 3
  have b4 := bit_modBit m 4
  unfold build
  split
  all_goals simp only [mod0_eq_some, modFlag_eq_some, modF_eq_some, modR_eq_some, modRT_eq_some, modE_eq_some, mod2_eq_some,
    modMem_eq_some hm, Option.ite_none_right_eq_some, Option.bind_eq_some_iff, Option.map_eq_some_iff, Option.some.injEq, ite_eq_some,
    reduceCtorEq, false_imp_iff, implies_true, forall_exists_index, and_imp, SatMode.ofCode_eq_some, Rnd.ofCode_eq_some,
    IRel.ofCode_eq_some, FRel.ofCode_eq_some, ITy.ofCode_eq_some, FfCode.ofCode_eq_some, PkCode.ofCode_eq_some, IvmkKind.ofCode_eq_some,
    IvRel.ofCode_eq_some, IvTest.ofCode_eq_some, Space.ofCode_eq_some, AccFmt.ofCode_eq_some, RvOp.ofCode_eq_some, Scope.ofCode_eq_some,
    MOrd.ofCode_eq_some, AOp.ofCode_eq_some, AfOp.ofCode_eq_some, CpyKind.ofCode_eq_some]
  any_goals
    intros
    subst_vars
    exact ⟨rfl, _, rfl, rfl, rfl⟩
  any_goals
    intros
    subst_vars
    refine ⟨rfl, _, rfl, rfl, ?_⟩
    dsimp only [rowF, rowF1]
    omega
  · -- ICMP
    rintro _ - r hr t ht rfl
    have := t.bits_eq_code
    exact ⟨rfl, _, rfl, rfl, by dsimp only; omega⟩
  · -- LEA
    rintro _ hlt rfl
    exact ⟨rfl, _, rfl, rfl, by simp only [BitVec.toNat_ofNat]; omega⟩
  · -- IVMK
    rintro _ k hk rfl
    cases k <;> exact ⟨rfl, _, rfl, rfl, by dsimp only; omega⟩
  · -- TSHAPE
    rintro _ (⟨rfl, rfl⟩ | ⟨-, ⟨rfl, rfl⟩ | ⟨-, rfl, rfl⟩⟩) <;> exact ⟨rfl, _, rfl, rfl, rfl⟩
  · -- MCTX
    rintro _ (⟨rfl, rfl⟩ | ⟨-, rfl, rfl⟩) <;> exact ⟨rfl, _, rfl, rfl, rfl⟩
  · -- WAITA
    rintro _ hlt sc hsc rfl
    have : decide ((if modBit m 1 = true then Space.glb else .loc) = .glb) = modBit m 1 := by cases modBit m 1 <;> rfl
    exact ⟨rfl, _, rfl, rfl, by dsimp only; rw [this]; omega⟩
  · -- ST
    rintro _ hlt sx sz sp hm rfl
    exact ⟨rfl, _, rfl, rfl, by cases sx <;> simp [bit] at hm ⊢ <;> omega⟩
  · -- LDI
    rintro _ hlt sp hsp rfl
    exact ⟨rfl, _, rfl, rfl, by dsimp only; rw [four_mul_bit]; omega⟩
  · -- STI
    rintro _ hlt sp hsp rfl
    exact ⟨rfl, _, rfl, rfl, by dsimp only; rw [four_mul_bit]; omega⟩
  · -- STT
    rintro _ hlt sx sz sp hm rfl
    exact ⟨rfl, _, rfl, rfl, by cases sx <;> simp [bit] at hm ⊢ <;> omega⟩
  · -- CPY
    rintro _ k hk d hd s hs rfl
    cases k <;> exact ⟨rfl, _, rfl, rfl, by dsimp only [rowCpy]; omega⟩
  · -- CSLOT
    rintro _ (⟨rfl, rfl⟩ | ⟨-, rfl, rfl⟩) <;> exact ⟨rfl, _, rfl, rfl, rfl⟩

/-- Every instruction is what its own row's OPC and MOD build from its fields. -/
theorem build_of_row {i : Instr} {r : Row} {x : Ops} (hr : i.row = some r) (hx : i.ops = some x) (hm : r.more = true) :
    build r.opc r.mod x = some i := by
  cases i with
  | nop | mov | movw | bfi | pand | por | pnot | pxor | doti4 | dotn4 | tshape | tshapeFree | tshapeRs | trd | accz | mctx | mctxRel | msync
  | bra | brx | brt | call | callx | ret | exit | spawn | yield | trap | bkpt | sys | bar | bara | barw | rvx | qclose | qstat | pref
  | skfree | skqry | skmerge | skfold | skclr | skstat | hwait | htest | hcancel | hmov | cslot | cslotFree | srd | swr | feat | eret
  | evrd | evcfg => cases hr; cases hx; rfl
  | iadd _ m | isub _ m | imul _ m | imad _ m | iadd64 _ m | isub64 _ m | imul64 _ m | tld _ m | tst _ m | accrd _ m | accwr _ m | rvred _ m
  | atomc _ m | atomc64 _ m | cpyw _ m | pscl _ m => cases hr; cases hx; cases m <;> rfl
  | imulh | imad64w | imin | imax | iabs | ineg | and | or | xor | andn | shl | shr | sar | rot | popc | clz | brev | bfe | sel | fclass
  | fexpn | pres | mma | elect | qcnt | cflush | skbind | skins | cpyl | coll =>
    cases hr; cases hx; exact modFlag_eq_some.2 ⟨_, rfl, rfl⟩
  | fexp2 | flog2 | fsinpi | fcospi => cases hr; cases hx; exact modFlag_eq_some.2 ⟨_, Nat.zero_add _, rfl⟩
  | fadd | fsub | fmul | ffma | fdiv | fsqrt | frcp | frsq => cases hr; cases hx; exact modF_eq_some.2 ⟨_, _, rfl, rfl⟩
  | frnd | fscalb | hadd2 | hmul2 | hfma2 | fdot2 => cases hr; cases hx; exact modR_eq_some.2 ⟨_, _, rfl, rfl⟩
  | cvtfi | cvtif => cases hr; cases hx; exact modRT_eq_some.2 ⟨_, _, _, rfl, rfl⟩
  | ivadd | ivsub | ivmul | ivdiv | ivsqr | ivsqrt | ivneg | ivabs | ivmeet | ivjoin | ivmid | ivwid | ivsplit =>
    cases hr; cases hx; exact modE_eq_some.2 ⟨_, _, rfl, rfl⟩
  | doti8 | dotn8 | qpush | qpop => cases hr; cases hx; exact mod2_eq_some.2 ⟨_, _, rfl, rfl⟩
  | ld | ldt => cases hr; cases hx; exact modMem_code _ _ _ _
  | upcvt _ m | fence _ m | cinv _ m => cases hr; cases hx; cases m <;> with_unfolding_all rfl
  | icmp _ m n | fmin _ m n | fmax _ m n | cvtff _ m n | pcvt _ m n | ivtest _ m n | st _ m n | ldi _ m n | sti _ m n | stt _ m n
  | atom _ m n | red _ m n | atomf _ m n | atom64 _ m n | tlbi _ m n =>
    cases hr; cases hx; cases m <;> cases n <;> with_unfolding_all rfl
  | fcmp _ m n p | ivmk _ m n p | ivcmp _ m n p | cpy _ m n p =>
    cases m <;> cases hr <;> cases hx <;> cases n <;> cases p <;> with_unfolding_all rfl
  | lea _ sh u =>
    cases hr; cases hx
    have hlt := sh.isLt
    have hsh : BitVec.ofNat 3 (sh.toNat + bit u 3) = sh := BitVec.eq_of_toNat_eq (by cases u <;> simp [bit]; omega)
    have hu : modBit (sh.toNat + bit u 3) 3 = u := by cases u <;> simp [modBit, bit] <;> omega
    have hm : sh.toNat + bit u 3 < 16 := by cases u <;> simp [bit] <;> omega
    exact (if_pos hm).trans (by rw [hsh, hu])
  | waita _ sc sp ne =>
    cases hr; cases hx
    cases sp with
    | ws => simp at hm
    | glb | loc => cases sc <;> cases ne <;> with_unfolding_all rfl
  | _ => cases hr

end Sys2Proof
end

/-! Decoding and encoding: every instruction's OPC and MOD fit into their fields (R29) -/
section
namespace Sys2Proof.Laws.Rows

/-- The laws of the instructions, one for each, together. -/
theorem statement (i : Instr) : Statement i :=
  match i with
  | .nop _ => nop _ | .mov _ => mov _ | .movw _ => movw _ | .iadd _ _ => iadd _ _ | .isub _ _ => isub _ _ | .imul _ _ => imul _ _
  | .imulh _ _ => imulh _ _ | .imad _ _ => imad _ _ | .iadd64 _ _ => iadd64 _ _ | .isub64 _ _ => isub64 _ _ | .imul64 _ _ => imul64 _ _
  | .imad64w _ _ => imad64w _ _ | .imin _ _ => imin _ _ | .imax _ _ => imax _ _ | .iabs _ _ => iabs _ _ | .ineg _ _ => ineg _ _ | .and _ _ => and _ _
  | .or _ _ => or _ _ | .xor _ _ => xor _ _ | .andn _ _ => andn _ _ | .shl _ _ => shl _ _ | .shr _ _ => shr _ _ | .sar _ _ => sar _ _
  | .rot _ _ => rot _ _ | .popc _ _ => popc _ _ | .clz _ _ => clz _ _ | .brev _ _ => brev _ _ | .bfe _ _ => bfe _ _ | .bfi _ => bfi _
  | .sel _ _ => sel _ _ | .icmp _ _ _ => icmp _ _ _ | .lea _ _ _ => lea _ _ _ | .fadd _ _ _ => fadd _ _ _ | .fsub _ _ _ => fsub _ _ _
  | .fmul _ _ _ => fmul _ _ _ | .ffma _ _ _ => ffma _ _ _ | .fmin _ _ _ => fmin _ _ _ | .fmax _ _ _ => fmax _ _ _ | .fdiv _ _ _ => fdiv _ _ _
  | .fsqrt _ _ _ => fsqrt _ _ _ | .frcp _ _ _ => frcp _ _ _ | .frsq _ _ _ => frsq _ _ _ | .fexp2 _ _ => fexp2 _ _ | .flog2 _ _ => flog2 _ _
  | .fsinpi _ _ => fsinpi _ _ | .fcospi _ _ => fcospi _ _ | .fcmp _ _ _ _ => fcmp _ _ _ _ | .fclass _ _ => fclass _ _
  | .cvtfi _ _ _ _ => cvtfi _ _ _ _ | .cvtif _ _ _ _ => cvtif _ _ _ _ | .cvtff _ _ _ => cvtff _ _ _ | .frnd _ _ _ => frnd _ _ _
  | .fscalb _ _ _ => fscalb _ _ _ | .fexpn _ _ => fexpn _ _ | .hadd2 _ _ _ => hadd2 _ _ _ | .hmul2 _ _ _ => hmul2 _ _ _ | .hfma2 _ _ _ => hfma2 _ _ _
  | .pcvt _ _ _ => pcvt _ _ _ | .upcvt _ _ => upcvt _ _ | .fdot2 _ _ _ => fdot2 _ _ _ | .ivmk _ _ _ _ => ivmk _ _ _ _ | .ivadd _ _ _ => ivadd _ _ _
  | .ivsub _ _ _ => ivsub _ _ _ | .ivmul _ _ _ => ivmul _ _ _ | .ivdiv _ _ _ => ivdiv _ _ _ | .ivsqr _ _ _ => ivsqr _ _ _
  | .ivsqrt _ _ _ => ivsqrt _ _ _ | .ivneg _ _ _ => ivneg _ _ _ | .ivabs _ _ _ => ivabs _ _ _ | .ivmeet _ _ _ => ivmeet _ _ _
  | .ivjoin _ _ _ => ivjoin _ _ _ | .ivmid _ _ _ => ivmid _ _ _ | .ivwid _ _ _ => ivwid _ _ _ | .ivcmp _ _ _ _ => ivcmp _ _ _ _
  | .ivsplit _ _ _ => ivsplit _ _ _ | .ivtest _ _ _ => ivtest _ _ _ | .pand _ => pand _ | .por _ => por _ | .pnot _ => pnot _ | .pxor _ => pxor _
  | .pres _ _ => pres _ _ | .doti8 _ _ _ => doti8 _ _ _ | .doti4 _ => doti4 _ | .dotn8 _ _ _ => dotn8 _ _ _ | .dotn4 _ => dotn4 _
  | .pscl _ _ => pscl _ _ | .tshape _ => tshape _ | .tshapeFree _ => tshapeFree _ | .tshapeRs _ => tshapeRs _ | .trd _ => trd _ | .tld _ _ => tld _ _
  | .tst _ _ => tst _ _ | .mma _ _ => mma _ _ | .accz _ => accz _ | .accrd _ _ => accrd _ _ | .accwr _ _ => accwr _ _ | .mctx _ => mctx _
  | .mctxRel _ => mctxRel _ | .elect _ _ => elect _ _ | .msync _ => msync _ | .bra _ => bra _ | .brx _ => brx _ | .brt _ => brt _ | .call _ => call _
  | .callx _ => callx _ | .ret _ => ret _ | .exit _ => exit _ | .spawn _ => spawn _ | .yield _ => yield _ | .trap _ => trap _ | .bkpt _ => bkpt _
  | .sys _ => sys _ | .bar _ => bar _ | .bara _ => bara _ | .barw _ => barw _ | .rvx _ => rvx _ | .rvred _ _ => rvred _ _
  | .waita _ _ _ _ => waita _ _ _ _ | .qpush _ _ _ => qpush _ _ _ | .qpop _ _ _ => qpop _ _ _ | .qcnt _ _ => qcnt _ _ | .qclose _ => qclose _
  | .qstat _ => qstat _ | .ld _ _ _ _ => ld _ _ _ _ | .st _ _ _ => st _ _ _ | .ldi _ _ _ => ldi _ _ _ | .sti _ _ _ => sti _ _ _
  | .ldt _ _ _ _ => ldt _ _ _ _ | .stt _ _ _ => stt _ _ _ | .pref _ => pref _ | .fence _ _ => fence _ _ | .cflush _ _ => cflush _ _
  | .cinv _ _ => cinv _ _ | .atom _ _ _ => atom _ _ _ | .atomc _ _ => atomc _ _ | .red _ _ _ => red _ _ _ | .atomf _ _ _ => atomf _ _ _
  | .atom64 _ _ _ => atom64 _ _ _ | .atomc64 _ _ => atomc64 _ _ | .skbind _ _ => skbind _ _ | .skfree _ => skfree _ | .skins _ _ => skins _ _
  | .skqry _ => skqry _ | .skmerge _ => skmerge _ | .skfold _ => skfold _ | .skclr _ => skclr _ | .skstat _ => skstat _ | .cpy _ _ _ _ => cpy _ _ _ _
  | .cpyw _ _ => cpyw _ _ | .cpyl _ _ => cpyl _ _ | .coll _ _ => coll _ _ | .hwait _ => hwait _ | .htest _ => htest _ | .hcancel _ => hcancel _
  | .hmov _ => hmov _ | .cslot _ => cslot _ | .cslotFree _ => cslotFree _ | .srd _ => srd _ | .swr _ => swr _ | .feat _ => feat _ | .eret _ => eret _
  | .tlbi _ _ _ => tlbi _ _ _ | .evrd _ => evrd _ | .evcfg _ => evcfg _ | .extensionSlot _ => extensionSlot _ | .padWord => padWord
  | .nonInstruction => nonInstruction | .heldTrap _ => heldTrap _ | .producerCompletion _ _ => producerCompletion _ _ | .waitEnd _ => waitEnd _
  | .pickerOverride _ _ _ => pickerOverride _ _ _ | .yieldExpiry _ => yieldExpiry _ | .eventWindowRestart _ _ => eventWindowRestart _ _
  | .arbiterPass _ _ => arbiterPass _ _ | .preemption _ => preemption _ | .teamPark _ => teamPark _ | .rackFire _ _ => rackFire _ _
  | .teamRestore _ => teamRestore _ | .displacement _ _ => displacement _ _ | .spawnRingStart _ => spawnRingStart _ | .teamExit _ => teamExit _
  | .barrierWatchdog _ _ => barrierWatchdog _ _ | .queueServe _ _ => queueServe _ _ | .qpushAccept _ _ => qpushAccept _ _
  | .engineCompletion _ _ => engineCompletion _ _ | .groupAssembly _ _ _ _ => groupAssembly _ _ _ _ | .collAbort _ _ _ => collAbort _ _ _
  | .weltEnqueue _ _ => weltEnqueue _ _ | .matrixCommandExecute _ _ _ => matrixCommandExecute _ _ _ | .sketchOperation _ _ => sketchOperation _ _
  | .homeAtomic _ _ => homeAtomic _ _ | .homeRequest _ _ => homeRequest _ _ | .hbmReply _ _ => hbmReply _ _ | .scrubPass _ => scrubPass _
  | .scrubEscalation _ => scrubEscalation _ | .frameMigration _ _ _ => frameMigration _ _ _ | .wsRefresh _ => wsRefresh _
  | .splitChange _ _ => splitChange _ _ | .faultRecord _ => faultRecord _ | .uncorrectableError _ => uncorrectableError _
  | .correctedError _ => correctedError _ | .ctxtab _ _ => ctxtab _ _ | .ctxcnt _ _ => ctxcnt _ _ | .qtab _ _ => qtab _ _ | .qcount _ _ => qcount _ _
  | .fresume _ _ _ => fresume _ _ _ | .fresumeDeny _ _ _ => fresumeDeny _ _ _ | .tlbinvVa _ _ _ => tlbinvVa _ _ _ | .tlbinvAll _ _ => tlbinvAll _ _
  | .doorbell _ _ _ => doorbell _ _ _ | .unlistedRegisterWrite _ _ _ => unlistedRegisterWrite _ _ _ | .launch _ _ => launch _ _
  | .wait _ _ => wait _ _ | .wsload _ _ => wsload _ _ | .fill _ _ => fill _ _ | .copy _ _ => copy _ _
  | .reservedTypePacket _ _ => reservedTypePacket _ _ | .packetCompletion _ _ _ => packetCompletion _ _ _
  | .hostMemAccess _ _ _ _ => hostMemAccess _ _ _ _ | .flitReceive _ _ _ => flitReceive _ _ _ | .linkDown _ => linkDown _
  | .remoteRequest _ _ _ => remoteRequest _ _ _ | .boot _ => boot _ | .firmwareImage _ => firmwareImage _ | .partitionCreate _ => partitionCreate _
  | .partitionDestroy _ => partitionDestroy _ | .faultRingEntryCleared _ _ => faultRingEntryCleared _ _
  | .hostCxlCacheSnoop _ _ _ => hostCxlCacheSnoop _ _ _

end Sys2Proof.Laws.Rows
end

/-! Decoding and encoding: O24, O25, and the words of the tables -/
section
namespace Sys2Proof

/-! ### Bytes and numbers (R7) -/

@[simp] theorem length_leBytes (n v : Nat) : (leBytes n v).length = n := by
  induction n generalizing v with
  | zero => rfl
  | succ n ih => simp [leBytes, ih]

theorem leNat_leBytes (n v : Nat) : leNat (leBytes n v) = v % 256 ^ n := by
  induction n generalizing v with
  | zero => simp [leBytes, leNat, Nat.mod_one]
  | succ n ih => rw [leBytes, leNat, ih, BitVec.toNat_ofNat, pow_succ' 256 n, Nat.mod_mul]

theorem leBytes_leNat (bs : List Byte) : leBytes bs.length (leNat bs) = bs := by
  induction bs with
  | nil => rfl
  | cons b bs ih =>
    have hb := b.isLt
    have hdiv : (b.toNat + 256 * leNat bs) / 256 = leNat bs := by omega
    have hbyte : BitVec.ofNat 8 (b.toNat + 256 * leNat bs) = b := BitVec.eq_of_toNat_eq (by simp; omega)
    simp only [List.length_cons, leNat, leBytes, hdiv, hbyte, ih]

theorem leNat_lt (bs : List Byte) : leNat bs < 256 ^ bs.length := by
  have h := leNat_leBytes bs.length (leNat bs)
  rw [leBytes_leNat] at h
  exact h ▸ Nat.mod_lt _ (Nat.pow_pos (by decide))

/-- The first bytes of a number are its lowest digits. -/
theorem leNat_take (k : Nat) (bs : List Byte) : leNat (bs.take k) = leNat bs % 256 ^ k := by
  induction k generalizing bs with
  | zero => simp [leNat, Nat.mod_one]
  | succ k ih =>
    cases bs with
    | nil => simp [leNat]
    | cons b bs =>
      have hb := b.isLt
      have hmod : (b.toNat + 256 * leNat bs) % 256 = b.toNat := by omega
      have hdiv : (b.toNat + 256 * leNat bs) / 256 = leNat bs := by omega
      rw [List.take_succ_cons, leNat, leNat, ih, Nat.pow_succ', Nat.mod_mul, hmod, hdiv]

/-! ### The number of an instruction and its fields (R29, R37) -/

/-- The number of an instruction's words, from its fields, OPC and MOD. -/
def Ops.number (x : Ops) (opc m : Nat) : Nat :=
  x.len.code + 4 * opc + 2 ^ 10 * x.d.toNat + 2 ^ 18 * x.a.toNat + 2 ^ 26 * x.b.toNat + 2 ^ 34 * x.c.toNat
    + 2 ^ 42 * x.ep.toNat + 2 ^ 45 * x.dk.toNat + 2 ^ 48 * x.g.toNat + 2 ^ 56 * x.gs.toNat + 2 ^ 58 * m + 2 ^ 64 * x.ext.toNat

theorem encodeNat_eq {i : Instr} {r : Row} {x : Ops} (hr : i.row = some r) (hx : i.ops = some x) :
    encodeNat i = some (x.number r.opc r.mod) := by
  simp [encodeNat, hr, hx, Ops.number]

theorem encode_eq {i : Instr} {r : Row} {x : Ops} (hr : i.row = some r) (hx : i.ops = some x) :
    encode i = some (leBytes x.len.bytes (x.number r.opc r.mod)) := by
  simp [encode, hx, encodeNat_eq hr hx]

theorem Len.code_lt (n : Len) : n.code < 4 := by cases n <;> decide
theorem Len.code_pos (n : Len) : 0 < n.code := by cases n <;> decide

section
variable (x : Ops) {opc m : Nat} (ho : opc < 256) (hm : m < 64)
include ho hm

/-- LEN, OPC and MOD stand in the number where the decoder reads them. -/
theorem Ops.number_codes : x.number opc m % 4 = x.len.code ∧ x.number opc m / 4 % 256 = opc ∧ x.number opc m / 2 ^ 58 % 64 = m := by
  have hl := x.len.code_lt
  have := x.d.isLt; have := x.a.isLt; have := x.b.isLt; have := x.c.isLt
  have := x.ep.isLt; have := x.dk.isLt; have := x.g.isLt; have := x.gs.isLt
  unfold Ops.number
  omega

/-- And so do the operand fields and the extra word. -/
theorem Ops.fieldsOf_number : fieldsOf x.len (x.number opc m) = x := by
  obtain ⟨len, d, a, b, c, ep, dk, g, gs, ext⟩ := x
  have hl := len.code_lt
  have := d.isLt; have := a.isLt; have := b.isLt; have := c.isLt
  have := ep.isLt; have := dk.isLt; have := g.isLt; have := gs.isLt; have := ext.isLt
  simp only [fieldsOf, Ops.number, Ops.mk.injEq, true_and]
  refine ⟨?_, ?_, ?_, ?_, ?_, ?_, ?_, ?_, ?_⟩ <;> refine BitVec.eq_of_toNat_eq ?_ <;> rw [BitVec.toNat_ofNat] <;> omega
end

/-- A number below 2^128 is that of the fields it holds, with its OPC and its MOD. -/
theorem number_fieldsOf {n : Len} {v : Nat} (hl : v % 4 = n.code) (hv : v < 2 ^ 128) :
    (fieldsOf n v).number (v / 4 % 256) (v / 2 ^ 58 % 64) = v := by
  simp only [fieldsOf, Ops.number, BitVec.toNat_ofNat]
  omega

/-- No form is longer than its length allows. -/
theorem Ops.ext_lt_of_extOk {x : Ops} {lay : Layout} (h : x.extOk lay = true) : 2 ^ 64 * (x.ext.toNat + 1) ≤ 256 ^ x.len.bytes := by
  have := x.ext.isLt
  unfold Ops.extOk at h
  cases hl : x.len <;> simp only [hl, Bool.and_eq_true, decide_eq_true_eq] at h <;> simp only [Len.bytes, Len.code] <;> omega

theorem Ops.number_lt {x : Ops} {opc m : Nat} (ho : opc < 256) (hm : m < 64) {lay : Layout} (h : x.extOk lay = true) :
    x.number opc m < 256 ^ x.len.bytes := by
  have hext := Ops.ext_lt_of_extOk h
  have hl := x.len.code_lt
  have := x.d.isLt; have := x.a.isLt; have := x.b.isLt; have := x.c.isLt
  have := x.ep.isLt; have := x.dk.isLt; have := x.g.isLt; have := x.gs.isLt
  unfold Ops.number
  omega

/-! ### The decoder on bytes (R24 to R26, R41) -/

theorem leNat_take_four_mod (bs : List Byte) : leNat (bs.take 4) % 4 = leNat bs % 4 := by rw [leNat_take]; omega

/-- Bytes that hold the whole of an instruction decode as its number does. -/
theorem decode_of_len {bs : List Byte} {n : Len} (hn : leNat (bs.take 4) % 4 = n.code) (hl : n.bytes ≤ bs.length) :
    decode bs = decodeWhole n (leNat (bs.take n.bytes)) := by
  have hn : Len.ofCode (leNat (bs.take 4) % 4) = some n := Len.ofCode_eq_some.2 hn.symm
  simp [decode, hn, Nat.not_lt.2 hl]

/-- A word whose LEN names no length is the pad word or no instruction. -/
theorem decode_of_no_len {bs : List Byte} (hn : leNat (bs.take 4) % 4 = 0) :
    decode bs = if leNat (bs.take 4) = padValue then .ok .padWord else .error .illegal := by
  simp [decode, hn, Len.ofCode]

/-- Row 0xE has no instruction (R41). -/
theorem build_of_row_e {opc : Nat} (h : opc / 16 = 0xE) (m : Nat) (x : Ops) : build opc m x = none := by
  have hlo : 224 ≤ opc := by omega
  have hhi : opc < 240 := by omega
  interval_cases opc <;> rfl

/-- Row 0xF has no instruction (R42). -/
theorem build_of_row_f {opc : Nat} (h : opc / 16 = 0xF) (m : Nat) (x : Ops) : build opc m x = none := by
  have hlo : 240 ≤ opc := by omega
  have hhi : opc < 256 := by omega
  interval_cases opc <;> rfl

theorem decodeWhole_of_row_e {n : Len} {v : Nat} (h : v / 4 % 256 / 16 = 0xE) :
    decodeWhole n v = .ok (.extensionSlot (BitVec.ofNat 4 (v / 4 % 256))) := if_pos h

theorem decodeWhole_of_row_f {n : Len} {v : Nat} (h : v / 4 % 256 / 16 = 0xF) : decodeWhole n v = .error .illegal := by
  simp [decodeWhole, h, build_of_row_f h]

/-- A number is an instruction exactly when its opcode and MOD build it and it is well formed, outside row 0xE. -/
theorem decodeWhole_eq_ok {n : Len} {v : Nat} (h : v / 4 % 256 / 16 ≠ 0xE) {i : Instr} :
    decodeWhole n v = .ok i ↔ build (v / 4 % 256) (v / 2 ^ 58 % 64) (fieldsOf n v) = some i ∧ i.wf = true := by
  unfold decodeWhole
  dsimp only
  rw [if_neg h]
  cases build (v / 4 % 256) (v / 2 ^ 58 % 64) (fieldsOf n v) with
  | none => simp
  | some j =>
    simp only [Option.some.injEq]
    split
    · next hj => simp only [Except.ok.injEq, iff_self_and]; rintro rfl; exact hj
    · next hj => simp only [reduceCtorEq, false_iff, not_and]; rintro rfl; exact hj

/-! ### Decoding inverts encoding -/

/-- A well-formed instruction with operand fields: it has a row that they meet. -/
theorem Instr.row_of_wf {i : Instr} {x : Ops} (hx : i.ops = some x) (h : i.wf = true) :
    ∃ r, i.row = some r ∧ r.opc < 256 ∧ r.mod < 64 ∧ r.more = true ∧ x.extOk r.lay = true := by
  obtain ⟨hs, hfit⟩ := Laws.Rows.statement i
  obtain ⟨r, hr⟩ := Option.isSome_iff_exists.1 (hs.trans (by simp [hx]))
  obtain ⟨ho, hm⟩ := hfit r hr
  simp only [Instr.wf, hr, hx, Row.ok, Bool.and_eq_true] at h
  exact ⟨r, hr, ho, hm, h.2, h.1.2⟩

/-- The decoder gives back the instruction of a number. -/
theorem decodeWhole_number {i : Instr} {r : Row} {x : Ops} (hr : i.row = some r) (hx : i.ops = some x) (ho : r.opc < 256) (hm : r.mod < 64)
    (hmore : r.more = true) (h : i.wf = true) : decodeWhole x.len (x.number r.opc r.mod) = .ok i := by
  obtain ⟨-, hopc, hmod⟩ := x.number_codes ho hm
  have hb := build_of_row hr hx hmore
  have he : r.opc / 16 ≠ 0xE := fun he => by simp [build_of_row_e he] at hb
  rw [decodeWhole_eq_ok (by rwa [hopc]), hopc, hmod, x.fieldsOf_number ho hm]
  exact ⟨hb, h⟩

/-- Settles O24: the number of an instruction holds its fields, OPC and MOD where the decoder reads them, and these build the instruction. -/
theorem decodingInvertsEncoding : Obligations.DecodingInvertsEncoding := by
  unfold Obligations.DecodingInvertsEncoding
  constructor
  · intro i bs rest hwf henc
    cases hx : i.ops with
    | none => simp [encode, hx] at henc
    | some x =>
      obtain ⟨r, hr, ho, hm, hmore, hext⟩ := Instr.row_of_wf hx hwf
      rw [encode_eq hr hx] at henc
      obtain rfl := Option.some.inj henc
      have hv : leNat (leBytes x.len.bytes (x.number r.opc r.mod)) = x.number r.opc r.mod := by
        rw [leNat_leBytes, Nat.mod_eq_of_lt (Ops.number_lt ho hm hext)]
      have hlen : 4 ≤ x.len.bytes := by simp [Len.bytes]
      rw [decode_of_len (n := x.len), List.take_left' (length_leBytes _ _), hv]
      · exact decodeWhole_number hr hx ho hm hmore hwf
      · rw [List.take_append_of_le_length (by simpa using hlen), leNat_take_four_mod, hv]
        exact (x.number_codes ho hm).1
      · simp
  · intro i x hx hwf
    obtain ⟨r, hr, -⟩ := Instr.row_of_wf hx hwf
    exact ⟨_, encode_eq hr hx, length_leBytes _ _⟩

/-! ### Encoding inverts decoding -/

/-- What a number decodes to encodes to the number's bytes. -/
theorem encode_of_decodeWhole {i : Instr} {n : Len} {v : Nat} (hl : v % 4 = n.code) (hv : v < 2 ^ 128) (he : v / 4 % 256 / 16 ≠ 0xE)
    (h : decodeWhole n v = .ok i) : i.wf = true ∧ i.ops = some (fieldsOf n v) ∧ encode i = some (leBytes n.bytes v) := by
  obtain ⟨hb, hwf⟩ := (decodeWhole_eq_ok he).1 h
  obtain ⟨hx, r, hr, ho, hm⟩ := coded_of_build (Nat.mod_lt _ (by decide)) i hb
  refine ⟨hwf, hx, ?_⟩
  rw [encode_eq hr hx, ho, hm, number_fieldsOf hl hv]
  rfl

/-- Settles O25: the decoder builds an instruction from an opcode, a MOD and fields which its row has too, and their number is the one decoded. -/
theorem encodingInvertsDecoding : Obligations.EncodingInvertsDecoding := by
  unfold Obligations.EncodingInvertsDecoding
  intro i bs h
  cases hn : Len.ofCode (leNat (bs.take 4) % 4) with
  | none =>
    simp only [decode, hn] at h
    split at h <;> cases h
    exact ⟨rfl, .inr (.inl rfl)⟩
  | some n =>
    have hn := (Len.ofCode_eq_some.1 hn).symm
    by_cases hlen : bs.length < n.bytes
    · simp [decode, Len.ofCode_eq_some.2 hn.symm, hlen] at h
    rw [decode_of_len hn (Nat.not_lt.1 hlen)] at h
    generalize hv : leNat (bs.take n.bytes) = v at h
    have htake : (bs.take n.bytes).length = n.bytes := by simp; omega
    by_cases he : v / 4 % 256 / 16 = 0xE
    · rw [decodeWhole_of_row_e he] at h
      cases h
      exact ⟨rfl, .inr (.inr ⟨_, rfl⟩)⟩
    · have hlt : v < 2 ^ 128 := by
        have := hv ▸ leNat_lt (bs.take n.bytes)
        rw [htake] at this
        cases n <;> simp only [Len.bytes, Len.code] at this <;> omega
      have hmod : v % 4 = n.code := by rw [← hv, leNat_take, ← hn, leNat_take]; cases n <;> simp only [Len.bytes, Len.code] <;> omega
      obtain ⟨hwf, hx, henc⟩ := encode_of_decodeWhole hmod hlt he h
      refine ⟨hwf, .inl ⟨_, hx, ?_⟩⟩
      have hbytes := leBytes_leNat (bs.take n.bytes)
      rw [htake, hv] at hbytes
      rw [henc, hbytes]
      rfl

/-- Settles O26: each word is evaluated by the decoder; the instructions are those of the tables. -/
theorem wordsDecode : Obligations.WordsDecode := by
  unfold Obligations.WordsDecode
  decide +kernel

end Sys2Proof
end

/-! The moves and the wrapping integer instructions: O1 (R40, R96 to R98, R102 to R104) -/
section
namespace Sys2Proof.Machine

/-! ### Exact values wrapped to their width (R96) -/

section
variable {w : Nat} (a b c : BitVec w)

theorem ofInt_add_toInt : BitVec.ofInt w (a.toInt + b.toInt) = a + b := by simp [BitVec.ofInt_add]

theorem ofInt_sub_toInt : BitVec.ofInt w (a.toInt - b.toInt) = a - b := by
  simp [Int.sub_eq_add_neg, BitVec.ofInt_add, BitVec.ofInt_neg, BitVec.sub_eq_add_neg]

theorem ofInt_mul_toInt : BitVec.ofInt w (a.toInt * b.toInt) = a * b := by simp [BitVec.ofInt_mul]

theorem ofInt_mul_add_toInt : BitVec.ofInt w (a.toInt * b.toInt + c.toInt) = a * b + c := by
  simp [BitVec.ofInt_add, BitVec.ofInt_mul]

theorem ofInt_neg_toInt : BitVec.ofInt w (-a.toInt) = -a := by simp [BitVec.ofInt_neg]

theorem ofInt_natAbs_toInt : BitVec.ofInt w a.toInt.natAbs = if a.msb then -a else a := by
  rw [BitVec.msb_eq_toInt]
  by_cases h : a.toInt < 0
  · simp [h, Int.ofNat_natAbs_of_nonpos (Int.le_of_lt h), ofInt_neg_toInt]
  · simp [h, Int.natAbs_of_nonneg (Int.not_lt.1 h)]

/-- The wide multiply-add extends its factors by zeros or by their sign (R98). -/
theorem ofInt_mul_add_wide (v : Nat) (c : BitVec v) :
    BitVec.ofInt v ((a.toNat : Int) * b.toNat + c.toNat) = a.setWidth v * b.setWidth v + c
    ∧ BitVec.ofInt v (a.toInt * b.toInt + c.toInt) = a.signExtend v * b.signExtend v + c := by
  simp [BitVec.ofInt_add, BitVec.ofInt_mul, BitVec.signExtend]

theorem ofInt_mul_div_toNat (k : Nat) : BitVec.ofInt w ((a.toNat : Int) * b.toNat / 2 ^ k) = BitVec.ofNat w (a.toNat * b.toNat / 2 ^ k) := by
  norm_cast

theorem shiftLeft_eq_mul_pow (n : Nat) : a <<< n = a * BitVec.ofNat w (2 ^ n) := by
  rw [BitVec.shiftLeft_eq_mul_twoPow]
  congr 1
  exact BitVec.eq_of_toNat_eq (by rw [BitVec.toNat_twoPow, BitVec.toNat_ofNat])
end

theorem triOf_eq_t {v : Word} : triOf v = .t ↔ v ≠ 0 ∧ v ≠ 0xFFFFFFFF := by
  unfold triOf
  split_ifs <;> simp_all

theorem ext32_le {u : Bool} {a b : Word} : ext32 u a ≤ ext32 u b ↔ if u = true then a ≤ b else a.sle b = true := by
  cases u
  · exact BitVec.sle_iff_toInt_le.symm
  · exact Int.ofNat_le

/-! ### Instructions whose results raise no condition -/

/-- An effect whose conditions are all empty is told by its writes (R88). -/
theorem Computes.of_writes {i : Instr} {f : Thread → Eff} {g : Thread → List (Reg × Word)} (h : Computes i f)
    (hc : ∀ t, ∀ c ∈ (f t).conds, c = {}) (hw : ∀ t, (f t).ws = g t) : Computes i fun t => { ws := g t } := by
  intro s e hr
  have hf : ((f e.t).conds.all fun c => decide (c = {})) = true := by simpa using hc e.t
  rw [h s e hr, State.computed, State.computed, if_pos hf, hw]
  rfl

section
variable {i : Instr} {r : Row} {x : Ops} (hr : i.row = some r) (hx : i.ops = some x)
include hr hx

/-- An instruction without conditions, by what it writes. -/
theorem computes_of_pure_writes (f : Ops → Thread → List (Reg × Word)) {g : Thread → List (Reg × Word)}
    (hi : ∀ s, exec i s = runInstr i (fun x => pureBody fun t => { ws := f x t }) s) (hw : ∀ t, f x t = g t) :
    Computes i fun t => { ws := g t } :=
  (computes_of_pure (fun x t => { ws := f x t }) hr hx hi).of_writes (by simp) hw

/-- A wrapped 32-bit result (R97). -/
theorem computes_of_intEff_wrap (f : Int → Int → Int → Int) {v : Thread → Word}
    (hi : ∀ s, exec i s = runInstr i (fun x => pureBody (intEff x .wrap f)) s)
    (hv : ∀ t, BitVec.ofInt 32 (f (t.rd x.a).toInt (srcB x t).toInt (t.rd x.c).toInt) = v t) : Computes i fun t => { ws := [(x.d, v t)] } :=
  (computes_of_pure _ hr hx hi).of_writes (by simp [intEff, satTo]) fun t => by rw [← hv]; rfl

/-- A wrapped 64-bit result (R98). -/
theorem computes_of_intEff64_wrap (f : Int → Int → Int) {v : Thread → DWord}
    (hi : ∀ s, exec i s = runInstr i (fun x => pureBody (intEff64 x .wrap f)) s)
    (hv : ∀ t, BitVec.ofInt 64 (f (t.pair x.a).toInt (srcB64 x t).toInt) = v t) : Computes i fun t => { ws := w2 x.d (v t) } :=
  (computes_of_pure _ hr hx hi).of_writes (by simp [intEff64, satTo]) fun t => by rw [← hv]; rfl

/-- A wrapped value of one word, as IABS and INEG compute it (R97). -/
theorem computes_of_satTo_wrap (f : Int → Int) {v : Thread → Word}
    (hi : ∀ s, exec i s = runInstr i (fun x => pureBody fun t =>
      { ws := w1 x.d (satTo .wrap 32 (f (t.rd x.a).toInt)).1, conds := [(satTo .wrap 32 (f (t.rd x.a).toInt)).2] }) s)
    (hv : ∀ t, BitVec.ofInt 32 (f (t.rd x.a).toInt) = v t) : Computes i fun t => { ws := [(x.d, v t)] } :=
  (computes_of_pure (fun x t => { ws := w1 x.d (satTo .wrap 32 (f (t.rd x.a).toInt)).1, conds := [(satTo .wrap 32 (f (t.rd x.a).toInt)).2] })
    hr hx hi).of_writes (by simp [satTo]) fun t => by rw [← hv]; rfl
end

/-- Settles O1: each of these instructions only computes, and the exact value that it wraps is that of the words' own arithmetic. -/
theorem movesAndWrappingIntegers : Obligations.MovesAndWrappingIntegers := by
  unfold Obligations.MovesAndWrappingIntegers
  refine ⟨fun x w u sh => ⟨?nop, ?mov, ?movw, ?sel, ?lea⟩, fun x u => ⟨?iadd, ?isub, ?imul, ?imad, ?iadd64, ?isub64, ?imul64, ?imulh, ?imulhU,
    ?imad64wU, ?imad64w, ?imin, ?imax, ?iabs, ?ineg⟩⟩
  case nop => exact computes_of_pure (fun _ _ => { ws := [] }) rfl rfl fun _ => rfl
  case mov => exact computes_of_pure_writes rfl rfl _ (fun _ => rfl) fun _ => rfl
  case movw => exact computes_of_pure_writes rfl rfl _ (fun _ => rfl) fun _ => rfl
  case sel => exact computes_of_pure_writes rfl rfl _ (fun _ => rfl) fun t => by simp only [triOf_eq_t]
  case lea => exact computes_of_pure_writes rfl rfl _ (fun _ => rfl) fun t => by rw [shiftLeft_eq_mul_pow]
  case iadd => exact computes_of_intEff_wrap rfl rfl _ (fun _ => rfl) fun t => ofInt_add_toInt _ _
  case isub => exact computes_of_intEff_wrap rfl rfl _ (fun _ => rfl) fun t => ofInt_sub_toInt _ _
  case imul => exact computes_of_intEff_wrap rfl rfl _ (fun _ => rfl) fun t => ofInt_mul_toInt _ _
  case imad => exact computes_of_intEff_wrap rfl rfl _ (fun _ => rfl) fun t => ofInt_mul_add_toInt _ _ _
  case iadd64 => exact computes_of_intEff64_wrap rfl rfl _ (fun _ => rfl) fun t => ofInt_add_toInt _ _
  case isub64 => exact computes_of_intEff64_wrap rfl rfl _ (fun _ => rfl) fun t => ofInt_sub_toInt _ _
  case imul64 => exact computes_of_intEff64_wrap rfl rfl _ (fun _ => rfl) fun t => ofInt_mul_toInt _ _
  case imulh => exact computes_of_pure_writes rfl rfl _ (fun _ => rfl) fun _ => rfl
  case imulhU => exact computes_of_pure_writes rfl rfl _ (fun _ => rfl) fun t => by rw [← ofInt_mul_div_toNat]; rfl
  case imad64wU => exact computes_of_pure_writes rfl rfl _ (fun _ => rfl) fun t => by rw [← (ofInt_mul_add_wide _ _ _ _).1]; rfl
  case imad64w => exact computes_of_pure_writes rfl rfl _ (fun _ => rfl) fun t => by rw [← (ofInt_mul_add_wide _ _ _ _).2]; rfl
  case imin => exact computes_of_pure_writes rfl rfl _ (fun _ => rfl) fun t => by simp only [ext32_le, w1]
  case imax => exact computes_of_pure_writes rfl rfl _ (fun _ => rfl) fun t => by simp only [ext32_le, w1]
  case iabs => exact computes_of_satTo_wrap rfl rfl (fun v => v.natAbs) (fun _ => rfl) fun t => ofInt_natAbs_toInt _
  case ineg => exact computes_of_satTo_wrap rfl rfl (fun v => -v) (fun _ => rfl) fun t => ofInt_neg_toInt _

end Sys2Proof.Machine
end

/-! Branches and calls: O14 (R28, R195) -/
section
namespace Sys2Proof.Machine

/-- What an instruction of the thread comes to, once it is about to have its effect: what its own part finds, dead reads counted (R43). -/
theorem exec_of_runs {i : Instr} {s : State} {e : Env} {r : Row} {x : Ops} (body : Ops → Env → State → Res) (hr : i.row = some r)
    (hx : i.ops = some x) (hi : exec i s = runInstr i body s) (h : Runs i s e) :
    exec i s = .next (e.tookPlace i (body x e (s.counted e i))) := by
  rw [hi, runInstr_ready body h hr hx, effect_eq_tookPlace hr hx]

section
variable {i : Instr} {e : Env} {tgt : DWord}

/-- A transfer to a multiple of 4 takes place there (R28). -/
theorem Env.tookPlace_jumpTo (h : tgt &&& 3 = 0) (ws : List (Reg × Word)) (s : State) :
    e.tookPlace i (jumpTo tgt ws s) = s.leaving e i ws [] tgt := by
  unfold jumpTo
  rw [if_neg (not_not_intro h)]
  rfl

/-- A transfer to any other target is the misalignment fault, which reports the target (R28). -/
theorem Env.tookPlace_jumpTo_misaligned (h : tgt &&& 3 ≠ 0) (hd : e.t.dividing = false) (ws : List (Reg × Word)) (s : State) :
    e.tookPlace i (jumpTo tgt ws s) = s.takeTrap e.ref
      { cause := .misalignment, deferred := false, epc := e.t.pc, eaddr := tgt, einfo := 0, einst := e.words } := by
  unfold jumpTo
  rw [if_pos h]
  exact preciseTrap_taken hd _ _ _ _
end

/-- BRT's first offset is the low word of BRANCH2 (R37, R195). -/
theorem soff32_mod (n : Nat) : soff32 (n % 2 ^ 32) = soff32 n := by
  unfold soff32
  rw [show BitVec.ofNat 32 (n % 2 ^ 32) = BitVec.ofNat 32 n from BitVec.eq_of_toNat_eq (by simp)]

section
variable {x : Ops} {e : Env} {s : State}

theorem brtBody_false (h : e.t.rd x.a = 0) : brtBody x e s = .done s [] [] none := by simp [brtBody, triOf, h]

theorem brtBody_true (h : e.t.rd x.a ≠ 0) (hu : e.t.rd x.a ≠ 0xFFFFFFFF) : brtBody x e s = jumpTo (e.t.pc + soff32 x.ext.toNat) [] s := by
  have ht : triOf (e.t.rd x.a) = .t := by simp only [triOf, if_neg h, if_neg hu]
  rw [brtBody, ht, soff32_mod]

theorem brtBody_undecided (h : e.t.rd x.a = 0xFFFFFFFF) : brtBody x e s = jumpTo (e.t.pc + soff32 (x.ext.toNat / 2 ^ 32)) [] s := by
  simp [brtBody, triOf, h]
end

/-- Settles O14: each of these instructions is a transfer to the target that the statement names, with the writes it names. -/
theorem branchesAndCallsComplete : Obligations.BranchesAndCallsComplete := by
  unfold Obligations.BranchesAndCallsComplete
  constructor
  · intro x s e pc rel rel2 a p goes
    have jumps {i : Instr} {r : Row} (body : Ops → Env → State → Res) {ws : List (Reg × Word)} {tgt : DWord} (hr : i.row = some r)
        (hx : i.ops = some x) (hi : exec i s = runInstr i body s) (hb : ∀ q, body x e q = jumpTo tgt ws q) : goes i ws tgt := by
      intro h ht
      rw [exec_of_runs body hr hx hi h, hb, Env.tookPlace_jumpTo ht]
    refine ⟨?bra, ?brx, ?ret, ?call, ?callx, ?brtF, ?brtT, ?brtU⟩
    case bra => exact jumps braBody rfl rfl rfl fun _ => rfl
    case brx => exact jumps brxBody rfl rfl rfl fun _ => rfl
    case ret => exact jumps brxBody rfl rfl rfl fun _ => rfl
    case call => exact jumps callBody rfl rfl rfl fun _ => rfl
    case callx => exact jumps callxBody rfl rfl rfl fun _ => rfl
    case brtF =>
      intro hp h
      rw [exec_of_runs brtBody rfl rfl rfl h, brtBody_false hp]
      rfl
    case brtT => exact fun hp hu => jumps brtBody rfl rfl rfl fun _ => brtBody_true hp hu
    case brtU => exact fun hp => jumps brtBody rfl rfl rfl fun _ => brtBody_undecided hp
  · intro x s e hd rel traps
    have faults {i : Instr} {r : Row} (body : Ops → Env → State → Res) {ws : List (Reg × Word)} {tgt : DWord} (hr : i.row = some r)
        (hx : i.ops = some x) (hi : exec i s = runInstr i body s) (hb : ∀ q, body x e q = jumpTo tgt ws q) : traps i tgt := by
      intro h ht
      rw [exec_of_runs body hr hx hi h, hb, Env.tookPlace_jumpTo_misaligned ht hd]
    refine ⟨?brx, ?ret, ?callx, ?bra, ?call, ?brtT, ?brtU⟩
    case brx => exact faults brxBody rfl rfl rfl fun _ => rfl
    case ret => exact faults brxBody rfl rfl rfl fun _ => rfl
    case callx => exact faults callxBody rfl rfl rfl fun _ => rfl
    case bra => exact faults braBody rfl rfl rfl fun _ => rfl
    case call => exact faults callBody rfl rfl rfl fun _ => rfl
    case brtT => exact fun hp hu => faults brtBody rfl rfl rfl fun _ => brtBody_true hp hu
    case brtU => exact fun hp => faults brtBody rfl rfl rfl fun _ => brtBody_undecided hp

end Sys2Proof.Machine
end

/-! SPAWN and the creation of a child: O16 (R139, R140, R176, R181, R198, R391) -/
section
namespace Sys2Proof.Machine

/-! ### Absent granules that are filled (R176, R391) -/

/-- The register has been written since the park (R176). -/
def Thread.Written (t : Thread) (i : Fin 256) : Prop := (BitVec.ofNat 8 i.val, true) ∈ t.changed

section
variable (t : Thread) (g : Nat) (bs : List Byte) (i : Fin 256)

/-- A register of the granule takes its value from the bytes, unless it has been written. -/
theorem Thread.fillGranule_read (h : i.val / 16 = g) (hw : ¬t.Written i) :
    (t.fillGranule g bs).regs[i] = { t.regs[i] with val := BitVec.ofNat 32 (field bs (4 * (i.val % 16)) 4) } := by
  have hc : t.changed.contains (BitVec.ofNat 8 i.val, true) = false := by
    rw [List.contains_eq_mem, decide_eq_false_iff_not]; exact hw
  unfold Thread.fillGranule
  dsimp only
  rw [Fin.getElem_fin, Vector.getElem_ofFn]
  exact if_pos (by rw [hc, decide_eq_true h]; rfl)

theorem Thread.fillGranule_kept (h : i.val / 16 ≠ g ∨ t.Written i) : (t.fillGranule g bs).regs[i] = t.regs[i] := by
  have hc : (decide (i.val / 16 = g) && !t.changed.contains (BitVec.ofNat 8 i.val, true)) = false := by
    rcases h with h | h
    · rw [decide_eq_false h]; rfl
    · have : t.changed.contains (BitVec.ofNat 8 i.val, true) = true := by rw [List.contains_eq_mem, decide_eq_true_eq]; exact h
      rw [this, Bool.not_true, Bool.and_false]
  unfold Thread.fillGranule
  dsimp only
  rw [Fin.getElem_fin, Vector.getElem_ofFn]
  exact if_neg (by rw [hc]; exact Bool.false_ne_true)

theorem Thread.fillGranule_regsAt : (t.fillGranule g bs).regsAt = t.regsAt := by rw [Thread.fillGranule]

/-- Filling one granule forgets no write to another. -/
theorem Thread.fillGranule_written (h : i.val / 16 ≠ g) : (t.fillGranule g bs).Written i ↔ t.Written i := by
  have : (BitVec.ofNat 8 i.val).toNat / 16 ≠ g := by rwa [BitVec.toNat_ofNat, Nat.mod_eq_of_lt i.isLt]
  unfold Thread.Written Thread.fillGranule
  rw [List.mem_filter, bne_iff_ne]
  exact and_iff_left this
end

/-- What a filled thread holds in a register of granules that have been filled. -/
structure State.Fills (s : State) (ctx : Nat) (l : List Nat) (a t : Thread) (i : Fin 256) : Prop where
  live : t.regs[i].live = a.regs[i].live
  full : t.regs[i].full = a.regs[i].full
  kept : i.val / 16 ∉ l ∨ a.Written i → t.regs[i] = a.regs[i]
  read : i.val / 16 ∈ l → ¬a.Written i →
    ∃ bs, s.readGlobal ctx (a.regsAt + 64 * (i.val / 16)) 64 = .ok bs ∧ t.regs[i].val = BitVec.ofNat 32 (field bs (4 * (i.val % 16)) 4)

theorem State.fills_of_fillFrom {s : State} {ctx : Nat} {l : List Nat} (hl : l.Nodup) {a t : Thread} (h : s.fillFrom ctx l a = .ok t)
    (i : Fin 256) : s.Fills ctx l a t i := by
  induction l generalizing a with
  | nil =>
    cases h
    exact ⟨rfl, rfl, fun _ => rfl, fun h => absurd h List.not_mem_nil⟩
  | cons g l ih =>
    obtain ⟨hg, hl⟩ := List.nodup_cons.1 hl
    unfold State.fillFrom at h
    split at h
    · cases h
    next bs hbs =>
    split at h
    · cases h
    have ht := ih hl h
    by_cases hi : i.val / 16 = g
    · have hk : t.regs[i] = (a.fillGranule g bs).regs[i] := ht.kept (.inl (hi ▸ hg))
      by_cases hw : a.Written i
      · rw [a.fillGranule_kept g bs i (.inr hw)] at hk
        exact ⟨by rw [hk], by rw [hk], fun _ => hk, fun _ hn => absurd hw hn⟩
      · rw [a.fillGranule_read g bs i hi hw] at hk
        refine ⟨by rw [hk], by rw [hk], ?_, fun _ _ => ⟨bs, by rw [hi, hbs], by rw [hk]⟩⟩
        rintro (hn | hc)
        · exact absurd (hi ▸ List.mem_cons_self) hn
        · exact absurd hc hw
    · have hr := a.fillGranule_kept g bs i (.inl hi)
      have hw := a.fillGranule_written g bs i hi
      refine ⟨ht.live.trans (by rw [hr]), ht.full.trans (by rw [hr]), fun hm => ?_, fun hm hn => ?_⟩
      · exact (ht.kept (hm.imp (fun h hm => h (List.mem_cons_of_mem g hm)) hw.2)).trans hr
      · have := ht.read (List.mem_of_ne_of_mem hi hm) (mt hw.1 hn)
        rwa [a.fillGranule_regsAt g bs] at this

/-- Which granules are filled: those of the mask that are absent. -/
theorem mem_absentGranules {m : BitVec 16} (i : Fin 256) :
    i.val / 16 ∈ (List.range 16).filter m.getLsbD ↔ m.getLsbD (i.val / 16) = true := by
  have hi : i.val / 16 < 16 := by have := i.isLt; omega
  rw [List.mem_filter, List.mem_range, and_iff_right hi]

theorem State.fills_of_filled {s : State} {e : Env} {mask : BitVec 16} {t : Thread} (h : s.filled e mask = .ok t) (i : Fin 256) :
    s.Fills e.pl.ctxNum ((List.range 16).filter (mask &&& e.t.absent).getLsbD) e.t t i := by
  unfold State.filled at h
  split at h
  · cases h
  next hf =>
  cases h
  exact State.fills_of_fillFrom (List.nodup_range.filter _) hf i

theorem State.fillFails_of_filled {s g : State} {e : Env} {mask : BitVec 16} (h : s.filled e mask = .error g) : ∃ va, g = s.fillFails e va := by
  unfold State.filled at h
  split at h
  · cases h; exact ⟨_, rfl⟩
  · cases h

/-! ### The creation of a child (R139, R140, R181) -/

section
variable {s : State} {e : Env} {child : Thread}

theorem State.newThread_of_no_identifier (h : 65535 < e.tm.maxTid + 1) : s.newThread e child = .overflow 3 := by simp [State.newThread, h]

variable (hid : e.tm.maxTid + 1 ≤ 65535)
include hid

theorem State.newThread_of_no_budget (h : e.st.spawnsMax < e.tm.spawns + 1) : s.newThread e child = .overflow 2 := by
  simp [State.newThread, Nat.not_lt.2 hid, h]

variable (hb : e.tm.spawns + 1 ≤ e.st.spawnsMax)
include hb

/-- The first seat is taken where none waits before the child (R181). -/
theorem State.newThread_of_seat {tc b k : Nat} (hr : e.tm.ring = []) (h : s.seatIn e.tm e.st.gran (e.tm.benchesFrom e.tcore e.bench) = some (tc, b, k)) :
    s.newThread e child = .ok (((s.updTeam e.ref.team fun tm =>
      tm.adopt { child with loc := .slot tc b k, born := (s.core (e.tm.cores.getD tc 0)).clock } false).released e.ref).testSync e.ref.team) := by
  simp [State.newThread, Nat.not_lt.2 hid, Nat.not_lt.2 hb, hr, h]

variable (hw : e.tm.ring ≠ [] ∨ s.seatIn e.tm e.st.gran (e.tm.benchesFrom e.tcore e.bench) = none)
include hw

/-- Otherwise the child goes to the ring, where there is room. -/
theorem State.newThread_of_full_ring (h : 2 ^ e.st.srlog ≤ e.tm.ring.length) : s.newThread e child = .overflow 1 := by
  rcases hw with hw | hw <;> simp [State.newThread, Nat.not_lt.2 hid, Nat.not_lt.2 hb, hw, h]

variable (h : e.tm.ring.length < 2 ^ e.st.srlog)
include h

theorem State.newThread_of_ring {g : State}
    (hg : s.writeRing e.pl.ctxNum e.st (e.tm.ringHead + e.tm.ring.length) { child with loc := .ring } (e.tm.maxTid + 1) false = .ok g) :
    s.newThread e child
      = .ok (((g.updTeam e.ref.team fun tm => tm.adopt { child with loc := .ring } true).released e.ref).testSync e.ref.team) := by
  rcases hw with hw | hw <;> simp [State.newThread, Nat.not_lt.2 hid, Nat.not_lt.2 hb, hw, Nat.not_le.2 h, hg]

theorem State.newThread_of_ring_fault {va : Nat} {r : Option Nat}
    (hg : s.writeRing e.pl.ctxNum e.st (e.tm.ringHead + e.tm.ring.length) { child with loc := .ring } (e.tm.maxTid + 1) false = .error (va, r)) :
    s.newThread e child = .fault va r := by
  rcases hw with hw | hw <;> simp [State.newThread, Nat.not_lt.2 hid, Nat.not_lt.2 hb, hw, Nat.not_le.2 h, hg]
end

/-- An instruction whose effect is the creation of a child, as a release, does what R139 and R181 say of it. -/
theorem createsChild_of_tookPlace {i : Instr} {s : State} {e : Env} {child : Thread} {ws : List (Reg × Word)}
    (h : exec i s = .next (e.tookPlace i (releasing e (s.counted e i) fun _ =>
      spawnedRes e (s.counted e i) ((s.counted e i).newThread e child) ws))) : createsChild i s e child ws := by
  unfold createsChild
  extract_lets q tid seat after trap waits written
  have made (hs : e.t.settled = true) {sp : Spawned} (hsp : q.newThread e child = sp) :
      exec i s = .next (e.tookPlace i (spawnedRes e q sp ws)) := by
    rw [h, releasing, inOrder, if_pos hs, ← hsp]
  have overflows (hs : e.t.settled = true) {n : Word} (hsp : q.newThread e child = .overflow n) : trap .spawnOverflow 0 n := by
    intro hd
    rw [made hs hsp]
    exact congrArg _ (preciseTrap_taken hd _ _ _ _)
  refine ⟨fun hs => ?_, fun hs => ⟨fun hid => overflows hs (State.newThread_of_no_identifier hid),
    fun hid hb => overflows hs (State.newThread_of_no_budget hid hb),
    fun hid hb => ⟨?seated, fun hw => ⟨?full, fun hroom => ⟨?ring, ?denied, ?fault⟩⟩⟩⟩⟩
  · rw [h, releasing, inOrder, hs]
    rfl
  case seated => exact fun tc b k hr hseat => made hs (State.newThread_of_seat hid hb hr hseat)
  case full => exact fun hfull => overflows hs (State.newThread_of_full_ring hid hb hw hfull)
  case ring => exact fun g hg => made hs (State.newThread_of_ring hid hb hw hroom hg)
  case denied =>
    intro va hg hd
    rw [made hs (State.newThread_of_ring_fault hid hb hw hroom hg)]
    exact congrArg _ (preciseTrap_taken hd _ _ _ _)
  case fault => exact fun va r hg => made hs (State.newThread_of_ring_fault hid hb hw hroom hg)

/-! ### SPAWN (R198) -/

/-- The registers that SPAWN copies (R198). -/
def spawnCopied (x : Ops) (e : Env) : List Reg := maskRegs ((e.t.rd x.c).setWidth 16) e.st.gran

/-- The granules that it copies, of the kernel's. -/
def spawnGranules (x : Ops) (e : Env) : BitVec 16 := (e.t.rd x.c).setWidth 16 &&& BitVec.ofNat 16 (2 ^ e.st.gran - 1)

/-- The child that it makes, with registers copied from a thread. -/
def spawnSeed (x : Ops) (e : Env) (t : Thread) : Thread :=
  ({ Thread.fresh (spawnTarget x e) (childMode e.t) with
    regs := copyGranules (spawnGranules x e) (finishThread t (marksOf (.spawn x)) [] [] 0) } : Thread).wr x.d
      (0x80000000 ||| BitVec.ofNat 32 e.ref.tid)

section
variable {x : Ops} {e : Env} {s : State}

theorem spawnBody_of_empty (h : (spawnCopied x e).all e.t.full = false) :
    spawnBody x e s = .wait (.regs ((spawnCopied x e).filter fun g => !e.t.full g)) s := by
  have he : ((spawnCopied x e).filter fun g => !e.t.full g).isEmpty = false := by
    rw [List.isEmpty_eq_false_iff, Ne, List.filter_eq_nil_iff]
    simpa using h
  unfold spawnBody
  exact if_pos (by rw [← spawnCopied, he]; rfl)

variable (h : (spawnCopied x e).all e.t.full = true)
include h

/-- With the copied registers full, SPAWN comes to its target (R28). -/
theorem spawnBody_of_full : spawnBody x e s =
    if spawnTarget x e &&& 3 ≠ 0 then .trap .misalignment (spawnTarget x e) 0 s
    else childOf e (marksOf (.spawn x)) [] (spawnGranules x e) (Thread.fresh (spawnTarget x e) (childMode e.t)) s fun child =>
      releasing e s fun _ => spawnedRes e s (s.newThread e (child.wr x.d (0x80000000 ||| BitVec.ofNat 32 e.ref.tid)))
        (w1 x.d (BitVec.ofNat 32 (e.tm.maxTid + 1))) := by
  have he : ((spawnCopied x e).filter fun g => !e.t.full g) = [] := by
    rw [List.filter_eq_nil_iff]
    simpa using h
  unfold spawnBody
  exact if_neg (by rw [← spawnCopied, he]; exact Bool.false_ne_true)

theorem spawnBody_of_misaligned (ht : spawnTarget x e &&& 3 ≠ 0) : spawnBody x e s = .trap .misalignment (spawnTarget x e) 0 s := by
  rw [spawnBody_of_full h, if_pos ht]

variable (ht : spawnTarget x e &&& 3 = 0)
include ht

theorem spawnBody_of_filled {t : Thread} (hf : s.filled e (spawnGranules x e) = .ok t) : spawnBody x e s =
    releasing e s fun _ => spawnedRes e s (s.newThread e (spawnSeed x e t)) [(x.d, BitVec.ofNat 32 (e.tm.maxTid + 1))] := by
  rw [spawnBody_of_full h, if_neg (not_not_intro ht), childOf, hf]
  rfl

theorem spawnBody_of_unfilled {g : State} (hf : s.filled e (spawnGranules x e) = .error g) : spawnBody x e s = .stop g := by
  rw [spawnBody_of_full h, if_neg (not_not_intro ht), childOf, hf]
end

/-- Settles O16: SPAWN's effect is the creation of the child that the statement describes; what is copied of an absent granule is what filling reads,
granule by granule. -/
theorem spawnCreatesTheChild : Obligations.SpawnCreatesTheChild := by
  unfold Obligations.SpawnCreatesTheChild
  refine ⟨fun x s e => ?_, fun s e mask t hf i => ?_, fun s g e mask hf => State.fillFails_of_filled hf⟩
  · intro i q mask tgt own child copied h
    have hrun : exec i s = .next (e.tookPlace i (spawnBody x e q)) := exec_of_runs spawnBody rfl rfl rfl h
    refine ⟨fun hfull htgt => ⟨fun t hf => ?made, fun g hf => ?killed⟩, ?empty, ?misaligned⟩
    case made => exact createsChild_of_tookPlace (by rw [hrun, spawnBody_of_filled hfull htgt hf]; rfl)
    case killed =>
      rw [hrun, spawnBody_of_unfilled hfull htgt hf]
      rfl
    case empty =>
      intro he
      rw [hrun, spawnBody_of_empty he]
      rfl
    case misaligned =>
      intro hfull htgt hd
      rw [hrun, spawnBody_of_misaligned hfull htgt]
      exact congrArg _ (preciseTrap_taken hd _ _ _ _)
  · have hi := State.fills_of_filled hf i
    refine ⟨⟨hi.live, hi.full⟩, fun h => hi.kept (h.imp_left fun hm => ?_), fun hm => hi.read ((mem_absentGranules i).2 hm)⟩
    rw [mem_absentGranules, hm]
    exact Bool.false_ne_true

end Sys2Proof.Machine
end

/-! The patterns that are no instruction: O27 (R25, R26, R41, R44) -/
section
namespace Sys2Proof

/-- The first word of an instruction, of its number (R24). -/
theorem leNat_take_four (n : Len) (bs : List Byte) : leNat (bs.take n.bytes) % 2 ^ 32 = leNat (bs.take 4) := by
  rw [leNat_take, leNat_take]
  cases n <;> simp only [Len.bytes, Len.code] <;> omega

/-- LEN names a length unless it is 00 (R24). -/
theorem Len.exists_code {k : Nat} (h : k % 4 ≠ 0) : ∃ n : Len, n.code = k % 4 := by
  have : k % 4 = 1 ∨ k % 4 = 2 ∨ k % 4 = 3 := by omega
  rcases this with h | h | h
  · exact ⟨.s, h.symm⟩
  · exact ⟨.m, h.symm⟩
  · exact ⟨.l, h.symm⟩

theorem decode_of_short {bs : List Byte} {n : Len} (hn : leNat (bs.take 4) % 4 = n.code) (hl : bs.length < n.bytes) :
    decode bs = .error .fetchBoundary := by
  simp [decode, Len.ofCode_eq_some.2 hn.symm, hl]

section
variable {bs : List Byte} {n : Len} (hn : leNat (bs.take 4) % 4 = n.code) (hl : n.bytes ≤ bs.length)
include hn hl

/-- A whole word of row 0xE is an extension slot, by its low opcode bits (R41). -/
theorem decode_of_row_e (h : leNat (bs.take 4) / 64 % 16 = 0xE) : decode bs = .ok (.extensionSlot (BitVec.ofNat 4 (leNat (bs.take 4) / 4))) := by
  have hw := leNat_take_four n bs
  rw [decode_of_len hn hl, decodeWhole_of_row_e (by omega)]
  congr 2
  exact BitVec.eq_of_toNat_eq (by simp only [BitVec.toNat_ofNat]; omega)

/-- A whole word of row 0xF is no instruction (R42, R44). -/
theorem decode_of_row_f (h : leNat (bs.take 4) / 64 % 16 = 0xF) : decode bs = .error .illegal := by
  have hw := leNat_take_four n bs
  rw [decode_of_len hn hl, decodeWhole_of_row_f (by omega)]
end

namespace Machine

/-- An action of the executing thread's hardware, in terms of what executes. -/
theorem withEnv_of_executing (f : Env → State → State) {s : State} {e : Env} (h : s.executing = some e) : withEnv f s = .next (f e s) := by
  obtain ⟨c, hc, he⟩ := Option.bind_eq_some_iff.1 h
  simp [withEnv, hc, he]

/-- A change of the executing thread may be told by what that thread holds. -/
theorem State.updThread_congr {s : State} {r : ThreadRef} {a : Thread} (h : s.thread r = some a) {f g : Thread → Thread} (hfg : f a = g a) :
    s.updThread r f = s.updThread r g := by
  simp only [State.updThread, h, hfg]

end Machine

open Machine in
/-- Settles O27: the decoder finds LEN, then the row; the pad word and the two faults act on the executing thread alone. -/
theorem patternsThatAreNoInstruction : Obligations.PatternsThatAreNoInstruction := by
  unfold Obligations.PatternsThatAreNoInstruction
  refine ⟨fun bs => ?_, fun s e n he => ⟨?pad, fun hd => ?non, fun hd => ?ext⟩⟩
  · intro w
    have len (h : w % 4 ≠ 0) : ∃ n : Len, leNat (bs.take 4) % 4 = n.code ∧ n.bytes = 4 * (w % 4 + 1) := by
      obtain ⟨n, hn⟩ := Len.exists_code h
      exact ⟨n, hn.symm, by rw [Len.bytes, hn]⟩
    refine ⟨fun hw => ?_, fun h0 hw => ?_, fun h0 hl => ?_, fun h0 hl he => ?_, fun h0 hl hf => ?_⟩
    · exact (decode_of_no_len (by omega)).trans (if_pos hw)
    · exact (decode_of_no_len h0).trans (if_neg hw)
    all_goals obtain ⟨n, hn, hb⟩ := len h0
    · exact decode_of_short hn (hb ▸ hl)
    · exact decode_of_row_e hn (hb ▸ hl) he
    · exact decode_of_row_f hn (hb ▸ hl) hf
  case pad =>
    show execPadWord s = _
    rw [execPadWord, withEnv_of_executing _ he]
    exact congrArg _ (State.updThread_congr (State.thread_of_executing he) rfl)
  case non =>
    show execNonInstruction s = _
    rw [execNonInstruction, withEnv_of_executing _ he, preciseTrap_taken hd]
  case ext =>
    show execExtensionSlot n s = _
    have hinfo : (0xE0 + n.setWidth 32 : Word) = BitVec.ofNat 32 (0xE0 + n.toNat) := BitVec.eq_of_toNat_eq (by simp)
    rw [execExtensionSlot, withEnv_of_executing _ he, preciseTrap_taken hd, hinfo]

end Sys2Proof
end

/-! Fetch: O28 (R27, R255, R368, R369, R375) -/
section
namespace Sys2Proof.Machine

/-! ### What a translation leaves (R358) -/

@[simp] theorem State.core_setCore (s : State) (n : Nat) (c : Core) : (s.setCore n c).core n = c := by simp [State.core, State.setCore]

/-- A translation changes a core's TLB at most. -/
theorem State.translate_snd (s : State) (core ctx : Nat) (last : Option Xlate) (va : Nat) :
    ∃ tlb, (s.translate core ctx last va).2 = s ∨ (s.translate core ctx last va).2 = s.setCore core { s.core core with tlb := tlb } := by
  unfold State.translate
  split
  · exact ⟨[], .inl rfl⟩
  dsimp only
  split
  · exact ⟨[], .inl rfl⟩
  split
  · exact ⟨_, .inr rfl⟩
  · exact ⟨[], .inl rfl⟩

/-- What fetch reads of a package: its bytes and poison, the ports, the answers of peers, and the instruction-cache copies of a core. -/
structure State.SameToFetch (core : Nat) (s z : State) : Prop where
  mems : z.mems = s.mems
  teams : z.teams = s.teams
  tick : z.tick = s.tick
  linkDead : ∀ b, z.linkDead b = s.linkDead b
  poisoned : ∀ r, z.poisoned r = s.poisoned r
  bytes : ∀ b n, z.bytes b n = s.bytes b n
  icache : (z.core core).icache = (s.core core).icache

theorem State.bytes_congr {s z : State} (h : ∀ m a, z.byte m a = s.byte m a) (b : Target) (n : Nat) : z.bytes b n = s.bytes b n := by
  induction n generalizing b with
  | zero => rfl
  | succ n ih => rw [State.bytes, State.bytes, h, ih]

theorem State.sameToFetch_translate (s : State) (core ctx : Nat) (last : Option Xlate) (va : Nat) :
    State.SameToFetch core s (s.translate core ctx last va).2 := by
  obtain ⟨tlb, h | h⟩ := s.translate_snd core ctx last va
  · rw [h]
    exact ⟨rfl, rfl, rfl, fun _ => rfl, fun _ => rfl, fun _ _ => rfl, rfl⟩
  · rw [h]
    refine ⟨rfl, rfl, rfl, fun _ => rfl, fun _ => rfl, State.bytes_congr fun m _ => ?_, by rw [State.core_setCore]⟩
    cases m <;> rfl

/-! ### The outcomes of a fetch on an executable page (R27) -/

/-- The 32-byte block that holds an address (R27). -/
def Xlate.block (x : Xlate) (va : Nat) : Target := { x.place va with addr := (x.place va).addr / 32 * 32 }

/-- Fetch at a canonical program counter on an executable page, the translation made. -/
theorem State.fetch_of_executable {s z : State} {e : Env} {x : Xlate} {b : Target} (hc : canonical e.t.pc.toNat = true)
    (ht : s.translate e.core e.pl.ctxNum none e.t.pc.toNat = (.ok x, z)) (hx : x.x = true) (hb : b = x.block e.t.pc.toNat) : s.fetch e =
      if z.linkDead b then .error (z.linkKill e.ref e.t.pc (Config.route b.addr))
      else if b.mem = .peer ∧ 3 ≤ Config.peerAnswer z.tick then .error (preciseTrap e .accessViolation e.t.pc 0x0B z)
      else if !((z.core e.core).icache.any fun k => decide (k.1 = b)) && z.poisoned (b.range 32) then .error (z.poisonKill e.ref e.t.pc b)
      else .ok ((z.block e.core b).drop (e.t.pc.toNat % 32), z.cacheBlock e.core b) := by
  have hg : x.grants .exec = true := hx
  subst hb
  unfold State.fetch
  simp only [ht, hc, hg, Bool.not_true, Bool.false_eq_true, if_false]
  rfl

/-! ### The instruction cache (R255) -/

section
variable {z : State} {core : Nat} {b : Target}

theorem State.block_of_uncached (h : ∀ k ∈ (z.core core).icache, k.1 ≠ b) : z.block core b = z.bytes b 32 := by
  have : (z.core core).icache.find? (fun k => decide (k.1 = b)) = none := by simpa using h
  rw [State.block, this]

theorem State.block_of_cached {l m : List (Target × List Byte)} {bs : List Byte} (h : (z.core core).icache = l ++ (b, bs) :: m)
    (hl : ∀ k ∈ l, k.1 ≠ b) : z.block core b = bs := by
  have hn : l.find? (fun k => decide (k.1 = b)) = none := by simpa using hl
  rw [State.block, h, List.find?_append, hn, Option.none_or, List.find?_cons_of_pos (by simp)]

theorem State.cacheBlock_teams : (z.cacheBlock core b).teams = z.teams := by
  unfold State.cacheBlock
  split <;> rfl

/-- A copy is kept of a block of this package's own. -/
theorem State.icache_cacheBlock_of_uncached (h : ∀ k ∈ (z.core core).icache, k.1 ≠ b) :
    ((z.cacheBlock core b).core core).icache = (z.core core).icache ++ if b.mem = .peer then [] else [(b, z.bytes b 32)] := by
  have hn : ((z.core core).icache.any fun k => decide (k.1 = b)) = false := by simpa using h
  unfold State.cacheBlock
  by_cases hp : b.mem = .peer
  · simp [hp]
  · simp [hp, hn, State.updCore]

theorem State.cacheBlock_of_cached (h : ((z.core core).icache.any fun k => decide (k.1 = b)) = true) : z.cacheBlock core b = z := by
  rw [State.cacheBlock, h, Bool.or_true, if_pos rfl]
end

/-- Settles O28: the translation that a fetch makes changes nothing that it reads, and the outcomes are those of the block. -/
theorem fetchReadsTheBlock : Obligations.FetchReadsTheBlock := by
  unfold Obligations.FetchReadsTheBlock
  intro s e x hc hx hX t b z refused
  have hz : State.SameToFetch e.core s z := State.sameToFetch_translate ..
  have hf := State.fetch_of_executable (b := b) hc (Prod.ext hx rfl : _ = (Except.ok x, z)) hX rfl
  rw [hz.linkDead, hz.tick, hz.poisoned, hz.icache] at hf
  refine ⟨fun hl hr => ⟨fun hcold hp => ?cold, fun l bs m hic hfirst => ?warm⟩, fun hl => ?dead, fun hl hr hd => ?refused⟩
  case cold =>
    have hcold' : ∀ k ∈ (z.core e.core).icache, k.1 ≠ b := hz.icache.symm ▸ hcold
    rw [if_neg (by simp [hl]), if_neg hr, if_neg (by simp [hp]), State.block_of_uncached hcold', hz.bytes] at hf
    refine ⟨_, hf, (State.cacheBlock_mems ..).trans hz.mems, State.cacheBlock_teams.trans hz.teams, ?_⟩
    rw [State.icache_cacheBlock_of_uncached hcold', hz.icache, hz.bytes]
  case warm =>
    have hany : ((s.core e.core).icache.any fun k => decide (k.1 = b)) = true := by simp [hic]
    rw [if_neg (by simp [hl]), if_neg hr, if_neg (by simp [hany]), State.block_of_cached (hz.icache.trans hic) hfirst,
      State.cacheBlock_of_cached (by rw [hz.icache, hany])] at hf
    exact ⟨z, hf, hz.mems, hz.teams, hz.icache⟩
  case dead => rw [hf, if_pos hl]
  case refused =>
    rw [hf, if_neg (by simp [hl]), if_pos hr, preciseTrap_taken hd]

end Sys2Proof.Machine
end

/-! Around an instruction's own effect: O32 and O33 (R30, R32 to R35, R89, R95, R177) -/
section
namespace Sys2Proof.Machine

/-! ### Every instruction of a thread runs through the pipeline (R43) -/

theorem andThen_id (o : Host.Outcome State Fault Refusal) : andThen (fun s => s) o = o := by cases o <;> rfl

/-- An instruction of a thread is a body in the pipeline, and what follows it. -/
def Instr.RunsBy (i : Instr) (body : Ops → Env → State → Res) : Prop := ∀ s, exec i s = andThen (andTests i) (runInstr i body s)

theorem runsBy_of_runInstr {i : Instr} {body : Ops → Env → State → Res} (ha : andTests i = fun s => s) (h : ∀ s, exec i s = runInstr i body s) :
    Instr.RunsBy i body := fun s => by rw [ha, andThen_id, h]

theorem exists_runsBy {i : Instr} {x : Ops} (hx : i.ops = some x) : ∃ body, Instr.RunsBy i body := by
  cases i with
  | rvx => exact ⟨rvxBody, fun _ => rfl⟩
  | rvred => exact ⟨_, fun _ => rfl⟩
  | extensionSlot | padWord | nonInstruction | heldTrap | producerCompletion | waitEnd | pickerOverride | yieldExpiry | eventWindowRestart
  | arbiterPass | preemption | teamPark | rackFire | teamRestore | displacement | spawnRingStart | teamExit | barrierWatchdog | queueServe
  | qpushAccept | engineCompletion | groupAssembly | collAbort | weltEnqueue | matrixCommandExecute | sketchOperation | homeAtomic
  | homeRequest | hbmReply | scrubPass | scrubEscalation | frameMigration | wsRefresh | splitChange | faultRecord | uncorrectableError
  | correctedError | ctxtab | ctxcnt | qtab | qcount | fresume | fresumeDeny | tlbinvVa | tlbinvAll | doorbell | unlistedRegisterWrite
  | launch | wait | wsload | fill | copy | reservedTypePacket | packetCompletion | hostMemAccess | flitReceive | linkDown | remoteRequest
  | boot | firmwareImage | partitionCreate | partitionDestroy | faultRingEntryCleared | hostCxlCacheSnoop => cases hx
  | _ => exact ⟨_, runsBy_of_runInstr rfl fun _ => rfl⟩

/-- What an instruction of the executing thread comes to, whatever its own effect. -/
theorem exists_exec_eq_pipeline {i : Instr} {s : State} {e : Env} {r : Row} {x : Ops} (hr : i.row = some r) (hx : i.ops = some x)
    (he : s.executing = some e) : ∃ body, exec i s = .next (andTests i (pipeline e r x body s)) := by
  obtain ⟨body, hb⟩ := exists_runsBy hx
  exact ⟨body x, by rw [hb, runInstr_of_executing body he hr hx]; rfl⟩

/-- An instruction with operand fields has a row. -/
theorem exists_row {i : Instr} {x : Ops} (hx : i.ops = some x) : ∃ r, i.row = some r := by
  obtain ⟨hs, -⟩ := Laws.Rows.statement i
  exact Option.isSome_iff_exists.1 (hs.trans (by simp [hx]))

/-! ### The guard (R32, R33) -/

/-- GS turns the instruction off by the guard's value (R32). -/
theorem guardOn_triOf_eq_false {gs : BitVec 2} {v : Word} (h : match gs.toNat with
    | 0 => v = 0 ∨ v = 0xFFFFFFFF
    | 1 => v ≠ 0
    | 2 => v ≠ 0xFFFFFFFF
    | _ => v ≠ 0 ∧ v ≠ 0xFFFFFFFF) : guardOn gs (triOf v) = false := by
  unfold guardOn
  generalize gs.toNat = n at h ⊢
  match n with
  | 0 =>
    obtain rfl | rfl : v = 0 ∨ v = 0xFFFFFFFF := h <;> rfl
  | 1 =>
    have h : v ≠ 0 := h
    simp only [triOf, if_neg h]
    split <;> rfl
  | 2 =>
    have h : v ≠ 0xFFFFFFFF := h
    simp only [triOf, if_neg h]
    split <;> rfl
  | _ + 3 =>
    obtain ⟨h0, hu⟩ : v ≠ 0 ∧ v ≠ 0xFFFFFFFF := h
    simp only [triOf, if_neg h0, if_neg hu]
    rfl

/-- A dead register reads as 0 (R34). -/
theorem Thread.rd_of_isDead {t : Thread} {g : Reg} (h : t.isDead g = true) : t.rd g = 0 := by
  simp only [Thread.isDead, Bool.not_eq_true'] at h
  simp [Thread.rd, h]

theorem State.thread_count (s : State) (k : Counter) (l : List Nat) (r : ThreadRef) : (s.count k l).thread r = s.thread r := by
  unfold State.count State.countAt
  split <;> rfl

/-- Counting a dead guard leaves the executing thread where it stands. -/
theorem State.thread_guardCounted {s : State} {e : Env} (he : s.executing = some e) (i : Instr) :
    ∃ a, (s.guardCounted e i).thread e.ref = some a ∧ a.pc = e.t.pc := by
  have ht := State.thread_of_executing he
  unfold State.guardCounted
  split
  · split
    · exact ⟨_, State.thread_updThread _ ((State.thread_count ..).trans ht), rfl⟩
    · exact ⟨_, ht, rfl⟩
  · exact ⟨_, ht, rfl⟩

section
variable {i : Instr} {s : State} {e : Env} {r : Row} {x : Ops} {body : Env → State → Res}

theorem guarded_of_unguarded (hg : x.g = 0) : guarded e r x body s = sources e r x body s := by
  unfold guarded
  exact if_pos hg

variable (hg : x.g ≠ 0)
include hg

theorem guarded_of_empty (hf : e.t.full x.g = false) : guarded e r x body s = s.wait e.ref (.regs [x.g]) := by
  have hg : ¬x.g = 0#8 := hg
  simp [guarded, hg, hf]

variable (hx : i.ops = some x) (hf : e.t.full x.g = true)
include hx hf

/-- A full guard has its dead read counted; then it traps in mode T, runs the instruction, or turns it off. -/
theorem guarded_of_full : guarded e r x body s =
    if e.t.isDead x.g && e.t.modeT then preciseTrap e .deadRegister 0 (x.g.setWidth 32) (s.guardCounted e i)
    else if guardOn x.gs (triOf (e.t.rd x.g)) then sources e r x body (s.guardCounted e i)
    else (s.guardCounted e i).updThread e.ref fun t => finishThread t [] [] [] (advance t.pc x.len.bytes) := by
  have hg : ¬x.g = 0#8 := hg
  simp [guarded, State.guardCounted, hx, hg, hf]
end

/-! ### Guarded-off instructions -/

/-- Settles O32: every instruction of a thread comes to its guard, which waits, traps, or moves the program counter. -/
theorem guardedOffInstructionsSkip : Obligations.GuardedOffInstructionsSkip := by
  unfold Obligations.GuardedOffInstructionsSkip
  intro i s e x v off q hx he hn hg
  obtain ⟨r, hr⟩ := exists_row hx
  obtain ⟨body, hb⟩ := exists_exec_eq_pipeline hr hx he
  obtain ⟨hnamed, habsent⟩ := hn r x hr hx
  rw [pipeline_of_present hnamed habsent] at hb
  refine ⟨fun hf => ?_, fun hf hl hoff => ?_, fun hf hd hT hdiv => ?_, Thread.rd_of_isDead⟩
  · rw [hb, guarded_of_empty hg hf]
  · have hlive : (e.t.isDead x.g && e.t.modeT) = false := by rcases hl with h | h <;> simp [h]
    have hnext : e.nextPc i = advance e.t.pc x.len.bytes := by simp [Env.nextPc, hx]
    obtain ⟨a, ha, hpc⟩ := State.thread_guardCounted he i
    rw [hb, guarded_of_full hg hx hf, hlive, guardOn_triOf_eq_false hoff, hnext, ← hpc]
    exact congrArg (fun t => Host.Outcome.next (andTests i t)) (State.updThread_congr ha rfl)
  · rw [hb, guarded_of_full hg hx hf, hd, hT, ← preciseTrap_taken hdiv]
    rfl

/-! ### The lowest register of a list (R34) -/

theorem foldl_lower_eq {g : Reg} {l : List Reg} {m : Reg} (hm : g.toNat ≤ m.toNat) (hl : ∀ h ∈ l, g.toNat ≤ h.toNat) (hg : m = g ∨ g ∈ l) :
    l.foldl (fun m r => if r.toNat < m.toNat then r else m) m = g := by
  induction l generalizing m with
  | nil => simpa using hg
  | cons a l ih =>
    have ha := hl a (by simp)
    have hl' : ∀ h ∈ l, g.toNat ≤ h.toNat := fun h hh => hl h (by simp [hh])
    rw [List.foldl_cons]
    split
    · rename_i hlt
      refine ih ha hl' ?_
      obtain rfl | hg := hg
      · omega
      · exact (List.mem_cons.1 hg).imp_left Eq.symm
    · rename_i hlt
      refine ih hm hl' ?_
      obtain rfl | hg := hg
      · exact .inl rfl
      · refine (List.mem_cons.1 hg).imp_left fun h => ?_
        subst h
        exact BitVec.eq_of_toNat_eq (by omega)

/-- A register of a list that no other is below is the lowest one. -/
theorem lowest_eq {g : Reg} {l : List Reg} (hg : g ∈ l) (hl : ∀ h ∈ l, g.toNat ≤ h.toNat) : lowest l = g := by
  cases l with
  | nil => cases hg
  | cons a l => exact foldl_lower_eq (hl a (by simp)) hl (.inr hg)

/-- A precise trap with neither address nor operation information is what the statements say of it. -/
theorem preciseTrap_eq_raises (e : Env) (c : Cause) (info : Word) (q : State) : preciseTrap e c 0 info q = raises e q c info := by
  simp only [preciseTrap, raises, Bool.and_eq_true, decide_eq_true_eq, Bool.not_eq_true', and_assoc]

/-! ### The sources (R34, R89) -/

/-- Without a guard, only the sources' dead reads are counted. -/
theorem State.counted_of_unguarded {i : Instr} {x : Ops} (hx : i.ops = some x) (hg : x.g = 0) (s : State) (e : Env) :
    s.counted e i = if e.t.phase < 2 then (s.countDead e.counter (e.deadReads i).length).setPhase e.ref 2 else s := by
  simp [State.counted, State.guardCounted, hx, hg]

section
variable {e : Env} {r : Row} {x : Ops} {body : Env → State → Res} {s : State}

theorem sources_of_empty_ep {g : Reg} (hg : g ∈ (rowEps r x).filter fun g => !e.t.full g)
    (hl : ∀ h ∈ (rowEps r x).filter fun g => !e.t.full g, g.toNat ≤ h.toNat) :
    sources e r x body s = raises e s .emptyRegister (g.setWidth 32) := by
  unfold sources
  rw [if_pos (by simpa using List.ne_nil_of_mem hg), lowest_eq hg hl, preciseTrap_eq_raises]

variable (he : ((rowEps r x).filter fun g => !e.t.full g) = [])
include he

theorem sources_of_pending (hp : ((rowWaits r x).filter fun g => !e.t.full g) ≠ []) :
    sources e r x body s = s.wait e.ref (.regs ((rowWaits r x).filter fun g => !e.t.full g)) := by
  unfold sources
  rw [if_neg (by simp [he]), if_pos (by simpa using hp)]

variable (hp : ((rowWaits r x).filter fun g => !e.t.full g) = [])
include hp

/-- In mode T one dead source is counted, and the lowest one is trapped on. -/
theorem sources_of_dead_modeT (hT : e.t.modeT = true) {g : Reg} (hg : g ∈ (rowReads r x).filter fun g => e.t.isDead g && g != x.g)
    (hl : ∀ h ∈ (rowReads r x).filter fun g => e.t.isDead g && g != x.g, g.toNat ≤ h.toNat) :
    sources e r x body s
      = raises e (if e.t.phase < 2 then (s.countDead e.counter 1).setPhase e.ref 2 else s) .deadRegister (g.setWidth 32) := by
  have hmem : g ∈ ((rowReads r x).filter fun g => e.t.isDead g && g != x.g).eraseDups := List.mem_eraseDups.2 hg
  have hlow := lowest_eq hmem fun h hh => hl h (List.mem_eraseDups.1 hh)
  have hne := List.ne_nil_of_mem hmem
  have hone : min ((rowReads r x).filter fun g => e.t.isDead g && g != x.g).eraseDups.length 1 = 1 := by
    have := List.length_pos_of_mem hmem
    omega
  unfold sources
  rw [if_neg (by simp [he]), if_neg (by simp [hp])]
  simp only [hT, if_true, hone, hlow]
  rw [if_pos (by simpa using hne), preciseTrap_eq_raises]

/-- Dead sources in mode Z, or none in mode T, are counted; then every destination must be full. -/
theorem sources_of_late {i : Instr} (hr : i.row = some r) (hx : i.ops = some x) (hg : x.g = 0)
    (hd : e.t.modeT = false ∨ ((rowReads r x).filter fun g => e.t.isDead g && g != x.g) = [])
    (hn : ((rowDests r x).filter fun g => !e.t.full g) ≠ []) :
    sources e r x body s = (s.counted e i).wait e.ref (.regs ((rowDests r x).filter fun g => !e.t.full g)) := by
  have hdead : e.deadReads i = ((rowReads r x).filter fun g => e.t.isDead g && g != x.g).eraseDups := by simp [Env.deadReads, hr, hx]
  have hcount : (if e.t.modeT then min (e.deadReads i).length 1 else (e.deadReads i).length) = (e.deadReads i).length := by
    rcases hd with h | h
    · simp [h]
    · simp [hdead, h]
  have hrun : ¬(e.t.modeT && !(e.deadReads i).isEmpty) = true := by
    rcases hd with h | h
    · simp [h]
    · simp [hdead, h]
  unfold sources
  rw [if_neg (by simp [he]), if_neg (by simp [hp]), State.counted_of_unguarded hx hg]
  simp only [← hdead, hcount]
  rw [if_neg hrun, if_pos (by simpa using hn)]
end

/-! ### Counting dead reads (R89, R91) -/

/-- The dead reads that have arisen on a core in its clock (class 7). -/
def Core.deadCount (c : Core) : Nat := (c.arisen.filter fun a => decide (a.cls = 7)).length

theorem filter_insertArisen_length (a : Arisen) (l : List Arisen) (p : Arisen → Bool) :
    ((insertArisen a l).filter p).length = (l.filter p).length + (if p a then 1 else 0) := by
  induction l with
  | nil => cases h : p a <;> simp [insertArisen, h]
  | cons b l ih =>
    unfold insertArisen
    split
    · cases h : p b <;> simp [h, ih]
      omega
    · cases h : p a <;> simp [h]

/-- Each dead read that arises is one more. -/
theorem filter_foldl_insertArisen_length (place n : Nat) (k : Counter) (l : List Arisen) :
    (((List.replicate n 7).foldl (fun a n => insertArisen { place := place, by_ := k, cls := n } a) l).filter fun a => decide (a.cls = 7)).length
      = (l.filter fun a => decide (a.cls = 7)).length + n := by
  induction n generalizing l with
  | zero => rfl
  | succ n ih =>
    rw [List.replicate_succ, List.foldl_cons, ih, filter_insertArisen_length]
    simp
    omega

theorem State.core_updCore_same (s : State) (n : Nat) (f : Core → Core) : (s.updCore n f).core n = f (s.core n) := by simp [State.updCore]

theorem State.core_updCore_ne (s : State) {n k : Nat} (f : Core → Core) (h : k ≠ n) : (s.updCore n f).core k = s.core k := by
  simp [State.updCore, State.setCore, State.core, Tbl.look_put_ne _ _ h.symm]

@[simp] theorem State.core_setPhase (s : State) (r : ThreadRef) (n k : Nat) : (s.setPhase r n).core k = s.core k := by
  simp [State.setPhase, State.core]

theorem State.core_countDead_ne (s : State) {k : Counter} (n : Nat) {c : Nat} (h : c ≠ k.core) : (s.countDead k n).core c = s.core c := by
  unfold State.countDead State.count State.countAt
  split
  · rfl
  · exact State.core_updCore_ne s _ h

theorem State.deadCount_countDead (s : State) (k : Counter) (n : Nat) :
    ((s.countDead k n).core k.core).deadCount = (s.core k.core).deadCount + n := by
  unfold State.countDead State.count State.countAt
  split
  · obtain rfl : n = 0 := by simpa using ‹(List.replicate n 7).isEmpty = true›
    rfl
  · rw [State.core_updCore_same]
    exact filter_foldl_insertArisen_length ..

/-- The dead reads that an instruction counts for its guard. -/
def Env.guardDeadReads (e : Env) (i : Instr) : Nat :=
  match i.ops with
  | some x => if x.g ≠ 0 ∧ e.t.isDead x.g = true then 1 else 0
  | none => 0

section
variable (s : State) {e : Env} (i : Instr)

theorem State.core_guardCounted_ne {k : Nat} (hk : k ≠ e.core) : (s.guardCounted e i).core k = s.core k := by
  unfold State.guardCounted
  split
  · split
    · rw [State.core_setPhase, State.core_countDead_ne s _ hk]
    · rfl
  · rfl

theorem State.core_counted_ne {k : Nat} (hk : k ≠ e.core) : (s.counted e i).core k = s.core k := by
  have hg := State.core_guardCounted_ne s i hk
  unfold State.counted
  split
  · rw [State.core_setPhase, State.core_countDead_ne _ _ hk, hg]
  · exact hg

variable (h0 : e.t.phase = 0)
include h0

theorem State.deadCount_guardCounted : ((s.guardCounted e i).core e.core).deadCount = (s.core e.core).deadCount + e.guardDeadReads i := by
  unfold State.guardCounted Env.guardDeadReads
  cases i.ops with
  | none => rfl
  | some x =>
    by_cases hg : x.g = 0
    · simp [hg]
    · have hc := State.deadCount_countDead s e.counter (if e.t.isDead x.g then 1 else 0)
      simp only [hg, h0, ne_eq, not_false_eq_true, decide_true, Nat.lt_add_one, Bool.and_self, if_true, State.core_setPhase, true_and]
      exact hc

theorem State.deadCount_counted :
    ((s.counted e i).core e.core).deadCount = (s.core e.core).deadCount + (e.deadReads i).length + e.guardDeadReads i := by
  have hg := State.deadCount_guardCounted s i h0
  have hc := State.deadCount_countDead (s.guardCounted e i) e.counter (e.deadReads i).length
  unfold State.counted
  rw [if_pos (by omega), State.core_setPhase]
  calc (((s.guardCounted e i).countDead e.counter (e.deadReads i).length).core e.core).deadCount
    _ = ((s.guardCounted e i).core e.core).deadCount + (e.deadReads i).length := hc
    _ = _ := by omega
end

/-- A register at or above 16 times the kernel's granules makes the instruction illegal (R30). -/
theorem pipeline_of_beyond {e : Env} {r : Row} {x : Ops} {body : Env → State → Res} {s : State} (h : ∃ g ∈ rowNamed r x, 16 * e.st.gran ≤ g.toNat) :
    pipeline e r x body s = raises e s .illegal 0 := by
  unfold pipeline
  rw [if_pos (by simpa using h), preciseTrap_eq_raises]

/-- Settles O33: the three parts are the outcomes of reading the sources, the bound on the registers, and what counting adds to the core. -/
theorem sourcesComeFirst : Obligations.SourcesComeFirst := by
  unfold Obligations.SourcesComeFirst
  refine ⟨fun i s e r x hr hx he hn hg => ?_, fun i s e r x hr hx he hb => ?_, fun i s e _ h0 => ?_⟩
  · obtain ⟨body, hexec⟩ := exists_exec_eq_pipeline hr hx he
    obtain ⟨hnamed, habsent⟩ := hn r x hr hx
    rw [pipeline_of_present hnamed habsent, guarded_of_unguarded hg] at hexec
    intro empties pending dead late trap
    refine ⟨fun g hm hl => ?_, fun hem hp => ?_, fun hem hp hT g hm hl => ?_, fun hem hp hd hlate => ?_⟩
    · rw [hexec, sources_of_empty_ep hm hl]
    · rw [hexec, sources_of_pending hem hp]
    · rw [hexec, sources_of_dead_modeT hem hp hT hm hl]
    · rw [hexec, sources_of_late hem hp hr hx hg hd hlate]
  · obtain ⟨body, hexec⟩ := exists_exec_eq_pipeline hr hx he
    rw [hexec, pipeline_of_beyond hb]
  · exact ⟨fun k hk => by rw [State.core_counted_ne s i hk], State.deadCount_counted s i h0⟩

end Sys2Proof.Machine
end

/-! The saturating integer instructions: O2 (R88, R96 to R98), and the package after reset: O31 (R90, R201, R213, R362, R370) -/
section
namespace Sys2Proof.Machine

/-- The integer that a saturating form reads from a word: signed for `.sat`, unsigned for `.satU` (R96). -/
def satRead (m : SatMode) (w : Nat) (v : BitVec w) : Int := if m = .sat then v.toInt else (v.toNat : Int)

/-- The clamp of a saturating form (R88). -/
def satClamp (w : Nat) (m : SatMode) (v : Int) : BitVec w × Conds :=
  if m = .sat then clampedTo w (-2 ^ (w - 1)) (2 ^ (w - 1) - 1) v else clampedTo w 0 (2 ^ w - 1) v

/-- The clamp with its flag is the clamped value and the condition that the clamp changed it (R88). -/
theorem ofInt_satInt (w : Nat) (lo hi v : Int) :
    (BitVec.ofInt w (satInt lo hi v).1, ({ ns := (satInt lo hi v).2 } : Conds)) = clampedTo w lo hi v := by
  unfold satInt clampedTo
  split_ifs with h₁ h₂ <;> simp [*]

theorem satTo_sat (w : Nat) (v : Int) : satTo .sat w v = clampedTo w (-2 ^ (w - 1)) (2 ^ (w - 1) - 1) v :=
  ofInt_satInt w _ _ v

section
variable {m : SatMode} (hm : m ≠ .wrap)
include hm

theorem satTo_eq_satClamp (w : Nat) (v : Int) : satTo m w v = satClamp w m v := by
  cases m with
  | wrap => exact absurd rfl hm
  | sat => exact satTo_sat w v
  | satU => exact ofInt_satInt w _ _ v

theorem ext32_satU (v : Word) : ext32 (satU m) v = satRead m 32 v := by
  cases m with
  | wrap => exact absurd rfl hm
  | sat | satU => rfl

theorem ext64_satU (v : DWord) : ext64 (satU m) v = satRead m 64 v := by
  cases m with
  | wrap => exact absurd rfl hm
  | sat | satU => rfl

/-- A saturating 32-bit instruction clamps the exact value of its operands (R97). -/
theorem intEff_saturating (x : Ops) (f : Int → Int → Int → Int) (t : Thread) : intEff x m f t =
    { ws := [(x.d, (satClamp 32 m (f (satRead m 32 (t.rd x.a)) (satRead m 32 (srcB x t)) (satRead m 32 (t.rd x.c)))).1)],
      conds := [(satClamp 32 m (f (satRead m 32 (t.rd x.a)) (satRead m 32 (srcB x t)) (satRead m 32 (t.rd x.c)))).2] } := by
  simp only [intEff, ext32_satU hm, satTo_eq_satClamp hm, w1]

/-- A saturating 64-bit instruction clamps the exact value of its operands (R98). -/
theorem intEff64_saturating (x : Ops) (f : Int → Int → Int) (t : Thread) : intEff64 x m f t =
    { ws := w2 x.d (satClamp 64 m (f (satRead m 64 (t.pair x.a)) (satRead m 64 (srcB64 x t)))).1,
      conds := [(satClamp 64 m (f (satRead m 64 (t.pair x.a)) (satRead m 64 (srcB64 x t)))).2] } := by
  simp only [intEff64, ext64_satU hm, satTo_eq_satClamp hm]
end

/-- An instruction that only computes, by what its effect comes to. -/
theorem computes_of_pure_eq {i : Instr} {r : Row} {x : Ops} (f : Ops → Thread → Eff) {g : Thread → Eff} (hr : i.row = some r)
    (hx : i.ops = some x) (hi : ∀ s, exec i s = runInstr i (fun x => pureBody (f x)) s) (hg : ∀ t, f x t = g t) : Computes i g :=
  (funext hg : f x = g) ▸ computes_of_pure f hr hx hi

/-- Settles O2: each of these instructions only computes, and its clamp is that of the exact value. -/
theorem integerResultsSaturate : Obligations.IntegerResultsSaturate := by
  unfold Obligations.IntegerResultsSaturate
  intro clamp int x m hm run32 run64
  refine ⟨?iadd, ?isub, ?imul, ?imad, ?iadd64, ?isub64, ?imul64, ?iabs, ?ineg⟩
  case iadd => exact computes_of_pure_eq _ rfl rfl (fun _ => rfl) (intEff_saturating hm x fun a b _ => a + b)
  case isub => exact computes_of_pure_eq _ rfl rfl (fun _ => rfl) (intEff_saturating hm x fun a b _ => a - b)
  case imul => exact computes_of_pure_eq _ rfl rfl (fun _ => rfl) (intEff_saturating hm x fun a b _ => a * b)
  case imad => exact computes_of_pure_eq _ rfl rfl (fun _ => rfl) (intEff_saturating hm x fun a b c => a * b + c)
  case iadd64 => exact computes_of_pure_eq _ rfl rfl (fun _ => rfl) (intEff64_saturating hm x fun a b => a + b)
  case isub64 => exact computes_of_pure_eq _ rfl rfl (fun _ => rfl) (intEff64_saturating hm x fun a b => a - b)
  case imul64 => exact computes_of_pure_eq _ rfl rfl (fun _ => rfl) (intEff64_saturating hm x fun a b => a * b)
  case iabs => exact computes_of_pure_eq _ rfl rfl (fun _ => rfl) fun t => by simp only [satTo_sat, w1, if_true]
  case ineg => exact computes_of_pure_eq _ rfl rfl (fun _ => rfl) fun t => by simp only [satTo_sat, w1, if_true]

/-- Settles O31: the tables of `State.reset` are empty, and a table without entries answers with the default. -/
theorem resetLeavesNothingRunning : Obligations.ResetLeavesNothingRunning :=
  ⟨rfl, rfl, rfl, rfl, rfl, rfl, rfl, rfl, State.reset_mems_form, fun _ => ⟨rfl, rfl⟩, fun _ _ => ⟨rfl, rfl, rfl, rfl⟩⟩

end Sys2Proof.Machine
end

/-! Exact numbers: dyadics and the rounding to an integer (R82, R85, R86) -/
section
namespace Sys2Proof.Machine

/-! ### The number of a dyadic -/

theorem absOf_eq_abs (q : Rat) : absOf q = |q| := by
  unfold absOf
  split_ifs with h
  · rw [abs_of_neg h]
  · rw [abs_of_nonneg (not_lt.1 h)]

/-- The number that a dyadic stands for. -/
def Dyadic.num (d : Dyadic) : Rat := (d.m : Rat) * (2 : Rat) ^ d.e

theorem ratOf_eq_num (v : FVal) : ratOf v = v.dyadic.num := rfl

theorem ratOf_fin (neg : Bool) (m : Nat) (e : Int) : ratOf (.fin neg m e) = (signedMag neg m : Rat) * (2 : Rat) ^ e := rfl

theorem two_zpow_pos (e : Int) : (0 : Rat) < (2 : Rat) ^ e := zpow_pos (by norm_num) e

theorem two_zpow_ne_zero (e : Int) : (2 : Rat) ^ e ≠ 0 := (two_zpow_pos e).ne'

theorem two_zpow_add (a b : Int) : (2 : Rat) ^ (a + b) = (2 : Rat) ^ a * (2 : Rat) ^ b := zpow_add₀ (by norm_num) a b

theorem two_zpow_le {a b : Int} (h : a ≤ b) : (2 : Rat) ^ a ≤ (2 : Rat) ^ b := zpow_le_zpow_right₀ (by norm_num) h

theorem two_zpow_lt {a b : Int} (h : a < b) : (2 : Rat) ^ a < (2 : Rat) ^ b := zpow_lt_zpow_right₀ (by norm_num) h

theorem two_zpow_le_iff {a b : Int} : (2 : Rat) ^ a ≤ (2 : Rat) ^ b ↔ a ≤ b := zpow_le_zpow_iff_right₀ (by norm_num)

theorem two_zpow_lt_iff {a b : Int} : (2 : Rat) ^ a < (2 : Rat) ^ b ↔ a < b := zpow_lt_zpow_iff_right₀ (by norm_num)

/-- A power of two taken out of a larger one. -/
theorem two_zpow_split {a b : Int} (h : a ≤ b) : (2 : Rat) ^ b = (2 ^ (b - a).toNat : Nat) * (2 : Rat) ^ a := by
  conv_lhs => rw [show b = ((b - a).toNat : Int) + a by omega, two_zpow_add, zpow_natCast]
  norm_cast

theorem Dyadic.num_add (a b : Dyadic) : (a.add b).num = a.num + b.num := by
  simp only [Dyadic.add, Dyadic.num]
  rw [two_zpow_split (min_le_left a.e b.e), two_zpow_split (min_le_right a.e b.e)]
  push_cast
  ring

theorem Dyadic.num_mul (a b : Dyadic) : (a.mul b).num = a.num * b.num := by
  simp only [Dyadic.mul, Dyadic.num, two_zpow_add]
  push_cast
  ring

theorem Dyadic.num_sub (a b : Dyadic) : (a.sub b).num = a.num - b.num := by
  rw [Dyadic.sub, Dyadic.num_add]
  simp only [Dyadic.num]
  push_cast
  ring

theorem Dyadic.num_nonpos_iff (d : Dyadic) : d.num ≤ 0 ↔ d.m ≤ 0 := by
  rw [Dyadic.num, ← not_lt, mul_pos_iff_of_pos_right (two_zpow_pos _), not_lt]
  exact_mod_cast Iff.rfl

theorem Dyadic.num_neg_iff (d : Dyadic) : d.num < 0 ↔ d.m < 0 := by
  rw [Dyadic.num, ← not_le, mul_nonneg_iff_of_pos_right (two_zpow_pos _), not_le]
  exact_mod_cast Iff.rfl

theorem Dyadic.num_eq_zero_iff (d : Dyadic) : d.num = 0 ↔ d.m = 0 := by
  rw [Dyadic.num, mul_eq_zero_iff_right (two_zpow_ne_zero _)]
  exact_mod_cast Iff.rfl

@[simp] theorem Dyadic.le_iff (a b : Dyadic) : a.le b = true ↔ a.num ≤ b.num := by
  rw [Dyadic.le, decide_eq_true_iff, ← Dyadic.num_nonpos_iff, Dyadic.num_sub, sub_nonpos]

@[simp] theorem Dyadic.lt_iff (a b : Dyadic) : a.lt b = true ↔ a.num < b.num := by
  rw [Dyadic.lt, decide_eq_true_iff, ← Dyadic.num_neg_iff, Dyadic.num_sub, sub_neg]

@[simp] theorem Dyadic.eqv_iff (a b : Dyadic) : a.eqv b = true ↔ a.num = b.num := by
  rw [Dyadic.eqv, decide_eq_true_iff, ← Dyadic.num_eq_zero_iff, Dyadic.num_sub, sub_eq_zero]

theorem natAbs_signedMag (neg : Bool) (m : Nat) : (signedMag neg m).natAbs = m := by cases neg <;> simp [signedMag]

theorem abs_ratOf_fin (neg : Bool) (m : Nat) (e : Int) : |ratOf (.fin neg m e)| = (m : Rat) * (2 : Rat) ^ e := by
  rw [ratOf_fin, abs_mul, abs_of_pos (two_zpow_pos e)]
  cases neg <;> simp [signedMag]

theorem ratOf_fin_eq_zero (neg : Bool) (m : Nat) (e : Int) : ratOf (.fin neg m e) = 0 ↔ m = 0 := by
  rw [← abs_eq_zero, abs_ratOf_fin, mul_eq_zero_iff_right (two_zpow_ne_zero _), Nat.cast_eq_zero]

theorem ratOf_fin_neg (neg : Bool) (m : Nat) (e : Int) : ratOf (.fin neg m e) < 0 ↔ neg = true ∧ m ≠ 0 := by
  rw [ratOf_eq_num, Dyadic.num_neg_iff]
  cases neg <;> simp [FVal.dyadic, signedMag, Nat.pos_iff_ne_zero]

/-! ### Rounding to an integer -/

/-- The mode that rounds negated numbers as a mode rounds the numbers. -/
def RMode.mirror (mode : RMode) : RMode :=
  match mode with
  | .rne => .rne
  | .rtz => .rtz
  | .rup => .rdn
  | .rdn => .rup

theorem roundsTo_neg {mode : RMode} {w : Rat} {k : Int} (h : roundsTo mode.mirror w k) : roundsTo mode (-w) (-k) := by
  cases mode with
  | rne =>
    obtain ⟨h1, h2⟩ := h
    have hd : absOf ((-k : Int) - -w) = absOf (k - w) := by rw [absOf_eq_abs, absOf_eq_abs, ← abs_neg]; push_cast; ring_nf
    exact ⟨hd ▸ h1, fun h => by have := h2 (hd ▸ h); omega⟩
  | rtz =>
    simp only [RMode.mirror, roundsTo, absOf_eq_abs] at h ⊢
    obtain ⟨h1, h2, h3⟩ := h
    rw [Int.cast_neg, abs_neg, abs_neg]
    refine ⟨h1, h2, or_iff_not_imp_left.2 fun hk => ?_⟩
    rw [Int.neg_eq_zero] at hk
    replace h3 := h3.resolve_left hk
    have hw : w ≠ 0 := fun h0 => hk (by simpa [h0] using h1)
    rw [Int.neg_lt_zero_iff, neg_lt_zero]
    constructor
    · intro h; exact lt_of_le_of_ne (not_lt.1 fun hl => by have := h3.2 hl; omega) hw.symm
    · intro h; exact lt_of_le_of_ne (not_lt.1 fun hl => by have := h3.1 hl; linarith) (Ne.symm hk)
  | rup =>
    simp only [RMode.mirror, roundsTo] at h ⊢
    push_cast
    exact ⟨by linarith, by linarith⟩
  | rdn =>
    simp only [RMode.mirror, roundsTo] at h ⊢
    push_cast
    exact ⟨by linarith, by linarith⟩

/-- The choice between the two neighbours of the size `n + t` of a number (R82). -/
def roundsUp (mode : RMode) (neg : Bool) (n : Nat) (t : Rat) : Prop :=
  match mode with
  | .rne => 1 / 2 < t ∨ (t = 1 / 2 ∧ n % 2 = 1)
  | .rtz => False
  | .rup => neg = false ∧ t ≠ 0
  | .rdn => neg = true ∧ t ≠ 0

/-- The size of a nonnegative number, rounded as `roundsUp` says. -/
theorem roundsTo_of_roundsUp {mode : RMode} {n k : Nat} {t : Rat} (h0 : 0 ≤ t) (h1 : t < 1)
    (hk : (roundsUp mode false n t ∧ k = n + 1) ∨ (¬roundsUp mode false n t ∧ k = n)) : roundsTo mode (n + t) k := by
  have hn : (0 : Rat) ≤ n := n.cast_nonneg
  rcases hk with ⟨hu, rfl⟩ | ⟨hu, rfl⟩
  · cases mode with
    | rne =>
      have hd : |(((n + 1 : Nat) : Int) : Rat) - (n + t)| = 1 - t := by rw [abs_of_nonneg (by push_cast; linarith)]; push_cast; ring
      simp only [roundsTo, absOf_eq_abs, hd]
      exact ⟨by rcases hu with hu | hu <;> linarith, fun h => by rcases hu with hu | hu <;> [linarith; omega]⟩
    | rtz => exact hu.elim
    | rup =>
      have : 0 < t := lt_of_le_of_ne h0 hu.2.symm
      simp only [roundsTo]
      push_cast
      exact ⟨by linarith, by linarith⟩
    | rdn => simp [roundsUp] at hu
  · cases mode with
    | rne =>
      have hd : |(((k : Nat) : Int) : Rat) - (k + t)| = t := by rw [abs_of_nonpos (by push_cast; linarith)]; push_cast; ring
      simp only [roundsUp, not_or, not_and, not_lt] at hu
      simp only [roundsTo, absOf_eq_abs, hd]
      exact ⟨by linarith, fun h => by have := hu.2 (by linarith); omega⟩
    | rtz =>
      simp only [roundsTo, absOf_eq_abs]
      push_cast
      rw [abs_of_nonneg hn, abs_of_nonneg (add_nonneg hn h0)]
      refine ⟨by linarith, by linarith, .inr ⟨fun h => by omega, fun h => by linarith⟩⟩
    | rup =>
      have : t = 0 := by simpa [roundsUp] using hu
      simp only [roundsTo]
      push_cast
      exact ⟨by linarith, by linarith⟩
    | rdn =>
      simp only [roundsTo]
      push_cast
      exact ⟨by linarith, by linarith⟩

theorem roundsUp_mirror {mode : RMode} {n : Nat} {t : Rat} : roundsUp mode.mirror false n t ↔ roundsUp mode true n t := by
  cases mode <;> simp [RMode.mirror, roundsUp]

/-- The rounding of a number with a sign, by the rounding of its size. -/
theorem roundsTo_signed {mode : RMode} {neg : Bool} {n k : Nat} {t : Rat} (h0 : 0 ≤ t) (h1 : t < 1)
    (hk : (roundsUp mode neg n t ∧ k = n + 1) ∨ (¬roundsUp mode neg n t ∧ k = n)) :
    roundsTo mode (if neg then -(n + t) else n + t) (signedMag neg k) := by
  cases neg with
  | false => exact roundsTo_of_roundsUp h0 h1 hk
  | true => exact roundsTo_neg (roundsTo_of_roundsUp h0 h1 (by simpa only [roundsUp_mirror] using hk))

section
variable {mode : RMode} {neg : Bool} {m : Nat} {e q : Int}

theorem roundAt_of_le (h : q ≤ e) : roundAt mode neg m e q = (m * 2 ^ (e - q).toNat, true) := by
  obtain ⟨k, hk⟩ := Int.eq_ofNat_of_zero_le (Int.sub_nonneg.2 h)
  rw [roundAt, if_pos h, hk]
  rfl

theorem roundAt_of_lt (h : e < q) : let d := 2 ^ (q - e).toNat
    (roundAt mode neg m e q).2 = decide (m % d = 0) ∧ let t : Rat := (m % d : Nat) / (d : Nat)
      (roundsUp mode neg (m / d) t ∧ (roundAt mode neg m e q).1 = m / d + 1)
      ∨ (¬roundsUp mode neg (m / d) t ∧ (roundAt mode neg m e q).1 = m / d) := by
  intro d
  rw [roundAt, if_neg (by omega)]
  refine ⟨rfl, ?_⟩
  intro t
  have hd : (0 : Rat) < d := by positivity
  have h2 : d = 2 * 2 ^ ((q - e).toNat - 1) := by
    rw [← Nat.pow_succ', show ((q - e).toNat - 1).succ = (q - e).toNat by omega]
  have hgt : 1 / 2 < t ↔ 2 ^ ((q - e).toNat - 1) < m % d := by
    rw [lt_div_iff₀ hd, ← Nat.cast_lt (α := Rat), h2]; push_cast; constructor <;> intro h <;> linarith
  have heq : t = 1 / 2 ↔ m % d = 2 ^ ((q - e).toNat - 1) := by
    rw [div_eq_iff hd.ne', ← Nat.cast_inj (R := Rat), h2]; push_cast; constructor <;> intro h <;> linarith
  have hz : t = 0 ↔ m % d = 0 := by rw [div_eq_zero_iff, or_iff_left hd.ne', Nat.cast_eq_zero]
  cases mode with
  | rne =>
    simp only [roundsUp, hgt, heq, Bool.or_eq_true, Bool.and_eq_true, decide_eq_true_eq]
    split_ifs with hu
    · exact .inl ⟨hu, rfl⟩
    · exact .inr ⟨hu, rfl⟩
  | rtz => exact .inr ⟨id, rfl⟩
  | rup | rdn =>
    simp only [roundsUp, ne_eq, hz, Bool.and_eq_true, Bool.not_eq_true', decide_not]
    split_ifs with hu
    · exact .inl ⟨by simpa using hu, rfl⟩
    · exact .inr ⟨by simpa using hu, rfl⟩

theorem ratOf_fin_div (q : Int) : ratOf (.fin neg m e) / (2 : Rat) ^ q = (signedMag neg m : Rat) * (2 : Rat) ^ (e - q) := by
  rw [ratOf_fin, mul_div_assoc, ← zpow_sub₀ two_ne_zero]

theorem signedMag_eq_ite (neg : Bool) (m : Nat) : ((signedMag neg m : Int) : Rat) = if neg then -(m : Rat) else m := by
  cases neg <;> simp [signedMag]

theorem not_roundsUp_zero (n : Nat) : ¬roundsUp mode neg n 0 := by cases mode <;> norm_num [roundsUp]

/-- `roundAt` rounds the number, in units of `2 ^ q`, as the mode demands, and tells whether it is exact (R82). -/
theorem roundAt_spec : roundsTo mode (ratOf (.fin neg m e) / (2 : Rat) ^ q) (signedMag neg (roundAt mode neg m e q).1)
    ∧ ((roundAt mode neg m e q).2 = true ↔ ratOf (.fin neg m e) / (2 : Rat) ^ q = signedMag neg (roundAt mode neg m e q).1) := by
  rw [ratOf_fin_div, signedMag_eq_ite, signedMag_eq_ite]
  rcases le_or_gt q e with h | h
  · rw [roundAt_of_le h]
    have hw : (m : Rat) * (2 : Rat) ^ (e - q) = (m * 2 ^ (e - q).toNat : Nat) := by
      rw [two_zpow_split (Int.sub_nonneg.2 h)]
      simp
    have := roundsTo_signed le_rfl zero_lt_one (.inr ⟨not_roundsUp_zero (mode := mode) (neg := neg) (m * 2 ^ (e - q).toNat), rfl⟩)
    rw [add_zero, ← hw] at this
    cases neg with
    | false => exact ⟨this, by simp [hw]⟩
    | true => exact ⟨by simpa using this, by simp [hw]⟩
  · obtain ⟨hx, hk⟩ := roundAt_of_lt (mode := mode) (neg := neg) (m := m) h
    set d := 2 ^ (q - e).toNat with hd
    have hd0 : (0 : Rat) < d := by positivity
    set t : Rat := (m % d : Nat) / (d : Nat) with ht
    have h0 : 0 ≤ t := by positivity
    have h1 : t < 1 := by rw [div_lt_one hd0]; exact_mod_cast Nat.mod_lt _ (by positivity)
    have hz : t = 0 ↔ m % d = 0 := by rw [div_eq_zero_iff, or_iff_left hd0.ne', Nat.cast_eq_zero]
    have hw : (m : Rat) * (2 : Rat) ^ (e - q) = (m / d : Nat) + t := by
      rw [ht, ← neg_sub q e, zpow_neg, ← div_eq_mul_inv, two_zpow_split (Int.sub_nonneg.2 h.le), sub_zero, zpow_zero, mul_one, ← hd,
        div_eq_iff hd0.ne', add_mul, div_mul_cancel₀ _ hd0.ne']
      exact_mod_cast (Nat.div_add_mod' m d).symm
    have hex : t = 0 ↔ ((m / d : Nat) : Rat) + t = (roundAt mode neg m e q).1 := by
      rcases hk with ⟨hu, hk⟩ | ⟨hu, hk⟩
      · have : t ≠ 0 := fun h => not_roundsUp_zero _ (h ▸ hu)
        rw [hk]
        push_cast
        exact ⟨fun h => absurd h this, fun h => by linarith⟩
      · rw [hk, add_eq_left]
    have := roundsTo_signed h0 h1 hk
    rw [← hw] at this hex
    rw [hx, decide_eq_true_iff, ← hz, hex]
    cases neg with
    | false => exact ⟨this, by simp⟩
    | true => exact ⟨by simpa using this, by simp⟩
end

end Sys2Proof.Machine
end

/-! Numbers of a format: which neighbours a rounding has to choose from (R76, R82) -/
section
namespace Sys2Proof.Machine

/-! ### The integer that a number is rounded to -/

section
variable {mode : RMode} {w : Rat} {k i : Int}

theorem le_of_roundsTo (h : roundsTo mode w k) (hw : w ≤ i) : k ≤ i := by
  by_contra hk
  have hk1 : (i : Rat) + 1 ≤ k := by exact_mod_cast not_le.1 hk
  cases mode with
  | rne =>
    obtain ⟨h1, -⟩ := h
    rw [absOf_eq_abs] at h1
    linarith [le_abs_self ((k : Rat) - w)]
  | rup => exact absurd h.2 (by linarith)
  | rdn => exact absurd h.1 (by linarith)
  | rtz =>
    obtain ⟨h1, h2, h3⟩ := h
    rw [absOf_eq_abs, absOf_eq_abs] at h1 h2
    rcases le_or_gt 0 w with h0 | h0
    · rw [abs_of_nonneg h0] at h1
      linarith [le_abs_self (k : Rat)]
    · rw [abs_of_neg h0] at h2
      have hk0 : (k : Rat) ≤ 0 := by
        rcases h3 with h3 | h3
        · simp [h3]
        · exact_mod_cast (h3.2 h0).le
      rw [abs_of_nonpos hk0] at h2
      linarith

theorem mirror_mirror (mode : RMode) : mode.mirror.mirror = mode := by cases mode <;> rfl

theorem ge_of_roundsTo (h : roundsTo mode w k) (hw : i ≤ w) : i ≤ k := by
  have h' := roundsTo_neg (mode := mode.mirror) (by rwa [mirror_mirror])
  have := le_of_roundsTo (i := -i) h' (by push_cast; linarith)
  omega

theorem roundsTo_rne_le {j : Int} (h : roundsTo .rne w k) (h' : roundsTo .rne w j) : j ≤ k := by
  obtain ⟨h1, h2⟩ := h
  obtain ⟨h3, h4⟩ := h'
  rw [absOf_eq_abs] at h1 h2 h3 h4
  by_contra hkj
  have hkj : (k : Rat) + 1 ≤ j := by exact_mod_cast not_le.1 hkj
  have hk := neg_abs_le ((k : Rat) - w)
  have hj := le_abs_self ((j : Rat) - w)
  have : j = k + 1 := by
    have : (j : Rat) = k + 1 := by linarith
    exact_mod_cast this
  have := h2 (by linarith)
  have := h4 (by linarith)
  omega

/-- Rounding to nearest gives one integer (R82). -/
theorem roundsTo_rne_unique {j : Int} (h : roundsTo .rne w k) (h' : roundsTo .rne w j) : k = j :=
  Int.le_antisymm (roundsTo_rne_le h' h) (roundsTo_rne_le h h')
end

/-! ### The neighbours of a number -/

/-- `z` does not lie strictly between the two integers around the size of `w`. -/
def Fits (w z : Rat) : Prop := |z| ≤ ⌊|w|⌋ ∨ (⌊|w|⌋ : Rat) + 1 ≤ |z|

/-- What a mode asks of a result `y` for a number `v`, compared with another candidate `z`; `even` tells that the result's code is even (R82). -/
def Closer (mode : RMode) (even : Prop) (v y z : Rat) : Prop :=
  match mode with
  | .rdn => y ≤ v ∧ (z ≤ v → z ≤ y)
  | .rup => v ≤ y ∧ (v ≤ z → y ≤ z)
  | .rtz => absOf y ≤ absOf v ∧ (absOf z ≤ absOf v → absOf z ≤ absOf y)
  | .rne => absOf (y - v) ≤ absOf (z - v) ∧ (absOf (y - v) = absOf (z - v) → y = z ∨ even)

theorem isRounded_iff {f : FFmt} {mode : RMode} {code : Nat} {v : Rat} : isRounded f mode code v ↔
    isNumber (f.value code) ∧ ∀ c, isNumber (f.value c) → Closer mode (code % 2 = 0) v (ratOf (f.value code)) (ratOf (f.value c)) := by
  cases mode <;> rfl

section
variable {mode : RMode} {w z : Rat} {k : Int}

theorem Fits.neg (h : Fits w z) : Fits (-w) (-z) := by simpa [Fits] using h

theorem Fits.le_below (h : Fits w z) (hk : k ≤ w) (hk1 : w < k + 1) (hz : z ≤ w) : z ≤ k := by
  rcases le_or_gt 0 w with h0 | h0
  · have hf : ⌊|w|⌋ = k := by rw [abs_of_nonneg h0]; exact Int.floor_eq_iff.2 ⟨hk, hk1⟩
    have hk0 : (0 : Rat) ≤ k := by exact_mod_cast hf ▸ Int.floor_nonneg.2 (abs_nonneg w)
    rw [Fits, hf] at h
    rcases h with h | h
    · exact (le_abs_self z).trans h
    · rcases le_or_gt 0 z with hz0 | hz0
      · rw [abs_of_nonneg hz0] at h
        linarith
      · linarith
  · have hf := Int.floor_le |w|
    have hf1 := Int.lt_floor_add_one |w|
    rw [Fits, abs_of_neg (hz.trans_lt h0)] at h
    rw [abs_of_neg h0] at h hf hf1
    have hkf : -⌊-w⌋ - 1 ≤ k := by
      have : (-⌊-w⌋ - 1 : Rat) < k + 1 := by linarith
      have : -⌊-w⌋ - 1 < k + 1 := by exact_mod_cast this
      omega
    have hkf' : (-⌊-w⌋ - 1 : Rat) ≤ k := by exact_mod_cast hkf
    rcases h with h | h
    · have : (k : Rat) = -⌊-w⌋ := by
        have h1 : k ≤ -⌊-w⌋ := by
          have : (k : Rat) ≤ (-⌊-w⌋ : Int) := by push_cast; linarith
          exact_mod_cast this
        have h2 : -⌊-w⌋ < k + 1 := by
          have : ((-⌊-w⌋ : Int) : Rat) < (k + 1 : Int) := by push_cast; linarith
          exact_mod_cast this
        have : k = -⌊-w⌋ := by omega
        exact_mod_cast this
      linarith
    · linarith

theorem Fits.le_above (h : Fits w z) (hk : w ≤ k) (hk1 : k < w + 1) (hz : w ≤ z) : k ≤ z := by
  have := h.neg.le_below (k := -k) (by push_cast; linarith) (by push_cast; linarith) (by linarith)
  push_cast at this
  linarith

/-- To nearest, no candidate below the number is closer. -/
theorem Fits.nearest_below (h : Fits w z) (hk : roundsTo .rne w k) (hz : z ≤ w) :
    |k - w| ≤ |z - w| ∧ (|k - w| = |z - w| → k = z ∨ k % 2 = 0) := by
  obtain ⟨h1, h2⟩ := hk
  rw [absOf_eq_abs] at h1 h2
  rw [abs_of_nonpos (sub_nonpos.2 hz)]
  rcases le_or_gt (k : Rat) w with hkw | hkw
  · rw [abs_of_nonpos (sub_nonpos.2 hkw)] at *
    have := h.le_below hkw (by linarith) hz
    exact ⟨by linarith, fun _ => .inl (by linarith)⟩
  · rw [abs_of_pos (sub_pos.2 hkw)] at *
    have := h.le_below (k := k - 1) (by push_cast; linarith) (by push_cast; linarith) hz
    push_cast at this
    exact ⟨by linarith, fun _ => .inr (h2 (by linarith))⟩

/-- The integer that a number is rounded to is at least as close as any other candidate (R82). -/
theorem Fits.closer (h : Fits w z) (hk : roundsTo mode w k) : Closer mode (k % 2 = 0) w k z := by
  cases mode with
  | rdn => exact ⟨hk.1, h.le_below hk.1 hk.2⟩
  | rup => exact ⟨hk.1, h.le_above hk.1 hk.2⟩
  | rne =>
    simp only [Closer, absOf_eq_abs]
    rcases le_total z w with hz | hz
    · exact h.nearest_below hk hz
    · have := h.neg.nearest_below (roundsTo_neg (mode := .rne) hk) (neg_le_neg hz)
      rw [Int.cast_neg, ← neg_sub', abs_neg, ← neg_sub', abs_neg, neg_inj, Int.neg_emod_two] at this
      exact this
  | rtz =>
    obtain ⟨h1, h2, -⟩ := hk
    simp only [absOf_eq_abs] at h1 h2
    have hf : ⌊|w|⌋ = |k| := Int.floor_eq_iff.2 ⟨by exact_mod_cast h1, by exact_mod_cast h2⟩
    simp only [Closer, absOf_eq_abs]
    refine ⟨h1, fun hz => ?_⟩
    rw [Fits, hf, Int.cast_abs] at h
    exact h.resolve_right fun h => by linarith
end
end Sys2Proof.Machine
end

/-! Numbers of a format: the quantum, the magnitude that is rounded to it, and tininess (R82, R85) -/
section
namespace Sys2Proof.Machine

/-- The numbers whose size has at most `fb + 1` bits above a quantum of at least `2 ^ qmin` (R76, R78). -/
def Grid (fb : Nat) (qmin : Int) (z : Rat) : Prop := ∃ n k : Nat, n < 2 ^ (fb + 1) ∧ |z| = n * (2 : Rat) ^ (qmin + k)

/-- The exponent of the quantum to which a magnitude is rounded (R82, R85). -/
def quantum (fb : Nat) (qmin : Int) (m : Nat) (e : Int) : Int := max (e + m.log2 - fb) qmin

section
variable {fb : Nat} {qmin : Int} {mode : RMode} {neg : Bool} {m : Nat} {e : Int}

theorem top_le_size (h : m ≠ 0) : (2 : Rat) ^ (e + m.log2) ≤ |ratOf (.fin neg m e)| := by
  rw [abs_ratOf_fin, add_comm, two_zpow_add, zpow_natCast]
  exact mul_le_mul_of_nonneg_right (by exact_mod_cast Nat.log2_self_le h) (two_zpow_pos e).le

theorem size_lt_top (neg : Bool) (m : Nat) (e : Int) : |ratOf (.fin neg m e)| < (2 : Rat) ^ (e + m.log2 + 1) := by
  rw [abs_ratOf_fin, show e + (m.log2 : Int) + 1 = ((m.log2 + 1 : Nat) : Int) + e by push_cast; ring, two_zpow_add, zpow_natCast]
  exact mul_lt_mul_of_pos_right (by exact_mod_cast Nat.lt_log2_self) (two_zpow_pos e)

theorem abs_div_two_zpow (v : Rat) (q : Int) : |v / (2 : Rat) ^ q| = |v| / (2 : Rat) ^ q := by
  rw [abs_div, abs_of_pos (two_zpow_pos q)]

/-- No number of the format lies strictly between the two neighbours of a number on its quantum. -/
theorem Grid.fits {z : Rat} (hz : Grid fb qmin z) (hm : m ≠ 0) :
    Fits (ratOf (.fin neg m e) / (2 : Rat) ^ quantum fb qmin m e) (z / (2 : Rat) ^ quantum fb qmin m e) := by
  obtain ⟨n, k, hn, hz⟩ := hz
  rw [Fits, abs_div_two_zpow, abs_div_two_zpow, hz, mul_div_assoc, ← zpow_sub₀ two_ne_zero]
  set V := |ratOf (.fin neg m e)| / (2 : Rat) ^ quantum fb qmin m e with hV
  rcases le_or_gt (quantum fb qmin m e) (qmin + k) with h | h
  · obtain ⟨j, hj⟩ := Int.eq_ofNat_of_zero_le (Int.sub_nonneg.2 h)
    rw [hj, show (n : Rat) * (2 : Rat) ^ (j : Int) = ((n * 2 ^ j : Nat) : Int) by push_cast; rw [zpow_natCast]]
    rcases le_or_gt ((n * 2 ^ j : Nat) : Int) ⌊V⌋ with h' | h'
    · exact .inl (by exact_mod_cast h')
    · exact .inr (by exact_mod_cast h')
  · have hq : quantum fb qmin m e = e + m.log2 - fb := by
      unfold quantum at h ⊢
      omega
    have hf : (2 : Rat) ^ (fb : Int) ≤ V := by
      rw [hV, le_div_iff₀ (two_zpow_pos _), ← two_zpow_add, hq, add_sub_cancel]
      exact top_le_size hm
    have hf' : ((2 ^ fb : Nat) : Int) ≤ ⌊V⌋ := Int.le_floor.2 (by push_cast; rwa [zpow_natCast] at hf)
    refine .inl (le_trans (b := ((2 ^ fb : Nat) : Rat)) ?_ (by exact_mod_cast hf'))
    have h2 : (n : Rat) ≤ 2 ^ (fb + 1) := by exact_mod_cast hn.le
    calc (n : Rat) * (2 : Rat) ^ (qmin + k - quantum fb qmin m e) ≤ 2 ^ (fb + 1) * (2 : Rat) ^ (-1 : Int) :=
          mul_le_mul h2 (two_zpow_le (by omega)) (two_zpow_pos _).le (by positivity)
      _ = ((2 ^ fb : Nat) : Rat) := by rw [zpow_neg_one, pow_succ]; push_cast; field_simp

theorem Closer.scale {even : Prop} {v y z s : Rat} (h : Closer mode even v y z) (hs : 0 < s) : Closer mode even (v * s) (y * s) (z * s) := by
  cases mode with
  | rdn => simpa only [Closer, mul_le_mul_iff_of_pos_right hs] using h
  | rup => simpa only [Closer, mul_le_mul_iff_of_pos_right hs] using h
  | rtz => simpa only [Closer, absOf_eq_abs, abs_mul, abs_of_pos hs, mul_le_mul_iff_of_pos_right hs] using h
  | rne =>
    simpa only [Closer, absOf_eq_abs, ← sub_mul, abs_mul, abs_of_pos hs, mul_le_mul_iff_of_pos_right hs, mul_left_inj' hs.ne'] using h

/-- The number on the quantum that `roundAt` gives is as close as any number of the format (R82). -/
theorem roundAt_closer {z : Rat} (hz : Grid fb qmin z) (hm : m ≠ 0) : let q := quantum fb qmin m e
    let n := (roundAt mode neg m e q).1
    Closer mode (n % 2 = 0) (ratOf (.fin neg m e)) (ratOf (.fin neg n q)) z := by
  intro q n
  have h := ((hz.fits (neg := neg) (e := e) hm).closer (roundAt_spec (mode := mode)).1).scale (two_zpow_pos q)
  rw [div_mul_cancel₀ _ (two_zpow_ne_zero q), div_mul_cancel₀ _ (two_zpow_ne_zero q)] at h
  have he (n : Nat) : signedMag neg n % 2 = 0 ↔ n % 2 = 0 := by cases neg <;> simp only [signedMag] <;> simp <;> omega
  simp only [he] at h
  exact h

/-! ### How large the rounded magnitude is -/

theorem roundAt_le {q : Int} {i : Nat} (h : |ratOf (.fin neg m e)| ≤ i * (2 : Rat) ^ q) : (roundAt mode neg m e q).1 ≤ i := by
  have hs := (roundAt_spec (mode := mode) (neg := neg) (m := m) (e := e) (q := q)).1
  obtain ⟨h1, h2⟩ := abs_le.1 ((abs_div_two_zpow _ q).trans_le ((div_le_iff₀ (two_zpow_pos q)).2 h))
  cases neg with
  | false => exact Int.ofNat_le.1 (le_of_roundsTo (i := i) hs (by exact_mod_cast h2))
  | true =>
    have := ge_of_roundsTo (i := -i) hs (by push_cast; exact h1)
    simp [signedMag] at this
    omega

theorem le_roundAt {q : Int} {i : Nat} (h : i * (2 : Rat) ^ q ≤ |ratOf (.fin neg m e)|) : i ≤ (roundAt mode neg m e q).1 := by
  have hs := (roundAt_spec (mode := mode) (neg := neg) (m := m) (e := e) (q := q)).1
  rw [abs_ratOf_fin, ← le_div_iff₀ (two_zpow_pos q), mul_div_assoc, ← zpow_sub₀ two_ne_zero] at h
  rw [ratOf_fin_div, signedMag_eq_ite] at hs
  cases neg with
  | false => exact Int.ofNat_le.1 (ge_of_roundsTo (i := i) hs (by simpa using h))
  | true =>
    have := le_of_roundsTo (i := -i) hs (by simpa using h)
    simp [signedMag] at this
    omega

/-- The rounded magnitude fills the format's precision, but below the smallest normal number. -/
theorem roundAt_quantum_bounds (hm : m ≠ 0) : let n := (roundAt mode neg m e (quantum fb qmin m e)).1
    n ≤ 2 ^ (fb + 1) ∧ (qmin < quantum fb qmin m e → 2 ^ fb ≤ n) := by
  refine ⟨roundAt_le ?_, fun h => le_roundAt ?_⟩
  · push_cast
    rw [← zpow_natCast, ← two_zpow_add]
    exact (size_lt_top neg m e).le.trans (two_zpow_le (by unfold quantum; push_cast; omega))
  · push_cast
    rw [← zpow_natCast, ← two_zpow_add]
    exact le_trans (two_zpow_le (by unfold quantum at h ⊢; omega)) (top_le_size hm)

/-- With no bound on the exponent the rounded magnitude fills the format's precision. -/
theorem roundAt_unit_bounds (hm : m ≠ 0) : let n := (roundAt mode neg m e (e + m.log2 - fb)).1
    2 ^ fb ≤ n ∧ n ≤ 2 ^ (fb + 1) := by
  refine ⟨le_roundAt ?_, roundAt_le ?_⟩
  · push_cast
    rw [← zpow_natCast, ← two_zpow_add]
    exact le_trans (two_zpow_le (by omega)) (top_le_size hm)
  · push_cast
    rw [← zpow_natCast, ← two_zpow_add]
    exact (size_lt_top neg m e).le.trans (two_zpow_le (by push_cast; omega))

/-- Tininess after rounding (R85): the number, rounded with no bound on the exponent, is below the smallest normal number. -/
theorem tiny_iff (hm : m ≠ 0) (emin : Int) : let top := e + (m.log2 : Int)
    let n := (roundAt mode neg m e (top - fb)).1
    (decide (top < emin) && !(decide (top + 1 = emin) && decide (n = 2 ^ (fb + 1)))) = true ↔ (n : Rat) * (2 : Rat) ^ (top - fb) < (2 : Rat) ^ emin := by
  intro top n
  obtain ⟨h1, h2⟩ := roundAt_unit_bounds (mode := mode) (neg := neg) (e := e) (fb := fb) hm
  have hp (k : Nat) : (2 : Rat) ^ (top - fb + k) = ((2 ^ k : Nat) : Rat) * (2 : Rat) ^ (top - fb) := by
    rw [add_comm, two_zpow_add, zpow_natCast]; push_cast; rfl
  have hpos := two_zpow_pos (top - fb)
  simp only [Bool.and_eq_true, decide_eq_true_eq, Bool.not_eq_true', Bool.and_eq_false_iff, decide_eq_false_iff_not]
  rcases lt_trichotomy (top + 1) emin with h | h | h
  · refine iff_of_true ⟨by omega, .inl (by omega)⟩ (lt_of_le_of_lt ?_ (two_zpow_lt h))
    rw [show top + 1 = top - fb + ((fb + 1 : Nat) : Int) by push_cast; ring, hp]
    exact mul_le_mul_of_nonneg_right (by exact_mod_cast h2) hpos.le
  · rw [← h, show top + 1 = top - fb + ((fb + 1 : Nat) : Int) by push_cast; ring, hp, mul_lt_mul_iff_of_pos_right hpos, Nat.cast_lt]
    simp only [show top < top - fb + ((fb + 1 : Nat) : Int) by push_cast; omega, true_and]
    constructor
    · rintro (h' | h')
      · exact absurd trivial h'
      · exact lt_of_le_of_ne h2 h'
    · exact fun h' => .inr h'.ne
  · refine iff_of_false (fun h' => by omega) (not_lt.2 ?_)
    refine (two_zpow_le (by omega : emin ≤ top - fb + fb)).trans ?_
    rw [hp]
    exact mul_le_mul_of_nonneg_right (by exact_mod_cast h1) hpos.le
end
end Sys2Proof.Machine
end

/-! Codes and the numbers that they stand for (R76, R78) -/
section
namespace Sys2Proof.Machine

/-- The significand that a code of `fb` fraction bits stands for (R76, R78). -/
def sigOf (fb c : Nat) : Nat := if c / 2 ^ fb = 0 then c % 2 ^ fb else 2 ^ fb + c % 2 ^ fb

theorem sigOf_lt (fb c : Nat) : sigOf fb c < 2 ^ (fb + 1) := by
  have : c % 2 ^ fb < 2 ^ fb := Nat.mod_lt _ (by positivity)
  rw [sigOf, pow_succ]
  split_ifs <;> omega

/-- The code that a rounding puts together from exponent and significand, a carry included, stands for just that number. -/
theorem sigOf_mul_pow {fb k n : Nat} (hn : n ≤ 2 ^ (fb + 1)) (hk : k = 0 ∨ 2 ^ fb ≤ n) :
    sigOf fb (k * 2 ^ fb + n) * 2 ^ ((k * 2 ^ fb + n) / 2 ^ fb - 1) = n * 2 ^ k := by
  have hp : 0 < 2 ^ fb := by positivity
  have hs : 2 ^ (fb + 1) = 2 ^ fb + 2 ^ fb := by rw [pow_succ]; omega
  rw [sigOf, Nat.mul_comm k, Nat.mul_add_div hp, Nat.mul_add_mod]
  rcases lt_or_ge n (2 ^ fb) with h | h
  · obtain rfl : k = 0 := hk.resolve_right (not_le.2 h)
    simp [Nat.div_eq_of_lt h, Nat.mod_eq_of_lt h]
  · rcases hn.lt_or_eq with h' | rfl
    · have hd : n / 2 ^ fb = 1 := Nat.div_eq_of_lt_le (by omega) (by omega)
      have hm : n % 2 ^ fb = n - 2 ^ fb := by rw [Nat.mod_eq_sub_mod h, Nat.mod_eq_of_lt (by omega)]
      simp [hd, hm, Nat.add_sub_cancel' h]
    · simp [hs, ← two_mul]
      ring

section
variable {f : FFmt}

/-- A format with at least one fraction bit and two exponent bits (R76). -/
def FFmt.Proper (f : FFmt) : Prop := 1 ≤ f.fbits ∧ 2 ≤ f.ebits

theorem FFmt.proper_of_mem (h : f ∈ [f64, f32, f16, b16]) : f.Proper := by
  simp only [List.mem_cons, List.not_mem_nil, or_false] at h
  rcases h with rfl | rfl | rfl | rfl <;> exact ⟨by decide, by decide⟩

theorem FFmt.infCode_add (f : FFmt) : f.infCode + 2 ^ f.fbits = f.signW := by
  rw [FFmt.infCode, FFmt.signW, ← Nat.succ_mul, Nat.succ_eq_add_one, Nat.sub_add_cancel Nat.one_le_two_pow, pow_add]

/-- A code whose exponent field is not all ones is a number (R76). -/
theorem FFmt.value_of_exponent {c : Nat} (h : c / 2 ^ f.fbits % 2 ^ f.ebits ≠ 2 ^ f.ebits - 1) :
    let e := c / 2 ^ f.fbits % 2 ^ f.ebits
    let m := c % 2 ^ f.fbits
    f.value c = .fin (decide (c / f.signW % 2 = 1)) (if e = 0 then m else 2 ^ f.fbits + m) (f.qmin + (e - 1 : Nat)) := by
  intro e m
  simp only [FFmt.value, if_neg h]
  split_ifs with h0
  · simp [e, m, h0]
  · simp only [e, m, FVal.fin.injEq, true_and]
    omega

theorem FFmt.isNumber_iff {c : Nat} : isNumber (f.value c) ↔ c / 2 ^ f.fbits % 2 ^ f.ebits ≠ 2 ^ f.ebits - 1 := by
  constructor
  · rintro ⟨h1, h2⟩ h
    simp only [FFmt.value, if_pos h] at h1 h2
    split_ifs at h1 h2
    · exact Bool.noConfusion h2
    · exact Bool.noConfusion h1
  · intro h
    rw [f.value_of_exponent h]
    exact ⟨rfl, rfl⟩

/-- A finite code with a sign stands for its significand at its exponent (R76). -/
theorem FFmt.value_signed {c : Nat} (hc : c < f.infCode) (neg : Bool) :
    f.value (f.signed neg c) = .fin neg (sigOf f.fbits c) (f.qmin + (c / 2 ^ f.fbits - 1 : Nat)) := by
  have hp : 0 < 2 ^ f.fbits := by positivity
  have hcW : c < f.signW := by have := f.infCode_add; omega
  have hd : c / 2 ^ f.fbits < 2 ^ f.ebits - 1 := (Nat.div_lt_iff_lt_mul hp).2 hc
  have hWd : f.signW = 2 ^ f.fbits * 2 ^ f.ebits := by rw [FFmt.signW, Nat.add_comm, pow_add]
  have hs : decide (f.signed neg c / f.signW % 2 = 1) = neg := by
    cases neg
    · simp [FFmt.signed, Nat.div_eq_of_lt hcW]
    · simp [FFmt.signed, Nat.add_div_left _ (Nat.zero_lt_of_lt hcW), Nat.div_eq_of_lt hcW]
  have he : f.signed neg c / 2 ^ f.fbits % 2 ^ f.ebits = c / 2 ^ f.fbits := by
    have := Nat.mod_eq_of_lt (hd.trans_le (Nat.sub_le ..))
    cases neg
    · exact this
    · simpa only [FFmt.signed, if_true, hWd, Nat.mul_add_div hp, Nat.add_mod_left] using this
  have hm : f.signed neg c % 2 ^ f.fbits = c % 2 ^ f.fbits := by
    cases neg
    · rfl
    · simp only [FFmt.signed, if_true, hWd, Nat.mul_add_mod]
  rw [f.value_of_exponent (by rw [he]; exact hd.ne), hs, he, hm, sigOf]

theorem FFmt.ratOf_signed {neg : Bool} {k n : Nat} (hn : n ≤ 2 ^ (f.fbits + 1)) (hk : k = 0 ∨ 2 ^ f.fbits ≤ n)
    (hc : k * 2 ^ f.fbits + n < f.infCode) :
    ratOf (f.value (f.signed neg (k * 2 ^ f.fbits + n))) = ratOf (.fin neg n (f.qmin + k)) := by
  rw [f.value_signed hc, ratOf_fin, ratOf_fin, two_zpow_add, two_zpow_add, zpow_natCast, zpow_natCast]
  have : (sigOf f.fbits (k * 2 ^ f.fbits + n) : Rat) * 2 ^ ((k * 2 ^ f.fbits + n) / 2 ^ f.fbits - 1) = n * 2 ^ k := by
    exact_mod_cast sigOf_mul_pow hn hk
  rw [signedMag_eq_ite, signedMag_eq_ite]
  cases neg
  · simp only [Bool.false_eq_true, if_false]
    linear_combination (2 : Rat) ^ f.qmin * this
  · simp only [if_true]
    linear_combination -(2 : Rat) ^ f.qmin * this

/-- Every number of the format lies on its grid. -/
theorem FFmt.grid_value {c : Nat} (h : isNumber (f.value c)) : Grid f.fbits f.qmin (ratOf (f.value c)) := by
  have hm : c % 2 ^ f.fbits < 2 ^ f.fbits := Nat.mod_lt _ (by positivity)
  rw [f.value_of_exponent (f.isNumber_iff.1 h)]
  refine ⟨_, _, ?_, abs_ratOf_fin ..⟩
  rw [pow_succ]
  split_ifs <;> omega
end
end Sys2Proof.Machine
end

/-! The one rounding: O6 (R76, R82, R85) -/
section
namespace Sys2Proof.Machine

section
variable {f : FFmt} {mode : RMode} {neg : Bool} {m : Nat} {e : Int}

/-- The quantum to which a format rounds a magnitude. -/
def FFmt.quantum (f : FFmt) (m : Nat) (e : Int) : Int := Machine.quantum f.fbits f.qmin m e

/-- The magnitude code that a rounding puts together (R82). -/
def FFmt.roundedCode (f : FFmt) (mode : RMode) (neg : Bool) (m : Nat) (e : Int) : Nat :=
  (f.quantum m e - f.qmin).toNat * 2 ^ f.fbits + (roundAt mode neg m e (f.quantum m e)).1

/-- A number is below the smallest normal number after rounding to the format's precision (R85). -/
abbrev FFmt.tiny (f : FFmt) (mode : RMode) (neg : Bool) (m : Nat) (e : Int) : Prop :=
  ((roundAt mode neg m e (e + m.log2 - f.fbits)).1 : Rat) * (2 : Rat) ^ (e + m.log2 - f.fbits) < (2 : Rat) ^ (f.qmin + f.fbits)

theorem FFmt.roundExact_zero : f.roundExact mode neg 0 e = (f.signed neg 0, {}) := rfl

theorem FFmt.roundExact_overflow (hm : m ≠ 0) (h : f.infCode ≤ f.roundedCode mode neg m e) : f.roundExact mode neg m e =
    (f.signed neg (if mode = .rne ∨ (mode = .rup ∧ neg = false) ∨ (mode = .rdn ∧ neg = true) then f.infCode else f.maxCode),
      { ov := true, nx := true }) := by
  unfold FFmt.roundExact
  rw [if_neg hm]
  refine (if_pos h).trans ?_
  cases mode <;> cases neg <;> rfl

theorem FFmt.roundExact_finite (hm : m ≠ 0) (h : f.roundedCode mode neg m e < f.infCode) :
    ∃ uf, f.roundExact mode neg m e = (f.signed neg (f.roundedCode mode neg m e),
        { uf := uf, nx := !(roundAt mode neg m e (f.quantum m e)).2 })
      ∧ (uf = true ↔ f.tiny mode neg m e ∧ (roundAt mode neg m e (f.quantum m e)).2 = false) := by
  refine ⟨decide (f.tiny mode neg m e) && !(roundAt mode neg m e (f.quantum m e)).2, ?_, by simp⟩
  unfold FFmt.roundExact
  rw [if_neg hm]
  refine (if_neg (not_le.2 h)).trans ?_
  rw [Bool.decide_congr (tiny_iff hm _).symm, Bool.decide_eq_true]
  rfl

theorem FFmt.lt_infCode_of_ov (hm : m ≠ 0) (h : (f.roundExact mode neg m e).2.ov = false) : f.roundedCode mode neg m e < f.infCode := by
  by_contra hc
  rw [f.roundExact_overflow hm (not_lt.1 hc)] at h
  exact Bool.noConfusion h

theorem FFmt.qmin_le_quantum (f : FFmt) (m : Nat) (e : Int) : f.qmin ≤ f.quantum m e := le_max_right ..

theorem FFmt.qmin_add_quantum (f : FFmt) (m : Nat) (e : Int) : f.qmin + ((f.quantum m e - f.qmin).toNat : Int) = f.quantum m e := by
  have := f.qmin_le_quantum m e
  omega

theorem FFmt.roundAt_bounds (hm : m ≠ 0) : let n := (roundAt mode neg m e (f.quantum m e)).1
    n ≤ 2 ^ (f.fbits + 1) ∧ (f.qmin < f.quantum m e → 2 ^ f.fbits ≤ n) := roundAt_quantum_bounds hm

/-- Without overflow the code stands for the rounded magnitude on its quantum. -/
theorem FFmt.ratOf_roundedCode (hm : m ≠ 0) (h : f.roundedCode mode neg m e < f.infCode) :
    ratOf (f.value (f.signed neg (f.roundedCode mode neg m e))) = ratOf (.fin neg (roundAt mode neg m e (f.quantum m e)).1 (f.quantum m e)) := by
  obtain ⟨h1, h2⟩ := f.roundAt_bounds (mode := mode) (neg := neg) (e := e) hm
  rw [FFmt.roundedCode] at h ⊢
  rw [f.ratOf_signed h1 ?_ h, f.qmin_add_quantum]
  rcases (f.qmin_le_quantum m e).eq_or_lt with hq | hq
  · exact .inl (by omega)
  · exact .inr (h2 hq)

theorem two_pow_mod_two {k : Nat} (h : 1 ≤ k) : 2 ^ k % 2 = 0 := Nat.mod_eq_zero_of_dvd (dvd_pow_self 2 (by omega))

theorem FFmt.signed_mod_two (hf : f.Proper) (c : Nat) : f.signed neg c % 2 = c % 2 := by
  have : f.signW % 2 = 0 := two_pow_mod_two (by have := hf.1; omega)
  cases neg
  · rfl
  · simp only [FFmt.signed, if_true]; omega

theorem FFmt.roundedCode_mod_two (hf : f.Proper) : f.roundedCode mode neg m e % 2 = (roundAt mode neg m e (f.quantum m e)).1 % 2 := by
  rw [FFmt.roundedCode, Nat.add_mod, Nat.mul_mod, two_pow_mod_two hf.1]
  simp

/-- Without overflow a rounding gives the number that its mode demands, with the conditions of R85 (R82). -/
theorem FFmt.roundExact_spec (hf : f.Proper) (hm : m ≠ 0) (hov : (f.roundExact mode neg m e).2.ov = false) :
    let v := ratOf (.fin neg m e)
    let r := f.roundExact mode neg m e
    let y := ratOf (f.value r.1)
    isRounded f mode r.1 v ∧ (f.value r.1).neg = neg ∧ (r.2.nx = true ↔ y ≠ v) ∧ (r.2.uf = true ↔ y ≠ v ∧ f.tiny mode neg m e) := by
  intro v r y
  have hc := f.lt_infCode_of_ov hm hov
  obtain ⟨uf, hr, huf⟩ := f.roundExact_finite hm hc
  have hy : y = ratOf (.fin neg (roundAt mode neg m e (f.quantum m e)).1 (f.quantum m e)) := by
    simp only [y, r, hr, f.ratOf_roundedCode hm hc]
  have hx : (roundAt mode neg m e (f.quantum m e)).2 = true ↔ y = v := by
    rw [hy, roundAt_spec.2, div_eq_iff (two_zpow_ne_zero _), eq_comm]
    rfl
  have hn : (roundAt mode neg m e (f.quantum m e)).2 = false ↔ y ≠ v := by rw [ne_eq, ← hx, Bool.not_eq_true]
  have hval := f.value_signed hc neg
  rw [show f.signed neg (f.roundedCode mode neg m e) = r.1 by simp only [r, hr]] at hval
  refine ⟨isRounded_iff.2 ⟨?_, fun c hz => ?_⟩, ?_, ?_, ?_⟩
  · rw [hval]; exact ⟨rfl, rfl⟩
  · have hp : r.1 % 2 = (roundAt mode neg m e (f.quantum m e)).1 % 2 := by
      simp only [r, hr, f.signed_mod_two hf, f.roundedCode_mod_two hf]
    rw [hp, show ratOf (f.value r.1) = _ from hy]
    exact roundAt_closer (f.grid_value hz) hm
  · rw [hval]; rfl
  · simp only [r, hr, Bool.not_eq_true', hn]
  · simp only [r, hr]; rw [huf, hn, and_comm]
end

/-- Settles O6: the rounded magnitude is an integer on the quantum, and no number of the format lies between that integer's neighbours. -/
theorem roundingIsCorrect : Obligations.RoundingIsCorrect := by
  unfold Obligations.RoundingIsCorrect
  intro f hf mode neg m e v r y unit free hm hov
  exact f.roundExact_spec (f.proper_of_mem hf) hm hov

end Sys2Proof.Machine
end

/-! Roundings that are exact, that overflow and that vanish (R76, R82, R85, R114) -/
section
namespace Sys2Proof.Machine

theorem isNumber_iff_fin {x : FVal} : isNumber x ↔ ∃ neg m e, x = .fin neg m e := by
  cases x <;> simp [isNumber, FVal.isNan, FVal.isInf]

/-- A number whose size is a multiple, by at most a full significand, of a power of two of the format. -/
theorem grid_of_le {fb n : Nat} {qmin e : Int} {z : Rat} (hn : n ≤ 2 ^ (fb + 1)) (he : qmin ≤ e) (hz : |z| = n * (2 : Rat) ^ e) :
    Grid fb qmin z := by
  rcases hn.lt_or_eq with h | rfl
  · exact ⟨n, (e - qmin).toNat, h, by rw [hz, show qmin + ((e - qmin).toNat : Int) = e by omega]⟩
  · refine ⟨2 ^ fb, (e - qmin).toNat + 1, Nat.pow_lt_pow_right (by norm_num) (by omega), ?_⟩
    rw [hz, show qmin + (((e - qmin).toNat + 1 : Nat) : Int) = e + 1 by push_cast; omega, two_zpow_add, pow_succ]
    push_cast
    ring

/-- A number of the format is a whole multiple of its quantum. -/
theorem Grid.on_quantum {fb m : Nat} {qmin e : Int} {neg : Bool} (hz : Grid fb qmin (ratOf (.fin neg m e))) (hm : m ≠ 0) :
    ∃ j : Nat, |ratOf (.fin neg m e)| = j * (2 : Rat) ^ quantum fb qmin m e := by
  obtain ⟨n, k, hn, hz⟩ := hz
  have hq : quantum fb qmin m e ≤ qmin + k := by
    by_contra hlt
    have htop : qmin + k + (fb + 1 : Nat) ≤ e + m.log2 := by unfold quantum at hlt; push_cast; omega
    have h1 := (two_zpow_le htop).trans (top_le_size (neg := neg) hm)
    rw [hz, add_comm, two_zpow_add, zpow_natCast, mul_le_mul_iff_of_pos_right (two_zpow_pos _)] at h1
    have h2 : (n : Rat) < 2 ^ (fb + 1) := by exact_mod_cast hn
    linarith
  refine ⟨n * 2 ^ (qmin + k - quantum fb qmin m e).toNat, ?_⟩
  rw [hz, two_zpow_split hq]
  push_cast
  ring

section
variable {f : FFmt} {mode : RMode} {neg : Bool} {m : Nat} {e : Int}

theorem FFmt.two_mul_bias (hf : f.Proper) : 2 * f.bias + 2 = 2 ^ f.ebits := by
  have h : 2 ^ f.ebits = 2 * 2 ^ (f.ebits - 1) := by rw [← Nat.pow_succ']; congr 1; have := hf.2; omega
  have := Nat.one_le_two_pow (n := f.ebits - 1)
  rw [FFmt.bias]
  omega

theorem FFmt.one_le_bias (hf : f.Proper) : 1 ≤ f.bias := by
  have := f.two_mul_bias hf
  have : 2 ^ 2 ≤ 2 ^ f.ebits := Nat.pow_le_pow_right (by norm_num) hf.2
  omega

theorem FFmt.one_lt_infCode (hf : f.Proper) : 1 < f.infCode := by
  have := f.two_mul_bias hf
  have := f.one_le_bias hf
  calc 1 < 2 ^ f.ebits - 1 := by omega
    _ ≤ f.infCode := Nat.le_mul_of_pos_right _ (by positivity)

theorem ratOf_fin_congr {a b : Nat} {p q : Int} (h : (a : Rat) * (2 : Rat) ^ p = b * (2 : Rat) ^ q) :
    ratOf (.fin neg a p) = ratOf (.fin neg b q) := by
  rw [ratOf_fin, ratOf_fin, signedMag_eq_ite, signedMag_eq_ite]
  cases neg
  · exact h
  · simpa using h

/-- The exponent field that a rounding gives a number of the format's range keeps it finite. -/
theorem FFmt.roundedCode_lt (hf : f.Proper) (hb : e + m.log2 ≤ f.bias)
    (hn : (roundAt mode neg m e (f.quantum m e)).1 < 2 ^ (f.fbits + 1)) : f.roundedCode mode neg m e < f.infCode := by
  have h2 := f.two_mul_bias hf
  have hk : (f.quantum m e - f.qmin).toNat + 2 ≤ 2 ^ f.ebits - 1 := by
    have : f.quantum m e = max (e + m.log2 - f.fbits) f.qmin := rfl
    have : f.qmin = 1 - (f.bias : Int) - f.fbits := rfl
    have := f.one_le_bias hf
    omega
  have := Nat.mul_le_mul_right (2 ^ f.fbits) hk
  rw [FFmt.roundedCode, FFmt.infCode]
  rw [pow_succ] at hn
  rw [add_mul] at this
  omega

/-- A number of the format is its own rounding, and raises nothing (R82, R85). -/
theorem FFmt.roundExact_exact (hf : f.Proper) (hg : Grid f.fbits f.qmin (ratOf (.fin neg m e)))
    (hb : |ratOf (.fin neg m e)| < (2 : Rat) ^ ((f.bias : Int) + 1)) :
    holdsExactly f (f.roundExact mode neg m e) neg (ratOf (.fin neg m e)) := by
  rcases eq_or_ne m 0 with rfl | hm
  · rw [f.roundExact_zero, holdsExactly, f.value_signed (Nat.zero_lt_of_lt (f.one_lt_infCode hf))]
    exact ⟨rfl, ⟨rfl, rfl⟩, rfl, by rw [ratOf_fin, ratOf_fin]; cases neg <;> simp [sigOf, signedMag]⟩
  · obtain ⟨j, hj⟩ := hg.on_quantum hm
    have hn : (roundAt mode neg m e (f.quantum m e)).1 = j := le_antisymm (roundAt_le hj.le) (le_roundAt hj.ge)
    have htop : e + m.log2 ≤ f.bias := by
      have := two_zpow_lt_iff.1 ((top_le_size hm).trans_lt hb)
      omega
    have hj' : j < 2 ^ (f.fbits + 1) := by
      have h := hj.ge.trans_lt (size_lt_top neg m e)
      have hq : e + m.log2 + 1 ≤ (f.fbits + 1 : Nat) + f.quantum m e := by
        have : e + m.log2 - f.fbits ≤ f.quantum m e := le_max_left ..
        push_cast
        omega
      have := h.trans_le (two_zpow_le hq)
      rw [two_zpow_add, zpow_natCast] at this
      exact_mod_cast (mul_lt_mul_iff_of_pos_right (two_zpow_pos _)).1 this
    have hc := f.roundedCode_lt (mode := mode) (neg := neg) hf htop (hn ▸ hj')
    obtain ⟨uf, hr, huf⟩ := f.roundExact_finite hm hc
    have hy : ratOf (.fin neg (roundAt mode neg m e (f.quantum m e)).1 (f.quantum m e)) = ratOf (.fin neg m e) :=
      ratOf_fin_congr (by rw [hn, ← abs_ratOf_fin neg m e, hj]; rfl)
    have hx : (roundAt mode neg m e (f.quantum m e)).2 = true :=
      roundAt_spec.2.2 ((div_eq_iff (two_zpow_ne_zero _)).2 hy.symm)
    have hu : uf = false := by simpa [hx] using huf
    have hv := f.ratOf_roundedCode hm hc
    rw [holdsExactly, hr, hx, hu, hv, hy, f.value_signed hc]
    exact ⟨rfl, ⟨rfl, rfl⟩, rfl, rfl⟩

/-- A number whose exponent is above the format's overflows in every mode (R82). -/
theorem FFmt.roundExact_large (hf : f.Proper) (hm : m ≠ 0) (h : (f.bias : Int) < e + m.log2) : f.roundExact mode neg m e =
    (f.signed neg (if mode = .rne ∨ (mode = .rup ∧ neg = false) ∨ (mode = .rdn ∧ neg = true) then f.infCode else f.maxCode),
      { ov := true, nx := true }) := by
  refine f.roundExact_overflow hm ?_
  have h1 := f.one_le_bias hf
  have h2 := f.two_mul_bias hf
  have hq : f.quantum m e = max (e + m.log2 - f.fbits) f.qmin := rfl
  have hqm : f.qmin = 1 - (f.bias : Int) - f.fbits := rfl
  have hk : 2 ^ f.ebits - 1 ≤ (f.quantum m e - f.qmin).toNat + 1 := by omega
  have := Nat.mul_le_mul_right (2 ^ f.fbits) hk
  have := (f.roundAt_bounds (mode := mode) (neg := neg) (e := e) hm).2 (by omega)
  rw [FFmt.roundedCode, FFmt.infCode]
  rw [add_mul, one_mul] at *
  omega

/-- A nonzero number below half the smallest number of the format rounds to zero, or to the smallest number on the mode's side (R82, R85). -/
theorem FFmt.roundExact_small (hf : f.Proper) (hm : m ≠ 0) (h : e + m.log2 + 1 < f.qmin) : f.roundExact mode neg m e =
    (f.signed neg (if (mode = .rup ∧ neg = false) ∨ (mode = .rdn ∧ neg = true) then 1 else 0), { uf := true, nx := true }) := by
  have hq : f.quantum m e = f.qmin := max_eq_right (by omega)
  have hlt : e < f.quantum m e := by omega
  obtain ⟨hx, hk⟩ := roundAt_of_lt (mode := mode) (neg := neg) (m := m) hlt
  set d := 2 ^ (f.quantum m e - e).toNat with hd
  have hmd : 2 * m < d := calc
    2 * m < 2 * 2 ^ (m.log2 + 1) := by have := Nat.lt_log2_self (n := m); omega
    _ = 2 ^ (m.log2 + 1 + 1) := (Nat.pow_succ').symm
    _ ≤ d := Nat.pow_le_pow_right (by norm_num) (by omega)
  rw [Nat.mod_eq_of_lt (by omega : m < d), Nat.div_eq_of_lt (by omega : m < d)] at *
  have hd0 : (0 : Rat) < d := by exact_mod_cast (by omega : 0 < d)
  have ht0 : (m : Rat) / d ≠ 0 := div_ne_zero (by exact_mod_cast hm) hd0.ne'
  have ht : ¬(1 / 2 < (m : Rat) / d ∨ (m : Rat) / d = 1 / 2 ∧ 0 % 2 = 1) := by
    rintro (h | ⟨-, h⟩)
    · rw [lt_div_iff₀ hd0] at h
      have : (2 : Rat) * m < d := by exact_mod_cast hmd
      linarith
    · exact absurd h (by decide)
  have hn : (roundAt mode neg m e (f.quantum m e)).1 = if (mode = .rup ∧ neg = false) ∨ (mode = .rdn ∧ neg = true) then 1 else 0 := by
    cases mode with
    | rne => simpa using (hk.resolve_left fun hu => ht hu.1).2
    | rtz | rup | rdn => cases neg <;> simpa [roundsUp, ht0] using hk
  have hc : f.roundedCode mode neg m e = if (mode = .rup ∧ neg = false) ∨ (mode = .rdn ∧ neg = true) then 1 else 0 := by
    rw [FFmt.roundedCode, hn, hq]
    simp
  have hi := f.one_lt_infCode hf
  have hlt' : f.roundedCode mode neg m e < f.infCode := by rw [hc]; split_ifs <;> omega
  obtain ⟨uf, hr, huf⟩ := f.roundExact_finite hm hlt'
  have hx : (roundAt mode neg m e (f.quantum m e)).2 = false := by rw [hx]; exact decide_eq_false hm
  have htiny : f.tiny mode neg m e := by
    have h2 := (roundAt_unit_bounds (mode := mode) (neg := neg) (e := e) (fb := f.fbits) hm).2
    calc ((roundAt mode neg m e (e + m.log2 - f.fbits)).1 : Rat) * (2 : Rat) ^ (e + m.log2 - f.fbits)
        ≤ (2 ^ (f.fbits + 1) : Nat) * (2 : Rat) ^ (e + m.log2 - f.fbits) :=
          mul_le_mul_of_nonneg_right (by exact_mod_cast h2) (two_zpow_pos _).le
      _ = (2 : Rat) ^ (e + m.log2 + 1) := by
          push_cast
          rw [← zpow_natCast, ← two_zpow_add]
          congr 1
          push_cast
          ring
      _ < (2 : Rat) ^ (f.qmin + f.fbits) := two_zpow_lt (by omega)
  rw [hr, hc, hx, huf.2 ⟨htiny, hx⟩]
  rfl
end
end Sys2Proof.Machine
end

/-! Conversions and exponent operations: O9 (R82, R86, R87, R113 to R115) -/
section
namespace Sys2Proof.Machine

/-! ### The numbers of the formats -/

section
variable {f : FFmt} {mode : RMode} {neg : Bool} {m c : Nat} {e : Int}

theorem isNan_iff {x : FVal} : x.isNan = true ↔ ∃ s, x = .nan s := by cases x <;> simp [FVal.isNan]

theorem isInf_iff {x : FVal} : x.isInf = true ↔ ∃ neg, x = .inf neg := by cases x <;> simp [FVal.isInf]

theorem isZero_iff {x : FVal} : x.isZero = true ↔ ∃ neg e, x = .fin neg 0 e := by cases x <;> simp [FVal.isZero]

/-- What a code that is a number can stand for (R76). -/
theorem FFmt.fin_of_value (hf : f.Proper) (h : f.value c = .fin neg m e) :
    m < 2 ^ (f.fbits + 1) ∧ f.qmin ≤ e ∧ e + f.fbits ≤ f.bias := by
  have hm : c % 2 ^ f.fbits < 2 ^ f.fbits := Nat.mod_lt _ (by positivity)
  have he : c / 2 ^ f.fbits % 2 ^ f.ebits < 2 ^ f.ebits := Nat.mod_lt _ (by positivity)
  have hne : isNumber (f.value c) := isNumber_iff_fin.2 ⟨_, _, _, h⟩
  have hx := f.isNumber_iff.1 hne
  have h1 := f.one_le_bias hf
  have h2 := f.two_mul_bias hf
  have hq : f.qmin = 1 - (f.bias : Int) - f.fbits := rfl
  rw [f.value_of_exponent hx, FVal.fin.injEq] at h
  obtain ⟨-, rfl, rfl⟩ := h
  refine ⟨?_, by omega, by omega⟩
  rw [pow_succ]
  split_ifs <;> omega

theorem FFmt.grid_fin (hm : m < 2 ^ (f.fbits + 1)) (he : f.qmin ≤ e) : Grid f.fbits f.qmin (ratOf (.fin neg m e)) :=
  grid_of_le hm.le he (abs_ratOf_fin ..)

theorem FFmt.abs_fin_lt (hm : m < 2 ^ (f.fbits + 1)) (he : e + f.fbits ≤ f.bias) : |ratOf (.fin neg m e)| < (2 : Rat) ^ ((f.bias : Int) + 1) := by
  rw [abs_ratOf_fin]
  calc (m : Rat) * (2 : Rat) ^ e < (2 ^ (f.fbits + 1) : Nat) * (2 : Rat) ^ e :=
        mul_lt_mul_of_pos_right (by exact_mod_cast hm) (two_zpow_pos e)
    _ = (2 : Rat) ^ (e + f.fbits + 1) := by rw [add_assoc, two_zpow_add, mul_comm]; norm_cast
    _ ≤ (2 : Rat) ^ ((f.bias : Int) + 1) := two_zpow_le (by omega)

/-- FP64 and FP32 hold every integer of a full significand (R76). -/
theorem FFmt.wide_of_mem (h : f ∈ [f64, f32]) : f.Proper ∧ f.fbits + 1 ≤ f.bias := by
  simp only [List.mem_cons, List.not_mem_nil, or_false] at h
  rcases h with rfl | rfl <;> exact ⟨⟨by decide, by decide⟩, by decide⟩

/-- An integer of at most a full significand is a number of the format. -/
theorem FFmt.roundExact_int (hf : f.Proper) (hw : f.fbits + 1 ≤ f.bias) (hm : m ≤ 2 ^ (f.fbits + 1)) :
    holdsExactly f (f.roundExact mode neg m 0) neg (ratOf (.fin neg m 0)) := by
  refine f.roundExact_exact hf (grid_of_le hm ?_ (abs_ratOf_fin ..)) ?_
  · have hq : f.qmin = 1 - (f.bias : Int) - f.fbits := rfl
    omega
  · rw [abs_ratOf_fin, zpow_zero, mul_one]
    calc (m : Rat) ≤ (2 ^ (f.fbits + 1) : Nat) := by exact_mod_cast hm
      _ = (2 : Rat) ^ ((f.fbits : Int) + 1) := by norm_cast
      _ < (2 : Rat) ^ ((f.bias : Int) + 1) := two_zpow_lt (by omega)
end

/-! ### Rounding to an integer (R86, R114) -/

theorem ratOf_fin_int (neg : Bool) (n : Nat) : ratOf (.fin neg n 0) = (signedMag neg n : Rat) := by
  rw [ratOf_fin, zpow_zero, mul_one]

section
variable {f : FFmt} {mode : RMode} {a : Nat} {n : Int}

/-- A field of a number is kept by a remainder that keeps all its bits. -/
theorem field_mod {w k j : Nat} (h : k + j ≤ w) (a : Nat) : a % 2 ^ w / 2 ^ k % 2 ^ j = a / 2 ^ k % 2 ^ j := by
  refine Nat.eq_of_testBit_eq fun i => ?_
  simp only [Nat.testBit_mod_two_pow, Nat.testBit_div_two_pow]
  by_cases hi : i < j
  · simp [hi, show i + k < w by omega]
  · simp [hi]

theorem FFmt.value_mod (f : FFmt) (a : Nat) : f.value (a % 2 ^ f.width) = f.value a := by
  have h1 := field_mod (w := f.width) (k := f.fbits) (j := f.ebits) (by unfold FFmt.width; omega) a
  have h2 := field_mod (w := f.width) (k := f.ebits + f.fbits) (j := 1) (by unfold FFmt.width; omega) a
  have h3 : a % 2 ^ f.width % 2 ^ f.fbits = a % 2 ^ f.fbits := Nat.mod_mod_of_dvd _ (pow_dvd_pow 2 (by unfold FFmt.width; omega))
  rw [pow_one] at h2
  simp only [FFmt.value, FFmt.signW, h1, h2, h3]
  rfl

/-- FRND of a number is the integer that the mode rounds it to, held in the format (R114). -/
theorem FFmt.rint_fin (hf : f.Proper) (hw : f.fbits + 1 ≤ f.bias) {neg : Bool} {m : Nat} {e : Int} (h : f.value a = .fin neg m e) :
    ∃ k : Int, roundsTo mode (ratOf (f.value a)) k ∧ holdsExactly f (f.rint mode a) (f.value a).neg k := by
  have hs := roundAt_spec (mode := mode) (neg := neg) (m := m) (e := e) (q := 0)
  rw [zpow_zero, div_one] at hs
  refine ⟨signedMag neg (roundAt mode neg m e 0).1, by rw [h]; exact hs.1, ?_⟩
  rw [FFmt.rint, h]
  rcases le_or_gt 0 e with he | he
  · have hv : ratOf (.fin neg m e) = (signedMag neg (roundAt mode neg m e 0).1 : Rat) := hs.2.1 (by rw [roundAt_of_le he])
    simp only [if_pos he]
    rw [holdsExactly, f.value_mod, h, hv]
    exact ⟨rfl, ⟨rfl, rfl⟩, rfl, rfl⟩
  · simp only [if_neg (not_le.2 he)]
    have hm := (f.fin_of_value hf h).1
    have hle : (roundAt mode neg m e 0).1 ≤ 2 ^ (f.fbits + 1) := by
      refine roundAt_le ?_
      rw [abs_ratOf_fin, zpow_zero, mul_one]
      calc (m : Rat) * (2 : Rat) ^ e ≤ m * (2 : Rat) ^ (0 : Int) := mul_le_mul_of_nonneg_left (two_zpow_le he.le) m.cast_nonneg
        _ ≤ (2 ^ (f.fbits + 1) : Nat) := by rw [zpow_zero, mul_one]; exact_mod_cast hm.le
    obtain ⟨-, h2, h3, h4⟩ := f.roundExact_int (mode := .rtz) (neg := neg) hf hw hle
    exact ⟨rfl, h2, h3, h4.trans (ratOf_fin_int ..)⟩

/-- FSCALB of a nonzero number rounds the exact product once; beyond the limit of the model's shift the result stays the same (R114). -/
theorem FFmt.scalb_fin (hf : f.Proper) (hw : f.fbits + 1 ≤ f.bias) {neg : Bool} {m : Nat} {e : Int} (h : f.value a = .fin neg m e) (hm : m ≠ 0) :
    f.scalb mode a n = f.roundExact mode neg m (e + n) := by
  obtain ⟨h1, h2, h3⟩ := f.fin_of_value hf h
  have hlog : m.log2 ≤ f.fbits := by have := (Nat.log2_lt hm).2 h1; omega
  have hb := f.two_mul_bias hf
  have hq : f.qmin = 1 - (f.bias : Int) - f.fbits := rfl
  have hb' : (2 : Int) * f.bias + 2 = 2 ^ f.ebits := by exact_mod_cast hb
  rw [FFmt.scalb, h]
  simp only
  set lim : Int := 4 * 2 ^ f.ebits with hlim
  rcases lt_or_ge lim n with hn | hn
  · rw [f.roundExact_large hf hm (by omega), f.roundExact_large hf hm (by omega)]
  rcases lt_or_ge n (-lim) with hn' | hn'
  · rw [f.roundExact_small hf hm (by omega), f.roundExact_small hf hm (by omega)]
  · rw [min_eq_right hn, max_eq_right hn']

/-- FEXPN of a nonzero number is the floor of its logarithm (R114). -/
theorem FFmt.expn_fin {neg : Bool} {m : Nat} {e : Int} (h : f.value a = .fin neg m e) (hm : m ≠ 0) :
    f.expn a = (BitVec.ofInt 32 (e + m.log2), {}) := by
  rw [FFmt.expn, h]
  exact if_neg hm
end

/-! ### The values of the conversions -/

section
variable {f src dst : FFmt} {mode : RMode} {a : Nat}

/-- A conversion to a format that has at least the precision and the range of the source is exact (R87). -/
theorem convFF_exact (hs : src.Proper) (hd : dst.Proper) (hfb : src.fbits ≤ dst.fbits) (heb : src.ebits ≤ dst.ebits) {neg : Bool} {m : Nat} {e : Int}
    (h : src.value a = .fin neg m e) : holdsExactly dst (dst.roundExact mode neg m e) neg (ratOf (.fin neg m e)) := by
  obtain ⟨h1, h2, h3⟩ := src.fin_of_value hs h
  have hb : src.bias ≤ dst.bias := Nat.sub_le_sub_right (Nat.pow_le_pow_right (by norm_num) (by omega)) 1
  have hq1 : src.qmin = 1 - (src.bias : Int) - src.fbits := rfl
  have hq2 : dst.qmin = 1 - (dst.bias : Int) - dst.fbits := rfl
  exact dst.roundExact_exact hd (dst.grid_fin (h1.trans_le (Nat.pow_le_pow_right (by norm_num) (by omega))) (by omega))
    ((src.abs_fin_lt h1 h3).trans_le (two_zpow_le (by omega)))

theorem convFF_mod (src dst : FFmt) (mode : RMode) (a : Nat) : convFF src dst mode (a % 2 ^ src.width) = convFF src dst mode a := by
  rw [convFF, src.value_mod]
  rfl

theorem integerRounding (mode : RMode) (neg : Bool) (m : Nat) (e : Int) : let r := roundAt mode neg m e 0
    let k : Int := if neg then -(r.1 : Int) else r.1
    roundsTo mode (ratOf (.fin neg m e)) k ∧ (r.2 = true ↔ ratOf (.fin neg m e) = k) := by
  have h := roundAt_spec (mode := mode) (neg := neg) (m := m) (e := e) (q := 0)
  rwa [zpow_zero, div_one] at h

/-- An integer of at most a full significand is converted exactly (R87). -/
theorem FFmt.ofInt_exact (hf : f.Proper) (hw : f.fbits + 1 ≤ f.bias) {n : Int} (hn : absOf n ≤ 2 ^ (f.fbits + 1)) :
    holdsExactly f (f.ofInt mode n) (decide (n < 0)) n := by
  have hm : n.natAbs ≤ 2 ^ (f.fbits + 1) := by
    rw [absOf_eq_abs, ← Int.cast_abs, Int.abs_eq_natAbs] at hn
    exact_mod_cast hn
  have h := f.roundExact_int (mode := mode) (neg := decide (n < 0)) hf hw hm
  have hv : ratOf (.fin (decide (n < 0)) n.natAbs 0) = n := by
    rw [ratOf_fin_int, signedMag]
    congr 1
    simp only [decide_eq_true_eq]
    split_ifs <;> omega
  rwa [hv] at h

theorem conversionValues_hold : conversionValues := by
  unfold conversionValues
  refine ⟨integerRounding, fun f hf mode a n => ?_, fun src hs dst hd mode a => ?_⟩
  · obtain ⟨hp, hw⟩ := f.wide_of_mem hf
    intro x nan
    refine ⟨fun hx => ?nan, fun hx => ?inf, fun hx => ?zero, fun hx => ?rint, fun neg m e hx hm => ⟨f.scalb_fin hp hw hx hm, ?expn⟩,
      f.roundExact_zero, fun _ => rfl, f.ofInt_exact hp hw⟩
    case nan =>
      obtain ⟨s, h⟩ : ∃ s, f.value a = .nan s := isNan_iff.1 hx
      simp only [nan, x, FFmt.rint, FFmt.scalb, FFmt.expn, h]
      exact ⟨rfl, rfl, rfl⟩
    case inf =>
      obtain ⟨s, h⟩ : ∃ s, f.value a = .inf s := isInf_iff.1 hx
      simp only [x, FFmt.rint, FFmt.scalb, FFmt.expn, h]
      exact ⟨rfl, rfl, rfl⟩
    case zero =>
      obtain ⟨s, e, h⟩ : ∃ s e, f.value a = .fin s 0 e := isZero_iff.1 hx
      simp only [x, FFmt.scalb, FFmt.expn, h]
      exact ⟨rfl, rfl⟩
    case rint =>
      obtain ⟨neg, m, e, h⟩ := isNumber_iff_fin.1 hx
      exact f.rint_fin hp hw h
    case expn =>
      refine ⟨_, f.expn_fin hx hm, ?_⟩
      rw [absOf_eq_abs, hx]
      exact ⟨top_le_size hm, size_lt_top ..⟩
  · intro x r
    refine ⟨fun hx => ?nan, fun hx => ?inf, fun hx => ?zero, fun neg m e hx hm => ?number, fun hx hfb heb => ?exact⟩
    case nan =>
      obtain ⟨s, h⟩ : ∃ s, src.value a = .nan s := isNan_iff.1 hx
      simp only [r, x, convFF, h]
      rfl
    case inf =>
      obtain ⟨s, h⟩ : ∃ s, src.value a = .inf s := isInf_iff.1 hx
      simp only [r, x, convFF, h]
      rfl
    case zero =>
      obtain ⟨s, e, h⟩ : ∃ s e, src.value a = .fin s 0 e := isZero_iff.1 hx
      simp only [r, x, convFF, h]
      rfl
    case number =>
      replace hx : src.value a = .fin neg m e := hx
      simp only [r, convFF, hx]
    case exact =>
      obtain ⟨neg, m, e, h⟩ : ∃ neg m e, src.value a = .fin neg m e := isNumber_iff_fin.1 hx
      simp only [r, x, convFF, h]
      exact convFF_exact (src.proper_of_mem hs) (dst.proper_of_mem hd) hfb heb h
end

/-! ### The conversions -/

theorem rmode_eq_modeFor (t : Thread) (r : Rnd) : rmode t r = modeFor r t := by
  cases r with
  | dyn =>
    simp only [rmode, modeFor, Thread.rm]
    split <;> simp_all
  | rne | rtz | rup | rdn => rfl

theorem toNat_rdN (w : Bool) (t : Thread) (r : Reg) : (rdN w t r).toNat = if w then (t.pair r).toNat else (t.rd r).toNat := by
  cases w
  · exact BitVec.toNat_setWidth_of_le (by omega : 32 ≤ 64)
  · rfl

theorem ityVal_eq (ty : ITy) (t : Thread) (r : Reg) : ityVal ty t r = match ty with
    | .i32 => (t.rd r).toInt
    | .z32 => (t.rd r).toNat
    | .i64 => (t.pair r).toInt
    | .z64 => (t.pair r).toNat := by cases ty <;> rfl

/-- A conversion to an integer clamps what the mode rounds to, and tells what it lost (R86). -/
theorem toInt_fin (mode : RMode) (w : Nat) (u neg : Bool) (m : Nat) (e : Int) :
    let v := signedMag neg (roundAt mode neg m e 0).1
    (FVal.fin neg m e).toInt mode w u = if v < intLo w u then (intLo w u, { nv := true }) else if intHi w u < v then (intHi w u, { nv := true })
      else (v, { nx := !(roundAt mode neg m e 0).2 }) := by
  intro v
  simp only [FVal.toInt, satInt]
  split_ifs <;> simp_all [v, Conds.invalid]

/-- Settles O9: each conversion only computes; its value is one rounding, exact where the target holds the number. -/
theorem conversionsComplete : Obligations.ConversionsComplete := by
  unfold Obligations.ConversionsComplete
  refine ⟨fun x w r ty k => ?_, fun mode w u neg m e _ => ?_, conversionValues_hold⟩
  · intro f bits a int
    refine ⟨?cvtfi, ?cvtif, ?cvtff, ?frnd, ?fscalb, ?fexpn⟩
    case cvtfi =>
      refine computes_of_pure_eq _ rfl rfl (fun _ => rfl) fun t => ?_
      simp only [rmode_eq_modeFor, toNat_rdN]
      rfl
    case cvtif =>
      refine computes_of_pure_eq _ rfl rfl (fun _ => rfl) fun t => ?_
      simp only [rmode_eq_modeFor, ityVal_eq]
      rfl
    case cvtff =>
      refine computes_of_pure_eq _ rfl rfl (fun _ => rfl) fun t => ?_
      simp only [rmode_eq_modeFor, toNat_rdN, convFF_mod]
      cases k with
      | f32f16 | f32bf16 | f64f16 => exact congrArg (fpResult _ x) (convFF_mod ..).symm
      | f32f64 | f64f32 | f16f32 | bf16f32 | f16f64 => rfl
    case frnd =>
      refine computes_of_pure_eq _ rfl rfl (fun _ => rfl) fun t => ?_
      simp only [fpEff1, rmode_eq_modeFor, toNat_rdN]
      rfl
    case fscalb =>
      refine computes_of_pure_eq _ rfl rfl (fun _ => rfl) fun t => ?_
      simp only [rmode_eq_modeFor, toNat_rdN]
      rfl
    case fexpn =>
      refine computes_of_pure_eq _ rfl rfl (fun _ => rfl) fun t => ?_
      simp only [toNat_rdN]
      rfl
  · exact ⟨fun _ => rfl, rfl, toInt_fin ..⟩

end Sys2Proof.Machine
end

/-! Special operands of the floating-point arithmetic (R77, R82, R106, R117, R144) -/
section
namespace Sys2Proof.Machine

/-- An overflow raises overflow and inexact, and gives infinity or the largest number as its mode and sign say (R82). -/
theorem FFmt.roundExact_of_ov {f : FFmt} {mode : RMode} {neg : Bool} {m : Nat} {e : Int} (h : (f.roundExact mode neg m e).2.ov = true) :
    f.roundExact mode neg m e =
      (if mode = .rne ∨ (mode = .rup ∧ neg = false) ∨ (mode = .rdn ∧ neg = true) then f.signed neg f.infCode else f.signed neg f.maxCode,
        { ov := true, nx := true }) := by
  have hm : m ≠ 0 := by rintro rfl; exact Bool.noConfusion h
  rcases lt_or_ge (f.roundedCode mode neg m e) f.infCode with hc | hc
  · obtain ⟨uf, hr, -⟩ := f.roundExact_finite hm hc
    rw [hr] at h
    exact Bool.noConfusion h
  · rw [f.roundExact_overflow hm hc, apply_ite (f.signed neg)]

/-! ### Values -/

section
variable {x : FVal}

@[simp] theorem FVal.isNan_negate : x.negate.isNan = x.isNan := by cases x <;> rfl
@[simp] theorem FVal.isSnan_negate : x.negate.isSnan = x.isSnan := by cases x <;> rfl
@[simp] theorem FVal.isInf_negate : x.negate.isInf = x.isInf := by cases x <;> rfl

theorem FVal.neg_negate (h : x.isNan = false) : x.negate.neg = !x.neg := by
  cases x with
  | nan => cases h
  | inf | fin => rfl
end

/-! ### Sums, products and quotients of special values (R77, R106) -/

section
variable (f : FFmt) (mode : RMode) {a b : FVal} {n : Bool}

theorem FFmt.addV_nan (h : a.isNan = true ∨ b.isNan = true) : f.addV mode a b = f.nanOf (a.isSnan || b.isSnan) := by
  unfold FFmt.addV
  exact if_pos (by simpa using h)

theorem FFmt.mulV_nan (h : a.isNan = true ∨ b.isNan = true) : f.mulV mode a b = f.nanOf (a.isSnan || b.isSnan) := by
  unfold FFmt.mulV
  exact if_pos (by simpa using h)

theorem FFmt.divV_nan (h : a.isNan = true ∨ b.isNan = true) : f.divV mode a b = f.nanOf (a.isSnan || b.isSnan) := by
  unfold FFmt.divV
  exact if_pos (by simpa using h)

/-- An infinity keeps its sign in a sum, but with the other infinity. -/
theorem FFmt.addV_inf_left (hb : b.isNan = false) (h : b.isInf = true → b.neg = n) : f.addV mode (.inf n) b = (f.signed n f.infCode, {}) := by
  cases b with
  | nan => cases hb
  | inf k => exact if_pos (h rfl).symm
  | fin => rfl

theorem FFmt.addV_inf_right (ha : a.isNan = false) (h : a.isInf = true → a.neg = n) : f.addV mode a (.inf n) = (f.signed n f.infCode, {}) := by
  cases a with
  | nan => cases ha
  | inf k =>
    obtain rfl : k = n := h rfl
    exact if_pos rfl
  | fin => rfl

theorem FFmt.addV_opposite (n : Bool) : f.addV mode (.inf n) (.inf !n) = f.nanOf true := by cases n <;> rfl

theorem FFmt.mulV_inf (ha : a.isNan = false) (hb : b.isNan = false) (h : a.isInf = true ∨ b.isInf = true) :
    f.mulV mode a b = if a.isZero || b.isZero then f.nanOf true else (f.signed (a.neg != b.neg) f.infCode, {}) := by
  rw [FFmt.mulV, if_neg (by simp [ha, hb]), if_pos (by simpa using h)]

theorem FFmt.divV_inf_inf (n k : Bool) : f.divV mode (.inf n) (.inf k) = f.nanOf true := rfl

theorem FFmt.divV_inf_left (hb : isNumber b) : f.divV mode (.inf n) b = (f.signed (n != b.neg) f.infCode, {}) := by
  obtain ⟨k, m, e, rfl⟩ := isNumber_iff_fin.1 hb
  rfl

theorem FFmt.divV_inf_right (ha : isNumber a) : f.divV mode a (.inf n) = (f.signed (a.neg != n) 0, {}) := by
  obtain ⟨k, m, e, rfl⟩ := isNumber_iff_fin.1 ha
  rfl

theorem FFmt.divV_zero (hb : b.isZero = true) (ha : isNumber a) : f.divV mode a b =
    if a.isZero = true then f.nanOf true else (f.signed (a.neg != b.neg) f.infCode, { dz := true }) := by
  obtain ⟨k, e, rfl⟩ := isZero_iff.1 hb
  obtain ⟨k', m, e', rfl⟩ := isNumber_iff_fin.1 ha
  simp only [FVal.isZero, decide_eq_true_eq]
  rfl
end

theorem isNumber_of_isZero {x : FVal} (h : x.isZero = true) : isNumber x := by
  obtain ⟨k, e, rfl⟩ := isZero_iff.1 h
  exact ⟨rfl, rfl⟩

/-- The sums, differences, products and quotients of NaNs, infinities and zeros (R77, R106). -/
theorem FFmt.special_arith (f : FFmt) (mode : RMode) (a b : Nat) :
    let x := f.value a
    let y := f.value b
    let nan (r : Nat × Conds) (invalid : Bool) : Prop := r = (f.nanCode, { nv := invalid })
    (x.isNan ∨ y.isNan → let q := x.isSnan || y.isSnan
      nan (f.add mode a b) q ∧ nan (f.sub mode a b) q ∧ nan (f.mul mode a b) q ∧ nan (f.div mode a b) q)
    ∧ (x.isInf ∧ y.isInf → nan (f.div mode a b) true ∧ (if x.neg = y.neg then nan (f.sub mode a b) true else nan (f.add mode a b) true))
    ∧ (x.isZero ∧ y.isInf → nan (f.mul mode a b) true ∧ nan (f.mul mode b a) true)
    ∧ (x.isZero ∧ y.isZero → nan (f.div mode a b) true)
    ∧ (x.isNan = false ∧ x.isInf = false ∧ x.isZero = false ∧ y.isZero →
        f.div mode a b = (f.signed (x.neg != y.neg) f.infCode, { dz := true }))
    ∧ (let inf (n : Bool) : Nat × Conds := (f.signed n f.infCode, {})
      x.isInf → y.isNan = false →
        (¬(y.isInf ∧ y.neg ≠ x.neg) → f.add mode a b = inf x.neg ∧ f.add mode b a = inf x.neg)
        ∧ (¬(y.isInf ∧ y.neg = x.neg) → f.sub mode a b = inf x.neg ∧ f.sub mode b a = inf (!x.neg))
        ∧ (y.isZero = false → f.mul mode a b = inf (x.neg != y.neg) ∧ f.mul mode b a = inf (x.neg != y.neg))
        ∧ (y.isInf = false → f.div mode a b = inf (x.neg != y.neg) ∧ f.div mode b a = (f.signed (x.neg != y.neg) 0, {}))) := by
  intro x y nan
  simp only [nan, FFmt.add, FFmt.sub, FFmt.mul, FFmt.div, show f.value a = x from rfl, show f.value b = y from rfl]
  clear_value x y
  refine ⟨fun h => ?nan, fun ⟨hx, hy⟩ => ?infInf, fun ⟨hx, hy⟩ => ?zeroInf, fun ⟨hx, hy⟩ => ?zeroZero, fun ⟨h1, h2, h3, hy⟩ => ?byZero, fun hx hy => ?inf⟩
  case nan =>
    refine ⟨f.addV_nan mode h, ?_, f.mulV_nan mode h, f.divV_nan mode h⟩
    rw [f.addV_nan mode (by simpa using h), FVal.isSnan_negate]
    rfl
  case infInf =>
    obtain ⟨n, rfl⟩ := isInf_iff.1 hx
    obtain ⟨k, rfl⟩ := isInf_iff.1 hy
    refine ⟨rfl, ?_⟩
    split_ifs with h
    · obtain rfl : n = k := h
      exact f.addV_opposite mode n
    · obtain rfl : k = !n := by cases n <;> cases k <;> simp_all [FVal.neg]
      exact f.addV_opposite mode n
  case zeroInf =>
    have hxn := (isNumber_of_isZero hx).1
    obtain ⟨k, rfl⟩ := isInf_iff.1 hy
    rw [f.mulV_inf mode hxn rfl (.inr rfl), f.mulV_inf mode rfl hxn (.inl rfl), hx]
    exact ⟨rfl, rfl⟩
  case zeroZero =>
    rw [f.divV_zero mode hy (isNumber_of_isZero hx), if_pos hx]
    rfl
  case byZero => rw [f.divV_zero mode hy ⟨h1, h2⟩, if_neg (by simp [h3])]
  case inf =>
    obtain ⟨n, rfl⟩ := isInf_iff.1 hx
    refine ⟨fun h => ?_, fun h => ?_, fun h => ?_, fun h => ?_⟩
    · have hs : y.isInf = true → y.neg = n := fun hi => not_not.1 fun hn => h ⟨hi, hn⟩
      exact ⟨f.addV_inf_left mode hy hs, f.addV_inf_right mode hy hs⟩
    · have hs : y.isInf = true → y.neg = !n := fun hi => by
        have : y.neg ≠ n := fun hn => h ⟨hi, hn⟩
        revert this
        cases y.neg <;> cases n <;> decide
      refine ⟨f.addV_inf_left mode (by simpa using hy) fun hi => ?_, f.addV_inf_right mode hy hs⟩
      rw [FVal.neg_negate hy, hs (by simpa using hi), Bool.not_not]
    · rw [f.mulV_inf mode rfl hy (.inl rfl), f.mulV_inf mode hy rfl (.inr rfl), h, bne_comm (a := y.neg)]
      exact ⟨rfl, rfl⟩
    · rw [f.divV_inf_left mode ⟨hy, h⟩, f.divV_inf_right mode ⟨hy, h⟩, bne_comm (a := y.neg)]
      exact ⟨rfl, rfl⟩

/-! ### FFMA (R106) -/

theorem FFmt.special_fma (f : FFmt) (mode : RMode) (a b c : Nat) :
    let x := f.value a
    let y := f.value b
    let z := f.value c
    let r := f.fma mode a b c
    let n := x.neg != y.neg
    let infZero : Prop := (x.isInf ∧ y.isZero) ∨ (x.isZero ∧ y.isInf)
    (infZero → r = (f.nanCode, { nv := true }))
    ∧ (¬infZero → x.isNan ∨ y.isNan ∨ z.isNan → r = (f.nanCode, { nv := x.isSnan || y.isSnan || z.isSnan }))
    ∧ (¬infZero → x.isNan = false → y.isNan = false → z.isNan = false →
      (x.isInf ∨ y.isInf → r = if z.isInf ∧ z.neg ≠ n then (f.nanCode, { nv := true }) else (f.signed n f.infCode, {}))
      ∧ (isNumber x → isNumber y → z.isInf → r = (f.signed z.neg f.infCode, {}))) := by
  intro x y z r n infZero
  have hiz : infZero ↔ ((x.isInf && y.isZero) || (x.isZero && y.isInf)) = true := by simp [infZero]
  rw [hiz]
  simp only [r, FFmt.fma, show f.value a = x from rfl, show f.value b = y from rfl, show f.value c = z from rfl]
  clear_value x y z
  refine ⟨fun h => ?infZero, fun h hn => ?nan, fun h hx hy hz => ⟨fun hi => ?infProduct, fun hx' hy' hi => ?infAddend⟩⟩
  case infZero =>
    rw [h, if_pos (by simp)]
    rfl
  case nan =>
    rw [Bool.not_eq_true] at h
    rw [h, if_pos (by simpa [or_assoc] using hn)]
    rfl
  case infProduct =>
    rw [Bool.not_eq_true] at h
    rw [h, if_neg (by simp [hx, hy, hz]), if_pos (by simpa using hi)]
    refine if_congr ?_ rfl rfl
    simp [n]
  case infAddend =>
    rw [Bool.not_eq_true] at h
    rw [h, if_neg (by simp [hx, hy, hz]), if_neg (by simp [hx'.2, hy'.2]), if_pos hi]

end Sys2Proof.Machine
end

/-! Special operands of the dot products (R117, R144) -/
section
namespace Sys2Proof.Machine

theorem exists_lt_two {p : Nat → Prop} : (∃ i, i < 2 ∧ p i) ↔ p 0 ∨ p 1 := by
  constructor
  · rintro ⟨i, hi, h⟩
    interval_cases i
    · exact .inl h
    · exact .inr h
  · rintro (h | h)
    · exact ⟨0, by omega, h⟩
    · exact ⟨1, by omega, h⟩

theorem or_terms_iff {z p q p' q' : Prop} : z ∨ (p ∨ q) ∨ (p' ∨ q') ↔ p ∨ p' ∨ q ∨ q' ∨ z := by tauto

/-- The signs of the terms that are infinite, in their order. -/
def infiniteSigns (l : List (Bool × Bool)) : List Bool := (l.filter fun p => p.1).map fun p => p.2

theorem mem_infiniteSigns {l : List (Bool × Bool)} {n : Bool} : n ∈ infiniteSigns l ↔ (true, n) ∈ l := by
  simp [infiniteSigns]

/-- Infinite terms of one sign only: the first of them has it. -/
theorem head_infiniteSigns {l : List (Bool × Bool)} {n : Bool} (h : n ∈ infiniteSigns l) (h' : (!n) ∉ infiniteSigns l) :
    ∃ k, infiniteSigns l = n :: k := by
  cases hl : infiniteSigns l with
  | nil => simp [hl] at h
  | cons b k =>
    have hb : b ≠ !n := fun he => h' (by simp [hl, he])
    exact ⟨k, by cases b <;> cases n <;> simp_all⟩

theorem FVal.isNan_of_isSnan {x : FVal} (h : x.isSnan = true) : x.isNan = true := by
  cases x with
  | nan => rfl
  | inf | fin => cases h

/-- The operands of FDOT2: two products and an addend (R117). -/
def dotNan (f : FFmt) (a b c : Word) : Bool := [f.value (lane a 0), f.value (lane a 1), f.value (lane b 0), f.value (lane b 1), f32.value c.toNat].any FVal.isNan

/-- One of the operands of FDOT2 is a signalling NaN. -/
def dotSnan (f : FFmt) (a b c : Word) : Bool := [f.value (lane a 0), f.value (lane a 1), f.value (lane b 0), f.value (lane b 1), f32.value c.toNat].any FVal.isSnan

/-- A product of FDOT2 is one of an infinity and a zero. -/
def dotInfZero (f : FFmt) (a b : Word) : Bool :=
  let infZero (p q : FVal) : Bool := (p.isInf && q.isZero) || (p.isZero && q.isInf)
  infZero (f.value (lane a 0)) (f.value (lane b 0)) || infZero (f.value (lane a 1)) (f.value (lane b 1))

/-- The signs of the infinite terms of FDOT2. -/
def dotSigns (f : FFmt) (a b c : Word) : List Bool := infiniteSigns
  [((f.value (lane a 0)).isInf || (f.value (lane b 0)).isInf, (f.value (lane a 0)).neg != (f.value (lane b 0)).neg),
   ((f.value (lane a 1)).isInf || (f.value (lane b 1)).isInf, (f.value (lane a 1)).neg != (f.value (lane b 1)).neg),
   ((f32.value c.toNat).isInf, (f32.value c.toNat).neg)]

section
variable {f : FFmt} {mode : RMode} {a b c : Word}

theorem dot2_nan (h : (dotNan f a b c || dotInfZero f a b) = true) : dot2 f mode a b c = f32.nanOf (dotInfZero f a b || dotSnan f a b c) := by
  unfold dot2
  exact if_pos h

theorem dot2_opposite (h : (dotNan f a b c || dotInfZero f a b) = false) (ht : true ∈ dotSigns f a b c) (hf : false ∈ dotSigns f a b c) :
    dot2 f mode a b c = f32.nanOf true := by
  unfold dot2
  refine (if_neg (Bool.not_eq_true _ ▸ h)).trans (if_pos ?_)
  rw [Bool.and_eq_true, List.contains_iff_mem, List.contains_iff_mem]
  exact ⟨ht, hf⟩

theorem dot2_infinite (h : (dotNan f a b c || dotInfZero f a b) = false) {n : Bool} (hn : n ∈ dotSigns f a b c) (hn' : (!n) ∉ dotSigns f a b c) :
    dot2 f mode a b c = (f32.signed n f32.infCode, {}) := by
  obtain ⟨k, hk⟩ := head_infiniteSigns hn hn'
  unfold dot2
  refine (if_neg (Bool.not_eq_true _ ▸ h)).trans ((if_neg ?_).trans ?_)
  · rw [Bool.and_eq_true, List.contains_iff_mem, List.contains_iff_mem]
    rintro ⟨h1, h2⟩
    cases n
    · exact hn' h1
    · exact hn' h2
  · change (match dotSigns f a b c with | n :: _ => _ | [] => _) = _
    rw [dotSigns, hk]
end

/-- FDOT2 of NaNs and infinities (R117). -/
theorem special_dot2 (f : FFmt) (mode : RMode) (a b c : Word) :
    let v (w : Word) (i : Nat) : FVal := f.value (w.toNat / 2 ^ (16 * i) % 2 ^ 16)
    let z := f32.value c.toNat
    let r := dot2 f mode a b c
    let infZero : Prop := ∃ i, i < 2 ∧ (((v a i).isInf ∧ (v b i).isZero) ∨ ((v a i).isZero ∧ (v b i).isInf))
    let nan : Prop := z.isNan ∨ ∃ i, i < 2 ∧ ((v a i).isNan ∨ (v b i).isNan)
    let signalling : Prop := z.isSnan ∨ ∃ i, i < 2 ∧ ((v a i).isSnan ∨ (v b i).isSnan)
    let infinite (n : Bool) : Prop := z = .inf n ∨ ∃ i, i < 2 ∧ ((v a i).isInf ∨ (v b i).isInf) ∧ ((v a i).neg != (v b i).neg) = n
    (infZero ∨ signalling → r = (0x7FC00000, { nv := true }))
    ∧ (¬infZero → ¬signalling → nan → r = (0x7FC00000, {}))
    ∧ (¬infZero → ¬nan →
      (infinite true → infinite false → r = (0x7FC00000, { nv := true }))
      ∧ ∀ n, infinite n → ¬infinite (!n) → r = (f32.signed n f32.infCode, {})) := by
  intro v z r infZero nan signalling infinite
  have hv (w : Word) (i : Nat) : v w i = f.value (lane w i) := rfl
  have hiz : infZero ↔ dotInfZero f a b = true := by
    simp only [infZero, exists_lt_two, hv, dotInfZero, Bool.or_eq_true, Bool.and_eq_true]
  have hnan : nan ↔ dotNan f a b c = true := by
    simp only [nan, exists_lt_two, hv, or_terms_iff, dotNan, List.any_cons, List.any_nil, Bool.or_eq_true, Bool.false_eq_true, or_false]
    rfl
  have hsn : signalling ↔ dotSnan f a b c = true := by
    simp only [signalling, exists_lt_two, hv, or_terms_iff, dotSnan, List.any_cons, List.any_nil, Bool.or_eq_true, Bool.false_eq_true, or_false]
    rfl
  have hinf (n : Bool) : infinite n ↔ n ∈ dotSigns f a b c := by
    have hz : z = .inf n ↔ z.isInf = true ∧ z.neg = n := by cases z <;> simp [FVal.isInf, FVal.neg]
    simp only [infinite, exists_lt_two, hz, hv, dotSigns, mem_infiniteSigns, List.mem_cons, List.not_mem_nil, or_false, Prod.mk.injEq,
      eq_comm (a := true), eq_comm (a := n), Bool.or_eq_true]
    exact or_comm.trans or_assoc
  rw [hiz, hnan, hsn]
  simp only [hinf]
  refine ⟨fun h => ?_, fun h1 h2 h3 => ?_, fun h1 h2 => ?_⟩
  · have hs : dotSnan f a b c = true → dotNan f a b c = true := by
      simp only [dotSnan, dotNan, List.any_eq_true]
      exact fun ⟨p, hp, hs⟩ => ⟨p, hp, FVal.isNan_of_isSnan hs⟩
    have hn : (dotNan f a b c || dotInfZero f a b) = true := Bool.or_eq_true_iff.2 (h.symm.imp_left hs)
    rw [show r = _ from dot2_nan hn, Bool.or_eq_true_iff.2 h]
    rfl
  · rw [Bool.not_eq_true] at h1 h2
    rw [show r = _ from dot2_nan (by rw [h3, Bool.true_or]), h1, h2]
    rfl
  · have h : (dotNan f a b c || dotInfZero f a b) = false := by
      rw [Bool.or_eq_false_iff]
      exact ⟨Bool.not_eq_true _ ▸ h2, Bool.not_eq_true _ ▸ h1⟩
    exact ⟨dot2_opposite h, fun n => dot2_infinite h⟩

/-- A floating dot product of NaNs and infinities (R144). -/
theorem special_dotAdd (c : Nat) (d : Dyadic) (nan : Bool) : let z := f32.value c
    (nan = true ∨ z.isNan → dotAdd c d nan = (0x7FC00000, { nv := z.isSnan }))
    ∧ (nan = false → z.isInf → dotAdd c d nan = (f32.signed z.neg f32.infCode, {})) := by
  intro z
  refine ⟨fun h => ?_, fun h hz => ?_⟩
  · unfold dotAdd
    exact if_pos (by simpa using h)
  · obtain ⟨n, hn⟩ := isInf_iff.1 hz
    have hc : f32.value c = .inf n := hn
    unfold dotAdd
    simp only [h, z, hc]
    rfl

end Sys2Proof.Machine
end

/-! Roots, reciprocals and elementary functions of special operands (R108, R109) -/
section
namespace Sys2Proof.Machine

section
variable {f : FFmt} {mode : RMode} {a : Nat} {neg : Bool} {m : Nat} {e n : Int}

/-- One is the code of the bias with an empty fraction (R76). -/
theorem FFmt.roundExact_one (hf : f.Proper) (neg : Bool) : f.roundExact mode neg 1 0 = (f.signed neg (f.bias * 2 ^ f.fbits), {}) := by
  have h1 := f.one_le_bias hf
  have h2 := f.two_mul_bias hf
  have hqm : f.qmin = 1 - (f.bias : Int) - f.fbits := rfl
  have hl : Nat.log2 1 = 0 := by decide
  have hq : f.quantum 1 0 = -f.fbits := by
    have : f.quantum 1 0 = max (0 + (Nat.log2 1 : Nat) - (f.fbits : Int)) f.qmin := rfl
    omega
  have hr : roundAt mode neg 1 0 (f.quantum 1 0) = (2 ^ f.fbits, true) := by
    rw [hq, roundAt_of_le (by omega), one_mul]
    congr 2
    omega
  have hc : f.roundedCode mode neg 1 0 = f.bias * 2 ^ f.fbits := by
    rw [FFmt.roundedCode, hr, hq, ← Nat.succ_mul]
    congr 1
    omega
  have hlt : f.roundedCode mode neg 1 0 < f.infCode := by
    rw [hc, FFmt.infCode]
    exact Nat.mul_lt_mul_of_pos_right (by omega) (by positivity)
  obtain ⟨uf, h, huf⟩ := f.roundExact_finite one_ne_zero hlt
  have hu : uf = false := by simpa [hr] using huf
  rw [h, hc, hr, hu]
  rfl

/-- A number that is an integer is its own rounding to an integer. -/
theorem roundAt_int (h : ratOf (.fin neg m e) = n) :
    signedMag neg (roundAt mode neg m e 0).1 = n ∧ (roundAt mode neg m e 0).2 = true := by
  have hs := roundAt_spec (mode := mode) (neg := neg) (m := m) (e := e) (q := 0)
  rw [zpow_zero, div_one, h] at hs
  have hk := le_antisymm (le_of_roundsTo hs.1 le_rfl) (ge_of_roundsTo hs.1 le_rfl)
  exact ⟨hk, hs.2.2 (by rw [hk])⟩

theorem floorDy_int (h : ratOf (.fin neg m e) = n) : floorDy neg m e = n := by
  obtain ⟨h1, h2⟩ := roundAt_int (mode := .rtz) h
  rw [floorDy]
  simp only [h2, if_true]
  exact h1

/-- The size of a number as a multiple of the unit that `modTwo` reduces it by. -/
theorem modTwo_spec (m : Nat) (e : Int) : ∃ M k : Nat, 1 ≤ k ∧ (m : Rat) * (2 : Rat) ^ e * 2 ^ k = M ∧ modTwo m e = (M % 2 ^ (k + 1), k) := by
  obtain ⟨j, hj⟩ : ∃ j : Nat, e + (max 1 (-e).toNat : Nat) = j := Int.eq_ofNat_of_zero_le (by omega)
  refine ⟨m * 2 ^ j, max 1 (-e).toNat, le_max_left .., ?_, ?_⟩
  · rw [mul_assoc, ← zpow_natCast, ← two_zpow_add, hj]
    push_cast
    rw [zpow_natCast]
  · unfold modTwo
    simp only
    rw [hj]
    rfl

/-- The angle of an integer, modulo two. -/
theorem modTwo_int {N : Nat} (h : (m : Rat) * (2 : Rat) ^ e = N) : ∃ k, 1 ≤ k ∧ modTwo m e = (N % 2 * 2 ^ k, k) := by
  obtain ⟨M, k, hk, hM, hm⟩ := modTwo_spec m e
  refine ⟨k, hk, ?_⟩
  have hM : N * 2 ^ k = M := by rw [h] at hM; exact_mod_cast hM
  rw [hm, ← hM, pow_succ, mul_comm (2 ^ k) 2, Nat.mul_mod_mul_right]

/-- The angle of half an odd integer, modulo two. -/
theorem modTwo_half {N : Nat} (h : (m : Rat) * (2 : Rat) ^ e = N + 1 / 2) : ∃ j, modTwo m e = ((2 * (N % 2) + 1) * 2 ^ j, j + 1) := by
  obtain ⟨M, k, hk, hM, hm⟩ := modTwo_spec m e
  obtain ⟨j, rfl⟩ : ∃ j, k = j + 1 := ⟨k - 1, by omega⟩
  refine ⟨j, ?_⟩
  have hM : (2 * N + 1) * 2 ^ j = M := by
    have : ((2 * N + 1) * 2 ^ j : Rat) = M := by rw [← hM, h, pow_succ]; ring
    exact_mod_cast this
  rw [hm, ← hM, show 2 ^ (j + 1 + 1) = 4 * 2 ^ j by ring, Nat.mul_mod_mul_right, show (2 * N + 1) % 4 = 2 * (N % 2) + 1 by omega]

theorem FFmt.sinUnit_half (hf : f.Proper) {n k : Nat} (h : 2 * n = 2 ^ k) : f.sinUnit neg n k = (f.signed neg (f.bias * 2 ^ f.fbits), {}) := by
  rw [FFmt.sinUnit, if_pos h, f.roundExact_one hf]

section
variable {N : Nat} (ha : f.value a = .fin neg m e)
include ha

theorem FFmt.sinpi_int (h : (m : Rat) * (2 : Rat) ^ e = N) : f.sinpi a = (f.signed neg 0, {}) := by
  obtain ⟨k, -, hm⟩ := modTwo_int h
  rw [FFmt.sinpi, ha]
  simp only [hm]
  exact if_pos (.inr (Nat.mul_mod_left ..))

theorem FFmt.cospi_int (hf : f.Proper) (h : (m : Rat) * (2 : Rat) ^ e = N) :
    f.cospi a = (f.signed (decide (N % 2 = 1)) (f.bias * 2 ^ f.fbits), {}) := by
  obtain ⟨k, -, hm⟩ := modTwo_int h
  have hp : 0 < 2 ^ k := by positivity
  rw [FFmt.cospi, ha]
  simp only [hm]
  rcases Nat.mod_two_eq_zero_or_one N with h0 | h0
  · simp only [h0, zero_mul, mul_zero, not_lt_zero, if_false, if_neg hp.ne, if_pos hp, Nat.sub_zero]
    exact f.sinUnit_half hf (Nat.pow_succ' ..).symm
  · simp only [h0, one_mul, lt_irrefl, if_false, if_neg (by omega : ¬2 * 2 ^ k = 2 ^ k), if_neg (by omega : ¬2 * 2 ^ k < 2 ^ k)]
    exact f.sinUnit_half hf (by rw [pow_succ]; omega)

theorem FFmt.sinpi_half (hf : f.Proper) (h : (m : Rat) * (2 : Rat) ^ e = N + 1 / 2) :
    f.sinpi a = (f.signed (neg != decide (N % 2 = 1)) (f.bias * 2 ^ f.fbits), {}) := by
  obtain ⟨j, hm⟩ := modTwo_half h
  have hp : 0 < 2 ^ j := by positivity
  have hm0 : m ≠ 0 := by
    rintro rfl
    rw [Nat.cast_zero, zero_mul] at h
    have := N.cast_nonneg (α := Rat)
    linarith
  have hu : (2 * (N % 2) + 1) * 2 ^ j % 2 ^ (j + 1) = 2 ^ j := by
    rw [pow_succ, mul_comm (2 ^ j) 2, Nat.mul_mod_mul_right, show (2 * (N % 2) + 1) % 2 = 1 by omega, one_mul]
  rw [FFmt.sinpi, ha]
  simp only [hm, hu, if_neg (by omega : ¬(m = 0 ∨ 2 ^ j = 0)), if_neg (by rw [pow_succ]; omega : ¬2 ^ (j + 1) < 2 * 2 ^ j)]
  rw [f.sinUnit_half hf (by rw [pow_succ]; omega)]
  have hflip : 2 ^ (j + 1) ≤ (2 * (N % 2) + 1) * 2 ^ j ↔ N % 2 = 1 := by
    rw [pow_succ, mul_comm (2 ^ j) 2, Nat.mul_le_mul_right_iff hp]
    omega
  simp only [hflip]

theorem FFmt.cospi_half (h : (m : Rat) * (2 : Rat) ^ e = N + 1 / 2) : f.cospi a = (0, {}) := by
  obtain ⟨j, hm⟩ := modTwo_half h
  have hp : 0 < 2 ^ j := by positivity
  rw [FFmt.cospi, ha]
  simp only [hm]
  rcases Nat.mod_two_eq_zero_or_one N with h0 | h0
  · simp only [h0]
    rw [if_neg (by rw [pow_succ]; omega : ¬2 ^ (j + 1) < (2 * 0 + 1) * 2 ^ j), if_pos (by rw [pow_succ]; omega)]
  · simp only [h0]
    rw [if_pos (by rw [pow_succ]; omega : 2 ^ (j + 1) < (2 * 1 + 1) * 2 ^ j), if_pos (by rw [pow_succ, pow_succ]; omega)]
end

/-- A power of two of the format's range is exact (R109). -/
theorem FFmt.roundExact_pow (hf : f.Proper) (hn : f.qmin ≤ n) (hn' : n ≤ f.bias) :
    holdsExactly f (f.roundExact mode false 1 n) false ((2 : Rat) ^ n) := by
  have hv : ratOf (.fin false 1 n) = (2 : Rat) ^ n := by rw [ratOf_fin, signedMag_eq_ite]; simp
  have h1 : 1 ≤ 2 ^ (f.fbits + 1) := Nat.one_le_two_pow
  have hg : Grid f.fbits f.qmin (ratOf (.fin false 1 n)) := grid_of_le h1 hn (abs_ratOf_fin ..)
  rw [← hv]
  refine f.roundExact_exact hf hg ?_
  rw [abs_ratOf_fin, Nat.cast_one, one_mul]
  exact two_zpow_lt (by omega)

/-- FEXP2 of an integer is that power of two (R109). -/
theorem FFmt.exp2_int (hf : f.Proper) (hw : f.fbits + 1 ≤ f.bias) (ha : f.value a = .fin neg m e) (h : ratOf (.fin neg m e) = n)
    (hn : f.qmin ≤ n) (hn' : n ≤ f.bias) : f.exp2 a = f.roundExact .rne false 1 n := by
  have h2 := f.two_mul_bias hf
  have hqm : f.qmin = 1 - (f.bias : Int) - f.fbits := rfl
  have h2' : (2 : Int) * f.bias + 2 = 2 ^ f.ebits := by exact_mod_cast h2
  rw [FFmt.exp2, ha]
  simp only [floorDy_int h]
  rcases eq_or_ne m 0 with rfl | hm
  · rw [(ratOf_fin_eq_zero ..).2 rfl] at h
    obtain rfl : n = 0 := by exact_mod_cast h.symm
    rfl
  · rw [if_neg hm, if_neg (by omega), if_neg (by omega)]
    split_ifs with he hfrac
    · rfl
    · rfl
    · refine absurd ?_ hfrac
      have hs : (signedMag neg m : Rat) = (n * 2 ^ (-e).toNat : Int) := by
        rw [ratOf_fin] at h
        rw [Int.cast_mul, ← h, mul_assoc, Int.cast_pow, Int.cast_ofNat, ← zpow_natCast, ← two_zpow_add,
          show e + ((-e).toNat : Int) = 0 by omega, zpow_zero, mul_one]
      have hs : signedMag neg m = n * 2 ^ (-e).toNat := by exact_mod_cast hs
      rw [hs]
      omega

/-- FLOG2 of a power of two is its exponent (R109). -/
theorem FFmt.lg2_pow (ha : f.value a = .fin neg m e) (h : ratOf (.fin neg m e) = (2 : Rat) ^ n) : f.lg2 a = f.ofInt .rne n := by
  have hm : m ≠ 0 := fun h0 => two_zpow_ne_zero n (h ▸ (ratOf_fin_eq_zero ..).2 h0)
  have hneg : neg = false := by
    have : ¬ratOf (.fin neg m e) < 0 := not_lt.2 (h ▸ (two_zpow_pos n).le)
    rw [ratOf_fin_neg] at this
    cases neg
    · rfl
    · exact absurd ⟨rfl, hm⟩ this
  have hmag : (m : Rat) * (2 : Rat) ^ e = (2 : Rat) ^ n := by rw [← abs_ratOf_fin neg, h, abs_of_pos (two_zpow_pos n)]
  have hm2 : (m : Rat) = (2 : Rat) ^ (n - e) := by rw [zpow_sub₀ two_ne_zero, ← hmag, mul_div_cancel_right₀ _ (two_zpow_ne_zero e)]
  obtain ⟨j, hj⟩ : ∃ j : Nat, n - e = j := by
    refine Int.eq_ofNat_of_zero_le (two_zpow_le_iff.1 ?_)
    rw [← hm2, zpow_zero]
    exact_mod_cast Nat.one_le_iff_ne_zero.2 hm
  have hm3 : m = 2 ^ j := by rw [hj, zpow_natCast] at hm2; exact_mod_cast hm2
  have hl : m.log2 = j := by rw [hm3, Nat.log2_two_pow]
  rw [FFmt.lg2, ha]
  simp only [if_neg hm, hneg, Bool.false_eq_true, if_false, hl, if_pos hm3]
  congr 1
  omega

end
end Sys2Proof.Machine
end

/-! The tables of the functions of one operand (R108, R109) -/
section
namespace Sys2Proof.Machine

/-- FP64 and FP32 hold every exponent of theirs as an integer. -/
theorem FFmt.exponent_le_of_mem {f : FFmt} (h : f ∈ [f64, f32]) : f.bias + f.fbits ≤ 2 ^ (f.fbits + 1) := by
  simp only [List.mem_cons, List.not_mem_nil, or_false] at h
  rcases h with rfl | rfl <;> decide

theorem FFmt.mem_formats {f : FFmt} (h : f ∈ [f64, f32]) : f ∈ [f64, f32, f16, b16] := by
  simp only [List.mem_cons, List.not_mem_nil, or_false] at h ⊢
  tauto

section
variable (f : FFmt) (mode : RMode) {a : Nat}

/-- The functions of one operand at a NaN (R77, R108, R109). -/
theorem FFmt.elem_nan {s : Bool} (h : f.value a = .nan s) : f.sqrt mode a = f.nanOf s ∧ f.rcp mode a = f.nanOf s ∧ f.rsq mode a = f.nanOf s
    ∧ f.exp2 a = f.nanOf s ∧ f.lg2 a = f.nanOf s ∧ f.sinpi a = f.nanOf s ∧ f.cospi a = f.nanOf s := by
  simp only [FFmt.sqrt, FFmt.rcp, FFmt.rsq, FFmt.exp2, FFmt.lg2, FFmt.sinpi, FFmt.cospi, h, f.divV_nan mode (.inr rfl : _ ∨ (FVal.nan s).isNan = true)]
  exact ⟨trivial, rfl, trivial, trivial, trivial, trivial, trivial⟩

/-- The functions of one operand at an infinity (R108, R109). -/
theorem FFmt.elem_inf {n : Bool} (h : f.value a = .inf n) : f.sqrt mode a = (if n then f.nanOf true else (f.infCode, {}))
    ∧ f.rcp mode a = (f.signed n 0, {}) ∧ f.rsq mode a = (if n then f.nanOf true else (f.signed false 0, {}))
    ∧ f.exp2 a = (if n then 0 else f.infCode, {}) ∧ f.lg2 a = (if n then f.nanOf true else (f.infCode, {}))
    ∧ f.sinpi a = f.nanOf true ∧ f.cospi a = f.nanOf true := by
  simp only [FFmt.sqrt, FFmt.rcp, FFmt.rsq, FFmt.exp2, FFmt.lg2, FFmt.sinpi, FFmt.cospi, h]
  exact ⟨trivial, by cases n <;> rfl, trivial, trivial, trivial, trivial, trivial⟩

/-- The functions of one operand at a zero (R108, R109). -/
theorem FFmt.elem_zero (hf : f.Proper) {n : Bool} {e : Int} (h : f.value a = .fin n 0 e) : let one := (f.signed false (f.bias * 2 ^ f.fbits), ({} : Conds))
    f.sqrt mode a = (f.signed n 0, {})
    ∧ f.rcp mode a = (f.signed n f.infCode, { dz := true }) ∧ f.rsq mode a = (f.signed n f.infCode, { dz := true })
    ∧ f.exp2 a = one ∧ f.lg2 a = (f.signed true f.infCode, { dz := true }) ∧ f.sinpi a = (f.signed n 0, {}) ∧ f.cospi a = one := by
  have h0 : ((0 : Nat) : Rat) * (2 : Rat) ^ e = (0 : Nat) := by simp
  refine ⟨?_, ?_, ?_, ?_, ?_, f.sinpi_int h h0, f.cospi_int h hf h0⟩
  · simp only [FFmt.sqrt, h, if_true]
  · rw [FFmt.rcp, h, f.divV_zero mode rfl ⟨rfl, rfl⟩]
    cases n <;> rfl
  · simp only [FFmt.rsq, h, if_true]
  · simp only [FFmt.exp2, h, if_true, f.roundExact_one hf]
  · simp only [FFmt.lg2, h, if_true]

/-- The functions of one operand at a negative number (R108, R109). -/
theorem FFmt.elem_neg {m : Nat} {e : Int} (h : f.value a = .fin true m e) (hm : m ≠ 0) :
    f.sqrt mode a = f.nanOf true ∧ f.rsq mode a = f.nanOf true ∧ f.lg2 a = f.nanOf true := by
  simp only [FFmt.sqrt, FFmt.rsq, FFmt.lg2, h, if_neg hm, if_true]
  exact ⟨trivial, trivial, trivial⟩
end

theorem sign_of_ratOf {s : Bool} {m : Nat} {e : Int} {q : Rat} (h : ratOf (.fin s m e) = q) (hq : q ≠ 0) : s = decide (q < 0) := by
  have hm : m ≠ 0 := fun h0 => hq (h ▸ (ratOf_fin_eq_zero ..).2 h0)
  rw [← h, Bool.eq_iff_iff, decide_eq_true_iff, ratOf_fin_neg, and_iff_left hm]

/-- A power of two that the format holds has an exponent that it holds as an integer. -/
theorem FFmt.pow_exponent_bounds {f : FFmt} (hp : f.Proper) {s : Bool} {a m : Nat} {e n : Int} (h : f.value a = .fin s m e)
    (hn : ratOf (.fin s m e) = (2 : Rat) ^ n) : f.qmin ≤ n ∧ n ≤ f.bias := by
  obtain ⟨h1, h2, h3⟩ := f.fin_of_value hp h
  have hmag : (m : Rat) * (2 : Rat) ^ e = (2 : Rat) ^ n := by rw [← abs_ratOf_fin s, hn, abs_of_pos (two_zpow_pos n)]
  have hm : (1 : Rat) ≤ m := by
    have : m ≠ 0 := fun h0 => two_zpow_ne_zero n (by rw [← hmag, h0]; simp)
    exact_mod_cast Nat.one_le_iff_ne_zero.2 this
  constructor
  · rw [← two_zpow_le_iff, ← hmag, ← one_mul ((2 : Rat) ^ f.qmin)]
    exact mul_le_mul hm (two_zpow_le h2) (two_zpow_pos _).le m.cast_nonneg
  · have hlt := f.abs_fin_lt (neg := s) h1 h3
    rw [hn, abs_of_pos (two_zpow_pos n), two_zpow_lt_iff] at hlt
    omega

theorem natAbs_mod_two (n : Int) : n.natAbs % 2 = 1 ↔ n % 2 = 1 := by omega

/-- R108, R109: the functions of one operand at special operands and at their exact results. -/
theorem special_elem {f : FFmt} (hf : f ∈ [f64, f32]) (mode : RMode) (a : Nat) :
    let x := f.value a
    let nan (r : Nat × Conds) (invalid : Bool) : Prop := r = (f.nanCode, { nv := invalid })
    let zero (neg : Bool) : Nat × Conds := (f.signed neg 0, {})
    let one (neg : Bool) : Nat × Conds := (f.signed neg (f.bias * 2 ^ f.fbits), {})
    let inf (neg : Bool) : Nat × Conds := (f.signed neg f.infCode, {})
    let pole (neg : Bool) : Nat × Conds := (f.signed neg f.infCode, { dz := true })
    (x.isNan → let q := x.isSnan
      nan (f.sqrt mode a) q ∧ nan (f.rcp mode a) q ∧ nan (f.rsq mode a) q ∧ nan (f.exp2 a) q ∧ nan (f.lg2 a) q ∧ nan (f.sinpi a) q ∧ nan (f.cospi a) q)
    ∧ (x = .inf false → f.sqrt mode a = inf false ∧ f.rcp mode a = zero false ∧ f.rsq mode a = zero false ∧ f.exp2 a = inf false ∧ f.lg2 a = inf false)
    ∧ (x = .inf true → nan (f.sqrt mode a) true ∧ f.rcp mode a = zero true ∧ nan (f.rsq mode a) true ∧ f.exp2 a = zero false ∧ nan (f.lg2 a) true)
    ∧ (x.isInf → nan (f.sinpi a) true ∧ nan (f.cospi a) true)
    ∧ (x.isZero → f.sqrt mode a = zero x.neg ∧ f.rcp mode a = pole x.neg ∧ f.rsq mode a = pole x.neg ∧ f.exp2 a = one false ∧ f.lg2 a = pole true
        ∧ f.sinpi a = zero x.neg ∧ f.cospi a = one false)
    ∧ (isNumber x → ratOf x < 0 → nan (f.sqrt mode a) true ∧ nan (f.rsq mode a) true ∧ nan (f.lg2 a) true)
    ∧ (∀ n : Int, isNumber x → ratOf x = (n : Rat) →
        (n ≠ 0 → f.sinpi a = zero (decide (n < 0))) ∧ f.cospi a = one (decide (n % 2 = 1))
        ∧ (f.qmin ≤ n → n ≤ f.bias → (f.exp2 a).2 = {} ∧ isNumber (f.value (f.exp2 a).1) ∧ ratOf (f.value (f.exp2 a).1) = (2 : Rat) ^ n))
    ∧ (∀ n : Int, isNumber x → ratOf x = (n : Rat) + (1 / 2 : Rat) → f.sinpi a = one (decide (n % 2 = 1)) ∧ f.cospi a = zero false)
    ∧ (∀ n : Int, isNumber x → ratOf x = (2 : Rat) ^ n → (f.lg2 a).2 = {} ∧ isNumber (f.value (f.lg2 a).1) ∧ ratOf (f.value (f.lg2 a).1) = (n : Rat)) := by
  obtain ⟨hp, hw⟩ := f.wide_of_mem hf
  intro x nan zero one inf pole
  refine ⟨fun hx => ?nan, fun hx => ?posInf, fun hx => ?negInf, fun hx => ?inf, fun hx => ?zero, fun hx hlt => ?negative, fun n hx hn => ?int,
    fun n hx hn => ?half, fun n hx hn => ?pow⟩
  case nan =>
    obtain ⟨s, h⟩ : ∃ s, f.value a = .nan s := isNan_iff.1 hx
    simp only [x, h]
    exact f.elem_nan mode h
  case posInf =>
    obtain ⟨h1, h2, h3, h4, h5, -⟩ := f.elem_inf mode (show f.value a = _ from hx)
    exact ⟨h1, h2, h3, h4, h5⟩
  case negInf =>
    obtain ⟨h1, h2, h3, h4, h5, -⟩ := f.elem_inf mode (show f.value a = _ from hx)
    exact ⟨h1, h2, h3, h4, h5⟩
  case inf =>
    obtain ⟨s, h⟩ : ∃ s, f.value a = .inf s := isInf_iff.1 hx
    obtain ⟨-, -, -, -, -, h6, h7⟩ := f.elem_inf mode h
    exact ⟨h6, h7⟩
  case zero =>
    obtain ⟨s, e, h⟩ : ∃ s e, f.value a = .fin s 0 e := isZero_iff.1 hx
    simp only [x, h]
    exact f.elem_zero mode hp h
  case negative =>
    obtain ⟨s, m, e, h⟩ : ∃ s m e, f.value a = .fin s m e := isNumber_iff_fin.1 hx
    simp only [x, h] at hlt
    obtain ⟨rfl, hm⟩ := (ratOf_fin_neg s m e).1 hlt
    exact f.elem_neg mode h hm
  case int =>
    obtain ⟨s, m, e, h⟩ : ∃ s m e, f.value a = .fin s m e := isNumber_iff_fin.1 hx
    simp only [x, h] at hn
    have hmag : (m : Rat) * (2 : Rat) ^ e = (n.natAbs : Nat) := by
      rw [← abs_ratOf_fin s, hn, ← Int.cast_abs, Int.abs_eq_natAbs]
      rfl
    refine ⟨fun h0 => ?_, ?_, fun hq hb => ?_⟩
    · rw [f.sinpi_int h hmag, sign_of_ratOf hn (by exact_mod_cast h0)]
      simp only [Int.cast_lt_zero, zero]
    · rw [f.cospi_int h hp hmag]
      simp only [natAbs_mod_two, one]
    · rw [f.exp2_int hp hw h hn hq hb]
      obtain ⟨h1, h2, -, h4⟩ := f.roundExact_pow (mode := .rne) hp hq hb
      exact ⟨h1, h2, h4⟩
  case half =>
    obtain ⟨s, m, e, h⟩ : ∃ s m e, f.value a = .fin s m e := isNumber_iff_fin.1 hx
    simp only [x, h] at hn
    have hne : (n : Rat) + 1 / 2 ≠ 0 := by
      intro h0
      have : ((2 * n + 1 : Int) : Rat) = 0 := by push_cast; linarith
      have : 2 * n + 1 = 0 := by exact_mod_cast this
      omega
    have hs := sign_of_ratOf hn hne
    have hmag := abs_ratOf_fin s m e
    rw [hn] at hmag
    rcases le_or_gt 0 n with h0 | h0
    · obtain ⟨N, rfl⟩ := Int.eq_ofNat_of_zero_le h0
      have hpos : (0 : Rat) < (N : Int) + 1 / 2 := by push_cast; positivity
      rw [abs_of_pos hpos] at hmag
      rw [f.sinpi_half h hp hmag.symm, f.cospi_half h hmag.symm, hs, decide_eq_false hpos.not_gt]
      refine ⟨?_, rfl⟩
      simp only [one, Bool.false_bne]
      norm_cast
    · obtain ⟨N, hN⟩ := Int.eq_ofNat_of_zero_le (by omega : 0 ≤ -n - 1)
      obtain rfl : n = -(N : Int) - 1 := by omega
      have hval : ((-(N : Int) - 1 : Int) : Rat) + 1 / 2 = -(N + 1 / 2) := by push_cast; ring
      have hpos : (0 : Rat) < N + 1 / 2 := by positivity
      rw [hval] at hs hmag
      rw [abs_neg, abs_of_pos hpos] at hmag
      rw [f.sinpi_half h hp hmag.symm, f.cospi_half h hmag.symm, hs, decide_eq_true (neg_neg_iff_pos.2 hpos)]
      refine ⟨?_, rfl⟩
      simp only [one, Bool.true_bne, ← decide_not]
      congr 3
      simp only [eq_iff_iff]
      omega
  case pow =>
    obtain ⟨s, m, e, h⟩ : ∃ s m e, f.value a = .fin s m e := isNumber_iff_fin.1 hx
    simp only [x, h] at hn
    rw [f.lg2_pow h hn]
    obtain ⟨h1, h2, -, h4⟩ := f.ofInt_exact (mode := .rne) (n := n) hp hw (by
      obtain ⟨hq, hb⟩ := f.pow_exponent_bounds hp h hn
      have hx := f.exponent_le_of_mem hf
      have hqm : f.qmin = 1 - (f.bias : Int) - f.fbits := rfl
      rw [absOf_eq_abs, ← Int.cast_abs]
      exact_mod_cast (abs_le.2 ⟨by omega, by omega⟩ : |n| ≤ ((2 ^ (f.fbits + 1) : Nat) : Int)))
    exact ⟨h1, h2, h4⟩

end Sys2Proof.Machine
end

/-! Comparisons, minimum, maximum and classes (R107, R110 to R112); O7 -/
section
namespace Sys2Proof.Machine

/-! ### The order of values (R110) -/

section
variable {x y : FVal}

theorem FVal.kinds (h : x.isNan = false) : (∃ n, x = .inf n) ∨ isNumber x := by
  cases x with
  | nan => cases h
  | inf n => exact .inl ⟨n, rfl⟩
  | fin => exact .inr ⟨rfl, rfl⟩

theorem not_isNumber_inf (n : Bool) : ¬isNumber (.inf n) := fun h => Bool.noConfusion h.2

theorem leVal_of_isNumber (hx : isNumber x) (hy : isNumber y) : leVal x y ↔ ratOf x ≤ ratOf y := by
  obtain ⟨s, m, e, rfl⟩ := isNumber_iff_fin.1 hx
  obtain ⟨s', m', e', rfl⟩ := isNumber_iff_fin.1 hy
  simp [leVal, hx, hy]

theorem leVal_inf_left (n : Bool) : leVal (.inf n) y ↔ n = true ∨ y = .inf false := by
  cases n <;> simp [leVal, not_isNumber_inf]

theorem leVal_inf_right (n : Bool) : leVal x (.inf n) ↔ x = .inf true ∨ n = false := by
  cases n <;> simp [leVal, not_isNumber_inf]

theorem leVal_refl (hx : x.isNan = false) : leVal x x := by
  rcases FVal.kinds hx with ⟨n, rfl⟩ | hx
  · cases n
    · exact .inr (.inl rfl)
    · exact .inl rfl
  · exact (leVal_of_isNumber hx hx).2 le_rfl

/-- The comparison of two values that are no NaN (R110). -/
theorem FVal.cmp_spec (hx : x.isNan = false) (hy : y.isNan = false) : (x.cmp y ≠ .gt ↔ leVal x y) ∧ (x.cmp y ≠ .lt ↔ leVal y x) := by
  rcases FVal.kinds hx with ⟨n, rfl⟩ | hx <;> rcases FVal.kinds hy with ⟨k, rfl⟩ | hy
  · simp only [leVal_inf_right, FVal.inf.injEq, FVal.cmp]
    cases n <;> cases k <;> decide
  · obtain ⟨s, m, e, rfl⟩ := isNumber_iff_fin.1 hy
    simp only [leVal_inf_right, leVal_inf_left, FVal.cmp]
    cases n <;> simp
  · obtain ⟨s, m, e, rfl⟩ := isNumber_iff_fin.1 hx
    simp only [leVal_inf_right, leVal_inf_left, FVal.cmp]
    cases k <;> simp
  · rw [leVal_of_isNumber hx hy, leVal_of_isNumber hy hx, ratOf_eq_num, ratOf_eq_num]
    obtain ⟨s, m, e, rfl⟩ := isNumber_iff_fin.1 hx
    obtain ⟨s', m', e', rfl⟩ := isNumber_iff_fin.1 hy
    simp only [FVal.cmp, Dyadic.lt_iff, Dyadic.eqv_iff]
    split_ifs with h1 h2
    · simp [h1.le, h1]
    · simp [h2]
    · simp [lt_of_le_of_ne (not_lt.1 h1) (Ne.symm h2), not_lt.1 h1]

/-- The order in which minimum and maximum choose (R107). -/
theorem lessEq_spec (hx : x.isNan = false) (hy : y.isNan = false) : (lessEq x y = true → leVal x y) ∧ (lessEq x y = false → leVal y x)
    ∧ (x.isZero = true → y.isZero = true → lessEq x y = (x.neg || !y.neg)) := by
  rcases FVal.kinds hx with ⟨n, rfl⟩ | hx <;> rcases FVal.kinds hy with ⟨k, rfl⟩ | hy
  · simp only [leVal_inf_right, FVal.inf.injEq, lessEq]
    cases n <;> cases k <;> decide
  · obtain ⟨s, m, e, rfl⟩ := isNumber_iff_fin.1 hy
    simp only [leVal_inf_right, leVal_inf_left, lessEq]
    cases n <;> simp [FVal.isZero]
  · obtain ⟨s, m, e, rfl⟩ := isNumber_iff_fin.1 hx
    simp only [leVal_inf_right, leVal_inf_left, lessEq]
    cases k <;> simp [FVal.isZero]
  · rw [leVal_of_isNumber hx hy, leVal_of_isNumber hy hx]
    obtain ⟨s, m, e, rfl⟩ := isNumber_iff_fin.1 hx
    obtain ⟨s', m', e', rfl⟩ := isNumber_iff_fin.1 hy
    have hz : lessEq (.fin s m e) (.fin s' m' e') = if (FVal.fin s m e).isZero && (FVal.fin s' m' e').isZero then s || !s'
      else (FVal.fin s m e).dyadic.le (FVal.fin s' m' e').dyadic := rfl
    rw [hz]
    split_ifs with h
    · simp only [FVal.isZero, Bool.and_eq_true, decide_eq_true_eq] at h
      rw [(ratOf_fin_eq_zero s m e).2 h.1, (ratOf_fin_eq_zero s' m' e').2 h.2]
      exact ⟨fun _ => le_rfl, fun _ => le_rfl, fun _ _ => rfl⟩
    · refine ⟨(Dyadic.le_iff _ _).1, fun h' => ?_, fun h1 h2 => absurd (by rw [h1, h2]; rfl) h⟩
      exact (not_le.1 fun hle => by rw [(Dyadic.le_iff _ _).2 hle] at h'; cases h').le

/-- Of two zeros of unlike signs −0 is the lesser (R107). -/
theorem lessEq_zeros (hx : x.isZero = true) (hy : y.isZero = true) (hne : x.neg ≠ y.neg) : lessEq x y = x.neg := by
  rw [(lessEq_spec (isNumber_of_isZero hx).1 (isNumber_of_isZero hy).1).2.2 hx hy]
  revert hne
  cases x.neg <;> cases y.neg <;> decide
end

/-! ### Minimum and maximum (R107) -/

section
variable (f : FFmt) {a b : Nat}

theorem FFmt.minMax_canonical {isMax prop : Bool} (h : (f.value a).isNan = true ∨ (f.value b).isNan = true)
    (hp : prop = true ∨ ((f.value a).isNan = true ∧ (f.value b).isNan = true)) :
    f.minMax isMax prop a b = (f.nanCode, { nv := (f.value a).isSnan || (f.value b).isSnan }) := by
  unfold FFmt.minMax
  exact (if_pos (by simpa using h)).trans (if_pos (by simpa using hp))

theorem FFmt.minMax_nan_left (isMax : Bool) (ha : (f.value a).isNan = true) (hb : (f.value b).isNan = false) :
    f.minMax isMax false a b = (b % 2 ^ f.width, { nv := (f.value a).isSnan || (f.value b).isSnan }) := by
  unfold FFmt.minMax
  exact (if_pos (by simp [ha])).trans ((if_neg (by simp [hb])).trans (if_pos ha))

theorem FFmt.minMax_nan_right (isMax : Bool) (ha : (f.value a).isNan = false) (hb : (f.value b).isNan = true) :
    f.minMax isMax false a b = (a % 2 ^ f.width, { nv := (f.value a).isSnan || (f.value b).isSnan }) := by
  unfold FFmt.minMax
  exact (if_pos (by simp [hb])).trans ((if_neg (by simp [ha])).trans (if_neg (by simp [ha])))

theorem isSnan_of_not_isNan {x : FVal} (h : x.isNan = false) : x.isSnan = false := by
  cases x with
  | nan => cases h
  | inf | fin => rfl

theorem FFmt.minMax_number (isMax prop : Bool) (ha : (f.value a).isNan = false) (hb : (f.value b).isNan = false) :
    f.minMax isMax prop a b = (if (if isMax then lessEq (f.value b) (f.value a) else lessEq (f.value a) (f.value b)) then a % 2 ^ f.width
      else b % 2 ^ f.width, {}) := by
  unfold FFmt.minMax
  refine (if_neg (by simp [ha, hb])).trans ?_
  rw [isSnan_of_not_isNan ha, isSnan_of_not_isNan hb]
  rfl

/-- Without a NaN, minimum and maximum choose an operand that is no greater, or no less, than either (R107). -/
theorem FFmt.minMax_chosen (isMax prop : Bool) (ha : (f.value a).isNan = false) (hb : (f.value b).isNan = false) :
    let x := f.value a
    let y := f.value b
    let r := f.minMax isMax prop a b
    r.2 = {} ∧ (r.1 = a % 2 ^ f.width ∨ r.1 = b % 2 ^ f.width)
      ∧ (isMax = false → leVal (f.value r.1) x ∧ leVal (f.value r.1) y) ∧ (isMax = true → leVal x (f.value r.1) ∧ leVal y (f.value r.1))
      ∧ (x.isZero → y.isZero → x.neg ≠ y.neg → (f.value r.1).neg = !isMax) := by
  intro x y r
  have hr : r = _ := f.minMax_number isMax prop ha hb
  have hxx := leVal_refl ha
  have hyy := leVal_refl hb
  obtain ⟨hxy, hyx, -⟩ := lessEq_spec ha hb
  obtain ⟨hyx', hxy', -⟩ := lessEq_spec hb ha
  rw [hr]
  refine ⟨rfl, ite_eq_or_eq .., ?_⟩
  cases isMax with
  | false =>
    simp only [Bool.false_eq_true, if_false]
    cases hl : lessEq (f.value a) (f.value b) with
    | true =>
      rw [if_pos rfl, f.value_mod]
      exact ⟨fun _ => ⟨hxx, hxy hl⟩, nofun, fun hx hy hne => (lessEq_zeros hx hy hne).symm.trans hl⟩
    | false =>
      rw [if_neg Bool.false_ne_true, f.value_mod]
      exact ⟨fun _ => ⟨hyx hl, hyy⟩, nofun, fun hx hy hne => Bool.eq_not_of_ne ((lessEq_zeros hx hy hne).symm.trans hl ▸ hne.symm)⟩
  | true =>
    simp only [if_true]
    cases hl : lessEq (f.value b) (f.value a) with
    | true =>
      rw [if_pos rfl, f.value_mod]
      exact ⟨nofun, fun _ => ⟨hxx, hyx' hl⟩, fun hx hy hne => Bool.eq_not_of_ne ((lessEq_zeros hy hx hne.symm).symm.trans hl ▸ hne)⟩
    | false =>
      rw [if_neg Bool.false_ne_true, f.value_mod]
      exact ⟨nofun, fun _ => ⟨hxy' hl, hyy⟩, fun hx hy hne => (lessEq_zeros hy hx hne.symm).symm.trans hl⟩
end

/-! ### Comparisons and classes (R110 to R112) -/

/-- What a relation says of an order (R110). -/
def relHolds (rel : FRel) (o : Ordering) : Bool :=
  match rel with
  | .eq => decide (o = .eq)
  | .ne => decide (o ≠ .eq)
  | .lt => decide (o = .lt)
  | .le => decide (o ≠ .gt)
  | .gt => decide (o = .gt)
  | .ge => decide (o ≠ .lt)
  | .un => false
  | .or => true

/-- The relation asks for an order, so that a quiet NaN is invalid (R111). -/
def relOrders (rel : FRel) : Bool :=
  match rel with
  | .lt | .le | .gt | .ge => true
  | .eq | .ne | .un | .or => false

theorem relOrders_eq_false (rel : FRel) (u : Bool) : (relOrders rel && !u) = false ↔ rel = .eq ∨ rel = .ne ∨ rel = .un ∨ rel = .or ∨ u = true := by
  cases rel <;> simp [relOrders]

section
variable (f : FFmt) {a b : Nat}

theorem FFmt.fcmp_number (rel : FRel) (u : Bool) (ha : (f.value a).isNan = false) (hb : (f.value b).isNan = false) :
    f.fcmp rel u a b = (pOf (relHolds rel ((f.value a).cmp (f.value b))), {}) := by
  unfold FFmt.fcmp
  refine (if_neg (by simp [ha, hb])).trans ?_
  rw [isSnan_of_not_isNan ha, isSnan_of_not_isNan hb, ha, hb]
  cases rel <;> rfl

theorem FFmt.fcmp_conds (rel : FRel) (u : Bool) (h : (f.value a).isNan = true ∨ (f.value b).isNan = true) :
    (f.fcmp rel u a b).2 = { nv := (f.value a).isSnan || (f.value b).isSnan || (relOrders rel && !u) } := by
  have hu : ((f.value a).isNan || (f.value b).isNan) = true := by simpa using h
  unfold FFmt.fcmp
  simp only [hu, if_true]
  cases rel <;> rfl

theorem FFmt.fcmp_nan (rel : FRel) (u : Bool) (h : (f.value a).isNan = true ∨ (f.value b).isNan = true) :
    (f.fcmp rel u a b).1 = (match rel with
        | .un => 1
        | .or => 0
        | .ne => if u then 0xFFFFFFFF else 1
        | .eq | .lt | .le | .gt | .ge => if u then 0xFFFFFFFF else 0) := by
  have hu : ((f.value a).isNan || (f.value b).isNan) = true := by simpa using h
  unfold FFmt.fcmp
  simp only [hu, if_true]
  cases rel <;> rfl

theorem FFmt.fclass_eq (a : Nat) : f.fclass a =
    let e := a / 2 ^ f.fbits % 2 ^ f.ebits
    let m := a % 2 ^ f.fbits
    let side (neg pos : Word) : Word := if a / 2 ^ (f.ebits + f.fbits) % 2 = 1 then neg else pos
    if e = 2 ^ f.ebits - 1 then (if m = 0 then side 0x004 0x200 else if m < 2 ^ (f.fbits - 1) then 0x001 else 0x002)
       else if e = 0 then (if m = 0 then side 0x020 0x040 else side 0x010 0x080)
       else side 0x008 0x100 := by
  have hm : a % 2 ^ f.fbits < 2 ^ f.fbits := Nat.mod_lt _ (by positivity)
  simp only [FFmt.fclass, FFmt.value, FFmt.signW]
  split_ifs with h1 h2 h3 h4 h5
  all_goals simp_all
end

theorem comparisonTables_hold (f : FFmt) (a b : Nat) : comparisonTables f a b := by
  unfold comparisonTables
  intro x y signalling
  refine ⟨fun isMax prop => ⟨fun hx hy => ?_, fun h hp => ?_, fun hx hy hp => ?_, fun hx hy hp => ?_, fun hx hy => f.minMax_chosen isMax prop hx hy⟩,
    fun rel u => ⟨fun h => ⟨?_, fun hs => ?_, fun hs hq => ?_, fun hs hq => ?_⟩, fun hx hy => ?_⟩, ?_⟩
  · exact f.minMax_canonical (.inl hx) (.inr ⟨hx, hy⟩)
  · exact f.minMax_canonical h (.inl hp)
  · subst hp; exact f.minMax_nan_left isMax hx hy
  · subst hp; exact f.minMax_nan_right isMax hx hy
  · exact f.fcmp_nan rel u h
  · rw [f.fcmp_conds rel u h, show ((f.value a).isSnan || (f.value b).isSnan) = true from hs]
    rfl
  · rw [f.fcmp_conds rel u h, show ((f.value a).isSnan || (f.value b).isSnan) = false from hs, (relOrders_eq_false rel u).2 hq]
    rfl
  · have ho : (relOrders rel && !u) = true := by
      rw [← Bool.not_eq_false]
      exact mt (relOrders_eq_false rel u).1 hq
    rw [f.fcmp_conds rel u h, show ((f.value a).isSnan || (f.value b).isSnan) = false from hs, ho]
    rfl
  · intro holds
    have hh : relHolds rel (x.cmp y) = true ↔ holds := by
      obtain ⟨h1, h2⟩ := FVal.cmp_spec hx hy
      simp only [holds, ← h1, ← h2]
      generalize x.cmp y = o
      cases rel <;> cases o <;> decide
    rw [f.fcmp_number rel u hx hy]
    refine ⟨rfl, fun h => ?_, fun h => ?_⟩
    · rw [hh.2 h]; rfl
    · rw [Bool.eq_false_iff.2 (mt hh.1 h)]; rfl
  · exact f.fclass_eq a

/-- Settles O7: each table is that of the operation's own cases; its exact entries are numbers that the format holds. -/
theorem specialFloatResults : Obligations.SpecialFloatResults := by
  unfold Obligations.SpecialFloatResults
  refine ⟨fun f _ mode neg m e => ?_, fun f _ mode a b => f.special_arith mode a b, fun f _ mode a b c => f.special_fma mode a b c,
    fun f mode a b c _ => special_dot2 f mode a b c, special_dotAdd, fun f hf => special_elem hf, fun f _ => comparisonTables_hold f⟩
  intro r h
  have hr : r = _ := FFmt.roundExact_of_ov h
  rw [hr]
  exact ⟨rfl, rfl, rfl⟩

end Sys2Proof.Machine
end

/-! Held traps, ends of waits, yields, the picker and event windows: O55 (R90, R91, R95, R172, R174, R179, R199, R214, R261, R381, R385) -/
section
namespace Sys2Proof.Machine

section
variable {t : Thread}

/-- The first held trap is taken now, in handler mode only a malformed interval (R381, R383). -/
theorem Thread.heldNow_of_held {tr : Trap} {l : List Trap} (h : t.held = tr :: l) (hh : t.handler = false ∨ tr.cause = .malformedInterval) :
    t.heldNow = some tr := by
  unfold Thread.heldNow
  rw [h]
  refine if_neg ?_
  rcases hh with hh | hh <;> simp [hh]

theorem Thread.atBoundary_of_phase (h : t.phase = 0) (hp : ∀ q, t.resume ≠ some (.push q)) (hb : ∀ n g, t.resume ≠ some (.barrier n g)) :
    t.atBoundary = true := by
  unfold Thread.atBoundary
  rw [h]
  split
  · rename_i q hq; exact absurd hq (hp q)
  · rename_i n g hq; exact absurd hq (hb n g)
  · rfl
  · rfl
end

/-- What ends each wait (R172). -/
def waitEnds (s : State) (e : Env) (w : Wait) : Prop :=
  let c := s.core e.core
  let inContext (f : Nat → Prop) : Prop := ∀ mc, s.mcOf e = some mc → f mc
  match w with
  | .regs rs => ∀ g ∈ rs, e.t.full g = true
  | .limit => e.t.inFlight < 63
  | .allRegs => ∀ k, k < 16 * e.st.gran → e.t.full (BitVec.ofNat 8 k) = true
  | .exit => ∀ o ∈ e.t.ops, o.dstN = 0
  | .barrier n gen => s.gen e.ref.team n ≠ gen
  | .request => e.t.pend = none
  | .divisions => e.t.dividing = false
  | .push q => ∀ u, s.queue e.pl.ctxNum q = some u → ∀ p ∈ u.pushes, p.1 ≠ e.ref
  | .pageFault seq _ => ∀ f ∈ (s.context e.pl.ctxNum).faults, f.seq ≠ seq
  | .handle tok => ∀ k h, s.resolveHandle e tok = .entry k h → h.pending = false
  | .handleEntry => (c.freeHandle).isSome = true
  | .tile n => inContext fun mc => c.tileBusy mc n = false
  | .commandQueue => inContext fun mc => (c.mc mc).queue.length < 64 ∧ c.landed mc = []
  | .context => inContext fun mc => (c.mc mc).queue = [] ∧ ∀ o ∈ c.ops, o.ref.team = e.ref.team → o.ofContext = false
  | .accesses all => ∀ o ∈ e.t.ops, o.isDone = true ∨ (all = false ∧ o.kind.reads = false)
  | .translations before cores region => s.translationsDone e.pl.ctxNum before cores region = true
  | .acquires before cores => s.acquiring before cores = false
  | .sketch slot => e.t.skReady slot = true
  | .flags => s.flagsPending e.ref = false
  | .slot die n => s.slotRuns die n = false
  | .address a _ v ne _ => s.readReady e.ref e.core e.t (a.range 4) = true
      ∧ (s.poisoned (a.range 4) = true ∨ ((BitVec.ofNat 32 (s.load a 4) ≠ v) ↔ ne = true))

/-- The model's condition of a wait holds as soon as what the thread waits for has come (R172). -/
theorem State.waitOver_of_waitEnds {s : State} {e : Env} {w : Wait} (h : waitEnds s e w) : s.waitOver e e.t w = true := by
  have inContext {p : Nat → Bool} (h : ∀ mc, s.mcOf e = some mc → p mc = true) : (match s.mcOf e with
      | some mc => p mc
      | none => true) = true := by
    split
    · rename_i mc hmc; exact h mc hmc
    · rfl
  cases w with
  | regs rs => exact List.all_eq_true.2 h
  | limit => exact decide_eq_true h
  | allRegs =>
    refine List.all_eq_true.2 fun g hg => ?_
    obtain ⟨k, hk, rfl⟩ := List.mem_map.1 hg
    exact h k (List.mem_range.1 hk)
  | exit => exact (Bool.not_eq_true' _).mpr (List.any_eq_false.2 fun o ho => by simpa using h o ho)
  | barrier n gen => exact decide_eq_true h
  | request => exact Option.isNone_iff_eq_none.2 h
  | divisions => exact (Bool.not_eq_true' _).mpr h
  | push q =>
    simp only [State.waitOver]
    split
    · rename_i u hu
      exact (Bool.not_eq_true' _).mpr (List.any_eq_false.2 fun p hp => by simpa using h u hu p hp)
    · rfl
  | pageFault seq va => exact (Bool.not_eq_true' _).mpr (List.any_eq_false.2 fun f hf => by simpa using h f hf)
  | handle tok =>
    simp only [State.waitOver]
    split
    · rename_i k n hn
      exact (Bool.not_eq_true' _).mpr (h k n hn)
    · rfl
    · rfl
  | handleEntry => exact h
  | tile n => exact inContext fun mc hmc => (Bool.not_eq_true' _).mpr (h mc hmc)
  | commandQueue =>
    refine inContext fun mc hmc => ?_
    obtain ⟨h1, h2⟩ := h mc hmc
    exact Bool.and_eq_true_iff.2 ⟨decide_eq_true h1, List.isEmpty_iff.2 h2⟩
  | context =>
    refine inContext (p := fun mc => ((s.core e.core).mc mc).queue.isEmpty && !((s.core e.core).ops.any fun o => o.ref.team == e.ref.team && o.ofContext))
      fun mc hmc => ?_
    obtain ⟨h1, h2⟩ := h mc hmc
    refine Bool.and_eq_true_iff.2 ⟨List.isEmpty_iff.2 h1, (Bool.not_eq_true' _).mpr (List.any_eq_false.2 fun o ho => ?_)⟩
    simpa using h2 o ho
  | accesses all =>
    cases all with
    | true => exact List.all_eq_true.2 fun o ho => (h o ho).resolve_right fun h => by simpa using h.1
    | false => exact List.all_eq_true.2 fun o ho => by simpa using h o ho
  | translations before cores region => exact h
  | acquires before cores => exact (Bool.not_eq_true' _).mpr h
  | sketch slot => exact h
  | flags => exact (Bool.not_eq_true' _).mpr h
  | slot die n => exact (Bool.not_eq_true' _).mpr h
  | address a v c ne n =>
    obtain ⟨h1, h2⟩ := h
    refine Bool.and_eq_true_iff.2 ⟨h1, Bool.or_eq_true_iff.2 (h2.imp_right fun h2 => ?_)⟩
    cases ne with
    | true => exact decide_eq_true (h2.2 rfl)
    | false => exact decide_eq_true (not_not.1 fun hne => Bool.noConfusion (h2.1 hne))

/-- A window that has ended restarts at the last multiple of its length that has passed (R90). -/
theorem EvReg.roll_of_due {v : EvReg} {now : Nat} (hw : v.win ≠ 0) (h : v.start + v.win.toNat ≤ now) : v.due now = true ∧
    ∃ st, st ≤ now ∧ now < st + v.win.toNat ∧ (st - v.start) % v.win.toNat = 0 ∧ v.roll now = { v with cnt := 0, fired := false, start := st } := by
  have hp : 0 < v.win.toNat := Nat.pos_of_ne_zero fun h0 => hw (BitVec.eq_of_toNat_eq h0)
  have hd : v.due now = true := Bool.and_eq_true_iff.2 ⟨decide_eq_true hp.ne', decide_eq_true h⟩
  refine ⟨hd, v.start + (now - v.start) / v.win.toNat * v.win.toNat, ?_, ?_, ?_, if_pos hd⟩
  · have := Nat.div_mul_le_self (now - v.start) v.win.toNat
    omega
  · have := Nat.lt_div_mul_add hp (a := now - v.start)
    omega
  · rw [Nat.add_sub_cancel_left]
    exact Nat.mul_mod_left ..

/-- A tracked thread that has been in Rd for 256 clocks, and is the lowest of its class, is due to be forced (R179). -/
theorem State.overrideDue_of_tracked {s : State} {core bench cls since : Nat} {r : ThreadRef} (hcls : cls < 3)
    (htr : (s.core core).track.look (bench * 3 + cls) = some (r, since)) (hsince : since + 255 ≤ (s.core core).clock)
    (hlow : s.lowestOf core bench cls = some r) (hready : r ∈ s.ready core bench cls)
    (hne : (s.core core).forced.look (bench * 3 + cls) ≠ some r) : s.overrideDue core (bench * 3 + cls) = true := by
  have hdiv : (bench * 3 + cls) / 3 = bench := by omega
  have hmod : (bench * 3 + cls) % 3 = cls := by omega
  simp only [State.overrideDue, htr, hdiv, hmod, Bool.and_eq_true, decide_eq_true_eq, List.contains_iff_mem]
  exact ⟨⟨⟨hsince, hlow⟩, hready⟩, hne⟩

/-- Settles O55: each step of the thread's hardware is enabled where its condition holds, and does what its rule says. -/
theorem threadEventsComplete : Obligations.ThreadEventsComplete := by
  unfold Obligations.ThreadEventsComplete
  intro s r
  refine ⟨fun e tr l he hl hh hp hb h0 => ?held, fun e tr he hy hl => ?late, fun e w he => ?wait, fun t k ht hk hc => ?yield,
    fun core bench cls since => ?override, fun core k => ?window⟩
  case held =>
    have ht := (State.thread_of_env he).1
    change execHeldTrap r s = _
    unfold execHeldTrap
    simp only [he, Thread.heldNow_of_held hl hh, Thread.atBoundary_of_phase h0 hp hb, Bool.not_true, Bool.false_eq_true, if_false]
    rw [State.updThread_congr ht (g := fun t => { t with held := l }) (by rw [hl]; rfl), apply_ite Host.Outcome.next]
  case late =>
    unfold State.issueThread
    simp only [he, hy, hl]
    rfl
  case wait =>
    intro c inContext h
    have hover : (s.waitOver e e.t w || (e.t.late.isSome && !e.t.dividing)) = true :=
      Bool.or_eq_true_iff.2 (h.imp (fun h => State.waitOver_of_waitEnds h) fun h => by simp [h])
    change execWaitEnd r s = _
    unfold execWaitEnd
    rw [he]
    exact (if_pos hover).trans (by cases w <;> rfl)
  case yield =>
    change execYieldExpiry r s = _
    unfold execYieldExpiry
    rw [ht, Option.bind_some, hk]
    exact if_pos hc
  case override =>
    intro c htr hsince hlow hready hcls hne
    replace htr : (s.core core).track.look (bench * 3 + cls) = some (r, since) := htr
    have hdue := State.overrideDue_of_tracked hcls htr hsince hlow hready hne
    change execPickerOverride core bench cls s = _
    unfold execPickerOverride
    simp only [htr]
    exact if_pos (Bool.and_eq_true_iff.2 ⟨decide_eq_true hcls, hdue⟩)
  case window =>
    intro c v hw hd
    obtain ⟨hdue, st, h1, h2, h3, h4⟩ := EvReg.roll_of_due hw hd
    refine ⟨st, h1, h2, h3, ?_⟩
    change execEventWindowRestart core k s = _
    unfold execEventWindowRestart
    exact (if_pos hdue).trans (by rw [h4])

end Sys2Proof.Machine
end

/-! Codes of the narrow formats (R75, R78 to R80, R87, R121) -/
section
namespace Sys2Proof.Machine

/-! ### N8 and N8W -/

/-- N8 and N8W: `2 ^ (7 - fbits)` exponents of `2 ^ fbits` fractions fill the codes below the sign (R78). -/
def NFmt.Proper (f : NFmt) : Prop := 1 ≤ f.fbits ∧ f.fbits ≤ 6

theorem n8_proper : n8.Proper := ⟨by decide, by decide⟩

theorem n8w_proper : n8w.Proper := ⟨by decide, by decide⟩

/-- The size of a code by its exponent field and its fraction (R76, R78). -/
theorem size_of_fields (fb bias c : Nat) : (sigOf fb c : Rat) * (2 : Rat) ^ (1 - (bias : Int) - fb + (c / 2 ^ fb - 1 : Nat)) =
    if c / 2 ^ fb = 0 then ((c % 2 ^ fb : Nat) : Rat) / 2 ^ fb * (2 : Rat) ^ (1 - (bias : Int))
    else (1 + ((c % 2 ^ fb : Nat) : Rat) / 2 ^ fb) * (2 : Rat) ^ (((c / 2 ^ fb : Nat) : Int) - bias) := by
  have hp : (2 : Rat) ^ fb ≠ 0 := by positivity
  rw [sigOf]
  generalize c / 2 ^ fb = E
  split_ifs with h0
  · rw [h0, show 1 - (bias : Int) - fb + ((0 - 1 : Nat) : Int) = -(fb : Int) + (1 - (bias : Int)) by omega, two_zpow_add, zpow_neg, zpow_natCast]
    field_simp
  · rw [show 1 - (bias : Int) - fb + ((E - 1 : Nat) : Int) = -(fb : Int) + ((E : Int) - bias) by omega, two_zpow_add, zpow_neg, zpow_natCast]
    push_cast
    field_simp

section
variable {f : NFmt}

theorem NFmt.fraction_eq (hf : f.Proper) (c : Nat) : c % 2 ^ f.fbits = c % 128 % 2 ^ f.fbits :=
  (Nat.mod_mod_of_dvd _ (show 2 ^ f.fbits ∣ 2 ^ 7 from pow_dvd_pow 2 (by have := hf.2; omega))).symm

theorem NFmt.value_eq (hf : f.Proper) {c : Nat} (hc : c < 256) (h : c ≠ 0x80) :
    f.value c = .fin (decide (128 ≤ c)) (sigOf f.fbits (c % 128)) (f.qmin + (c % 128 / 2 ^ f.fbits - 1 : Nat)) := by
  unfold NFmt.value
  simp only [Nat.mod_eq_of_lt hc, if_neg h, f.fraction_eq hf c, sigOf]
  generalize c % 128 / 2 ^ f.fbits = E
  split_ifs with h0
  · simp [h0]
  · simp only [FVal.fin.injEq, true_and]
    omega

/-- The number of an N8 or N8W code (R78). -/
theorem NFmt.ratOf_value (hf : f.Proper) {c : Nat} (hc : c < 256) (h : c ≠ 0x80) : ratOf (f.value c) = narrowValue f.fbits f.bias c := by
  have hs := size_of_fields f.fbits f.bias (c % 128)
  rw [f.value_eq hf hc h, ratOf_fin, signedMag_eq_ite, narrowValue, f.fraction_eq hf c, ← hs]
  by_cases h1 : 128 ≤ c
  · simp only [h1, decide_true, if_true, neg_mul]
    rfl
  · simp only [h1, decide_false, if_false, Bool.false_eq_true]
    rfl

theorem NFmt.isNumber_value (hf : f.Proper) {c : Nat} (hc : c < 256) (h : c ≠ 0x80) : isNumber (f.value c) := by
  rw [f.value_eq hf hc h]
  exact ⟨rfl, rfl⟩
end

/-! ### I8, I4, N4 and S8 -/

theorem ratOf_intElem {w c : Nat} (hw : 0 < w) (hc : c < 2 ^ w) :
    ratOf (.fin (decide (2 ^ (w - 1) ≤ c)) (BitVec.ofNat w c).toInt.natAbs 0) = (BitVec.ofNat w c).toInt := by
  rw [ratOf_fin_int]
  congr 1
  have hp : 2 ^ w = 2 * 2 ^ (w - 1) := by rw [← Nat.pow_succ']; congr 1; omega
  rw [BitVec.toInt_eq_toNat_cond, BitVec.toNat_ofNat, Nat.mod_eq_of_lt hc, signedMag]
  simp only [decide_eq_true_eq]
  split_ifs <;> omega

theorem ratOf_n4Value {c : Nat} (hc : c < 16) : ratOf (n4Value c) =
    if c % 8 = 0 then 0 else (if 8 ≤ c then -1 else 1) * (2 : Rat) ^ (((c % 8 : Nat) : Int) - 4) := by
  unfold n4Value
  split_ifs with h0 h8
  · simp [ratOf_fin, signedMag, h0]
  · simp [ratOf_fin, signedMag, h0, Nat.mod_eq_of_lt hc, h8]
  · simp [ratOf_fin, signedMag, h0, Nat.mod_eq_of_lt hc, h8]

theorem ratOf_s8Value {c : Nat} (hc : c < 256) (h0 : c ≠ 0) (h1 : c ≠ 255) :
    isNumber (s8Value c) ∧ ratOf (s8Value c) = (1 + ((c % 4 : Nat) : Rat) / 4) * (2 : Rat) ^ (((c / 4 : Nat) : Int) - 31) := by
  have hv : s8Value c = .fin false (4 + c % 4) ((c / 4 : Nat) - 33) := by
    simp only [s8Value, Nat.mod_eq_of_lt hc, if_neg h0, if_neg h1]
  rw [hv]
  refine ⟨⟨rfl, rfl⟩, ?_⟩
  rw [ratOf_fin, signedMag_eq_ite, show ((c / 4 : Nat) : Int) - 31 = 2 + ((c / 4 : Nat) - 33) by omega, two_zpow_add]
  norm_num
  ring

/-! ### FP32 holds the elements of every packed format (R87, R121) -/

theorem f32_proper : f32.Proper := ⟨by decide, by decide⟩

theorem f32_exact {mode : RMode} {neg : Bool} {m : Nat} {e : Int} (hm : m < 2 ^ 24) (he : -149 ≤ e) (he' : e ≤ 104) :
    holdsExactly f32 (f32.roundExact mode neg m e) neg (ratOf (.fin neg m e)) :=
  f32.roundExact_exact f32_proper (f32.grid_fin hm he) (f32.abs_fin_lt hm (by
    rw [show (f32.fbits : Int) = 23 from rfl, show (f32.bias : Int) = 127 from rfl]; omega))

end Sys2Proof.Machine
end

/-! Conversions into N8 and N8W (R79, R86) -/
section
namespace Sys2Proof.Machine

section
variable {f : NFmt} {m : Nat} {e : Int} {neg : Bool}

/-- Rounding to nearest does not look at the sign (R82). -/
theorem roundAt_rne_sign (neg : Bool) (m : Nat) (e q : Int) : roundAt .rne neg m e q = roundAt .rne false m e q := rfl

/-- The magnitude code that a conversion into N8 or N8W puts together. -/
def NFmt.roundedCode (f : NFmt) (neg : Bool) (m : Nat) (e : Int) : Nat :=
  (quantum f.fbits f.qmin m e - f.qmin).toNat * 2 ^ f.fbits + (roundAt .rne neg m e (quantum f.fbits f.qmin m e)).1

/-- The code that a conversion within the range writes: every zero as 0x00 (R79). -/
def NFmt.signedCode (neg : Bool) (c : Nat) : Nat := if c = 0 then 0 else if neg then 128 + c else c

/-- The largest number of the format (R78). -/
def NFmt.top (f : NFmt) : Rat := narrowValue f.fbits f.bias 0x7F

theorem NFmt.num_top (hf : f.Proper) : (f.value 0x7F).dyadic.num = f.top := by
  rw [← ratOf_eq_num, f.ratOf_value hf (by decide) (by decide), NFmt.top]

theorem NFmt.encode_large (hf : f.Proper) (hm : m ≠ 0) (h : f.top < |ratOf (.fin neg m e)|) :
    f.encode (.fin neg m e) = ((if neg then 128 else 0) + 0x7F, { nx := true, ns := true }) := by
  unfold NFmt.encode
  refine (if_neg hm).trans (if_pos ?_)
  rw [Dyadic.lt_iff, f.num_top hf, Dyadic.num]
  rwa [abs_ratOf_fin] at h

theorem NFmt.encode_small (hf : f.Proper) (hm : m ≠ 0) (h : |ratOf (.fin neg m e)| ≤ f.top) : ∃ uf : Bool,
    f.encode (.fin neg m e) = (NFmt.signedCode neg (f.roundedCode neg m e),
        { uf := uf, nx := !(roundAt .rne neg m e (quantum f.fbits f.qmin m e)).2 })
      ∧ (uf = true ↔ ((roundAt .rne neg m e (e + m.log2 - f.fbits)).1 : Rat) * (2 : Rat) ^ (e + m.log2 - f.fbits) < (2 : Rat) ^ (f.qmin + f.fbits)
        ∧ (roundAt .rne neg m e (quantum f.fbits f.qmin m e)).2 = false) := by
  refine ⟨decide (((roundAt .rne neg m e (e + m.log2 - f.fbits)).1 : Rat) * (2 : Rat) ^ (e + m.log2 - f.fbits) < (2 : Rat) ^ (f.qmin + f.fbits))
    && !(roundAt .rne neg m e (quantum f.fbits f.qmin m e)).2, ?_, by simp⟩
  rw [Bool.decide_congr (tiny_iff hm _).symm, Bool.decide_eq_true]
  unfold NFmt.encode
  refine (if_neg hm).trans (if_neg ?_)
  rw [Dyadic.lt_iff, f.num_top hf, Dyadic.num]
  rw [abs_ratOf_fin] at h
  exact not_lt.2 h

/-- The largest number has all the fraction's ones at the largest exponent (R78). -/
theorem NFmt.top_eq (hf : f.Proper) : ∃ k : Nat, (k + 2) * 2 ^ f.fbits = 128 ∧ f.top = (2 ^ (f.fbits + 1) - 1 : Nat) * (2 : Rat) ^ (f.qmin + k) := by
  have hp : 0 < 2 ^ f.fbits := by positivity
  have h2 : 2 ≤ 2 ^ (7 - f.fbits) := Nat.le_self_pow (by have := hf.2; omega) 2
  obtain ⟨k, hk⟩ := Nat.exists_eq_add_of_le' h2
  have h128 : (k + 2) * 2 ^ f.fbits = 128 := by rw [← hk, ← pow_add, Nat.sub_add_cancel (by have := hf.2; omega)]; rfl
  refine ⟨k, h128, ?_⟩
  have hc : 127 = 2 ^ f.fbits * (k + 1) + (2 ^ f.fbits - 1) := by
    have : 2 ^ f.fbits * (k + 1) + 2 ^ f.fbits = 128 := by rw [← h128]; ring
    omega
  have hd : 127 / 2 ^ f.fbits = k + 1 := by rw [hc, Nat.mul_add_div hp, Nat.div_eq_of_lt (by omega), add_zero]
  have hm : 127 % 2 ^ f.fbits = 2 ^ f.fbits - 1 := by rw [hc, Nat.mul_add_mod, Nat.mod_eq_of_lt (by omega)]
  rw [NFmt.top, ← f.ratOf_value hf (by decide) (by decide), f.value_eq hf (by decide) (by decide), ratOf_fin]
  simp only [show 127 % 128 = 127 from rfl, sigOf, hd, hm, Nat.succ_ne_zero, if_false, pow_succ]
  rw [Nat.add_sub_cancel, show 2 ^ f.fbits + (2 ^ f.fbits - 1) = 2 ^ f.fbits * 2 - 1 by omega, signedMag_eq_ite, if_neg (by decide)]

/-- A number within the range gets a code within the range. -/
theorem NFmt.roundedCode_lt (hf : f.Proper) (hm : m ≠ 0) (h : |ratOf (.fin neg m e)| ≤ f.top) : f.roundedCode neg m e < 128 := by
  obtain ⟨k, hk, ht⟩ := f.top_eq hf
  obtain ⟨hn, -⟩ := roundAt_quantum_bounds (mode := .rne) (neg := neg) (e := e) (fb := f.fbits) (qmin := f.qmin) hm
  have hp : 0 < 2 ^ f.fbits := by positivity
  have hq : quantum f.fbits f.qmin m e ≤ f.qmin + k := by
    have hlt : (2 : Rat) ^ (e + m.log2) < (2 : Rat) ^ (((f.fbits + 1 : Nat) : Int) + (f.qmin + k)) := by
      refine ((top_le_size hm).trans h).trans_lt ?_
      rw [ht, two_zpow_add ((f.fbits + 1 : Nat) : Int), zpow_natCast]
      refine mul_lt_mul_of_pos_right ?_ (two_zpow_pos _)
      exact_mod_cast Nat.sub_lt (Nat.two_pow_pos (f.fbits + 1)) one_pos
    have := two_zpow_lt_iff.1 hlt
    unfold quantum
    omega
  rw [NFmt.roundedCode]
  rw [pow_succ] at hn
  rcases hq.lt_or_eq with hq | hq
  · have hK : (quantum f.fbits f.qmin m e - f.qmin).toNat + 1 ≤ k := by have : f.qmin ≤ quantum f.fbits f.qmin m e := le_max_right ..; omega
    have := Nat.mul_le_mul_right (2 ^ f.fbits) hK
    rw [add_mul] at this hk
    omega
  · have hn' : (roundAt .rne neg m e (quantum f.fbits f.qmin m e)).1 ≤ 2 ^ (f.fbits + 1) - 1 := roundAt_le (by rwa [hq, ← ht])
    rw [show (quantum f.fbits f.qmin m e - f.qmin).toNat = k by omega]
    rw [pow_succ] at hn'
    rw [add_mul] at hk
    omega

/-- The magnitude code stands for the rounded magnitude. -/
theorem NFmt.size_roundedCode (hm : m ≠ 0) : let c := f.roundedCode neg m e
    (sigOf f.fbits c : Rat) * (2 : Rat) ^ (f.qmin + (c / 2 ^ f.fbits - 1 : Nat)) =
      (roundAt .rne neg m e (quantum f.fbits f.qmin m e)).1 * (2 : Rat) ^ quantum f.fbits f.qmin m e := by
  intro c
  obtain ⟨hn, hk⟩ := roundAt_quantum_bounds (mode := .rne) (neg := neg) (e := e) (fb := f.fbits) (qmin := f.qmin) hm
  have hq : f.qmin ≤ quantum f.fbits f.qmin m e := le_max_right ..
  have hs := sigOf_mul_pow (k := (quantum f.fbits f.qmin m e - f.qmin).toNat) hn (by
    rcases hq.eq_or_lt with h | h
    · exact .inl (by omega)
    · exact .inr (hk h))
  rw [two_zpow_split hq, add_comm, two_zpow_add, zpow_natCast, ← mul_assoc, ← mul_assoc]
  congr 1
  exact_mod_cast hs

theorem NFmt.signedCode_lt {c : Nat} (hc : c < 128) (neg : Bool) : NFmt.signedCode neg c < 256 ∧ NFmt.signedCode neg c ≠ 0x80 := by
  unfold NFmt.signedCode
  split_ifs <;> omega

theorem NFmt.signedCode_mod_two {c : Nat} (neg : Bool) : NFmt.signedCode neg c % 2 = c % 2 := by
  unfold NFmt.signedCode
  split_ifs <;> omega

theorem NFmt.narrowValue_signedCode (hf : f.Proper) {c : Nat} (hc : c < 128) (neg : Bool) : narrowValue f.fbits f.bias (NFmt.signedCode neg c) =
    ratOf (.fin neg (sigOf f.fbits c) (f.qmin + (c / 2 ^ f.fbits - 1 : Nat))) := by
  obtain ⟨h1, h2⟩ := NFmt.signedCode_lt hc neg
  have hmod : NFmt.signedCode neg c % 128 = c := by unfold NFmt.signedCode; split_ifs <;> omega
  rw [← f.ratOf_value hf h1 h2, f.value_eq hf h1 h2, hmod]
  rcases eq_or_ne c 0 with rfl | h0
  · rw [show sigOf f.fbits 0 = 0 by simp [sigOf], (ratOf_fin_eq_zero ..).2 rfl, (ratOf_fin_eq_zero ..).2 rfl]
  · have hneg : decide (128 ≤ NFmt.signedCode neg c) = neg := by cases neg <;> simp [NFmt.signedCode, h0]; omega
    rw [hneg]

/-- The code written stands for the rounded number. -/
theorem NFmt.narrowValue_roundedCode (hf : f.Proper) (hm : m ≠ 0) (h : |ratOf (.fin neg m e)| ≤ f.top) :
    narrowValue f.fbits f.bias (NFmt.signedCode neg (f.roundedCode neg m e)) =
      ratOf (.fin neg (roundAt .rne neg m e (quantum f.fbits f.qmin m e)).1 (quantum f.fbits f.qmin m e)) := by
  rw [f.narrowValue_signedCode hf (f.roundedCode_lt hf hm h)]
  exact ratOf_fin_congr (f.size_roundedCode hm)

/-- Every number of the format lies on its grid. -/
theorem NFmt.grid_narrowValue (hf : f.Proper) {c : Nat} (hc : c < 256) (h : c ≠ 0x80) : Grid f.fbits f.qmin (narrowValue f.fbits f.bias c) := by
  rw [← f.ratOf_value hf hc h, f.value_eq hf hc h]
  exact ⟨_, _, sigOf_lt .., abs_ratOf_fin ..⟩

theorem NFmt.roundedCode_mod_two (hf : f.Proper) : f.roundedCode neg m e % 2 = (roundAt .rne neg m e (quantum f.fbits f.qmin m e)).1 % 2 := by
  rw [NFmt.roundedCode, Nat.add_mod, Nat.mul_mod, two_pow_mod_two hf.1]
  simp

/-- Tininess by the model's rounding with no bound on the exponent is tininess by any such rounding (R85). -/
theorem tiny_iff_exists {fb : Nat} {emin : Int} (hm : m ≠ 0) :
    ((roundAt .rne neg m e (e + m.log2 - fb)).1 : Rat) * (2 : Rat) ^ (e + m.log2 - fb) < (2 : Rat) ^ emin ↔
      ∃ (k : Nat) (q : Int), (k : Rat) * (2 : Rat) ^ q < (2 : Rat) ^ emin
        ∧ 2 ^ fb * (2 : Rat) ^ q ≤ absOf (ratOf (.fin neg m e)) ∧ absOf (ratOf (.fin neg m e)) < 2 ^ (fb + 1) * (2 : Rat) ^ q
        ∧ roundsTo .rne (absOf (ratOf (.fin neg m e)) / (2 : Rat) ^ q) k := by
  have habs : absOf (ratOf (.fin neg m e)) = ratOf (.fin false m e) := by rw [absOf_eq_abs, abs_ratOf_fin, ratOf_fin, signedMag_eq_ite]; rfl
  have hp (j : Nat) (q : Int) : (2 : Rat) ^ j * (2 : Rat) ^ q = (2 : Rat) ^ (j + q) := by rw [two_zpow_add, zpow_natCast]
  have hround (q : Int) : roundsTo .rne (ratOf (.fin false m e) / (2 : Rat) ^ q) (roundAt .rne neg m e q).1 :=
    (roundAt_spec (mode := .rne) (neg := false)).1
  have hle := top_le_size (neg := neg) (e := e) hm
  have hlt := size_lt_top neg m e
  rw [← absOf_eq_abs, habs] at hle hlt
  simp only [habs, hp]
  constructor
  · intro h
    exact ⟨_, _, h, by simpa using hle, by convert hlt using 2; push_cast; ring, hround _⟩
  · rintro ⟨k, q, h, h1, h2, h3⟩
    have ha := two_zpow_lt_iff.1 (h1.trans_lt hlt)
    have hb := two_zpow_lt_iff.1 (hle.trans_lt h2)
    obtain rfl : q = e + m.log2 - fb := by push_cast at hb; omega
    rwa [Int.ofNat_inj.1 (roundsTo_rne_unique (hround _) h3)]

/-- What a conversion of a number into N8 or N8W writes (R79, R86). -/
theorem NFmt.encode_fin (hf : f.Proper) : narrowCode f.fbits f.bias (ratOf (.fin neg m e)) (f.encode (.fin neg m e)) := by
  have htop : 0 ≤ f.top := by
    obtain ⟨k, -, ht⟩ := f.top_eq hf
    rw [ht]
    exact mul_nonneg (Nat.cast_nonneg _) (two_zpow_pos _).le
  rcases eq_or_ne m 0 with rfl | hm
  · have hv : ratOf (.fin neg 0 e) = 0 := (ratOf_fin_eq_zero ..).2 rfl
    have hy : narrowValue f.fbits f.bias 0 = 0 := by simp [narrowValue]
    rw [show f.encode (.fin neg 0 e) = (0, {}) from rfl, narrowCode, absOf_eq_abs, hv, abs_zero]
    refine (if_neg (not_lt.2 htop)).mpr ⟨by decide, by decide, fun c _ _ => ?_, false, ?_, ?_⟩
    · simp only [hy, absOf_eq_abs, sub_self, abs_zero]
      exact ⟨abs_nonneg _, fun _ => .inr trivial⟩
    · simp [hy]
    · simp [hy]
  rcases lt_or_ge f.top |ratOf (.fin neg m e)| with h | h
  · rw [narrowCode, absOf_eq_abs]
    refine (if_pos h).mpr ?_
    rw [f.encode_large hf hm h, if_congr (ratOf_fin_neg ..) rfl rfl]
    cases neg <;> simp [hm]
  · have hy := f.narrowValue_roundedCode hf hm h
    obtain ⟨uf, hr, huf⟩ := f.encode_small hf hm h
    obtain ⟨h1, h2⟩ := NFmt.signedCode_lt (f.roundedCode_lt hf hm h) neg
    have hx : (roundAt .rne neg m e (quantum f.fbits f.qmin m e)).2 = true ↔
        narrowValue f.fbits f.bias (NFmt.signedCode neg (f.roundedCode neg m e)) = ratOf (.fin neg m e) := by
      rw [hy, roundAt_spec.2, div_eq_iff (two_zpow_ne_zero _), eq_comm]
      rfl
    rw [hr, narrowCode, absOf_eq_abs (ratOf _)]
    refine (if_neg (not_lt.2 h)).mpr ⟨h1, h2, fun c hc hc' => ?_, uf, ?_, ?_⟩
    · have := roundAt_closer (mode := .rne) (neg := neg) (e := e) (f.grid_narrowValue hf hc hc') hm
      simp only at this
      rw [← hy, ← f.roundedCode_mod_two hf, ← NFmt.signedCode_mod_two neg] at this
      exact this
    · simp only [ne_eq, ← hx]
      simp
    · rw [huf, ← absOf_eq_abs, and_comm, ← tiny_iff_exists hm, ne_eq]
      refine and_congr (by rw [← hx, Bool.not_eq_true]) ?_
      rw [show f.qmin + f.fbits = 1 - (f.bias : Int) by unfold NFmt.qmin; ring]

end
end Sys2Proof.Machine
end

/-! Conversions into N4 (R78, R79, R86) -/
section
namespace Sys2Proof.Machine

/-! ### Counting a condition that holds up to a bound -/

theorem length_filter_range_le (p : Nat → Bool) (n : Nat) : ((List.range n).filter p).length ≤ n := by
  simpa using List.length_filter_le p (List.range n)

/-- A condition that, where it holds, holds at everything smaller, holds just below the number of the places where it holds. -/
theorem lt_length_filter_range {p : Nat → Bool} {n : Nat} (hp : ∀ i j, i ≤ j → j < n → p j = true → p i = true) {i : Nat} (hi : i < n) :
    i < ((List.range n).filter p).length ↔ p i = true := by
  induction n with
  | zero => omega
  | succ n ih =>
    have ih' := fun hi => ih (fun i j hij hj => hp i j hij (by omega)) hi
    have hle := length_filter_range_le p n
    rw [List.range_succ, List.filter_append, List.length_append]
    cases hn : p n with
    | true =>
      have hall : ∀ j ∈ List.range n, p j = true := fun j hj => hp j n (List.mem_range.1 hj).le (by omega) hn
      rw [List.filter_eq_self.2 hall, List.length_range, List.filter_singleton, hn]
      exact iff_of_true hi (hp i n (by omega) (by omega) hn)
    | false =>
      rw [List.filter_singleton, hn]
      rcases (Nat.lt_succ_iff.1 hi).lt_or_eq with h | rfl
      · exact ih' h
      · rw [hn]
        exact iff_of_false (not_lt.2 hle) Bool.false_ne_true

/-! ### The numbers of N4 and the midpoints between them -/

/-- The size of an N4 exponent code (R78). -/
def n4Size (k : Nat) : Rat := if k = 0 then 0 else (2 : Rat) ^ ((k : Int) - 4)

/-- The midpoint between the numbers of a code and of the code below it. -/
def n4Mid (k : Nat) : Rat := (n4Size (k - 1) + n4Size k) / 2

theorem n4Size_zero : n4Size 0 = 0 := rfl

theorem n4Size_succ (k : Nat) : n4Size (k + 1) = (2 : Rat) ^ ((k : Int) - 3) := by
  rw [n4Size, if_neg k.succ_ne_zero]
  congr 1
  push_cast
  ring

theorem n4Size_strictMono : StrictMono n4Size := by
  refine strictMono_nat_of_lt_succ fun k => ?_
  cases k with
  | zero => rw [n4Size_zero, n4Size_succ]; exact two_zpow_pos _
  | succ k => rw [n4Size_succ, n4Size_succ]; exact two_zpow_lt (by push_cast; omega)

theorem n4Size_nonneg (k : Nat) : 0 ≤ n4Size k := n4Size_strictMono.monotone k.zero_le

theorem n4Mid_lt {j k : Nat} (hj : 1 ≤ j) (h : j < k) : n4Mid j < n4Mid k := by
  have h1 := n4Size_strictMono.monotone (show j - 1 ≤ k - 1 by omega)
  have h2 := n4Size_strictMono h
  rw [n4Mid, n4Mid]
  linarith

/-- The model's bound below a code is that midpoint (R86). -/
theorem n4Mid_eq (k : Nat) (hk : 1 ≤ k) : (if k = 1 then (⟨1, -4⟩ : Dyadic) else ⟨3, (k : Int) - 6⟩).num = n4Mid k := by
  obtain ⟨k, rfl⟩ := Nat.exists_eq_add_of_le' hk
  rw [n4Mid, Nat.add_sub_cancel, n4Size_succ]
  cases k with
  | zero => norm_num [Dyadic.num, n4Size_zero]
  | succ k =>
    rw [if_neg (by omega), Dyadic.num, n4Size_succ, show (((k + 1 + 1 : Nat) : Int) - 6) = (k : Int) + -4 by push_cast; ring,
      show (((k + 1 : Nat) : Int) - 3) = (k : Int) + -2 by push_cast; ring, show ((k : Int) - 3) = (k : Int) + -3 by ring,
      two_zpow_add, two_zpow_add, two_zpow_add]
    norm_num
    ring

/-- A magnitude passes the bound below a code; a tie goes to the even code (R86). -/
def n4Passes (a : Rat) (k : Nat) : Prop := n4Mid k ≤ a ∧ (k % 2 = 1 → n4Mid k < a)

theorem n4Passes_mono {a : Rat} {j k : Nat} (hj : 1 ≤ j) (h : j ≤ k) (hk : n4Passes a k) : n4Passes a j := by
  rcases h.lt_or_eq with h | rfl
  · have := (n4Mid_lt hj h).trans_le hk.1
    exact ⟨this.le, fun _ => this⟩
  · exact hk

/-- The model's comparison with the bound below a code. -/
def n4Compare (d : Dyadic) (k : Nat) : Bool :=
  let mid : Dyadic := if k = 1 then ⟨1, -4⟩ else ⟨3, (k : Int) - 6⟩
  if k % 2 = 0 then mid.le d else mid.lt d

theorem n4Code_eq (d : Dyadic) : n4Code d = ((List.range 7).filter fun j => n4Compare d (j + 1)).length := rfl

theorem n4Compare_iff {d : Dyadic} {k : Nat} (hk : 1 ≤ k) : n4Compare d k = true ↔ n4Passes d.num k := by
  unfold n4Compare n4Passes
  by_cases h2 : k % 2 = 0
  · simp only [if_pos h2, Dyadic.le_iff, n4Mid_eq k hk]
    exact (and_iff_left fun h => by omega).symm
  · simp only [if_neg h2, Dyadic.lt_iff, n4Mid_eq k hk]
    exact ⟨fun h => ⟨h.le, fun _ => h⟩, fun h => h.2 (by omega)⟩

/-- The code of a magnitude is where the passed bounds end. -/
theorem n4Code_spec (d : Dyadic) : n4Code d ≤ 7 ∧ (n4Code d ≠ 0 → n4Passes d.num (n4Code d)) ∧ (n4Code d < 7 → ¬n4Passes d.num (n4Code d + 1)) := by
  have hlt {i : Nat} (hi : i < 7) : i < n4Code d ↔ n4Passes d.num (i + 1) := by
    rw [← n4Compare_iff (by omega), n4Code_eq]
    refine lt_length_filter_range (p := fun j => n4Compare d (j + 1)) (fun i j hij _ hj => ?_) hi
    exact (n4Compare_iff (by omega)).2 (n4Passes_mono (by omega) (by omega) ((n4Compare_iff (by omega)).1 hj))
  have h7 : n4Code d ≤ 7 := length_filter_range_le _ 7
  refine ⟨h7, fun h0 => ?_, fun h => ?_⟩
  · obtain ⟨k, hk⟩ := Nat.exists_eq_succ_of_ne_zero h0
    rw [hk]
    exact (hlt (by omega)).1 (by omega)
  · exact fun hn => absurd ((hlt h).2 hn) (lt_irrefl _)

/-- Between the bounds around a code no number of N4 is nearer (R86). -/
theorem n4Size_nearest {a : Rat} {k j : Nat} (hlow : k ≠ 0 → n4Passes a k) (hhigh : k < 7 → ¬n4Passes a (k + 1)) (hj : j ≤ 7) :
    |n4Size k - a| ≤ |n4Size j - a| ∧ (|n4Size k - a| = |n4Size j - a| → n4Size k = n4Size j ∨ k % 2 = 0) := by
  rcases lt_trichotomy j k with h | rfl | h
  · obtain ⟨h1, h2⟩ := hlow (by omega)
    have hj1 := n4Size_strictMono.monotone (show j ≤ k - 1 by omega)
    have hlt := n4Size_strictMono h
    rw [n4Mid] at h1 h2
    rw [abs_of_nonpos (show n4Size j - a ≤ 0 by linarith [n4Size_strictMono (show k - 1 < k by omega)])]
    refine ⟨abs_le.2 ⟨by linarith, by linarith⟩, fun he => .inr ?_⟩
    by_contra hodd
    have := h2 (by omega)
    exact absurd he (abs_lt.2 ⟨by linarith, by linarith⟩).ne
  · exact ⟨le_rfl, fun _ => .inl rfl⟩
  · have hn := hhigh (by omega)
    have hj1 := n4Size_strictMono.monotone (show k + 1 ≤ j by omega)
    have hlt := n4Size_strictMono h
    have h1 : a ≤ n4Mid (k + 1) := by
      by_contra hc
      exact hn ⟨(not_le.1 hc).le, fun _ => not_le.1 hc⟩
    have h2 (hk : k % 2 = 1) : a < n4Mid (k + 1) := by
      by_contra hc
      exact hn ⟨not_lt.1 hc, fun _ => by omega⟩
    rw [n4Mid, Nat.add_sub_cancel] at h1 h2
    rw [abs_of_nonneg (show 0 ≤ n4Size j - a by linarith [n4Size_strictMono k.lt_succ_self])]
    refine ⟨abs_le.2 ⟨by linarith, by linarith⟩, fun he => .inr ?_⟩
    by_contra hodd
    have := h2 (by omega)
    exact absurd he (abs_lt.2 ⟨by linarith, by linarith⟩).ne

/-- The magnitude code of a number is as near as any other, also with the other sign. -/
theorem n4Code_nearest {d : Dyadic} {z : Rat} {j : Nat} (hd : 0 ≤ d.num) (hj : j ≤ 7) (hz : |z| = n4Size j) :
    |n4Size (n4Code d) - d.num| ≤ |z - d.num| ∧ (|n4Size (n4Code d) - d.num| = |z - d.num| → n4Size (n4Code d) = z ∨ n4Code d % 2 = 0) := by
  obtain ⟨-, hlow, hhigh⟩ := n4Code_spec d
  rcases le_or_gt 0 z with h | h
  · rw [abs_of_nonneg h] at hz
    rw [hz]
    exact n4Size_nearest hlow hhigh hj
  · have h0 := (n4Size_nearest hlow hhigh (Nat.zero_le 7)).1
    rw [n4Size_zero, zero_sub, abs_neg, abs_of_nonneg hd] at h0
    have hz' : d.num < |z - d.num| := by rw [abs_of_neg (by linarith)]; linarith
    exact ⟨(h0.trans_lt hz').le, fun he => absurd he (h0.trans_lt hz').ne⟩

/-- The number of an N4 code, both zeros being 0 (R78). -/
def n4Number (k : Nat) : Rat := if k % 8 = 0 then 0 else (if 8 ≤ k then -1 else 1) * (2 : Rat) ^ (((k % 8 : Nat) : Int) - 4)

/-- The code that a conversion within the range writes: a zero as 0 (R79). -/
def n4Signed (neg : Bool) (k : Nat) : Nat := if k = 0 then 0 else if neg then 8 + k else k

theorem n4Number_signed {neg : Bool} {k : Nat} (hk : k ≤ 7) : n4Number (n4Signed neg k) = if neg then -n4Size k else n4Size k := by
  rcases eq_or_ne k 0 with rfl | h0
  · simp [n4Number, n4Signed, n4Size]
  · cases neg
    · simp [n4Number, n4Signed, n4Size, h0, Nat.mod_eq_of_lt (show k < 8 by omega), show ¬8 ≤ k by omega]
    · simp [n4Number, n4Signed, n4Size, h0, Nat.mod_eq_of_lt (show k < 8 by omega)]

theorem abs_n4Number (k : Nat) : |n4Number k| = n4Size (k % 8) := by
  unfold n4Number n4Size
  split_ifs
  · exact abs_zero
  · rw [abs_mul, abs_of_pos (two_zpow_pos _), abs_neg, abs_one, one_mul]
  · rw [one_mul, abs_of_pos (two_zpow_pos _)]

/-- The code with the number's sign is as near as any other code (R86). -/
theorem n4Signed_nearest {d : Dyadic} (neg : Bool) (j : Nat) (hd : 0 ≤ d.num) : let y := n4Number (n4Signed neg (n4Code d))
    let v := if neg then -d.num else d.num
    |y - v| ≤ |n4Number j - v| ∧ (|y - v| = |n4Number j - v| → y = n4Number j ∨ n4Code d % 2 = 0) := by
  have hj : j % 8 ≤ 7 := by omega
  simp only [n4Number_signed (n4Code_spec d).1]
  cases neg with
  | false => exact n4Code_nearest hd hj (abs_n4Number j)
  | true =>
    have h := n4Code_nearest hd hj ((abs_neg _).trans (abs_n4Number j))
    have hflip (x y : Rat) : |-x - -y| = |x - y| := by rw [← abs_neg]; ring_nf
    rw [← hflip, ← hflip (-n4Number j), neg_neg, eq_neg_iff_add_eq_zero, add_comm, ← eq_neg_iff_add_eq_zero, eq_comm (a := n4Number j)] at h
    exact h

/-- The model's test for an exact result (R86). -/
theorem n4Exact_iff {d : Dyadic} {neg : Bool} (hd : d.m ≠ 0) : let k := n4Code d
    (decide (k ≠ 0) && d.eqv ⟨1, (k : Int) - 4⟩) = true ↔ n4Number (n4Signed neg k) = if neg then -d.num else d.num := by
  intro k
  have hs : (k ≠ 0 ∧ d.num = (Dyadic.mk 1 ((k : Int) - 4)).num) ↔ n4Size k = d.num := by
    rw [show (Dyadic.mk 1 ((k : Int) - 4)).num = (2 : Rat) ^ ((k : Int) - 4) by simp [Dyadic.num], n4Size]
    split_ifs with h
    · exact iff_of_false (fun hk => hk.1 h) (fun h0 => hd (d.num_eq_zero_iff.1 h0.symm))
    · exact ⟨fun hk => hk.2.symm, fun hk => ⟨h, hk.symm⟩⟩
  rw [Bool.and_eq_true, decide_eq_true_iff, Dyadic.eqv_iff, hs, n4Number_signed (n4Code_spec d).1]
  cases neg
  · exact Iff.rfl
  · exact neg_inj.symm

/-- What a conversion of a number into N4 writes (R79, R86). -/
theorem n4Encode_fin (neg : Bool) (m : Nat) (e : Int) : let v := ratOf (.fin neg m e)
    let r := n4Encode (.fin neg m e)
    if 8 < absOf v then r = (if v < 0 then 15 else 7, { nx := true, ns := true })
    else r.1 < 16 ∧ r.1 ≠ 8 ∧ r.2 = { nx := decide (n4Number r.1 ≠ v) }
      ∧ ∀ k, k < 16 → absOf (n4Number r.1 - v) ≤ absOf (n4Number k - v)
        ∧ (absOf (n4Number r.1 - v) = absOf (n4Number k - v) → n4Number r.1 = n4Number k ∨ r.1 % 2 = 0) := by
  intro v r
  have hv : v = if neg then -(Dyadic.mk m e).num else (Dyadic.mk m e).num := by
    simp only [v, ratOf_fin, signedMag_eq_ite, Dyadic.num]
    cases neg <;> simp
  have ha : |v| = (Dyadic.mk m e).num := abs_ratOf_fin ..
  have hd : 0 ≤ (Dyadic.mk m e).num := ha ▸ abs_nonneg v
  rw [absOf_eq_abs v]
  rcases eq_or_ne m 0 with rfl | hm
  · have hv : v = 0 := (ratOf_fin_eq_zero ..).2 rfl
    have h0 : n4Number 0 = 0 := rfl
    rw [show r = (0, {}) from rfl, hv, abs_zero, if_neg (by norm_num)]
    simp only [h0, sub_self, absOf_eq_abs, abs_zero]
    exact ⟨by decide, by decide, by simp, fun k _ => ⟨abs_nonneg _, fun _ => .inr trivial⟩⟩
  have h8 : (Dyadic.mk 8 0).lt ⟨m, e⟩ = true ↔ 8 < |v| := by rw [Dyadic.lt_iff, ha]; norm_num [Dyadic.num]
  by_cases h : 8 < |v|
  · have hr : r = ((if neg then 8 else 0) + 7, { nx := true, ns := true }) := by
      simp only [r, n4Encode, if_neg hm, h8.2 h, if_true]
    rw [if_pos h, hr, if_congr (ratOf_fin_neg ..) rfl rfl]
    cases neg <;> simp [hm]
  · have hexact := n4Exact_iff (d := ⟨m, e⟩) (neg := neg) (Int.natCast_ne_zero.2 hm)
    rw [← hv] at hexact
    have hk7 := (n4Code_spec ⟨m, e⟩).1
    have hnear := fun j => n4Signed_nearest (d := ⟨m, e⟩) neg j hd
    simp only [← hv] at hexact hnear
    have hr : r = (n4Signed neg (n4Code ⟨m, e⟩), { nx := decide (n4Number (n4Signed neg (n4Code ⟨m, e⟩)) ≠ v) }) := by
      rw [decide_not, Bool.decide_congr hexact.symm, Bool.decide_eq_true]
      simp only [r, n4Encode, if_neg hm, Bool.eq_false_iff.2 (h8.not.2 h)]
      rfl
    generalize n4Code ⟨m, e⟩ = k at *
    have hcode : n4Signed neg k < 16 ∧ n4Signed neg k ≠ 8 ∧ n4Signed neg k % 2 = k % 2 := by unfold n4Signed; split_ifs <;> omega
    rw [if_neg h, hr]
    refine ⟨hcode.1, hcode.2.1, rfl, fun j _ => ?_⟩
    simp only [absOf_eq_abs, hcode.2.2]
    exact hnear j

end Sys2Proof.Machine
end

/-! The codes and the values of the packed formats (R78 to R80, R86, R87, R119 to R121) -/
section
namespace Sys2Proof.Machine

/-! ### Into a packed format -/

section
variable {mode : RMode} {neg : Bool} {m : Nat} {e : Int}

/-- What a conversion of a number into I8 or I4 writes (R86). -/
theorem intElem_encode {w : Nat} (hlo : (BitVec.ofInt w (intLo w false)).toNat = 2 ^ (w - 1)) (hhi : (BitVec.ofInt w (intHi w false)).toNat = 2 ^ (w - 1) - 1) :
    ∃ q : Int, roundsTo .rne (ratOf (.fin neg m e)) q ∧
      ((BitVec.ofInt w ((FVal.fin neg m e).toInt .rne w false).1).toNat, ((FVal.fin neg m e).toInt .rne w false).2) =
        if q < -2 ^ (w - 1) then (2 ^ (w - 1), { nv := true }) else if 2 ^ (w - 1) - 1 < q then (2 ^ (w - 1) - 1, { nv := true })
        else ((BitVec.ofInt w q).toNat, { nx := decide (ratOf (.fin neg m e) ≠ q) }) := by
  obtain ⟨h1, h2⟩ : roundsTo .rne (ratOf (.fin neg m e)) (signedMag neg (roundAt .rne neg m e 0).1)
    ∧ ((roundAt .rne neg m e 0).2 = true ↔ ratOf (.fin neg m e) = (signedMag neg (roundAt .rne neg m e 0).1 : Int)) := integerRounding ..
  refine ⟨_, h1, ?_⟩
  rw [decide_not, Bool.decide_congr h2.symm, Bool.decide_eq_true, toInt_fin]
  generalize signedMag neg _ = q
  change _ = if q < intLo w false then _ else if intHi w false < q then _ else _
  split_ifs
  · rw [hlo]
  · rw [hhi]
  · rfl

theorem PkCode.encode_f16 (mode : RMode) (c : Nat) : PkCode.encode .f16 mode (f32.value c) = convFF f32 f16 mode c := by
  rw [convFF]
  cases f32.value c <;> rfl

theorem PkCode.encode_bf16 (mode : RMode) (c : Nat) : PkCode.encode .bf16 mode (f32.value c) = convFF f32 b16 mode c := by
  rw [convFF]
  cases f32.value c <;> rfl
end

/-! ### Out of a packed format -/

/-- The significands and exponents of N8 and N8W (R78). -/
theorem NFmt.fin_of_value {f : NFmt} (hf : f.Proper) {c : Nat} {neg : Bool} {m : Nat} {e : Int} (h : f.value c = .fin neg m e) :
    m < 2 ^ (f.fbits + 1) ∧ f.qmin ≤ e ∧ e < f.qmin + 64 := by
  have hmod : f.value (c % 256) = f.value c := by simp only [NFmt.value, Nat.mod_mod]
  have hc : c % 256 < 256 := Nat.mod_lt _ (by decide)
  by_cases h80 : c % 256 = 0x80
  · rw [NFmt.value, if_pos h80] at h
    exact FVal.noConfusion h
  · rw [← hmod, f.value_eq hf hc h80, FVal.fin.injEq] at h
    obtain ⟨-, rfl, rfl⟩ := h
    have : c % 256 % 128 / 2 ^ f.fbits ≤ c % 256 % 128 / 2 := Nat.div_le_div_left (Nat.le_self_pow (by have := hf.1; omega) 2) two_pos
    exact ⟨sigOf_lt .., by omega, by omega⟩

theorem n4Value_eq (c : Nat) : n4Value c = if c % 8 = 0 then .fin false 0 0 else .fin (decide (8 ≤ c % 16)) 1 (((c % 8 : Nat) : Int) - 4) := rfl

theorem natAbs_toInt_le {w : Nat} (x : BitVec w) : x.toInt.natAbs ≤ 2 ^ w := by
  have h1 := x.le_two_mul_toInt
  have h2 := x.two_mul_toInt_lt
  have : ((2 ^ w : Nat) : Int) = 2 ^ w := by norm_cast
  omega

/-- FP32 holds the elements of every packed format that are numbers, exactly (R87). -/
theorem widen32_exact (k : PkCode) (c : Nat) (h : isNumber (PkCode.value k c)) :
    holdsExactly f32 (widen32 (PkCode.value k c)) (PkCode.value k c).neg (ratOf (PkCode.value k c)) := by
  obtain ⟨neg, m, e, hv⟩ := isNumber_iff_fin.1 h
  cases k with
  | f16 => rw [hv]; exact convFF_exact (src := f16) (f16.proper_of_mem (by decide)) f32_proper (by decide) (by decide) hv
  | bf16 => rw [hv]; exact convFF_exact (src := b16) (b16.proper_of_mem (by decide)) f32_proper (by decide) (by decide) hv
  | n8 =>
    obtain ⟨h1, h2, h3⟩ := n8.fin_of_value n8_proper hv
    have hq : n8.qmin = -6 := by decide
    rw [hv]
    exact f32_exact (h1.trans (by decide)) (by omega) (by omega)
  | n8w =>
    obtain ⟨h1, h2, h3⟩ := n8w.fin_of_value n8w_proper hv
    have hq : n8w.qmin = -16 := by decide
    rw [hv]
    exact f32_exact (h1.trans (by decide)) (by omega) (by omega)
  | n4 =>
    change holdsExactly f32 (widen32 (n4Value c)) (n4Value c).neg (ratOf (n4Value c))
    rw [n4Value_eq]
    split_ifs
    · exact f32_exact (by decide) (by decide) (by decide)
    · exact f32_exact (by decide) (by omega) (by omega)
  | i8 => exact f32_exact ((natAbs_toInt_le _).trans_lt (by decide)) (by decide) (by decide)
  | i4 => exact f32_exact ((natAbs_toInt_le _).trans_lt (by decide)) (by decide) (by decide)

/-- The clauses of `packedValues`. -/
theorem packedValues_hold : packedValues := by
  unfold packedValues
  refine ⟨fun mode c => ?encode, fun c => ?value, fun k c => ⟨fun hx => ?wideNan, fun hx => ?wideInf, widen32_exact k c⟩⟩
  case encode =>
    intro x
    refine ⟨PkCode.encode_f16 mode c, PkCode.encode_bf16 mode c, fun hx => ?nan, fun n hx => ?inf, fun hx => ?number⟩
    case nan =>
      obtain ⟨s, h⟩ : ∃ s, x = .nan s := isNan_iff.1 hx
      rw [h]
      exact ⟨rfl, rfl, rfl, rfl, rfl⟩
    case inf =>
      rw [hx]
      cases n <;> exact ⟨rfl, rfl, rfl, rfl, rfl⟩
    case number =>
      obtain ⟨neg, m, e, h⟩ : ∃ neg m e, x = .fin neg m e := isNumber_iff_fin.1 hx
      rw [h]
      exact ⟨n8.encode_fin n8_proper, n8w.encode_fin n8w_proper, intElem_encode (w := 8) (by decide) (by decide), intElem_encode (w := 4) (by decide) (by decide),
        n4Encode_fin neg m e⟩
  case value =>
    refine ⟨rfl, rfl, fun hc => ⟨fun h => ?n80, fun h => ?n8, ⟨rfl, rfl⟩, ?i8, fun h => ?zero, fun h => ?poison, fun h0 h1 => ratOf_s8Value hc h0 h1⟩,
      fun hc => ⟨⟨rfl, rfl⟩, ?i4, ?n4, fun h => ?n4zero, ratOf_n4Value hc⟩⟩
    case n80 => rw [h]; exact ⟨rfl, rfl⟩
    case n8 => exact ⟨n8.isNumber_value n8_proper hc h, n8.ratOf_value n8_proper hc h, n8w.isNumber_value n8w_proper hc h, n8w.ratOf_value n8w_proper hc h⟩
    case i8 =>
      have := ratOf_intElem (w := 8) (by decide) hc
      rwa [PkCode.value, Nat.mod_eq_of_lt hc]
    case zero => rw [h]; rfl
    case poison => rw [h]; rfl
    case i4 =>
      have := ratOf_intElem (w := 4) (by decide) hc
      rwa [PkCode.value, Nat.mod_eq_of_lt hc]
    case n4 =>
      change isNumber (n4Value c)
      rw [n4Value_eq]
      split_ifs
      · exact ⟨rfl, rfl⟩
      · exact ⟨rfl, rfl⟩
    case n4zero =>
      change (n4Value c).neg = false
      rw [n4Value, if_pos h]
      rfl
  case wideNan =>
    obtain ⟨s, h⟩ := isNan_iff.1 hx
    rw [h]
    rfl
  case wideInf =>
    obtain ⟨s, h⟩ := isInf_iff.1 hx
    rw [h]
    rfl

end Sys2Proof.Machine
end

/-! The packed and the narrow instructions: O10 (R116 to R121, R142 to R145) -/
section
namespace Sys2Proof.Machine

/-! ### Lanes and elements -/

@[simp] theorem lane_zero (v : Word) : lane v 0 = v.toNat % 2 ^ 16 := by simp [lane]

@[simp] theorem lane_one (v : Word) : lane v 1 = v.toNat / 2 ^ 16 :=
  Nat.mod_eq_of_lt (Nat.div_lt_of_lt_mul v.isLt)

/-- A 32-bit result of a floating instruction is written as one word. -/
theorem fpResult_word (x : Ops) (r : Nat × Conds) : fpResult false x r = { ws := [(x.d, BitVec.ofNat 32 r.1)], conds := [r.2] } := by
  have h : loWord (BitVec.ofNat 64 r.1) = BitVec.ofNat 32 r.1 := BitVec.setWidth_ofNat_of_le (by decide) _
  rw [fpResult, wN, if_neg (by decide), w1, h]

/-- Elements put together from the last one downwards are the sum of the elements at their places (R75, R120). -/
theorem foldr_elements (b : Nat) (rs : List (Nat × Conds)) : rs.foldr (fun r acc => r.1 % 2 ^ b + 2 ^ b * acc) 0 =
    ((List.range rs.length).map fun i => (rs.getD i (0, {})).1 % 2 ^ b * 2 ^ (b * i)).sum := by
  induction rs with
  | nil => rfl
  | cons r rs ih =>
    rw [List.foldr_cons, ih, List.length_cons, List.range_succ_eq_map, List.map_cons, List.map_map, List.sum_cons, ← List.sum_map_mul_left]
    congr 1
    · simp
    · refine congrArg List.sum (List.map_congr_left fun i _ => ?_)
      simp only [Function.comp, List.getD_cons_succ, Nat.mul_succ, pow_add]
      ring

/-! ### Dot products of integers -/

/-- The dot product of integers has exponent 0 and the integer sum as its significand (R144). -/
theorem dotSum_int (a b : Nat → Int) (n : Nat) :
    dotSum (fun i => ⟨a i, 0⟩) (fun i => ⟨b i, 0⟩) n = ⟨((List.range n).map fun i => a i * b i).sum, 0⟩ := by
  induction n with
  | zero => rfl
  | succ n ih =>
    rw [dotSum] at ih ⊢
    rw [List.range_succ, List.foldl_append, ih, List.map_append, List.sum_append]
    simp [Dyadic.add, Dyadic.mul]

theorem clampedTo_eq_max_min {w : Nat} {lo hi v : Int} (h : lo ≤ hi) :
    clampedTo w lo hi v = (BitVec.ofInt w (max lo (min v hi)), { ns := decide (v < lo ∨ hi < v) }) := by
  have : (if v < lo then lo else if hi < v then hi else v) = max lo (min v hi) := by split_ifs <;> omega
  rw [clampedTo, this]

/-- The integer that an element of `w` bits stands for (R143). -/
def intValue (z : Bool) (w : Nat) (v : Word) (i : Nat) : Int := if z then (elemOf w v i : Int) else (BitVec.ofNat w (elemOf w v i)).toInt

/-- The integer dot products clamp the exact sum once (R144). -/
theorem dotInt_eq (x : Ops) (w : Nat) (za zb : Bool) (t : Thread) :
    let v := (t.rd x.c).toInt + ((List.range (32 / w)).map fun i => intValue za w (t.rd x.a) i * intValue zb w (t.rd x.b) i).sum
    dotInt x w za zb t =
      { ws := [(x.d, BitVec.ofInt 32 (max (-2 ^ 31) (min v (2 ^ 31 - 1))))],
        conds := [{ ns := decide (v < -2 ^ 31 ∨ 2 ^ 31 - 1 < v) }] } := by
  intro v
  have hs : (dotSum (intElem za w (t.rd x.a)) (intElem zb w (t.rd x.b)) (32 / w)).m = v - (t.rd x.c).toInt := by
    rw [add_sub_cancel_left]
    exact congrArg Dyadic.m (dotSum_int (intValue za w (t.rd x.a)) (intValue zb w (t.rd x.b)) (32 / w))
  rw [dotInt, hs, add_sub_cancel, satTo_sat, clampedTo_eq_max_min (by decide)]
  rfl

/-! ### The instructions -/

/-- PCVT puts the elements together (R118 to R120). -/
theorem pcvtEff_eq (x : Ops) (r : Rnd) (k : PkCode) (t : Thread) : let n := k.elems
    let source (i : Nat) : Reg := if i < n / 2 then x.a + BitVec.ofNat 8 i else x.b + BitVec.ofNat 8 (i - n / 2)
    let es := (List.range n).map fun i => PkCode.encode k (modeFor r t) (f32.value (t.rd (source i)).toNat)
    pcvtEff x (fun t => rmode t r) k t =
      { ws := [(x.d, BitVec.ofNat 32 ((List.range n).map fun i => (es.getD i (0, {})).1 % 2 ^ (32 / n) * 2 ^ (32 / n * i)).sum)],
        conds := es.map fun q => q.2 } := by
  intro n source es
  simp only [pcvtEff, rmode_eq_modeFor]
  rw [foldr_elements, List.length_map, List.length_range]
  rfl

/-- Settles O10: each instruction only computes, and the codes and values are those of `packedValues`. -/
theorem packedAndNarrowInstructionsComplete : Obligations.PackedAndNarrowInstructionsComplete := by
  unfold Obligations.PackedAndNarrowInstructionsComplete
  refine ⟨fun x r bf k => ?packed, fun x p q r => ?narrow, packedValues_hold⟩
  case packed =>
    intro f lo hi both n source
    refine ⟨?hadd2, ?hmul2, ?hfma2, ?fdot2, ?pcvt, ?upcvt⟩
    case hadd2 =>
      refine computes_of_pure_eq _ rfl rfl (fun _ => rfl) fun t => ?_
      simp only [packEff, lane_zero, lane_one, rmode_eq_modeFor]
      rfl
    case hmul2 =>
      refine computes_of_pure_eq _ rfl rfl (fun _ => rfl) fun t => ?_
      simp only [packEff, lane_zero, lane_one, rmode_eq_modeFor]
      rfl
    case hfma2 =>
      refine computes_of_pure_eq _ rfl rfl (fun _ => rfl) fun t => ?_
      simp only [packEff, lane_zero, lane_one, rmode_eq_modeFor]
      rfl
    case fdot2 =>
      refine computes_of_pure_eq _ rfl rfl (fun _ => rfl) fun t => ?_
      simp only [rmode_eq_modeFor]
      rfl
    case pcvt => exact computes_of_pure_eq _ rfl rfl (fun _ => rfl) (pcvtEff_eq x r k)
    case upcvt => exact computes_of_pure_eq _ rfl rfl (fun _ => rfl) fun _ => rfl
  case narrow =>
    intro byte nibble int8 int4 clamp
    refine ⟨?doti8, ?doti4, ?dotn8, ?dotn4, ?pscl⟩
    case doti8 => exact computes_of_pure_eq _ rfl rfl (fun _ => rfl) (dotInt_eq x 8 p q)
    case doti4 => exact computes_of_pure_eq _ rfl rfl (fun _ => rfl) (dotInt_eq x 4 false false)
    case dotn8 =>
      refine computes_of_pure_eq _ rfl rfl (fun _ => rfl) fun t => ?_
      rw [fpResult_word]
      rfl
    case dotn4 =>
      refine computes_of_pure_eq _ rfl rfl (fun _ => rfl) fun t => ?_
      rw [fpResult_word]
      rfl
    case pscl =>
      refine computes_of_pure_eq _ rfl rfl (fun _ => rfl) fun t => ?_
      simp only [fpResult_word, psclEff, rmode_eq_modeFor]
      rfl

end Sys2Proof.Machine
end

/-! Logic, shifts, counts and bit fields: O3 (R93, R99, R100) -/
section
namespace Sys2Proof.Machine

/-! ### Words and pairs as operands of 32 or 64 bits (R93, R99) -/

theorem loWord_setWidth (v : Word) : loWord (v.setWidth 64) = v := BitVec.setWidth_setWidth_of_le v (by decide)

theorem rdN_false (t : Thread) (r : Reg) : rdN false t r = (t.rd r).setWidth 64 := rfl

theorem srcBit_false (x : Ops) (t : Thread) : srcBit x false t = (srcB x t).setWidth 64 := by
  rw [srcBit, srcB, if_neg Bool.false_ne_true, apply_ite (BitVec.setWidth 64)]
  rfl

theorem loWord_and (a b : DWord) : loWord (a &&& b) = loWord a &&& loWord b := BitVec.setWidth_and
theorem loWord_or (a b : DWord) : loWord (a ||| b) = loWord a ||| loWord b := BitVec.setWidth_or
theorem loWord_xor (a b : DWord) : loWord (a ^^^ b) = loWord a ^^^ loWord b := BitVec.setWidth_xor
theorem loWord_not (a : DWord) : loWord (~~~a) = ~~~loWord a := BitVec.setWidth_not (by decide)

/-- A bitwise instruction of 32 bits, whose function works on each half of a pair alone (R99). -/
theorem bitEff_false {f : DWord → DWord → DWord} {g : Word → Word → Word} (h : ∀ a b, loWord (f a b) = g (loWord a) (loWord b)) (x : Ops)
    (t : Thread) : (bitEff x false f t).ws = [(x.d, g (t.rd x.a) (srcB x t))] := by
  rw [bitEff, srcBit_false, rdN_false, wN, if_neg (by decide), h, loWord_setWidth, loWord_setWidth, w1]

/-! ### Shifts (R99) -/

theorem loWord_shiftLeft (v : Word) (n : Nat) : loWord (v.setWidth 64 <<< n) = v <<< n := by
  ext k hk
  simp [loWord]

theorem loWord_shiftRight (v : Word) (n : Nat) : loWord (v.setWidth 64 >>> n) = v >>> n := by
  ext k hk
  simp only [loWord, BitVec.getElem_setWidth, BitVec.getLsbD_ushiftRight, BitVec.getLsbD_setWidth, BitVec.getElem_ushiftRight, Bool.and_eq_right_iff_imp,
    decide_eq_true_eq]
  exact fun h => by have := BitVec.lt_of_getLsbD h; omega

/-- A shift to the right by the width or more leaves nothing. -/
theorem shiftRight_eq_ite {w : Nat} (v : BitVec w) (n : Nat) : v >>> n = if n < w then v >>> n else 0 := by
  split_ifs with h
  · rfl
  · exact BitVec.ushiftRight_eq_zero (not_lt.1 h)

/-- An arithmetic shift by the width or more leaves the sign alone, as one by one bit less does. -/
theorem sshiftRight_min {w : Nat} (v : BitVec w) (n : Nat) : v.sshiftRight n = v.sshiftRight (min n (w - 1)) := by
  rcases Nat.le_total n (w - 1) with h | h
  · rw [min_eq_left h]
  · rw [min_eq_right h]
    ext k hk
    have hs : v.getLsbD (w - 1) = v.msb := (BitVec.msb_eq_getLsbD_last v).symm
    rw [← BitVec.getLsbD_eq_getElem, ← BitVec.getLsbD_eq_getElem, BitVec.getLsbD_sshiftRight, BitVec.getLsbD_sshiftRight]
    congr 1
    split_ifs with h1 h2 h2
    · rw [show n + k = w - 1 + k by omega]
    · rw [show n + k = w - 1 by omega, hs]
    · rw [show w - 1 + k = w - 1 by omega, hs]
    · rfl

/-! ### Counts and the reversal (R99) -/

/-- The number of bits that are set, one by one (R99). -/
theorem popCount_eq (v n : Nat) : popCount v n = ((List.range n).filter fun k => v.testBit k).length := by
  induction n generalizing v with
  | zero => rfl
  | succ n ih =>
    have hs : (fun k => v.testBit (k + 1)) = fun k => (v / 2).testBit k := funext fun k => Nat.testBit_succ v k
    rw [popCount, ih, List.range_succ_eq_map, List.filter_cons, List.filter_map, Nat.testBit_zero]
    rcases Nat.mod_two_eq_zero_or_one v with h | h <;> simp [h, Function.comp_def, hs, Nat.add_comm]

/-- The bits above a number count nothing. -/
theorem popCount_of_lt {v n : Nat} (h : v < 2 ^ n) (k : Nat) : popCount v (n + k) = popCount v n := by
  have hf : (List.map (n + ·) (List.range k)).filter (fun j => v.testBit j) = [] := by
    simp only [List.filter_eq_nil_iff, List.mem_map, Bool.not_eq_true]
    rintro _ ⟨j, -, rfl⟩
    exact Nat.testBit_lt_two_pow (h.trans_le (Nat.pow_le_pow_right (by decide) (Nat.le_add_right ..)))
  rw [popCount_eq, popCount_eq, List.range_add, List.filter_append, hf, List.append_nil]

theorem clzNat_spec {w v : Nat} (h : v < 2 ^ w) : clzNat w v ≤ w ∧ (∀ k, w - clzNat w v ≤ k → k < w → v.testBit k = false)
    ∧ (clzNat w v < w → v.testBit (w - 1 - clzNat w v) = true) := by
  unfold clzNat
  split_ifs with h0
  · exact ⟨le_rfl, fun k _ _ => by rw [h0, Nat.zero_testBit], fun h => absurd h (lt_irrefl _)⟩
  · have hl : v.log2 < w := (Nat.log2_lt h0).2 h
    refine ⟨by omega, fun k hk _ => Nat.testBit_lt_two_pow ((Nat.log2_lt h0).1 (by omega)), fun _ => ?_⟩
    rw [show w - 1 - (w - 1 - v.log2) = v.log2 by omega]
    exact Nat.testBit_log2 h0

theorem revNat_lt (v n : Nat) : revNat v n < 2 ^ n := by
  induction n generalizing v with
  | zero => exact Nat.one_pos
  | succ n ih =>
    have := ih (v / 2)
    have : v % 2 * 2 ^ n ≤ 1 * 2 ^ n := Nat.mul_le_mul_right _ (by omega)
    rw [revNat, pow_succ]
    omega

theorem testBit_revNat {v n k : Nat} (h : k < n) : (revNat v n).testBit k = v.testBit (n - 1 - k) := by
  induction n generalizing v with
  | zero => omega
  | succ n ih =>
    rw [revNat, Nat.mul_comm, Nat.testBit_two_pow_mul_add _ (revNat_lt _ _)]
    split_ifs with hk
    · rw [ih hk, ← Nat.testBit_succ, show (n - 1 - k).succ = n + 1 - 1 - k by omega]
    · obtain rfl : k = n := by omega
      simp [Nat.testBit_zero]

theorem rdN_lt (w : Bool) (t : Thread) (r : Reg) : (rdN w t r).toNat < 2 ^ (if w then 64 else 32) := by
  rw [toNat_rdN]
  cases w
  · exact (t.rd r).isLt
  · exact (t.pair r).isLt

theorem popCount_rdN (w : Bool) (t : Thread) (r : Reg) :
    popCount (rdN w t r).toNat 64 = ((List.range (if w then 64 else 32)).filter fun k => (rdN w t r).getLsbD k).length := by
  have h := rdN_lt w t r
  have he : popCount (rdN w t r).toNat 64 = popCount (rdN w t r).toNat (if w then 64 else 32) := by
    cases w
    · exact popCount_of_lt h 32
    · rfl
  exact he.trans (popCount_eq ..)

theorem getLsbD_revNat_rdN {w : Bool} {t : Thread} {r : Reg} {k : Nat} (hk : k < if w then 64 else 32) :
    (BitVec.ofNat 64 (revNat (rdN w t r).toNat (if w then 64 else 32))).getLsbD k = (rdN w t r).getLsbD ((if w then 64 else 32) - 1 - k) := by
  have hk64 : k < 64 := hk.trans_le (by cases w <;> decide)
  rw [BitVec.getLsbD_ofNat, decide_eq_true hk64, Bool.true_and, testBit_revNat hk, BitVec.testBit_toNat]

/-! ### Bit fields (R100) -/

theorem bitField_eq (b : Word) : bitField b = if 31 < b.toNat % 256 ∨ b.toNat / 256 % 256 = 0 then none
    else some (b.toNat % 256, min (b.toNat / 256 % 256) (32 - b.toNat % 256)) := rfl

/-- A number of `n` bits is extended by its highest bit as its signed value is (R100). -/
theorem signExtend_eq_ite {n : Nat} (g : BitVec n) (hn : 0 < n) : g.signExtend 32 =
    if g.toNat < 2 ^ (n - 1) then BitVec.ofNat 32 g.toNat else BitVec.ofInt 32 ((g.toNat : Int) - 2 ^ n) := by
  have hp : 2 ^ n = 2 * 2 ^ (n - 1) := by rw [← Nat.pow_succ']; congr 1; omega
  rw [BitVec.signExtend, BitVec.toInt_eq_toNat_cond, apply_ite (BitVec.ofInt 32), BitVec.ofInt_natCast]
  push_cast
  exact if_congr (by omega) rfl rfl

/-- BFE extends its field as an unsigned or as a signed number (R100). -/
theorem bfeVal_eq {u : Bool} {a b : Word} {p n : Nat} (h : bitField b = some (p, n)) (hn : 0 < n) :
    bfeVal u a b = if u then (a.extractLsb' p n).setWidth 32 else (a.extractLsb' p n).signExtend 32 := by
  have hf : a.toNat / 2 ^ p % 2 ^ n = (a.extractLsb' p n).toNat := by rw [BitVec.extractLsb'_toNat, Nat.shiftRight_eq_div_pow]
  rw [signExtend_eq_ite _ hn]
  simp only [bfeVal, h, hf]
  cases u
  · simp only [Bool.false_or, decide_eq_true_eq, Bool.false_eq_true, if_false]
  · simp only [Bool.true_or, if_true, BitVec.ofNat_toNat]

/-- BFE, bit by bit (R100). -/
theorem getLsbD_bfeVal {u : Bool} {a b : Word} {k : Nat} (hk : k < 32) : let p := b.toNat % 256
    let n := b.toNat / 256 % 256
    (bfeVal u a b).getLsbD k = (if 31 < p ∨ n = 0 then false
      else if k < min n (32 - p) then a.getLsbD (p + k) else !u && a.getLsbD (p + min n (32 - p) - 1)) := by
  intro p n
  have hb : bitField b = if 31 < p ∨ n = 0 then none else some (p, min n (32 - p)) := bitField_eq b
  clear_value p n
  split_ifs at hb with h
  · rw [if_pos h, bfeVal, hb]
    exact BitVec.getLsbD_zero
  · have hn : 0 < min n (32 - p) := by omega
    rw [if_neg h, bfeVal_eq hb hn]
    generalize min n (32 - p) = m at hn ⊢
    cases u
    · rw [if_neg (by decide), BitVec.getLsbD_signExtend, BitVec.msb_eq_getLsbD_last, BitVec.getLsbD_extractLsb', BitVec.getLsbD_extractLsb',
        ← Nat.add_sub_assoc hn]
      split_ifs with hkm <;> simp [hk, hkm, hn]
    · rw [if_pos rfl, BitVec.getLsbD_setWidth, BitVec.getLsbD_extractLsb']
      split_ifs with hkm <;> simp [hk, hkm]

/-- BFI, bit by bit (R100). -/
theorem getLsbD_bfiVal {a b c : Word} {k : Nat} (hk : k < 32) : let p := b.toNat % 256
    let n := b.toNat / 256 % 256
    (bfiVal a b c).getLsbD k = if decide (p ≤ k) && decide (k < p + n) && decide (p ≤ 31) then c.getLsbD (k - p) else a.getLsbD k := by
  intro p n
  have hb : bitField b = if 31 < p ∨ n = 0 then none else some (p, min n (32 - p)) := bitField_eq b
  clear_value p n
  split_ifs at hb with h
  · rw [bfiVal, hb, if_neg]
    simp
    omega
  · have hm : (BitVec.ofNat 32 ((2 ^ min n (32 - p) - 1) * 2 ^ p)).getLsbD k = (decide (p ≤ k) && decide (k < p + n)) := by
      rw [BitVec.getLsbD_ofNat, Nat.testBit_mul_two_pow, Nat.testBit_two_pow_sub_one, decide_eq_true hk, Bool.true_and]
      congr 1
      exact decide_eq_decide.2 (by omega)
    simp only [bfiVal, hb, BitVec.getLsbD_or, BitVec.getLsbD_and, BitVec.getLsbD_not, BitVec.getLsbD_shiftLeft, hm, hk, decide_true, Bool.true_and]
    by_cases hf : p ≤ k ∧ k < p + n
    · simp [hf, show p ≤ 31 by omega]
    · rw [← Bool.decide_and, decide_eq_false hf]
      simp

/-- Settles O3: each of these instructions only computes, and its result is told bit by bit or by the arithmetic of its width. -/
theorem bitInstructionsComplete : Obligations.BitInstructionsComplete := by
  unfold Obligations.BitInstructionsComplete
  refine ⟨fun x => ⟨?and, ?or, ?xor, ?andn, ?and64, ?or64, ?xor64, ?andn64⟩, fun x w => ⟨?shl, ?shr, ?sar, ?rot⟩, fun x w u s e => ?_⟩
  case and => exact computes_of_pure_writes rfl rfl _ (fun _ => rfl) (bitEff_false loWord_and x)
  case or => exact computes_of_pure_writes rfl rfl _ (fun _ => rfl) (bitEff_false loWord_or x)
  case xor => exact computes_of_pure_writes rfl rfl _ (fun _ => rfl) (bitEff_false loWord_xor x)
  case andn =>
    refine computes_of_pure_writes rfl rfl _ (fun _ => rfl) (bitEff_false (f := fun a b => a &&& ~~~b) (g := fun a b => a &&& ~~~b) (fun a b => ?_) x)
    rw [loWord_and, loWord_not]
  case and64 | or64 | xor64 | andn64 => exact computes_of_pure_writes rfl rfl _ (fun _ => rfl) fun _ => rfl
  case shl =>
    refine computes_of_pure_writes rfl rfl _ (fun _ => rfl) fun t => ?_
    cases w
    · simp only [wN, rdN_false, Bool.false_eq_true, if_false, apply_ite loWord, loWord_shiftLeft]
      rfl
    · rfl
  case shr =>
    refine computes_of_pure_writes rfl rfl _ (fun _ => rfl) fun t => ?_
    cases w
    · simp only [wN, rdN_false, Bool.false_eq_true, if_false, apply_ite loWord, loWord_shiftRight]
      exact congrArg (w1 x.d) (shiftRight_eq_ite _ _)
    · exact congrArg (w2 x.d) (shiftRight_eq_ite _ _)
  case sar =>
    refine computes_of_pure_writes rfl rfl _ (fun _ => rfl) fun t => ?_
    cases w
    · exact congrArg (w1 x.d) (sshiftRight_min _ _)
    · exact congrArg (w2 x.d) (sshiftRight_min _ _)
  case rot =>
    refine computes_of_pure_writes rfl rfl _ (fun _ => rfl) fun t => ?_
    cases w
    · exact congrArg (w1 x.d) BitVec.rotateLeft_mod_eq_rotateLeft.symm
    · exact congrArg (w2 x.d) BitVec.rotateLeft_mod_eq_rotateLeft.symm
  intro width a ones p n inField
  refine ⟨fun h => ?popc, fun h => ⟨_, ?clz, clzNat_spec (rdN_lt w e.t x.a)⟩, fun h => ⟨_, ?brev, fun k hk => getLsbD_revNat_rdN hk⟩,
    fun h => ⟨_, ?bfe, fun k hk => getLsbD_bfeVal hk⟩, fun h => ⟨_, ?bfi, fun k hk => getLsbD_bfiVal hk⟩⟩
  case popc =>
    rw [show ones = _ from (popCount_rdN w e.t x.a).symm]
    exact computes_of_pure_writes rfl rfl _ (fun _ => rfl) (fun _ => rfl) s e h
  case clz => exact computes_of_pure_writes rfl rfl _ (fun _ => rfl) (fun _ => rfl) s e h
  case brev => exact computes_of_pure_writes rfl rfl _ (fun _ => rfl) (fun _ => rfl) s e h
  case bfe => exact computes_of_pure_writes rfl rfl _ (fun _ => rfl) (fun _ => rfl) s e h
  case bfi => exact computes_of_pure_writes rfl rfl _ (fun _ => rfl) (fun _ => rfl) s e h
end Sys2Proof.Machine
end

/-! ICMP and the three-valued connectives: O4 (R81, R101, R122, R123) -/
section
namespace Sys2Proof.Machine

/-! ### Relations of numbers (R101) -/

/-- The immediate of ICMP is extended as the type says, for either width (R101). -/
theorem icmpB_eq_ite (x : Ops) (ty : ITy) (t : Thread) : icmpB x ty t =
    if x.len ≠ .s then ext32 ty.unsigned (imm32 x) else if ty.wide then ext64 ty.unsigned (t.pair x.b) else ext32 ty.unsigned (t.rd x.b) := by
  rw [icmpB, ite_not]

/-! ### The three-valued connectives (R81, R122) -/

/-- The word of a truth value, from whether it is true and whether it is false. -/
def truthWord (isTrue isFalse : Bool) : Word := if isTrue then 1 else if isFalse then 0 else 0xFFFFFFFF

theorem triWord_eq_truthWord (v : Tri) : triWord v = truthWord (decide (v = .t)) (decide (v = .f)) := by cases v <;> rfl

theorem triOf_eq_f {v : Word} : triOf v = .f ↔ v = 0 := by
  unfold triOf
  split_ifs <;> simp_all

@[simp] theorem triAnd_eq_t {a b : Tri} : triAnd a b = .t ↔ a = .t ∧ b = .t := by cases a <;> cases b <;> decide
@[simp] theorem triAnd_eq_f {a b : Tri} : triAnd a b = .f ↔ a = .f ∨ b = .f := by cases a <;> cases b <;> decide
@[simp] theorem triNot_eq_t {a : Tri} : triNot a = .t ↔ a = .f := by cases a <;> decide
@[simp] theorem triNot_eq_f {a : Tri} : triNot a = .f ↔ a = .t := by cases a <;> decide
@[simp] theorem triOr_eq_t {a b : Tri} : triOr a b = .t ↔ a = .t ∨ b = .t := by simp [triOr]
@[simp] theorem triOr_eq_f {a b : Tri} : triOr a b = .f ↔ a = .f ∧ b = .f := by simp [triOr]
@[simp] theorem triXor_eq_t {a b : Tri} : triXor a b = .t ↔ (a = .t ∧ b = .f) ∨ (a = .f ∧ b = .t) := by cases a <;> cases b <;> decide
@[simp] theorem triXor_eq_f {a b : Tri} : triXor a b = .f ↔ (a = .t ∧ b = .t) ∨ (a = .f ∧ b = .f) := by cases a <;> cases b <;> decide

theorem isTrue_triOf (v : Word) : (decide (v ≠ 0) && decide (v ≠ 0xFFFFFFFF)) = decide (triOf v = .t) := by
  rw [← Bool.decide_and]
  exact decide_eq_decide.2 triOf_eq_t.symm

theorem isFalse_triOf (v : Word) : decide (v = 0) = decide (triOf v = .f) := decide_eq_decide.2 triOf_eq_f.symm

/-- Settles O4: ICMP writes whether its relation holds, and each connective the word of a truth value. -/
theorem predicatesComplete : Obligations.PredicatesComplete := by
  unfold Obligations.PredicatesComplete
  refine ⟨fun x r ty => ?icmp, fun x ut => ⟨?pand, ?por, ?pnot, ?pxor, ?pres⟩⟩
  case icmp =>
    refine computes_of_pure_writes rfl rfl _ (fun _ => rfl) fun t => ?_
    rw [icmpB_eq_ite]
    cases r <;> rfl
  case pres =>
    refine computes_of_pure_writes rfl rfl _ (fun _ => rfl) fun t => ?_
    simp only [isTrue_triOf, isFalse_triOf]
    generalize triOf (t.rd x.a) = v
    cases v <;> cases ut <;> rfl
  case pand | por | pnot | pxor =>
    refine computes_of_pure_writes rfl rfl _ (fun _ => rfl) fun t => ?_
    simp only [isTrue_triOf, isFalse_triOf, triWord_eq_truthWord, triAnd_eq_t, triAnd_eq_f, triOr_eq_t, triOr_eq_f, triNot_eq_t,
      triNot_eq_f, triXor_eq_t, triXor_eq_f, Bool.decide_and, Bool.decide_or]
    rfl

end Sys2Proof.Machine
end

/-! The floating-point instructions of row 0x2: O5 (R95, R105 to R112, R177) -/
section
namespace Sys2Proof.Machine

/-! ### Long-latency producers (R95, R177) -/

@[simp] theorem State.countDead_nextId (s : State) (k : Counter) (n : Nat) : (s.countDead k n).nextId = s.nextId := by
  unfold State.countDead State.count State.countAt
  split
  · rfl
  · exact State.updCore_nextId ..

@[simp] theorem State.guardCounted_nextId (s : State) (e : Env) (i : Instr) : (s.guardCounted e i).nextId = s.nextId := by
  unfold State.guardCounted
  split
  · split
    · rw [State.setPhase_nextId, State.countDead_nextId]
    · rfl
  · rfl

@[simp] theorem State.counted_nextId (s : State) (e : Env) (i : Instr) : (s.counted e i).nextId = s.nextId := by
  unfold State.counted
  split
  · rw [State.setPhase_nextId, State.countDead_nextId, State.guardCounted_nextId]
  · exact State.guardCounted_nextId ..

/-- The operation that FDIV and FSQRT at FP64 put into flight: its result and conditions stand in it (R95). -/
def Env.arithOp (e : Env) (id : Nat) (d : Reg) (v : Nat × Conds) : MemOp :=
  { e.memOp id .arith [{ id := id, at_ := ⟨.hbm, 0⟩, size := 8, data := 0, done := some v.1, early := false }] .rlx .thr 0 0 d 2 0 with conds := v.2 }

/-- Below the limit of 63 operations a division takes place at once, and its result comes later (R177). -/
theorem divBody_of_inFlight {e : Env} (h : e.t.inFlight < 63) (x : Ops) (f : Thread → Nat × Conds) (s : State) : divBody x f e s =
    .done (s.fresh.updThread e.ref fun t => { t with ops := t.ops ++ [e.arithOp s.nextId x.d (f e.t)] }) [] [x.d, x.d + 1] none := by
  unfold divBody
  exact if_neg (not_le.2 h)

/-- An instruction whose own effect is a division leaves its operation in flight (R95, R177). -/
theorem exec_of_divBody {i : Instr} {r : Row} {x : Ops} (f : Thread → Nat × Conds) (hr : i.row = some r) (hx : i.ops = some x)
    (hi : ∀ s, ∃ b, exec i s = runInstr i b s ∧ b x = divBody x f) {s : State} {e : Env} (hn : e.t.inFlight < 63) (h : Runs i s e) :
    exec i s = .next (((s.counted e i).fresh.updThread e.ref fun t => { t with ops := t.ops ++ [e.arithOp s.nextId x.d (f e.t)] }).leaving e i []
      [x.d, x.d + 1] (e.nextPc i)) := by
  obtain ⟨b, hb, hbx⟩ := hi s
  rw [hb, runInstr_ready b h hr hx, effect_eq_tookPlace hr hx, hbx, divBody_of_inFlight hn, State.counted_nextId]
  rfl

/-! ### Results of row 0x2 (R105) -/

/-- Settles O5: each instruction of the row only computes, but FDIV and FSQRT at FP64, whose operation is put into flight. -/
theorem floatInstructionsComplete : Obligations.FloatInstructionsComplete := by
  unfold Obligations.FloatInstructionsComplete
  refine ⟨fun x w u r rel => ?_, fun x r s e hn => ?_⟩
  · intro f a b c
    have ha (t : Thread) : (rdN w t x.a).toNat = a t := toNat_rdN w t x.a
    have hc (t : Thread) : (rdN w t x.c).toNat = c t := toNat_rdN w t x.c
    have hb (t : Thread) : srcF x w t = b t := by
      simp only [srcF, toNat_rdN]
      rfl
    refine ⟨?fadd, ?fsub, ?fmul, ?ffma, ?fmin, ?fmax, ?fcmp, ?fclass, ?frcp, ?frsq, ?fexp2, ?flog2, ?fsinpi, ?fcospi, ?fdiv, ?fsqrt⟩
    case fadd | fsub | fmul | fmin | fmax =>
      refine computes_of_pure_eq _ rfl rfl (fun _ => rfl) fun t => ?_
      simp only [fpEff, ha, hb, rmode_eq_modeFor]
      rfl
    case ffma =>
      refine computes_of_pure_eq _ rfl rfl (fun _ => rfl) fun t => ?_
      simp only [ha, hb, hc, rmode_eq_modeFor]
      rfl
    case fcmp | fclass =>
      refine computes_of_pure_eq _ rfl rfl (fun _ => rfl) fun t => ?_
      simp only [ha, hb]
      rfl
    case frcp | frsq | fexp2 | flog2 | fsinpi | fcospi =>
      refine computes_of_pure_eq _ rfl rfl (fun _ => rfl) fun t => ?_
      simp only [fpEff1, ha, rmode_eq_modeFor]
      rfl
    case fdiv =>
      refine computes_of_pure_eq _ rfl rfl (fun _ => rfl) fun t => ?_
      simp only [Bool.false_eq_true, if_false, fpEff, rmode_eq_modeFor, toNat_rdN]
      rfl
    case fsqrt =>
      refine computes_of_pure_eq _ rfl rfl (fun _ => rfl) fun t => ?_
      simp only [fpEff1, rmode_eq_modeFor, toNat_rdN]
      rfl
  · intro op after
    simp only [after, op, ← rmode_eq_modeFor]
    exact ⟨fun h => exec_of_divBody (fun t => f64.div (rmode t r) (t.pair x.a).toNat (srcF x true t)) rfl rfl (fun _ => ⟨_, rfl, rfl⟩) hn h,
      fun h => exec_of_divBody (fun t => f64.sqrt (rmode t r) (t.pair x.a).toNat) rfl rfl (fun _ => ⟨_, rfl, rfl⟩) hn h⟩

end Sys2Proof.Machine
end

/-! Numbers between the same neighbours are rounded alike (R82) -/
section
namespace Sys2Proof.Machine

/-- Two numbers lie alike to every integer. -/
def SameCell (w w' : Rat) : Prop := ∀ j : Int, ((j : Rat) ≤ w ↔ (j : Rat) ≤ w') ∧ (w ≤ j ↔ w' ≤ j)

/-- Two numbers of one integer part, both or neither of which is the integer. -/
theorem sameCell_of_between {q : Int} {w w' : Rat} (h0 : q ≤ w) (h1 : w < q + 1) (h0' : q ≤ w') (h1' : w' < q + 1) (he : w = q ↔ w' = q) :
    SameCell w w' := by
  intro j
  rcases le_or_gt j q with h | h
  · have hj : (j : Rat) ≤ q := by exact_mod_cast h
    refine ⟨iff_of_true (hj.trans h0) (hj.trans h0'), fun hw => ?_, fun hw => ?_⟩
    · rw [he.1 (le_antisymm (hw.trans hj) h0)]
      exact h0.trans hw
    · rw [he.2 (le_antisymm (hw.trans hj) h0')]
      exact h0'.trans hw
  · have hj : (q : Rat) + 1 ≤ j := by exact_mod_cast h
    exact ⟨iff_of_false (not_le.2 (h1.trans_le hj)) (not_le.2 (h1'.trans_le hj)), iff_of_true (h1.le.trans hj) (h1'.le.trans hj)⟩

section
variable {w w' z : Rat} {mode : RMode} {k : Int} (h : SameCell w w')
include h

theorem SameCell.neg : SameCell (-w) (-w') := by
  intro j
  have := h (-j)
  push_cast at this
  exact ⟨le_neg.trans (this.2.trans le_neg), neg_le.trans (this.1.trans neg_le)⟩

theorem SameCell.div {d : Nat} (hd : 0 < d) : SameCell (w / d) (w' / d) := by
  intro j
  have hd : (0 : Rat) < d := by exact_mod_cast hd
  have := h (j * d)
  push_cast at this
  rwa [le_div_iff₀ hd, le_div_iff₀ hd, div_le_iff₀ hd, div_le_iff₀ hd]

theorem SameCell.neg_iff : w < 0 ↔ w' < 0 := by
  have := (h 0).1
  rw [Int.cast_zero] at this
  rw [← not_le, ← not_le, this]

theorem SameCell.abs : SameCell |w| |w'| := by
  rcases lt_or_ge w 0 with h0 | h0
  · rw [abs_of_neg h0, abs_of_neg (h.neg_iff.1 h0)]
    exact h.neg
  · rw [abs_of_nonneg h0, abs_of_nonneg (not_lt.1 fun h' => not_lt.2 h0 (h.neg_iff.2 h'))]
    exact h

theorem SameCell.floor_eq : ⌊w⌋ = ⌊w'⌋ :=
  le_antisymm (Int.le_floor.2 ((h _).1.1 (Int.floor_le w))) (Int.le_floor.2 ((h _).1.2 (Int.floor_le w')))

theorem SameCell.eq_iff (j : Int) : w = j ↔ w' = j := by rw [le_antisymm_iff, le_antisymm_iff, (h j).1, (h j).2]

theorem SameCell.lt_iff (j : Int) : w < j ↔ w' < j := by rw [← not_le, ← not_le, (h j).1]
end

theorem two_mul_abs_sub_le_one {k w : Rat} : 2 * |k - w| ≤ 1 ↔ 2 * k - 1 ≤ 2 * w ∧ 2 * w ≤ 2 * k + 1 := by
  rw [← abs_two, ← abs_mul, abs_le, abs_two]
  constructor <;> rintro ⟨h1, h2⟩ <;> constructor <;> linarith

theorem two_mul_abs_sub_eq_one {k w : Rat} : 2 * |k - w| = 1 ↔ 2 * w = 2 * k - 1 ∨ 2 * w = 2 * k + 1 := by
  rw [← abs_two, ← abs_mul, abs_eq zero_le_one, abs_two]
  refine or_congr ?_ ?_ <;> constructor <;> intro h <;> linarith

section
variable {w w' z : Rat} {mode : RMode} {k : Int} (h : SameCell (2 * w) (2 * w'))
include h

/-- Numbers that lie alike to the halves of integers lie alike to the integers. -/
theorem SameCell.of_double : SameCell w w' := by
  have := h.div (d := 2) (by decide)
  rwa [Nat.cast_ofNat, mul_div_cancel_left₀ _ two_ne_zero, mul_div_cancel_left₀ _ two_ne_zero] at this

theorem SameCell.fits (hz : Fits w' z) : Fits w z := by
  rw [Fits, h.of_double.abs.floor_eq]
  exact hz

/-- A rounding to an integer only asks how the number lies to integers and their halves (R82). -/
theorem roundsTo_of_sameCell (hk : roundsTo mode w' k) : roundsTo mode w k := by
  have h1 := h.of_double
  cases mode with
  | rdn =>
    have := h1.lt_iff (k + 1)
    push_cast at this
    exact ⟨(h1 k).1.2 hk.1, this.2 hk.2⟩
  | rup =>
    have := (h1 (k - 1)).2
    push_cast at this
    refine ⟨(h1 k).2.2 hk.1, ?_⟩
    by_contra hc
    have := this.1 (by linarith)
    linarith [hk.2]
  | rtz =>
    obtain ⟨ha, hb, hc⟩ := hk
    have hl := h1.abs.lt_iff (|k| + 1)
    have he := (h1.abs |k|).1
    push_cast at hl he
    simp only [roundsTo, absOf_eq_abs] at ha hb ⊢
    exact ⟨he.2 ha, hl.2 hb, hc.imp_right fun hc => hc.trans h1.neg_iff.symm⟩
  | rne =>
    obtain ⟨ha, hb⟩ := hk
    have hl := (h (2 * k - 1)).1
    have hu := (h (2 * k + 1)).2
    have hle := h.eq_iff (2 * k - 1)
    have hue := h.eq_iff (2 * k + 1)
    push_cast at hl hu hle hue
    simp only [roundsTo, absOf_eq_abs, two_mul_abs_sub_le_one, two_mul_abs_sub_eq_one] at ha hb ⊢
    exact ⟨⟨hl.2 ha.1, hu.2 ha.2⟩, fun he => hb (he.imp hle.1 hue.1)⟩
end

theorem signedMag_mod_two (neg : Bool) (n : Nat) : signedMag neg n % 2 = 0 ↔ n % 2 = 0 := by cases neg <;> simp only [signedMag] <;> simp <;> omega

/-- A result is the one rounding of a number, with the sign `neg`, and inexact tells that it differs from the number (R82, R85). -/
def Rounded (f : FFmt) (mode : RMode) (neg : Bool) (r : Nat × Conds) (v : Rat) : Prop :=
  isRounded f mode r.1 v ∧ (f.value r.1).neg = neg ∧ (r.2.nx = true ↔ ratOf (f.value r.1) ≠ v)

section
variable {f : FFmt} {mode : RMode} {neg : Bool} {m : Nat} {e : Int} {v : Rat}

/-- A number that lies to the quantum's halves as an exact one does is rounded to its code (R82). -/
theorem FFmt.roundExact_of_sameCell (hf : f.Proper) (hm : m ≠ 0) (hov : (f.roundExact mode neg m e).2.ov = false)
    (h : SameCell (2 * (v / (2 : Rat) ^ f.quantum m e)) (2 * (ratOf (.fin neg m e) / (2 : Rat) ^ f.quantum m e))) :
    Rounded f mode neg (f.roundExact mode neg m e) v := by
  obtain ⟨hnum, hneg, hnx, -⟩ := f.roundExact_spec hf hm hov
  have hc := f.lt_infCode_of_ov hm hov
  obtain ⟨uf, hr, -⟩ := f.roundExact_finite hm hc
  set r := f.roundExact mode neg m e
  set q := f.quantum m e with hq
  set n := (roundAt mode neg m e q).1 with hn
  have hp := two_zpow_ne_zero q
  have hy : ratOf (f.value r.1) = (signedMag neg n : Rat) * (2 : Rat) ^ q := by
    rw [hr, f.ratOf_roundedCode hm hc]
    exact ratOf_fin ..
  have hk : roundsTo mode (v / (2 : Rat) ^ q) (signedMag neg n) := roundsTo_of_sameCell h roundAt_spec.1
  refine ⟨isRounded_iff.2 ⟨hnum.1, fun c hz => ?_⟩, hneg, hnx.trans (not_congr ?_)⟩
  · have hfit : Fits (ratOf (.fin neg m e) / (2 : Rat) ^ q) (ratOf (f.value c) / (2 : Rat) ^ q) := (f.grid_value hz).fits hm
    have hs := ((h.fits hfit).closer hk).scale (two_zpow_pos q)
    have he : signedMag neg n % 2 = 0 ↔ r.1 % 2 = 0 := by
      rw [show r.1 = _ from congrArg Prod.fst hr, f.signed_mod_two hf, f.roundedCode_mod_two hf, signedMag_mod_two]
    rwa [div_mul_cancel₀ _ hp, div_mul_cancel₀ _ hp, ← hy, he] at hs
  · have := h.of_double.eq_iff (signedMag neg n)
    rw [div_eq_iff hp, div_eq_iff hp, ← hy] at this
    exact ⟨fun h => (this.2 h.symm).symm, fun h => (this.1 h.symm).symm⟩
end

end Sys2Proof.Machine
end

/-! Numbers known by their first bits and a sticky bit (R82, R106, R108) -/
section
namespace Sys2Proof.Machine

theorem ratOf_nonneg {x : FVal} (h : isNumber x) (hn : x.neg = false) : 0 ≤ ratOf x := by
  obtain ⟨neg, m, e, rfl⟩ := isNumber_iff_fin.1 h
  refine not_lt.1 fun h' => ?_
  rw [show neg = false from hn] at h'
  exact Bool.noConfusion ((ratOf_fin_neg ..).1 h').1

theorem ratOf_fin_pos {neg : Bool} {m : Nat} {e : Int} (hm : m ≠ 0) : 0 < ratOf (.fin neg m e) ↔ neg = false := by
  rw [← not_le, le_iff_lt_or_eq, or_iff_left (mt (ratOf_fin_eq_zero ..).1 hm), ratOf_fin_neg]
  simp [hm]

/-- The magnitude that stands for one of which a sticky bit tells that it lies above `m · 2^e` (R82). -/
def stickyMag (m : Nat) (st : Bool) : Nat := if st then 4 * m + 1 else m

/-- Its exponent. -/
def stickyExp (e : Int) (st : Bool) : Int := if st then e - 2 else e

section
variable {f : FFmt} {mode : RMode} {neg st : Bool} {m : Nat} {e : Int}

theorem FFmt.round_eq_roundExact : f.round mode neg m e st = f.roundExact mode neg (stickyMag m st) (stickyExp e st) := by cases st <;> rfl

theorem stickyMag_ne_zero (hm : m ≠ 0) : stickyMag m st ≠ 0 := by cases st <;> simp [stickyMag, hm]

theorem log2_four_mul_add_one (hm : m ≠ 0) : (4 * m + 1).log2 = m.log2 + 2 := by
  have h1 := Nat.log2_self_le hm
  have h2 := Nat.lt_log2_self (n := m)
  refine (Nat.log2_eq_iff (by omega)).2 ⟨?_, ?_⟩ <;> rw [pow_succ, pow_succ] at * <;> omega

/-- A sticky bit leaves the place of the highest bit. -/
theorem stickyExp_add_log2 (hm : m ≠ 0) : stickyExp e st + (stickyMag m st).log2 = e + m.log2 := by
  cases st
  · rfl
  · simp only [stickyExp, stickyMag, if_true, log2_four_mul_add_one hm]
    push_cast
    ring

/-- The quantum of a magnitude with a sticky bit is that of its first bits. -/
theorem FFmt.quantum_sticky (hm : m ≠ 0) : f.quantum (stickyMag m st) (stickyExp e st) = f.quantum m e := by
  simp only [FFmt.quantum, Machine.quantum, stickyExp_add_log2 hm]

/-- The size of a number with a sticky bit, in units of its last bit. -/
theorem abs_sticky_div : |ratOf (.fin neg (stickyMag m st) (stickyExp e st))| / (2 : Rat) ^ e = m + if st then 1 / 4 else 0 := by
  rw [abs_ratOf_fin, div_eq_iff (two_zpow_ne_zero e)]
  cases st
  · simp [stickyMag, stickyExp]
  · simp only [stickyMag, stickyExp, if_true]
    rw [zpow_sub₀ two_ne_zero]
    push_cast
    ring

/-- `v` has the sign `neg`, its size has the whole part `m` in units of `2^e`, and `st` tells that its size lies above it. -/
structure Between (neg st : Bool) (m : Nat) (e : Int) (v : Rat) : Prop where
  sign : v < 0 ↔ neg = true
  ge : m * (2 : Rat) ^ e ≤ |v|
  lt : |v| < (m + 1) * (2 : Rat) ^ e
  sticky : st = false ↔ |v| = m * (2 : Rat) ^ e

/-- A number is like the one with its first bits and its sticky bit, seen in units of the last bit. -/
theorem Between.sameCell {v : Rat} (hm : m ≠ 0) (h : Between neg st m e v) :
    SameCell (v / (2 : Rat) ^ e) (ratOf (.fin neg (stickyMag m st) (stickyExp e st)) / (2 : Rat) ^ e) := by
  have hp := two_zpow_pos e
  have hd := abs_sticky_div (neg := neg) (st := st) (m := m) (e := e)
  have habs : SameCell (|v| / (2 : Rat) ^ e) (|ratOf (.fin neg (stickyMag m st) (stickyExp e st))| / (2 : Rat) ^ e) := by
    rw [hd]
    refine sameCell_of_between (q := m) ?_ ?_ ?_ ?_ ?_
    · rw [le_div_iff₀ hp]; exact_mod_cast h.ge
    · rw [div_lt_iff₀ hp]; exact_mod_cast h.lt
    · cases st <;> norm_num
    · cases st <;> norm_num
    · rw [div_eq_iff hp.ne', Int.cast_natCast, ← h.sticky]
      cases st <;> norm_num
  cases neg with
  | false =>
    have hv : 0 ≤ v := not_lt.1 fun h' => Bool.noConfusion (h.sign.1 h')
    rwa [abs_of_nonneg hv, abs_of_nonneg (ratOf_nonneg ⟨rfl, rfl⟩ rfl)] at habs
  | true =>
    have := habs.neg
    rwa [abs_of_neg (h.sign.2 rfl), abs_of_neg ((ratOf_fin_neg ..).2 ⟨rfl, stickyMag_ne_zero hm⟩), neg_div, neg_div, neg_neg, neg_neg] at this

/-- A number of which all but a sticky bit is known to one bit more than the format keeps is rounded once (R82, R106, R108). -/
theorem FFmt.round_spec {v : Rat} (hf : f.Proper) (hm : 2 ^ (f.fbits + 1) ≤ m) (h : Between neg st m e v)
    (hov : (f.round mode neg m e st).2.ov = false) : Rounded f mode neg (f.round mode neg m e st) v := by
  have hm0 : m ≠ 0 := by have := Nat.two_pow_pos (f.fbits + 1); omega
  rw [f.round_eq_roundExact] at hov ⊢
  refine f.roundExact_of_sameCell hf (stickyMag_ne_zero hm0) hov ?_
  rw [f.quantum_sticky hm0]
  have hq : e + 1 ≤ f.quantum m e := by
    have : e + m.log2 - f.fbits ≤ f.quantum m e := le_max_left ..
    have := (Nat.le_log2 hm0).2 hm
    omega
  obtain ⟨d, hd⟩ := Int.eq_ofNat_of_zero_le (Int.sub_nonneg.2 hq)
  have hs (w : Rat) : 2 * (w / (2 : Rat) ^ f.quantum m e) = w / (2 : Rat) ^ e / (2 ^ d : Nat) := by
    rw [show f.quantum m e = e + d + 1 by omega, two_zpow_add, two_zpow_add, zpow_natCast]
    push_cast
    field_simp
  rw [hs, hs]
  exact (h.sameCell hm0).div (Nat.two_pow_pos d)
end

/-! ### Quotients (R106, R108) -/

section
variable {f : FFmt} {mode : RMode} {na nb : Bool} {ma mb : Nat} {ea eb : Int}

theorem abs_quotient : |ratOf (.fin na ma ea) / ratOf (.fin nb mb eb)| = (ma : Rat) / mb * (2 : Rat) ^ (ea - eb) := by
  rw [abs_div, abs_ratOf_fin, abs_ratOf_fin, zpow_sub₀ two_ne_zero, mul_div_mul_comm]

theorem quotient_neg_iff (ha : ma ≠ 0) (hb : mb ≠ 0) : ratOf (.fin na ma ea) / ratOf (.fin nb mb eb) < 0 ↔ (na != nb) = true := by
  rw [div_neg_iff, ratOf_fin_pos ha, ratOf_fin_pos hb, ratOf_fin_neg, ratOf_fin_neg]
  cases na <;> cases nb <;> simp [ha, hb]

/-- The whole quotient of magnitudes, of which the first is taken `k` bits further, tells the quotient of the numbers. -/
theorem between_quotient (ha : ma ≠ 0) (hb : mb ≠ 0) (k : Nat) : Between (na != nb) (decide (ma * 2 ^ k % mb ≠ 0)) (ma * 2 ^ k / mb) (ea - eb - k)
    (ratOf (.fin na ma ea) / ratOf (.fin nb mb eb)) := by
  have hb0 : (0 : Rat) < mb := by exact_mod_cast Nat.pos_of_ne_zero hb
  have hp := two_zpow_pos (ea - eb - k)
  have hv : |ratOf (.fin na ma ea) / ratOf (.fin nb mb eb)| = (ma * 2 ^ k : Nat) / mb * (2 : Rat) ^ (ea - eb - k) := by
    rw [abs_quotient, zpow_sub₀ two_ne_zero (ea - eb), zpow_natCast]
    push_cast
    field_simp
  refine ⟨quotient_neg_iff ha hb, ?_, ?_, ?_⟩ <;> rw [hv]
  · exact mul_le_mul_of_nonneg_right Nat.cast_div_le hp.le
  · rw [mul_lt_mul_iff_of_pos_right hp, div_lt_iff₀ hb0]
    exact_mod_cast (Nat.lt_mul_div_succ _ (Nat.pos_of_ne_zero hb)).trans_eq (mul_comm ..)
  · rw [mul_left_inj' hp.ne', div_eq_iff hb0.ne', decide_eq_false_iff_not, not_not]
    have := Nat.div_add_mod' (ma * 2 ^ k) mb
    norm_cast
    generalize ma * 2 ^ k / mb * mb = t at *
    omega

/-- The bits that a quotient is carried to are more than the format keeps. -/
theorem le_quotient (ha : ma ≠ 0) (hb : mb ≠ 0) : 2 ^ (f.fbits + 1) ≤ ma * 2 ^ (f.fbits + 4 + mb.log2) / mb := by
  rw [Nat.le_div_iff_mul_le (Nat.pos_of_ne_zero hb)]
  calc 2 ^ (f.fbits + 1) * mb ≤ 2 ^ (f.fbits + 1) * 2 ^ (mb.log2 + 1) := Nat.mul_le_mul_left _ Nat.lt_log2_self.le
    _ = 2 ^ (f.fbits + mb.log2 + 2) := by rw [← pow_add]; congr 1; ring
    _ ≤ 2 ^ (f.fbits + 4 + mb.log2) := Nat.pow_le_pow_right (by decide) (by omega)
    _ ≤ ma * 2 ^ (f.fbits + 4 + mb.log2) := Nat.le_mul_of_pos_left _ (Nat.pos_of_ne_zero ha)

theorem FFmt.divV_fin (ha : ma ≠ 0) (hb : mb ≠ 0) : f.divV mode (.fin na ma ea) (.fin nb mb eb) = f.divMag mode (na != nb) ma ea mb eb := by
  simp [FFmt.divV, FVal.isNan, FVal.neg, ha, hb]

/-- A quotient without overflow is rounded once (R106). -/
theorem FFmt.divV_spec (hf : f.Proper) (ha : ma ≠ 0) (hb : mb ≠ 0) (hov : (f.divV mode (.fin na ma ea) (.fin nb mb eb)).2.ov = false) :
    Rounded f mode (na != nb) (f.divV mode (.fin na ma ea) (.fin nb mb eb)) (ratOf (.fin na ma ea) / ratOf (.fin nb mb eb)) := by
  rw [f.divV_fin ha hb] at hov ⊢
  exact f.round_spec hf (le_quotient ha hb) (between_quotient ha hb _) hov
end

end Sys2Proof.Machine
end

/-! Square roots and their reciprocals (R108) -/
section
namespace Sys2Proof.Machine

/-! ### The integer square root -/

theorem isqrtBits_spec {n : Nat} (k : Nat) {r : Nat} (h0 : r * r ≤ n) (h1 : n < (r + 2 ^ k) * (r + 2 ^ k)) :
    isqrtBits n k r * isqrtBits n k r ≤ n ∧ n < (isqrtBits n k r + 1) * (isqrtBits n k r + 1) := by
  induction k generalizing r with
  | zero => exact ⟨h0, h1⟩
  | succ k ih =>
    rw [isqrtBits]
    split_ifs with h
    · exact ih h (by rwa [add_assoc, ← two_mul, ← Nat.pow_succ'])
    · exact ih h0 (not_le.1 h)

theorem isqrt_spec (n : Nat) : isqrt n * isqrt n ≤ n ∧ n < (isqrt n + 1) * (isqrt n + 1) := by
  refine isqrtBits_spec _ (Nat.zero_le _) ?_
  rw [zero_add, ← pow_add]
  exact Nat.lt_log2_self.trans_le (Nat.pow_le_pow_right (by decide) (by omega))

theorem le_isqrt {a n : Nat} (h : a * a ≤ n) : a ≤ isqrt n :=
  Nat.lt_succ_iff.1 (Nat.mul_self_lt_mul_self_iff.1 (h.trans_lt (isqrt_spec n).2))

/-! ### A rational number beside a root -/

/-- Some rational number lies to each of a list of rational numbers as a real number does. -/
theorem exists_rat_alike (x : ℝ) (l : List Rat) : ∃ t : Rat, ∀ p ∈ l, ((p : ℝ) ≤ x ↔ p ≤ t) ∧ (x ≤ p ↔ t ≤ p) := by
  by_cases hx : ∃ r : Rat, (r : ℝ) = x
  · obtain ⟨r, rfl⟩ := hx
    exact ⟨r, fun p _ => ⟨Rat.cast_le, Rat.cast_le⟩⟩
  · have hnear : ∀ᶠ y in nhds x, ∀ p ∈ l, ((p : ℝ) < x → (p : ℝ) < y) ∧ (x < p → y < p) := by
      induction l with
      | nil => simp
      | cons p l ih =>
        simp only [List.forall_mem_cons]
        refine Filter.Eventually.and ?_ ih
        rcases lt_trichotomy (p : ℝ) x with h | h | h
        · filter_upwards [lt_mem_nhds h] with y hy using ⟨fun _ => hy, fun h' => absurd h' h.le.not_gt⟩
        · exact absurd ⟨p, h⟩ hx
        · filter_upwards [gt_mem_nhds h] with y hy using ⟨fun h' => absurd h' h.le.not_gt, fun _ => hy⟩
    obtain ⟨_, ⟨t, rfl⟩, ht⟩ := Rat.denseRange_cast.inter_nhds_nonempty hnear
    refine ⟨t, fun p hp => ?_⟩
    obtain ⟨h1, h2⟩ := ht p hp
    simp only [Rat.cast_lt] at h1 h2
    rcases lt_trichotomy (p : ℝ) x with h | h | h
    · exact ⟨iff_of_true h.le (h1 h).le, iff_of_false (not_le.2 h) (not_le.2 (h1 h))⟩
    · exact absurd ⟨p, h⟩ hx
    · exact ⟨iff_of_false (not_le.2 h) (not_le.2 (h2 h)), iff_of_true h.le (h2 h).le⟩

/-- What a mode asks of a code's number `y` for the root of `R`, compared with another number `z` that is not negative (R82, R108). -/
def RootCloser (mode : RMode) (R y z : Rat) : Prop :=
  match mode with
  | .rdn | .rtz => y * y ≤ R ∧ (z * z ≤ R → z ≤ y)
  | .rup => R ≤ y * y ∧ (R ≤ z * z → y ≤ z)
  | .rne => (y < z → 4 * R ≤ (y + z) * (y + z)) ∧ (z < y → (y + z) * (y + z) ≤ 4 * R)

/-- A rational number that lies to `p` as the root of `R` does. -/
theorem exists_like_root {R : Rat} (hR : 0 ≤ R) (l : List Rat) :
    ∃ t : Rat, 0 ≤ t ∧ ∀ p ∈ l, 0 ≤ p → (p ≤ t ↔ p * p ≤ R) ∧ (t ≤ p ↔ R ≤ p * p) := by
  obtain ⟨t, ht⟩ := exists_rat_alike (Real.sqrt R) (0 :: l)
  obtain ⟨h0, hl⟩ := List.forall_mem_cons.1 ht
  refine ⟨t, h0.1.1 (by rw [Rat.cast_zero]; exact Real.sqrt_nonneg _), fun p hp hp0 => ?_⟩
  have hp0' : (0 : ℝ) ≤ p := by exact_mod_cast hp0
  have hR' : (0 : ℝ) ≤ R := by exact_mod_cast hR
  rw [← (hl p hp).1, ← (hl p hp).2, Real.le_sqrt hp0' hR', Real.sqrt_le_left hp0', sq]
  exact ⟨by exact_mod_cast Iff.rfl, by exact_mod_cast Iff.rfl⟩

section
variable {mode : RMode} {even : Prop} {t y z R : Rat}

/-- The rounding of a number that lies like a root is that of the root. -/
theorem Closer.root (h : Closer mode even t y z) (ht : 0 ≤ t) (hy : 0 ≤ y) (hz : 0 ≤ z)
    (hl : ∀ p ∈ [y, z, (y + z) / 2], (p ≤ t ↔ p * p ≤ R) ∧ (t ≤ p ↔ R ≤ p * p)) : RootCloser mode R y z := by
  simp only [List.forall_mem_cons, List.not_mem_nil] at hl
  obtain ⟨⟨hy1, hy2⟩, ⟨hz1, hz2⟩, ⟨hm1, hm2⟩, -⟩ := hl
  cases mode with
  | rdn => exact ⟨hy1.1 h.1, fun hz => h.2 (hz1.2 hz)⟩
  | rup => exact ⟨hy2.1 h.1, fun hz => h.2 (hz2.2 hz)⟩
  | rtz =>
    simp only [Closer, absOf_eq_abs, abs_of_nonneg ht, abs_of_nonneg hy, abs_of_nonneg hz] at h
    exact ⟨hy1.1 h.1, fun hz => h.2 (hz1.2 hz)⟩
  | rne =>
    have h := h.1
    rw [absOf_eq_abs, absOf_eq_abs] at h
    refine ⟨fun hlt => ?_, fun hlt => ?_⟩
    · have : t ≤ (y + z) / 2 := by
        by_contra hc
        have : |z - t| < t - y := abs_lt.2 ⟨by linarith, by linarith⟩
        linarith [neg_le_abs (y - t)]
      linarith [hm2.1 this]
    · have : (y + z) / 2 ≤ t := by
        by_contra hc
        have : |z - t| < y - t := abs_lt.2 ⟨by linarith, by linarith⟩
        linarith [le_abs_self (y - t)]
      linarith [hm1.1 this]
end

/-! ### Roots known by their first bits -/

/-- The root of `R` has the whole part `m` in units of `2^e`, and `st` tells that it lies above it. -/
structure RootBetween (st : Bool) (m : Nat) (e : Int) (R : Rat) : Prop where
  ge : m * (2 : Rat) ^ e * (m * (2 : Rat) ^ e) ≤ R
  lt : R < (m + 1) * (2 : Rat) ^ e * ((m + 1) * (2 : Rat) ^ e)
  sticky : st = false ↔ m * (2 : Rat) ^ e * (m * (2 : Rat) ^ e) = R

section
variable {st : Bool} {m : Nat} {e : Int} {R N : Rat}

/-- A number of even exponent, by its magnitude. -/
theorem RootBetween.of_mul (h0 : (m * m : Nat) ≤ N) (h1 : N < ((m + 1) * (m + 1) : Nat)) (hs : st = false ↔ (m * m : Nat) = N)
    (hR : R = N * (2 : Rat) ^ (2 * e)) : RootBetween st m e R := by
  have hp := two_zpow_pos (2 * e)
  have hsq (a : Rat) : a * (2 : Rat) ^ e * (a * (2 : Rat) ^ e) = a * a * (2 : Rat) ^ (2 * e) := by rw [two_mul, two_zpow_add]; ring
  push_cast at h0 h1 hs
  refine ⟨?_, ?_, ?_⟩ <;> rw [hR, hsq]
  · exact mul_le_mul_of_nonneg_right h0 hp.le
  · exact mul_lt_mul_of_pos_right h1 hp
  · rw [hs, mul_left_inj' hp.ne']

/-- A rational number that lies like the root has its first bits, too. -/
theorem RootBetween.exists_like (h : RootBetween st m e R) (l : List Rat) :
    ∃ t : Rat, 0 ≤ t ∧ Between false st m e t ∧ ∀ p ∈ l, 0 ≤ p → (p ≤ t ↔ p * p ≤ R) ∧ (t ≤ p ↔ R ≤ p * p) := by
  have hp := two_zpow_pos e
  have hm : 0 ≤ m * (2 : Rat) ^ e := by positivity
  have hm1 : 0 ≤ (m + 1) * (2 : Rat) ^ e := by positivity
  obtain ⟨t, ht, hl⟩ := exists_like_root ((mul_self_nonneg _).trans h.ge) (m * (2 : Rat) ^ e :: (m + 1) * (2 : Rat) ^ e :: l)
  simp only [List.forall_mem_cons] at hl
  obtain ⟨h0, h1, hl⟩ := hl
  obtain ⟨h0, h0'⟩ := h0 hm
  refine ⟨t, ht, ⟨?_, ?_, ?_, ?_⟩, hl⟩
  · simp [ht]
  · rw [abs_of_nonneg ht]
    exact h0.2 h.ge
  · rw [abs_of_nonneg ht, ← not_le, (h1 hm1).1, not_le]
    exact h.lt
  · rw [abs_of_nonneg ht, h.sticky, eq_comm (a := t), le_antisymm_iff, le_antisymm_iff, h0, h0']
end

section
variable {f : FFmt} {mode : RMode} {neg st : Bool} {m : Nat} {e : Int} {R : Rat}

/-- A number below the format's highest exponent does not overflow (R82). -/
theorem FFmt.ov_eq_false (hf : f.Proper) (hm : m ≠ 0) (h : e + m.log2 < f.bias) : (f.roundExact mode neg m e).2.ov = false := by
  have h1 := f.one_le_bias hf
  have h2 := f.two_mul_bias hf
  have hk : (f.quantum m e - f.qmin).toNat + 3 ≤ 2 ^ f.ebits - 1 := by
    have : f.quantum m e = max (e + m.log2 - f.fbits) f.qmin := rfl
    have : f.qmin = 1 - (f.bias : Int) - f.fbits := rfl
    omega
  have hc : f.roundedCode mode neg m e < f.infCode := by
    have hn := (f.roundAt_bounds (mode := mode) (neg := neg) (e := e) hm).1
    have := Nat.mul_le_mul_right (2 ^ f.fbits) hk
    have := Nat.two_pow_pos f.fbits
    rw [FFmt.roundedCode, FFmt.infCode]
    rw [pow_succ] at hn
    rw [add_mul] at *
    omega
  obtain ⟨uf, hr, -⟩ := f.roundExact_finite hm hc
  rw [hr]

/-- A root that the format can hold does not overflow. -/
theorem FFmt.round_root_ov (hf : f.Proper) (hm : m ≠ 0) (h : RootBetween st m e R) (hb : R < (2 : Rat) ^ (2 * (f.bias : Int))) :
    (f.round mode false m e st).2.ov = false := by
  rw [f.round_eq_roundExact]
  refine f.ov_eq_false hf (stickyMag_ne_zero hm) ?_
  rw [stickyExp_add_log2 hm]
  have ht : (2 : Rat) ^ (e + m.log2) ≤ m * (2 : Rat) ^ e := by
    rw [← abs_ratOf_fin false]
    exact top_le_size hm
  have := ((mul_self_le_mul_self (two_zpow_pos _).le ht).trans h.ge).trans_lt hb
  rw [← two_zpow_add, two_zpow_lt_iff] at this
  omega

/-- A result is the one rounding of the root of `R`, and inexact tells that it differs from it (R108). -/
structure RootRounded (f : FFmt) (mode : RMode) (r : Nat × Conds) (R : Rat) : Prop where
  number : isNumber (f.value r.1)
  sign : (f.value r.1).neg = false
  inexact : r.2.nx = true ↔ ratOf (f.value r.1) * ratOf (f.value r.1) ≠ R
  closer : ∀ k, isNumber (f.value k) → 0 ≤ ratOf (f.value k) → RootCloser mode R (ratOf (f.value r.1)) (ratOf (f.value k))

/-- A root of which all but a sticky bit is known to one bit more than the format keeps is rounded once (R108). -/
theorem FFmt.round_root (hf : f.Proper) (hm : 2 ^ (f.fbits + 1) ≤ m) (h : RootBetween st m e R) (hb : R < (2 : Rat) ^ (2 * (f.bias : Int))) :
    RootRounded f mode (f.round mode false m e st) R := by
  set r := f.round mode false m e st
  set y := ratOf (f.value r.1)
  have hov : r.2.ov = false := f.round_root_ov hf (by have := Nat.two_pow_pos (f.fbits + 1); omega) h hb
  obtain ⟨t, -, ht, hl⟩ := h.exists_like [y]
  obtain ⟨hr, hneg, hnx⟩ := f.round_spec hf hm ht hov
  have hy : 0 ≤ y := ratOf_nonneg hr.1 hneg
  refine ⟨hr.1, hneg, hnx.trans (not_congr ?_), fun k hk hz => ?_⟩
  · obtain ⟨h1, h2⟩ := hl y (List.mem_singleton_self y) hy
    rw [le_antisymm_iff, le_antisymm_iff, ← h1, ← h2]
  · obtain ⟨t, ht0, ht, hl⟩ := h.exists_like [y, ratOf (f.value k), (y + ratOf (f.value k)) / 2]
    have hc := (isRounded_iff.1 (f.round_spec hf hm ht hov).1).2 k hk
    refine hc.root ht0 hy hz fun p hp => hl p hp ?_
    simp only [List.mem_cons, List.not_mem_nil, or_false] at hp
    rcases hp with rfl | rfl | rfl
    · exact hy
    · exact hz
    · positivity
end

/-! ### FSQRT and FRSQ (R108) -/

section
variable {f : FFmt} {mode : RMode} {m a : Nat} {e : Int}

theorem ratOf_fin_false (m : Nat) (e : Int) : ratOf (.fin false m e) = m * (2 : Rat) ^ e := by rw [ratOf_fin, signedMag_eq_ite, if_neg (by decide)]

/-- The magnitude that FSQRT takes the root of, and the root. -/
theorem sqrtMag_eq (f : FFmt) (m : Nat) (e : Int) : ∃ (k : Nat) (q : Int), 2 * (f.fbits + 4) ≤ k ∧ 2 * q = e - k
    ∧ sqrtMag f m e = (isqrt (m * 2 ^ k), q, decide (isqrt (m * 2 ^ k) * isqrt (m * 2 ^ k) ≠ m * 2 ^ k)) := by
  unfold sqrtMag
  split_ifs with h
  · exact ⟨2 * (f.fbits + 4), _, le_rfl, by omega, rfl⟩
  · exact ⟨2 * (f.fbits + 4) + 1, _, by omega, by push_cast; omega, rfl⟩

theorem rootBetween_isqrt (n : Nat) (q : Int) : RootBetween (decide (isqrt n * isqrt n ≠ n)) (isqrt n) q (n * (2 : Rat) ^ (2 * q)) := by
  obtain ⟨h0, h1⟩ := isqrt_spec n
  refine .of_mul (by exact_mod_cast h0) (by exact_mod_cast h1) ?_ rfl
  rw [decide_eq_false_iff_not, not_not]
  exact_mod_cast Iff.rfl

theorem FFmt.sqrt_spec (hf : f.Proper) (ha : f.value a = .fin false m e) (hm : m ≠ 0) :
    RootRounded f mode (f.sqrt mode a) (ratOf (.fin false m e)) := by
  obtain ⟨k, q, hk, hq, hs⟩ := sqrtMag_eq f m e
  obtain ⟨hlt, -, htop⟩ := f.fin_of_value hf ha
  have hr : f.sqrt mode a = f.round mode false (isqrt (m * 2 ^ k)) q (decide (isqrt (m * 2 ^ k) * isqrt (m * 2 ^ k) ≠ m * 2 ^ k)) := by
    rw [FFmt.sqrt, ha]
    simp [hm, hs]
  have hR : ratOf (.fin false m e) = (m * 2 ^ k : Nat) * (2 : Rat) ^ (2 * q) := by
    rw [hq, ratOf_fin_false, zpow_sub₀ two_ne_zero, zpow_natCast]
    push_cast
    field_simp
  have h1 := f.one_le_bias hf
  rw [hr]
  refine f.round_root hf (le_isqrt ?_) (hR ▸ rootBetween_isqrt _ q) ?_
  · calc 2 ^ (f.fbits + 1) * 2 ^ (f.fbits + 1) = 2 ^ (f.fbits + 1 + (f.fbits + 1)) := (pow_add ..).symm
      _ ≤ 2 ^ k := Nat.pow_le_pow_right (by decide) (by omega)
      _ ≤ m * 2 ^ k := Nat.le_mul_of_pos_left _ (Nat.pos_of_ne_zero hm)
  · exact (le_abs_self _).trans_lt ((f.abs_fin_lt hlt htop).trans_le (two_zpow_le (by omega)))

/-- The whole part of the reciprocal's magnitude has the same whole root as the magnitude itself. -/
theorem rootBetween_isqrt_div (hm : m ≠ 0) (n : Nat) (q : Int) :
    RootBetween (decide (isqrt (n / m) * isqrt (n / m) * m ≠ n)) (isqrt (n / m)) q ((n : Rat) / m * (2 : Rat) ^ (2 * q)) := by
  have hm0 : (0 : Rat) < m := by exact_mod_cast Nat.pos_of_ne_zero hm
  obtain ⟨h0, h1⟩ := isqrt_spec (n / m)
  refine .of_mul ?_ ?_ ?_ rfl
  · rw [le_div_iff₀ hm0]
    exact_mod_cast (Nat.le_div_iff_mul_le (Nat.pos_of_ne_zero hm)).1 h0
  · rw [div_lt_iff₀ hm0]
    exact_mod_cast (Nat.div_lt_iff_lt_mul (Nat.pos_of_ne_zero hm)).1 h1
  · rw [decide_eq_false_iff_not, not_not, eq_div_iff hm0.ne']
    exact_mod_cast Iff.rfl

/-- The magnitude that FRSQ takes the root of, and the root. -/
theorem FFmt.rsq_eq (ha : f.value a = .fin false m e) (hm : m ≠ 0) : ∃ (k : Nat) (q : Int), 2 * (f.fbits + 4 + m.log2) ≤ k ∧ 2 * q = -e - k
    ∧ f.rsq mode a = f.round mode false (isqrt (2 ^ k / m)) q (decide (isqrt (2 ^ k / m) * isqrt (2 ^ k / m) * m ≠ 2 ^ k)) := by
  rw [FFmt.rsq, ha]
  simp only [hm, if_false, Bool.false_eq_true]
  split_ifs with h
  · exact ⟨_, _, le_rfl, by push_cast; omega, rfl⟩
  · exact ⟨_, _, Nat.le_succ _, by push_cast; omega, rfl⟩

theorem FFmt.rsq_spec (hf : f.Proper) (hw : f.fbits + 1 ≤ f.bias) (ha : f.value a = .fin false m e) (hm : m ≠ 0) :
    RootRounded f mode (f.rsq mode a) (1 / ratOf (.fin false m e)) := by
  obtain ⟨k, q, hk, hq, hr⟩ := f.rsq_eq (mode := mode) ha hm
  obtain ⟨-, hlow, -⟩ := f.fin_of_value hf ha
  have hR : 1 / ratOf (.fin false m e) = ((2 ^ k : Nat) : Rat) / m * (2 : Rat) ^ (2 * q) := by
    rw [ratOf_fin_false, hq, zpow_sub₀ two_ne_zero, zpow_neg, zpow_natCast]
    push_cast
    field_simp
  rw [hr]
  refine f.round_root hf (le_isqrt ?_) (hR ▸ rootBetween_isqrt_div hm _ q) ?_
  · rw [Nat.le_div_iff_mul_le (Nat.pos_of_ne_zero hm)]
    calc 2 ^ (f.fbits + 1) * 2 ^ (f.fbits + 1) * m ≤ 2 ^ (f.fbits + 1) * 2 ^ (f.fbits + 1) * 2 ^ (m.log2 + 1) :=
          Nat.mul_le_mul_left _ Nat.lt_log2_self.le
      _ = 2 ^ (f.fbits + 1 + (f.fbits + 1) + (m.log2 + 1)) := by rw [← pow_add, ← pow_add]
      _ ≤ 2 ^ k := Nat.pow_le_pow_right (by decide) (by omega)
  · have hqm : f.qmin = 1 - (f.bias : Int) - f.fbits := rfl
    have hm1 : (1 : Rat) ≤ m := by exact_mod_cast Nat.one_le_iff_ne_zero.2 hm
    calc 1 / ratOf (.fin false m e) ≤ 1 / (2 : Rat) ^ f.qmin := by
          rw [ratOf_fin_false]
          exact one_div_le_one_div_of_le (two_zpow_pos _) ((two_zpow_le hlow).trans (le_mul_of_one_le_left (two_zpow_pos e).le hm1))
      _ = (2 : Rat) ^ (-f.qmin) := by rw [zpow_neg, one_div]
      _ < (2 : Rat) ^ (2 * (f.bias : Int)) := two_zpow_lt (by omega)
end

end Sys2Proof.Machine
end

/-! Sums, products and dot products, and their one rounding: O8 (R106, R108, R117, R142, R144) -/
section
namespace Sys2Proof.Machine

/-! ### Sums and products of numbers (R106) -/

/-- A result is the one rounding of an exact number, or, where that is zero, the zero of a sign (R106). -/
def RoundsOnce (f : FFmt) (mode : RMode) (r : Nat × Conds) (exact : Rat) (zneg : Bool) : Prop :=
  ∃ d : Dyadic, exact = ((d.m : Int) : Rat) * (2 : Rat) ^ d.e
    ∧ r = (if d.m ≠ 0 then f.roundExact mode (decide (d.m < 0)) d.m.natAbs d.e else (f.signed zneg 0, {}))

theorem FFmt.roundDy_eq (f : FFmt) (mode : RMode) (d : Dyadic) (zneg : Bool) :
    f.roundDy mode d zneg = if d.m ≠ 0 then f.roundExact mode (decide (d.m < 0)) d.m.natAbs d.e else (f.signed zneg 0, {}) := by
  rw [FFmt.roundDy, ite_not]

theorem FFmt.roundDy_roundsOnce (f : FFmt) (mode : RMode) (d : Dyadic) (zneg : Bool) : RoundsOnce f mode (f.roundDy mode d zneg) d.num zneg :=
  ⟨d, rfl, f.roundDy_eq mode d zneg⟩

/-- The sign of a zero sum (R106). -/
theorem zeroSign_eq (mode : RMode) (p q : Prop) [Decidable p] [Decidable q] (n k : Bool) :
    zeroSign mode (decide p) n (decide q) k = if p ∧ q ∧ n = k then n else decide (mode = .rdn) := by
  rw [zeroSign]
  exact if_congr (by simp [and_assoc]) rfl rfl

theorem ratOf_negate (neg : Bool) (m : Nat) (e : Int) : ratOf (.fin (!neg) m e) = -ratOf (.fin neg m e) := by
  rw [ratOf_fin, ratOf_fin, signedMag_eq_ite, signedMag_eq_ite]
  cases neg <;> simp

section
variable (f : FFmt) (mode : RMode) {na nb nc : Bool} {ma mb mc a b c : Nat} {ea eb ec : Int}

theorem FFmt.addV_roundsOnce : RoundsOnce f mode (f.addV mode (.fin na ma ea) (.fin nb mb eb)) (ratOf (.fin na ma ea) + ratOf (.fin nb mb eb))
    (if ma = 0 ∧ mb = 0 ∧ na = nb then na else decide (mode = .rdn)) := by
  rw [ratOf_eq_num, ratOf_eq_num, ← Dyadic.num_add, ← zeroSign_eq]
  exact f.roundDy_roundsOnce mode _ _

theorem FFmt.divV_zero_left (hb : mb ≠ 0) : f.divV mode (.fin na 0 ea) (.fin nb mb eb) = (f.signed (na != nb) 0, {}) := by
  simp [FFmt.divV, FVal.isNan, FVal.neg, hb]

variable (ha : f.value a = .fin na ma ea) (hb : f.value b = .fin nb mb eb)
include ha hb

theorem FFmt.add_roundsOnce : RoundsOnce f mode (f.add mode a b) (ratOf (.fin na ma ea) + ratOf (.fin nb mb eb))
    (if ma = 0 ∧ mb = 0 ∧ na = nb then na else decide (mode = .rdn)) := by
  rw [FFmt.add, ha, hb]
  exact f.addV_roundsOnce mode

theorem FFmt.sub_roundsOnce : RoundsOnce f mode (f.sub mode a b) (ratOf (.fin na ma ea) - ratOf (.fin nb mb eb))
    (if ma = 0 ∧ mb = 0 ∧ na ≠ nb then na else decide (mode = .rdn)) := by
  have h := f.addV_roundsOnce mode (na := na) (ma := ma) (ea := ea) (nb := !nb) (mb := mb) (eb := eb)
  rw [ratOf_negate, ← sub_eq_add_neg] at h
  rw [FFmt.sub, ha, hb, FVal.negate]
  simpa only [Bool.eq_not] using h

theorem FFmt.mul_roundsOnce : RoundsOnce f mode (f.mul mode a b) (ratOf (.fin na ma ea) * ratOf (.fin nb mb eb)) (na != nb) := by
  rw [FFmt.mul, ha, hb, ratOf_eq_num, ratOf_eq_num, ← Dyadic.num_mul]
  exact f.roundDy_roundsOnce mode _ _

theorem FFmt.fma_roundsOnce (hc : f.value c = .fin nc mc ec) :
    RoundsOnce f mode (f.fma mode a b c) (ratOf (.fin na ma ea) * ratOf (.fin nb mb eb) + ratOf (.fin nc mc ec))
      (if (ma = 0 ∨ mb = 0) ∧ mc = 0 ∧ (na != nb) = nc then nc else decide (mode = .rdn)) := by
  have hz : (if (ma = 0 ∨ mb = 0) ∧ mc = 0 ∧ (na != nb) = nc then nc else decide (mode = .rdn)) =
      zeroSign mode (decide (ma = 0 ∨ mb = 0)) (na != nb) (decide (mc = 0)) nc := by
    rw [zeroSign_eq]
    exact ite_congr rfl (fun h => h.2.2.symm) fun _ => rfl
  have hr : f.fma mode a b c = f.roundDy mode (((FVal.fin na ma ea).dyadic.mul (FVal.fin nb mb eb).dyadic).add (FVal.fin nc mc ec).dyadic)
      (zeroSign mode (decide (ma = 0 ∨ mb = 0)) (na != nb) (decide (mc = 0)) nc) := by
    rw [FFmt.fma, ha, hb, hc, Bool.decide_or]
    exact (if_neg (by simp [FVal.isNan, FVal.isInf])).trans ((if_neg (by simp [FVal.isInf])).trans (if_neg (by simp [FVal.isInf])))
  rw [hr, hz, ratOf_eq_num, ratOf_eq_num, ratOf_eq_num, ← Dyadic.num_mul, ← Dyadic.num_add]
  exact f.roundDy_roundsOnce mode _ _
end

/-! ### Dot products (R117, R142, R144) -/

/-- FDOT2 without NaNs and infinities rounds the sum of both products and the addend (R117). -/
theorem dot2_of_finite {f : FFmt} {mode : RMode} {a b c : Word} (h : (dotNan f a b c || dotInfZero f a b) = false) (hs : dotSigns f a b c = []) :
    let zs := [((f.value (lane a 0)).isZero || (f.value (lane b 0)).isZero, (f.value (lane a 0)).neg != (f.value (lane b 0)).neg),
      ((f.value (lane a 1)).isZero || (f.value (lane b 1)).isZero, (f.value (lane a 1)).neg != (f.value (lane b 1)).neg),
      ((f32.value c.toNat).isZero, (f32.value c.toNat).neg)]
    dot2 f mode a b c = f32.roundDy mode ((((f.value (lane a 0)).dyadic.mul (f.value (lane b 0)).dyadic).add
        ((f.value (lane a 1)).dyadic.mul (f.value (lane b 1)).dyadic)).add (f32.value c.toNat).dyadic)
      (if (zs.all fun p => p.1) && zs.all fun p => p.2 then true else if (zs.all fun p => p.1) && zs.all fun p => !p.2 then false
        else decide (mode = .rdn)) := by
  have hn : ¬((dotSigns f a b c).contains true && (dotSigns f a b c).contains false) = true := by rw [hs]; decide
  unfold dot2
  refine (if_neg (Bool.not_eq_true _ ▸ h)).trans ((if_neg hn).trans ?_)
  change (match dotSigns f a b c with | n :: _ => _ | [] => _) = _
  rw [hs]

/-- FDOT2 of numbers (R117). -/
theorem dot2_roundsOnce (f : FFmt) (mode : RMode) {a b c : Word} (ha0 : isNumber (f.value (lane a 0))) (ha1 : isNumber (f.value (lane a 1)))
    (hb0 : isNumber (f.value (lane b 0))) (hb1 : isNumber (f.value (lane b 1))) (hc : isNumber (f32.value c.toNat)) :
    let a0 := f.value (lane a 0)
    let a1 := f.value (lane a 1)
    let b0 := f.value (lane b 0)
    let b1 := f.value (lane b 1)
    let z := f32.value c.toNat
    let zero := (a0.isZero || b0.isZero) && (a1.isZero || b1.isZero) && z.isZero
    let signs := [a0.neg != b0.neg, a1.neg != b1.neg, z.neg]
    RoundsOnce f32 mode (dot2 f mode a b c) (ratOf a0 * ratOf b0 + ratOf a1 * ratOf b1 + ratOf z)
      (if zero ∧ signs = [true, true, true] then true else if zero ∧ signs = [false, false, false] then false else decide (mode = .rdn)) := by
  intro a0 a1 b0 b1 z zero signs
  have hr : dot2 f mode a b c = f32.roundDy mode (((a0.dyadic.mul b0.dyadic).add (a1.dyadic.mul b1.dyadic)).add z.dyadic)
      (if zero ∧ signs = [true, true, true] then true else if zero ∧ signs = [false, false, false] then false else decide (mode = .rdn)) := by
    rw [dot2_of_finite ?_ ?_]
    · refine congrArg (f32.roundDy mode _) (if_congr ?_ rfl (if_congr ?_ rfl rfl)) <;> simp [zero, signs, a0, a1, b0, b1, z, and_assoc]
    · simp [dotNan, dotInfZero, ha0.1, ha1.1, hb0.1, hb1.1, hc.1, ha0.2, ha1.2, hb0.2, hb1.2, -lane_zero, -lane_one]
    · simp [dotSigns, infiniteSigns, ha0.2, ha1.2, hb0.2, hb1.2, hc.2, -lane_zero, -lane_one]
  rw [hr]
  simp only [ratOf_eq_num, ← Dyadic.num_mul, ← Dyadic.num_add]
  exact f32.roundDy_roundsOnce mode _ _

theorem dotSum_succ (va vb : Nat → Dyadic) (n : Nat) : dotSum va vb (n + 1) = (dotSum va vb n).add ((va n).mul (vb n)) := by
  rw [dotSum, List.range_succ, List.foldl_append]
  rfl

/-- The exact sum of exact products is the sum of the products of the numbers (R144). -/
theorem num_dotSum (va vb : Nat → FVal) (n : Nat) :
    (dotSum (fun i => (va i).dyadic) (fun i => (vb i).dyadic) n).num = ((List.range n).map fun i => ratOf (va i) * ratOf (vb i)).sum := by
  induction n with
  | zero => simp [dotSum, Dyadic.num]
  | succ n ih =>
    rw [dotSum_succ, Dyadic.num_add, Dyadic.num_mul, ih, List.range_succ, List.map_append, List.sum_append]
    simp only [List.map_cons, List.map_nil, List.sum_cons, List.sum_nil, add_zero, ratOf_eq_num]

theorem dyadic_val (d : Dyadic) : d.val.dyadic = d := by
  obtain ⟨m, e⟩ := d
  simp only [Dyadic.val, FVal.dyadic, signedMag, Dyadic.mk.injEq, and_true, decide_eq_true_eq]
  split_ifs <;> omega

theorem FFmt.addV_val (f : FFmt) (mode : RMode) (n : Bool) (m : Nat) (e : Int) (d : Dyadic) : f.addV mode (.fin n m e) d.val =
    f.roundDy mode ((FVal.fin n m e).dyadic.add d) (zeroSign mode (decide (m = 0)) n d.val.isZero d.val.neg) :=
  congrArg (fun x => f.roundDy mode ((FVal.fin n m e).dyadic.add x) _) (dyadic_val d)

/-- The dot product of numbers and a number as addend is rounded once (R144). -/
theorem dotAdd_number {c : Nat} (hc : isNumber (f32.value c)) (s : Dyadic) :
    ∃ zneg, dotAdd c s false = f32.roundDy .rne ((f32.value c).dyadic.add s) zneg := by
  obtain ⟨n, m, e, h⟩ := isNumber_iff_fin.1 hc
  refine ⟨zeroSign .rne (decide (m = 0)) n s.val.isZero s.val.neg, ?_⟩
  rw [dotAdd, h, ← f32.addV_val]
  exact if_neg (by simp [FVal.isNan])

theorem FFmt.fbits_lt_bias {f : FFmt} (h : f ∈ [f64, f32, f16, b16]) : f.fbits + 1 ≤ f.bias := by
  simp only [List.mem_cons, List.not_mem_nil, or_false] at h
  rcases h with rfl | rfl | rfl | rfl <;> decide

theorem FFmt.isZero_signed (f : FFmt) (hf : f.Proper) (neg : Bool) : (f.value (f.signed neg 0)).isZero = true := by
  rw [f.value_signed (Nat.zero_lt_of_lt (f.one_lt_infCode hf))]
  simp [FVal.isZero, sigOf]

theorem any_isNan_eq_false {n : Nat} {va vb : Nat → FVal} (h : ∀ i, i < n → isNumber (va i) ∧ isNumber (vb i)) :
    ((List.range n).any fun i => (va i).isNan || (vb i).isNan) = false := by
  simp only [List.any_eq_false, List.mem_range, Bool.not_eq_true, Bool.or_eq_false_iff]
  exact fun i hi => ⟨(h i hi).1.1, (h i hi).2.1⟩

/-! ### Reciprocals (R108) -/

/-- A reciprocal without overflow is rounded once (R108). -/
theorem FFmt.rcp_spec {f : FFmt} (hf : f.Proper) {mode : RMode} {neg : Bool} {m b : Nat} {e : Int} (hb : f.value b = .fin neg m e) (hm : m ≠ 0)
    (hov : (f.rcp mode b).2.ov = false) : Rounded f mode neg (f.rcp mode b) (1 / ratOf (.fin neg m e)) := by
  have hone : ratOf (.fin false 1 0) = 1 := by rw [ratOf_fin_false, zpow_zero, mul_one, Nat.cast_one]
  rw [FFmt.rcp, hb] at hov ⊢
  have h := f.divV_spec hf one_ne_zero hm hov
  rwa [hone, Bool.false_bne] at h

/-- What a mode asks of a code's number `y` for the reciprocal of the root of `R`, compared with another number `z` that is not negative (R82, R108). -/
def RecipRootCloser (mode : RMode) (R y z : Rat) : Prop :=
  match mode with
  | .rdn | .rtz => y * y * R ≤ 1 ∧ (z * z * R ≤ 1 → z ≤ y)
  | .rup => 1 ≤ y * y * R ∧ (1 ≤ z * z * R → y ≤ z)
  | .rne => (y < z → 4 ≤ (y + z) * (y + z) * R) ∧ (z < y → (y + z) * (y + z) * R ≤ 4)

/-- The reciprocal of a root is the root of the reciprocal. -/
theorem rootCloser_one_div {mode : RMode} {R y z : Rat} (hR : 0 < R) : RootCloser mode (1 / R) y z ↔ RecipRootCloser mode R y z := by
  have hle (a b : Rat) : a ≤ b * (1 / R) ↔ a * R ≤ b := by rw [mul_one_div, le_div_iff₀ hR]
  have hge (a b : Rat) : b * (1 / R) ≤ a ↔ b ≤ a * R := by rw [mul_one_div, div_le_iff₀ hR]
  cases mode <;> simp only [RootCloser, RecipRootCloser, hle, hge, le_div_iff₀ hR, div_le_iff₀ hR]

/-- Settles O8: sums and products round an exact dyadic; a quotient and a root are told by their first bits and a sticky bit. -/
theorem sumsAndProductsRoundOnce : Obligations.SumsAndProductsRoundOnce := by
  unfold Obligations.SumsAndProductsRoundOnce
  refine ⟨fun f hf mode a b c na nb nc ma mb mc ea eb ec ha hb hc => ?_, fun f mode a b c _ => ?dot2, fun c n va vb hv hc => ?dot⟩
  · have hp := f.proper_of_mem hf
    intro ra rb once down
    refine ⟨f.add_roundsOnce mode ha hb, f.sub_roundsOnce mode ha hb, f.mul_roundsOnce mode ha hb, f.fma_roundsOnce mode ha hb hc, fun h0 h => ?divZero,
      fun r hr h0 h hov => ?div, fun r hr h hov => ?rcp, fun r hr h0 hn => ?sqrt, fun r hr h0 hn => ?rsq⟩
    case divZero =>
      subst h0
      rw [FFmt.div, ha, hb, f.divV_zero_left mode h]
    case div =>
      rw [FFmt.div, ha, hb] at hr
      subst hr
      exact f.divV_spec hp h0 h hov
    case rcp =>
      subst hr
      exact f.rcp_spec hp hb h hov
    case sqrt =>
      subst hr hn
      obtain ⟨h1, h2, h3, h4⟩ := f.sqrt_spec (mode := mode) hp ha h0
      refine ⟨h1, h2, h3, fun k hk hz => ?_⟩
      have := h4 k hk hz
      cases mode <;> exact this
    case rsq =>
      subst hr hn
      have hR : 0 < ratOf (.fin false ma ea) := (ratOf_fin_pos h0).2 rfl
      obtain ⟨h1, h2, h3, h4⟩ := f.rsq_spec (mode := mode) hp (FFmt.fbits_lt_bias hf) ha h0
      rw [ne_eq, eq_div_iff hR.ne'] at h3
      refine ⟨h1, h2, h3, fun k hk hz => ?_⟩
      have := (rootCloser_one_div hR).1 (h4 k hk hz)
      cases mode <;> exact this
  case dot2 =>
    intro lo hi z ha0 ha1 hb0 hb1 hz zero signs
    have hlo (v : Word) : lo v = f.value (lane v 0) := by rw [lane_zero]
    have hhi (v : Word) : hi v = f.value (lane v 1) := by rw [lane_one]
    simp only [zero, signs, hlo, hhi] at *
    exact dot2_roundsOnce f mode ha0 ha1 hb0 hb1 hz
  case dot =>
    obtain ⟨zneg, h⟩ := dotAdd_number hc (dotSum (fun i => (va i).dyadic) (fun i => (vb i).dyadic) n)
    refine ⟨(f32.value c).dyadic.add (dotSum (fun i => (va i).dyadic) (fun i => (vb i).dyadic) n), ?_, fun hd => ?_, fun hd => ?_⟩
    · rw [← num_dotSum, ratOf_eq_num, ← Dyadic.num_add]
      rfl
    · rw [any_isNan_eq_false hv, h, FFmt.roundDy_eq, if_pos hd]
    · rw [any_isNan_eq_false hv, h, FFmt.roundDy_eq, if_neg (not_not.2 hd)]
      exact ⟨f32.isZero_signed ⟨by decide, by decide⟩ zneg, rfl⟩

end Sys2Proof.Machine
end

/-! The interval instructions: O11 and O12 (R124, R125, R127 to R137, R380) -/
section
namespace Sys2Proof.Machine

/-! ### Interval operands and results (R124, R125) -/

/-- Two codes are an interval as R125 says. -/
theorem ivPair_eq (f : FFmt) (lo hi : Nat) : ivPair f lo hi = f.iv lo hi := by
  unfold ivPair FFmt.iv ivOf FVal.leq
  generalize f.value lo = a
  generalize f.value hi = b
  cases a with
  | nan => cases b <;> simp [FVal.isNan]
  | inf n => cases n <;> cases b with
    | nan | fin => simp [FVal.isNan, FVal.cmp]
    | inf k => cases k <;> simp [FVal.isNan, FVal.cmp]
  | fin => cases b with
    | nan | fin => simp [FVal.isNan]
    | inf k => cases k <;> simp [FVal.isNan, FVal.cmp]

theorem ivIn_eq (w : Bool) (t : Thread) (r : Reg) : ivIn w t r = rdIv w t r := by
  unfold ivIn rdIv
  simp only [ivPair_eq]

theorem loWord_ofNat (n : Nat) : loWord (BitVec.ofNat 64 n) = BitVec.ofNat 32 n := BitVec.setWidth_ofNat_of_le (by decide) n

theorem ivWrites_eq (w : Bool) (d : Reg) (lo hi : Nat) : ivWrites w d lo hi = wIv w d (lo, hi) := by
  cases w with
  | false => simp [ivWrites, wIv, wN, w1, loWord_ofNat]
  | true => rfl

/-! ### The rule of empty intervals (R128) -/

section
variable {ex : Bool} {e : Env} {hit : Bool} (s : State) (k : State → Res)

theorem withEmpty_of_allowed (h : hit = true → ex = true ∨ e.t.mode.getLsbD 4 = true) :
    withEmpty hit ex e s k = k (if hit then State.sawEmpty s e else s) := by
  cases hit with
  | false => rfl
  | true =>
    have hs : (!ex && !e.t.lenient) = false := by
      rcases h rfl with h | h
      · rw [h]; rfl
      · rw [Thread.lenient, h, Bool.not_true, Bool.and_false]
    unfold withEmpty emptyRule
    dsimp only
    rw [if_pos rfl, hs]
    rfl

theorem withEmpty_of_strict (hh : hit = true) (h : e.t.mode.getLsbD 4 = false) :
    withEmpty hit false e s k = .trap .emptyInterval 0 0 (State.sawEmpty s e) := by
  unfold withEmpty emptyRule
  dsimp only
  rw [hh, if_pos rfl, Thread.lenient, h]
  rfl
end

/-! ### What an interval instruction comes to (R125, R128) -/

/-- The instruction, once about to have its effect, comes to what a body finds. -/
def TakesPlaceAs (i : Instr) (body : Env → State → Res) : Prop := ∀ s e, Runs i s e → exec i s = .next (e.tookPlace i (body e (s.counted e i)))

theorem takesPlaceAs_of_runInstr {i : Instr} {x : Ops} (body : Ops → Env → State → Res) (hx : i.ops = some x)
    (hi : ∀ s, exec i s = runInstr i body s) : TakesPlaceAs i (body x) := by
  intro s e h
  have hready := h.2
  unfold Env.ready at hready
  split at hready
  · next hr _ => exact exec_of_runs body hr hx (hi s) h
  · cases hready

/-- The fault of an interval instruction, with the information that R380 gives it, taken after a state. -/
def ivFault (s : State) (e : Env) (c : Cause) : Host.Outcome State Fault Refusal :=
  .next (s.takeTrap e.ref { cause := c, deferred := false, epc := e.t.pc, eaddr := 0, einfo := 0, einst := e.words })

section
variable {i : Instr} {s : State} {e : Env} {hit ex : Bool} {ws : List (Reg × Word)}

theorem ivDone_of_withEmpty (ha : hit = true → ex = true ∨ e.t.mode.getLsbD 4 = true) :
    .next (e.tookPlace i (withEmpty hit ex e (s.counted e i) fun s => .done s ws [] none)) = ivDone i s e hit ws := by
  rw [withEmpty_of_allowed _ _ ha]
  rfl

theorem ivFault_of_withEmpty (hh : hit = true) (hd : e.t.dividing = false) (hs : e.t.mode.getLsbD 4 = false) (k : State → Res) :
    .next (e.tookPlace i (withEmpty hit false e s k)) = ivFault (State.sawEmpty s e) e .emptyInterval := by
  rw [withEmpty_of_strict _ _ hh hs]
  exact congrArg _ (preciseTrap_taken hd _ _ _ _)

theorem ivFault_of_malformed (hd : e.t.dividing = false) : .next (e.tookPlace i (malformed s)) = ivFault s e .malformedInterval :=
  congrArg _ (preciseTrap_taken hd _ _ _ _)
end

section
variable {i : Instr} {x : Ops} {ex w : Bool} {f : FFmt → Iv → List (Reg × Word) × Bool} {g : FFmt → Iv → Iv → List (Reg × Word) × Bool}
  {s : State} {e : Env} {a b : Iv}

theorem ivBody1_some (ha : ivIn w e.t x.a = some a) : ivBody1 ex w f x e s =
    withEmpty (decide (a = .empty) || (f (fmtW w) a).2) ex e s fun s => .done s (f (fmtW w) a).1 [] none := by
  rw [ivBody1, ← ivIn_eq, ha]

theorem ivBody1_none (ha : ivIn w e.t x.a = none) : ivBody1 ex w f x e s = malformed s := by rw [ivBody1, ← ivIn_eq, ha]

theorem ivBody2_some (ha : ivIn w e.t x.a = some a) (hb : ivIn w e.t x.b = some b) : ivBody2 ex w g x e s =
    withEmpty (decide (a = .empty) || decide (b = .empty) || (g (fmtW w) a b).2) ex e s fun s => .done s (g (fmtW w) a b).1 [] none := by
  rw [ivBody2, ← ivIn_eq, ← ivIn_eq, ha, hb]

theorem ivBody2_none (h : ivIn w e.t x.a = none ∨ ivIn w e.t x.b = none) : ivBody2 ex w g x e s = malformed s := by
  unfold ivBody2
  rw [← ivIn_eq, ← ivIn_eq]
  rcases h with h | h
  · rw [h]
  · rw [h]
    cases ivIn w e.t x.a <;> rfl

end

/-- The instruction is one over one interval: what it computes, and whether that is empty (R125, R128). -/
structure OverOne (i : Instr) (x : Ops) (ex w : Bool) (f : Ops → FFmt → Iv → List (Reg × Word) × Bool) : Prop where
  ops : i.ops = some x
  runs : ∀ s, exec i s = runInstr i (fun x => ivBody1 ex w (f x) x) s

/-- The instruction is one over two intervals. -/
structure OverTwo (i : Instr) (x : Ops) (ex w : Bool) (g : Ops → FFmt → Iv → Iv → List (Reg × Word) × Bool) : Prop where
  ops : i.ops = some x
  runs : ∀ s, exec i s = runInstr i (fun x => ivBody2 ex w (g x) x) s

section
variable {i : Instr} {x : Ops} {ex w : Bool} {f : Ops → FFmt → Iv → List (Reg × Word) × Bool} {g : Ops → FFmt → Iv → Iv → List (Reg × Word) × Bool}
  {s : State} {e : Env} {a b : Iv}

theorem OverOne.takesPlace (hi : OverOne i x ex w f) : TakesPlaceAs i (ivBody1 ex w (f x) x) :=
  takesPlaceAs_of_runInstr (fun x => ivBody1 ex w (f x) x) hi.ops hi.runs

theorem OverTwo.takesPlace (hi : OverTwo i x ex w g) : TakesPlaceAs i (ivBody2 ex w (g x) x) :=
  takesPlaceAs_of_runInstr (fun x => ivBody2 ex w (g x) x) hi.ops hi.runs

/-- An instruction over one interval completes with what it computes (R127, R128). -/
theorem OverOne.done (hi : OverOne i x ex w f) (ha : ivIn w e.t x.a = some a) (h : Runs i s e)
    (hal : (decide (a = .empty) || (f x (fmtW w) a).2) = true → ex = true ∨ e.t.mode.getLsbD 4 = true) :
    exec i s = ivDone i s e (decide (a = .empty) || (f x (fmtW w) a).2) (f x (fmtW w) a).1 := by
  rw [hi.takesPlace s e h, ivBody1_some ha, ivDone_of_withEmpty hal]

/-- An instruction over two intervals completes with what it computes (R127, R128). -/
theorem OverTwo.done (hi : OverTwo i x ex w g) (ha : ivIn w e.t x.a = some a) (hb : ivIn w e.t x.b = some b) (h : Runs i s e)
    (hal : (decide (a = .empty) || decide (b = .empty) || (g x (fmtW w) a b).2) = true → ex = true ∨ e.t.mode.getLsbD 4 = true) :
    exec i s = ivDone i s e (decide (a = .empty) || decide (b = .empty) || (g x (fmtW w) a b).2) (g x (fmtW w) a b).1 := by
  rw [hi.takesPlace s e h, ivBody2_some ha hb, ivDone_of_withEmpty hal]

theorem OverOne.malformed (hi : OverOne i x ex w f) (ha : ivIn w e.t x.a = none) (h : Runs i s e) (hd : e.t.dividing = false) :
    exec i s = ivFault (s.counted e i) e .malformedInterval := by rw [hi.takesPlace s e h, ivBody1_none ha, ivFault_of_malformed hd]

theorem OverTwo.malformed (hi : OverTwo i x ex w g) (hab : ivIn w e.t x.a = none ∨ ivIn w e.t x.b = none) (h : Runs i s e)
    (hd : e.t.dividing = false) : exec i s = ivFault (s.counted e i) e .malformedInterval := by
  rw [hi.takesPlace s e h, ivBody2_none hab, ivFault_of_malformed hd]

theorem OverOne.empty (hi : OverOne i x false w f) (ha : ivIn w e.t x.a = some a) (hit : a = .empty ∨ (f x (fmtW w) a).2 = true) (h : Runs i s e)
    (hd : e.t.dividing = false) (hs : e.t.mode.getLsbD 4 = false) : exec i s = ivFault (State.sawEmpty (s.counted e i) e) e .emptyInterval := by
  rw [hi.takesPlace s e h, ivBody1_some ha, ivFault_of_withEmpty (by simpa using hit) hd hs]

theorem OverTwo.empty (hi : OverTwo i x false w g) (ha : ivIn w e.t x.a = some a) (hb : ivIn w e.t x.b = some b)
    (hit : (a = .empty ∨ b = .empty) ∨ (g x (fmtW w) a b).2 = true) (h : Runs i s e)
    (hd : e.t.dividing = false) (hs : e.t.mode.getLsbD 4 = false) : exec i s = ivFault (State.sawEmpty (s.counted e i) e) e .emptyInterval := by
  rw [hi.takesPlace s e h, ivBody2_some ha hb, ivFault_of_withEmpty (by simpa using hit) hd hs]
end

/-! ### IVMK (R129) -/

/-- The immediate of IVMK as a code of its width. -/
def immCode (w : Bool) (x : Ops) : Nat := if w then widenImm (imm32 x).toNat else (imm32 x).toNat

/-- The point's code of IVMK `.pt`. -/
def pointCode (w : Bool) (x : Ops) (t : Thread) : Nat := if x.len = .s then (rdN w t x.a).toNat else immCode w x

/-- The interval that IVMK forms, from its operands; `none` where they form none. -/
def ivmkForms (k : IvmkKind) (w : Bool) (x : Ops) (t : Thread) : Option Iv :=
  let f := fmtW w
  let p : FVal := f.value (pointCode w x t)
  match k with
  | .bounds => ivPair f (rdN w t x.a).toNat (if x.len = .s then (rdN w t x.b).toNat else immCode w x)
  | .pt => if p.isNan || p.isInf then none else some (.mk p p)
  | .cvt => ivIn (!w) t x.a

section
variable {k : IvmkKind} {x : Ops} {ex w : Bool} {s : State} {e : Env} {v : Iv}

theorem ivmkBody_eq (k : IvmkKind) (ex w : Bool) (x : Ops) (e : Env) (s : State) : ivmkBody k ex w x e s = match ivmkForms k w x e.t with
    | none => malformed s
    | some v => withEmpty (decide (v = .empty)) ex e s fun s => .done s (wIv w x.d ((fmtW w).ivCodes v)) [] none := by
  unfold ivmkBody ivmkForms
  cases k with
  | bounds => simp only [ivPair_eq]; rfl
  | pt =>
    have hp : (if x.len = .s then (fmtW w).value (rdN w e.t x.a).toNat else (fmtW w).value (if x.len = .s then (rdN w e.t x.b).toNat
        else immCode w x)) = (fmtW w).value (pointCode w x e.t) := by
      unfold pointCode
      split_ifs <;> rfl
    simp only [immCode] at hp
    simp only [hp]
    split_ifs <;> rfl
  | cvt => simp only [ivIn_eq]; rfl

theorem ivmkForms_pt {t : Thread} (hn : ((fmtW w).value (pointCode w x t)).isNan = false) (hi : ((fmtW w).value (pointCode w x t)).isInf = false) :
    ivmkForms .pt w x t = some (.mk ((fmtW w).value (pointCode w x t)) ((fmtW w).value (pointCode w x t))) := if_neg (by simp [hn, hi])

theorem ivmkForms_pt_none {t : Thread} (h : ((fmtW w).value (pointCode w x t)).isNan = true ∨ ((fmtW w).value (pointCode w x t)).isInf = true) :
    ivmkForms .pt w x t = none := if_pos (by simpa using h)

theorem ivmk_takesPlace : TakesPlaceAs (.ivmk x k ex w) (ivmkBody k ex w x) := takesPlaceAs_of_runInstr _ rfl fun _ => rfl

theorem ivmk_done (hv : ivmkForms k w x e.t = some v) (h : Runs (.ivmk x k ex w) s e)
    (hal : decide (v = .empty) = true → ex = true ∨ e.t.mode.getLsbD 4 = true) :
    exec (.ivmk x k ex w) s = ivDone (.ivmk x k ex w) s e (decide (v = .empty)) (wIv w x.d ((fmtW w).ivCodes v)) := by
  rw [ivmk_takesPlace s e h, ivmkBody_eq, hv, ← ivDone_of_withEmpty hal]

theorem ivmk_malformed (hd : e.t.dividing = false) (hv : ivmkForms k w x e.t = none) (h : Runs (.ivmk x k ex w) s e) :
    exec (.ivmk x k ex w) s = ivFault (s.counted e (.ivmk x k ex w)) e .malformedInterval := by
  rw [ivmk_takesPlace s e h, ivmkBody_eq, hv, ivFault_of_malformed hd]

theorem ivmk_empty (hd : e.t.dividing = false) (hs : e.t.mode.getLsbD 4 = false) (hv : ivmkForms k w x e.t = some .empty)
    (h : Runs (.ivmk x k false w) s e) :
    exec (.ivmk x k false w) s = ivFault (State.sawEmpty (s.counted e (.ivmk x k false w)) e) e .emptyInterval := by
  rw [ivmk_takesPlace s e h, ivmkBody_eq, hv]
  exact ivFault_of_withEmpty rfl hd hs _
end

/-! ### The instructions over one or two intervals (R130 to R136) -/

/-- The midpoint code of an interval, the empty one included (R133). -/
def FFmt.ivMidOf (f : FFmt) (a : Iv) : Nat :=
  match a with
  | .empty => f.nanCode
  | .mk lo hi => f.ivMid lo hi

section
variable (x : Ops) (ex w : Bool)

theorem ivadd_overTwo : OverTwo (.ivadd x ex w) x ex w fun x f a b => ivOut w x.d f (a.add b) := ⟨rfl, fun _ => rfl⟩
theorem ivsub_overTwo : OverTwo (.ivsub x ex w) x ex w fun x f a b => ivOut w x.d f (a.add b.negate) := ⟨rfl, fun _ => rfl⟩
theorem ivmul_overTwo : OverTwo (.ivmul x ex w) x ex w fun x f a b => ivOut w x.d f (a.mul b) := ⟨rfl, fun _ => rfl⟩
theorem ivdiv_overTwo : OverTwo (.ivdiv x ex w) x ex w fun x f a b => ivOut? w x.d f (f.ivDiv a b) := ⟨rfl, fun _ => rfl⟩
theorem ivmeet_overTwo : OverTwo (.ivmeet x ex w) x ex w fun x f a b => ivOut w x.d f (a.meet b) := ⟨rfl, fun _ => rfl⟩
theorem ivjoin_overTwo : OverTwo (.ivjoin x ex w) x ex w fun x f a b => ivOut w x.d f (a.hull b) := ⟨rfl, fun _ => rfl⟩
theorem ivcmp_overTwo (r : IvRel) : OverTwo (.ivcmp x r ex w) x ex w fun x _ a b => (w1 x.d (ivCmp r a b), false) := ⟨rfl, fun _ => rfl⟩
theorem ivsqr_overOne : OverOne (.ivsqr x ex w) x ex w fun x f a => ivOut w x.d f a.sqr := ⟨rfl, fun _ => rfl⟩
theorem ivneg_overOne : OverOne (.ivneg x ex w) x ex w fun x f a => ivOut w x.d f a.negate := ⟨rfl, fun _ => rfl⟩
theorem ivabs_overOne : OverOne (.ivabs x ex w) x ex w fun x f a => ivOut w x.d f a.abs := ⟨rfl, fun _ => rfl⟩
theorem ivsqrt_overOne : OverOne (.ivsqrt x ex w) x ex w fun x f a => ivOut? w x.d f (f.ivSqrt a) := ⟨rfl, fun _ => rfl⟩
theorem ivwid_overOne : OverOne (.ivwid x ex w) x ex w fun x f a => (wN w x.d (BitVec.ofNat 64 (f.ivWid a)), false) := ⟨rfl, fun _ => rfl⟩
theorem ivmid_overOne : OverOne (.ivmid x ex w) x ex w fun x f a => (wN w x.d (BitVec.ofNat 64 (f.ivMidOf a)), false) := ⟨rfl, fun _ => rfl⟩

/-- IVTEST, which knows no rule of empty intervals (R128, R137). -/
def ivtestBody (q : IvTest) (w : Bool) (x : Ops) (e : Env) (s : State) : Res :=
  match rdIv w e.t x.a with
  | none => malformed s
  | some a => .done s (w1 x.d (pOf (ivTest q a ((fmtW w).value (rdN w e.t x.b).toNat)))) [] none

theorem ivtest_takesPlace (q : IvTest) : TakesPlaceAs (.ivtest x q w) (ivtestBody q w x) := takesPlaceAs_of_runInstr _ rfl fun _ => rfl

theorem ivtestBody_some {q : IvTest} {e : Env} {s : State} {a : Iv} (ha : ivIn w e.t x.a = some a) : ivtestBody q w x e s =
    .done s (w1 x.d (pOf (ivTest q a ((fmtW w).value (rdN w e.t x.b).toNat)))) [] none := by rw [ivtestBody, ← ivIn_eq, ha]

theorem ivtestBody_none {q : IvTest} {e : Env} {s : State} (ha : ivIn w e.t x.a = none) : ivtestBody q w x e s = malformed s := by
  rw [ivtestBody, ← ivIn_eq, ha]
end

theorem FFmt.ivDiv_isNone (f : FFmt) (a b : Iv) : (f.ivDiv a b).isNone = (decide (a = .empty) || decide (b = .empty)) := by
  cases a <;> cases b <;> rfl

/-- Settles O11: each instruction comes to its body, and the body to its result after the rule of empty intervals. -/
theorem intervalInstructionsComplete : Obligations.IntervalInstructionsComplete := by
  unfold Obligations.IntervalInstructionsComplete
  refine ⟨fun x ex w s e a b => ?_, fun x ex w s e v => ?_⟩
  · intro f out allowed two one number coded ha
    simp only [two, one, number, out, allowed, coded, ivWrites_eq]
    have hmid := (ivmid_overOne x ex w).done (s := s) ha
    have hwid := (ivwid_overOne x ex w).done (s := s) ha
    simp only [Bool.or_false] at hmid hwid
    refine ⟨fun hb => ⟨(ivadd_overTwo x ex w).done ha hb, (ivsub_overTwo x ex w).done ha hb, (ivmul_overTwo x ex w).done ha hb,
      (ivmeet_overTwo x ex w).done ha hb, (ivjoin_overTwo x ex w).done ha hb, ?div, fun r => ?cmp⟩,
      (ivsqr_overOne x ex w).done ha, (ivneg_overOne x ex w).done ha, (ivabs_overOne x ex w).done ha,
      (ivsqrt_overOne x ex w).done ha, ?mid, ?midEmpty, hwid, fun q h => ?test⟩
    case div =>
      have h := (ivdiv_overTwo x ex w).done (s := s) ha hb
      simp only [ivOut?, FFmt.ivDiv_isNone, Bool.or_self] at h
      exact h
    case cmp =>
      have h := (ivcmp_overTwo x ex w r).done (s := s) ha hb
      simp only [Bool.or_false] at h
      exact h
    case mid =>
      rintro lo hi rfl
      exact hmid
    case midEmpty =>
      rintro rfl
      exact hmid
    case test =>
      rw [ivtest_takesPlace x w q s e h, ivtestBody_some x w ha]
      rfl
  · intro f imm b p goes
    simp only [goes, ivWrites_eq]
    refine ⟨fun hv => ivmk_done hv, fun hn hi => ivmk_done (ivmkForms_pt hn hi), fun hv => ivmk_done hv⟩

/-! ### IVSPLIT until it divides (R138) -/

section
variable {x : Ops} {ex w : Bool} {e : Env} {s : State}

theorem ivsplit_takesPlace (x : Ops) (ex w : Bool) : TakesPlaceAs (.ivsplit x ex w) (ivsplitBody (.ivsplit x ex w) ex w x) :=
  takesPlaceAs_of_runInstr _ rfl fun _ => rfl

theorem ivsplitBody_waits {i : Instr} (h : (regRange 0 (16 * e.st.gran)).all e.t.full = false) : ivsplitBody i ex w x e s = .wait .allRegs s := by
  rw [ivsplitBody, h]
  rfl

variable {i : Instr} (h : (regRange 0 (16 * e.st.gran)).all e.t.full = true)
include h

theorem ivsplitBody_malformed (ha : ivIn w e.t x.a = none) : ivsplitBody i ex w x e s = malformed s := by
  rw [ivsplitBody, h, ← ivIn_eq, ha]
  rfl

theorem ivsplitBody_empty (ha : ivIn w e.t x.a = some .empty) : ivsplitBody i ex w x e s =
    withEmpty true ex e s fun s => .done s (wIv w x.d ((fmtW w).ivCodes .empty) ++ w1 x.c 2) [] none := by
  rw [ivsplitBody, h, ← ivIn_eq, ha]
  rfl

/-- An interval that its midpoint does not divide is kept (R138). -/
theorem ivsplitBody_kept {lo hi : FVal} (ha : ivIn w e.t x.a = some (.mk lo hi))
    (hs : (lo.ltn ((fmtW w).value ((fmtW w).ivMid lo hi)) && ((fmtW w).value ((fmtW w).ivMid lo hi)).ltn hi) = false) :
    ivsplitBody i ex w x e s = .done s (wIv w x.d ((fmtW w).ivCodes (.mk lo hi)) ++ w1 x.c 2) [] none := by
  rw [ivsplitBody, h, ← ivIn_eq, ha]
  exact if_pos (congrArg not hs)
end

/-! ### Faults -/

/-- Settles O12: malformed operands end every body before its result, and the rule of empty intervals ends it under the strict policy. -/
theorem intervalFaults : Obligations.IntervalFaults := by
  unfold Obligations.IntervalFaults
  refine ⟨fun x ex w s e => ?_, fun x w s e => ?_⟩
  · intro trap
    have one {i : Instr} {f} (hi : OverOne i x ex w f) (ha : ivIn w e.t x.a = none) : trap i := hi.malformed ha
    have two {i : Instr} {g} (hi : OverTwo i x ex w g) (h : ivIn w e.t x.a = none ∨ ivIn w e.t x.b = none) : trap i := hi.malformed h
    refine ⟨fun ha => ⟨two (ivadd_overTwo x ex w) (.inl ha), two (ivsub_overTwo x ex w) (.inl ha), two (ivmul_overTwo x ex w) (.inl ha),
        two (ivdiv_overTwo x ex w) (.inl ha), one (ivsqr_overOne x ex w) ha, one (ivsqrt_overOne x ex w) ha, one (ivneg_overOne x ex w) ha,
        one (ivabs_overOne x ex w) ha, two (ivmeet_overTwo x ex w) (.inl ha), two (ivjoin_overTwo x ex w) (.inl ha), one (ivmid_overOne x ex w) ha,
        one (ivwid_overOne x ex w) ha, fun r => two (ivcmp_overTwo x ex w r) (.inl ha), fun q h hd => ?test⟩,
      fun hb => ⟨two (ivadd_overTwo x ex w) (.inr hb), two (ivsub_overTwo x ex w) (.inr hb), two (ivmul_overTwo x ex w) (.inr hb),
        two (ivdiv_overTwo x ex w) (.inr hb), two (ivmeet_overTwo x ex w) (.inr hb), two (ivjoin_overTwo x ex w) (.inr hb),
        fun r => two (ivcmp_overTwo x ex w r) (.inr hb)⟩,
      fun ha hfull h hd => ?split, fun hv h hd => ivmk_malformed hd hv h, fun hp h hd => ivmk_malformed hd (ivmkForms_pt_none hp) h,
      fun hv h hd => ivmk_malformed hd hv h⟩
    case test => rw [ivtest_takesPlace x w q s e h, ivtestBody_none x w ha]; exact ivFault_of_malformed hd
    case split => rw [ivsplit_takesPlace x ex w s e h, ivsplitBody_malformed hfull ha]; exact ivFault_of_malformed hd
  · intro trap f
    have one {i : Instr} {f} {a : Iv} (hi : OverOne i x false w f) (ha : ivIn w e.t x.a = some a) (hit : a = .empty ∨ (f x (fmtW w) a).2 = true) :
        trap i := hi.empty ha hit
    have two {i : Instr} {g} {a b : Iv} (hi : OverTwo i x false w g) (ha : ivIn w e.t x.a = some a) (hb : ivIn w e.t x.b = some b)
        (hit : (a = .empty ∨ b = .empty) ∨ (g x (fmtW w) a b).2 = true) : trap i := hi.empty ha hb hit
    refine ⟨fun ha => ⟨one (ivsqr_overOne x false w) ha (.inl rfl), one (ivsqrt_overOne x false w) ha (.inl rfl), one (ivneg_overOne x false w) ha (.inl rfl),
        one (ivabs_overOne x false w) ha (.inl rfl), one (ivmid_overOne x false w) ha (.inl rfl), one (ivwid_overOne x false w) ha (.inl rfl),
        fun hfull h hd hs => ?split⟩,
      fun a b ha hb => ⟨fun hab => ⟨two (ivadd_overTwo x false w) ha hb (.inl hab), two (ivsub_overTwo x false w) ha hb (.inl hab),
        two (ivmul_overTwo x false w) ha hb (.inl hab), two (ivdiv_overTwo x false w) ha hb (.inl hab), two (ivmeet_overTwo x false w) ha hb (.inl hab),
        two (ivjoin_overTwo x false w) ha hb (.inl hab), fun r => two (ivcmp_overTwo x false w r) ha hb (.inl hab)⟩,
        fun hm => two (ivmeet_overTwo x false w) ha hb (.inr (decide_eq_true hm))⟩,
      fun a ha hn => one (ivsqrt_overOne x false w) ha (.inr (Option.isNone_iff_eq_none.2 hn)), fun hv h hd hs => ivmk_empty hd hs hv h,
      fun hv h hd hs => ivmk_empty hd hs hv h⟩
    case split =>
      rw [ivsplit_takesPlace x false w s e h, ivsplitBody_empty hfull ha]
      exact ivFault_of_withEmpty rfl hd hs _

end Sys2Proof.Machine
end

/-! IVSPLIT: O17 (R138 to R140, R176, R391) -/
section
namespace Sys2Proof.Machine

/-- The interval is divided by its midpoint (R138). -/
def ivSplits (w : Bool) (lo hi : FVal) : Bool := lo.ltn ((fmtW w).value ((fmtW w).ivMid lo hi)) && ((fmtW w).value ((fmtW w).ivMid lo hi)).ltn hi

/-- What the parent of a split writes: the lower half and side 0. -/
def ivLowerHalf (w : Bool) (x : Ops) (lo hi : FVal) : List (Reg × Word) :=
  wIv w x.d ((fmtW w).bound .rdn lo, (fmtW w).ivMid lo hi) ++ w1 x.c 0

/-- What its child writes: the upper half and side 1. -/
def ivUpperHalf (w : Bool) (x : Ops) (lo hi : FVal) : List (Reg × Word) :=
  wIv w x.d ((fmtW w).ivMid lo hi, (fmtW w).bound .rup hi) ++ w1 x.c 1

/-- The granules that the kernel has. -/
def ownGranules (e : Env) : BitVec 16 := BitVec.ofNat 16 (2 ^ e.st.gran - 1)

/-- The child of a split, with registers copied from a thread that the parent's writes have reached. -/
def ivsplitChild (i : Instr) (w : Bool) (x : Ops) (e : Env) (lo hi : FVal) (t : Thread) : Thread :=
  ({ Thread.fresh (advance e.t.pc 8) (childMode e.t) with
    regs := copyGranules (ownGranules e) (finishThread t (marksOf i) (ivLowerHalf w x lo hi) [] 0) } : Thread).wrs (ivUpperHalf w x lo hi)

section
variable {x : Ops} {ex w : Bool} {e : Env} {s : State} {lo hi : FVal} (h : (regRange 0 (16 * e.st.gran)).all e.t.full = true)
  (ha : ivIn w e.t x.a = some (.mk lo hi)) (hs : ivSplits w lo hi = true)
include h ha hs

theorem ivsplitBody_divides : ivsplitBody (.ivsplit x ex w) ex w x e s =
    childOf e (marksOf (.ivsplit x ex w)) (ivLowerHalf w x lo hi) (ownGranules e) (Thread.fresh (advance e.t.pc 8) (childMode e.t)) s fun child =>
      releasing e s fun _ => spawnedRes e s (s.newThread e (child.wrs (ivUpperHalf w x lo hi))) (ivLowerHalf w x lo hi) := by
  have hn : ¬(!ivSplits w lo hi) = true := by rw [hs]; decide
  rw [ivsplitBody, h, ← ivIn_eq, ha]
  exact if_neg hn

theorem ivsplitBody_of_filled {t : Thread} (hf : s.filled e (ownGranules e) = .ok t) : ivsplitBody (.ivsplit x ex w) ex w x e s =
    releasing e s fun _ => spawnedRes e s (s.newThread e (ivsplitChild (.ivsplit x ex w) w x e lo hi t)) (ivLowerHalf w x lo hi) := by
  rw [ivsplitBody_divides h ha hs, childOf, hf]
  rfl

theorem ivsplitBody_of_unfilled {g : State} (hf : s.filled e (ownGranules e) = .error g) : ivsplitBody (.ivsplit x ex w) ex w x e s = .stop g := by
  rw [ivsplitBody_divides h ha hs, childOf, hf]
end

/-- Settles O17: IVSPLIT waits, keeps its interval, or creates the child that holds the upper half, as SPAWN creates its own. -/
theorem ivsplitCompletes : Obligations.IvsplitCompletes := by
  unfold Obligations.IvsplitCompletes
  intro x ex w s e lo hi f i m kept splits own child h
  have hrun := ivsplit_takesPlace x ex w s e h
  simp only [kept, child, ivWrites_eq]
  refine ⟨fun hfull => ?waits, fun hfull => ⟨fun ha hal => ?empty, fun ha hs => ?kept, fun ha hs => ⟨fun t hf => ?made, fun g hf => ?killed⟩⟩⟩
  case waits =>
    rw [hrun, ivsplitBody_waits hfull]
    rfl
  case empty =>
    rw [hrun, ivsplitBody_empty hfull ha]
    exact ivDone_of_withEmpty fun _ => hal
  case kept =>
    rw [hrun, ivsplitBody_kept hfull ha hs]
    rfl
  case made => exact createsChild_of_tookPlace (by rw [hrun, ivsplitBody_of_filled hfull ha hs hf]; rfl)
  case killed =>
    rw [hrun, ivsplitBody_of_unfilled hfull ha hs hf]
    rfl

end Sys2Proof.Machine
end

/-! Values as extended real numbers (R110, R127) -/
section
namespace Sys2Proof.Machine

/-! ### Rational numbers -/

/-- A rational number among the extended real numbers. -/
def ereal (q : Rat) : EReal := ((q : ℝ) : EReal)

section
variable {p q : Rat}

@[simp] theorem ereal_le_ereal : ereal p ≤ ereal q ↔ p ≤ q := EReal.coe_le_coe_iff.trans Rat.cast_le
@[simp] theorem ereal_lt_ereal : ereal p < ereal q ↔ p < q := EReal.coe_lt_coe_iff.trans Rat.cast_lt
@[simp] theorem ereal_inj : ereal p = ereal q ↔ p = q := EReal.coe_eq_coe_iff.trans Rat.cast_inj
@[simp] theorem ereal_zero : ereal 0 = 0 := by simp [ereal]
@[simp] theorem ereal_ne_top : ereal p ≠ ⊤ := EReal.coe_ne_top _
@[simp] theorem ereal_ne_bot : ereal p ≠ ⊥ := EReal.coe_ne_bot _
@[simp] theorem bot_lt_ereal : ⊥ < ereal p := EReal.bot_lt_coe _
@[simp] theorem ereal_lt_top : ereal p < ⊤ := EReal.coe_lt_top _
@[simp] theorem ereal_nonneg : 0 ≤ ereal p ↔ 0 ≤ p := by rw [← ereal_zero, ereal_le_ereal]
@[simp] theorem ereal_nonpos : ereal p ≤ 0 ↔ p ≤ 0 := by rw [← ereal_zero, ereal_le_ereal]
@[simp] theorem ereal_pos : 0 < ereal p ↔ 0 < p := by rw [← ereal_zero, ereal_lt_ereal]
@[simp] theorem ereal_neg_iff : ereal p < 0 ↔ p < 0 := by rw [← ereal_zero, ereal_lt_ereal]

theorem ereal_neg (q : Rat) : ereal (-q) = -ereal q := by simp [ereal]
theorem ereal_add (p q : Rat) : ereal (p + q) = ereal p + ereal q := by simp [ereal]
theorem ereal_mul (p q : Rat) : ereal (p * q) = ereal p * ereal q := by simp [ereal]
theorem ereal_div (p q : Rat) : ereal (p / q) = ereal p / ereal q := by simp [ereal, EReal.coe_div]

/-- Between two extended real numbers lies a rational number. -/
theorem exists_ereal_between {x y : EReal} (h : x < y) : ∃ q, x < ereal q ∧ ereal q < y := EReal.lt_iff_exists_rat_btwn.1 h
end

/-! ### Values -/

/-- The extended real number of a value; a NaN has none, and counts as 0. -/
noncomputable def FVal.ext (v : FVal) : EReal :=
  match v with
  | .nan _ => 0
  | .inf n => if n then ⊥ else ⊤
  | .fin n m e => ereal (ratOf (.fin n m e))

@[simp] theorem FVal.ext_inf_true : (FVal.inf true).ext = ⊥ := rfl
@[simp] theorem FVal.ext_inf_false : (FVal.inf false).ext = ⊤ := rfl
@[simp] theorem FVal.ext_fin (n : Bool) (m : Nat) (e : Int) : (FVal.fin n m e).ext = ereal (ratOf (.fin n m e)) := rfl

section
variable {x y : FVal}

theorem FVal.ext_number (h : isNumber x) : x.ext = ereal (ratOf x) := by
  obtain ⟨n, m, e, rfl⟩ := isNumber_iff_fin.1 h
  rfl

theorem FVal.ext_eq_bot : x.ext = ⊥ ↔ x = .inf true := by
  rcases x with s | ⟨_ | _⟩ | ⟨n, m, e⟩ <;> simp [FVal.ext]

theorem FVal.ext_eq_top : x.ext = ⊤ ↔ x = .inf false := by
  rcases x with s | ⟨_ | _⟩ | ⟨n, m, e⟩ <;> simp [FVal.ext]

@[simp] theorem FVal.ext_negate (x : FVal) : x.negate.ext = -x.ext := by
  rcases x with s | ⟨_ | _⟩ | ⟨n, m, e⟩
  · simp [FVal.ext, FVal.negate]
  · rfl
  · rfl
  · rw [FVal.negate, FVal.ext_fin, FVal.ext_fin, ratOf_negate, ereal_neg]

@[simp] theorem FVal.ext_zero : FVal.zero.ext = 0 := by simp [FVal.zero, (ratOf_fin_eq_zero false 0 0).2 rfl]

@[simp] theorem FVal.isNan_zero : FVal.zero.isNan = false := rfl

theorem FVal.ext_dyadic_val (d : Dyadic) : d.val.ext = ereal d.num := by
  rw [FVal.ext_number ⟨rfl, rfl⟩, ratOf_eq_num, dyadic_val]

/-- A value that is no NaN is an infinity or a number. -/
theorem FVal.ext_cases (h : x.isNan = false) : x.ext = ⊥ ∨ x.ext = ⊤ ∨ isNumber x := by
  rcases FVal.kinds h with ⟨_ | _, rfl⟩ | h
  · exact .inr (.inl rfl)
  · exact .inl rfl
  · exact .inr (.inr h)

theorem FVal.isNumber_of_ext (h : x.isNan = false) (hb : x.ext ≠ ⊥) (ht : x.ext ≠ ⊤) : isNumber x :=
  ((FVal.ext_cases h).resolve_left hb).resolve_left ht

section
variable (hx : x.isNan = false) (hy : y.isNan = false)
include hx hy

theorem leVal_iff : leVal x y ↔ x.ext ≤ y.ext := by
  rcases FVal.kinds hx with ⟨_ | _, rfl⟩ | hx <;> rcases FVal.kinds hy with ⟨_ | _, rfl⟩ | hy
  case inr.inr => rw [leVal_of_isNumber hx hy, FVal.ext_number hx, FVal.ext_number hy, ereal_le_ereal]
  case inr.inl.false | inr.inl.true => simp [leVal_inf_right, ← FVal.ext_eq_bot]
  all_goals simp [leVal_inf_left, ← FVal.ext_eq_top]

theorem ltVal_iff : ltVal x y ↔ x.ext < y.ext := by
  rw [ltVal, leVal_iff hx hy, leVal_iff hy hx, lt_iff_le_not_ge]

theorem eqVal_iff : eqVal x y ↔ x.ext = y.ext := by
  rw [eqVal, leVal_iff hx hy, leVal_iff hy hx, le_antisymm_iff]

theorem FVal.cmp_ne_gt_iff : x.cmp y ≠ .gt ↔ x.ext ≤ y.ext := (FVal.cmp_spec hx hy).1.trans (leVal_iff hx hy)

theorem FVal.leq_iff : x.leq y = true ↔ x.ext ≤ y.ext := by
  rw [FVal.leq, decide_eq_true_iff, FVal.cmp_ne_gt_iff hx hy]

theorem FVal.ltn_iff : x.ltn y = true ↔ x.ext < y.ext := by
  rw [FVal.ltn, decide_eq_true_iff, ← not_le, ← leVal_iff hy hx, ← (FVal.cmp_spec hx hy).2, not_not]

theorem FVal.eqn_iff : x.eqn y = true ↔ x.ext = y.ext := by
  rw [FVal.eqn, decide_eq_true_iff, le_antisymm_iff (a := x.ext), ← leVal_iff hx hy, ← leVal_iff hy hx, ← (FVal.cmp_spec hx hy).1,
    ← (FVal.cmp_spec hx hy).2]
  cases x.cmp y <;> decide

theorem FVal.isNan_least : (x.least y).isNan = false := by unfold FVal.least; split <;> assumption

theorem FVal.isNan_most : (x.most y).isNan = false := by unfold FVal.most; split <;> assumption

theorem FVal.ext_least : (x.least y).ext = min x.ext y.ext := by
  unfold FVal.least
  split_ifs with h
  · rw [min_eq_left ((FVal.leq_iff hx hy).1 h)]
  · rw [min_eq_right (not_le.1 (mt (FVal.leq_iff hx hy).2 h)).le]

theorem FVal.ext_most : (x.most y).ext = max x.ext y.ext := by
  unfold FVal.most
  split_ifs with h
  · rw [max_eq_right ((FVal.leq_iff hx hy).1 h)]
  · rw [max_eq_left (not_le.1 (mt (FVal.leq_iff hx hy).2 h)).le]

end

/-! ### Sums and products of bounds (R127) -/

@[simp] theorem isNan_addB (x y : FVal) : (addB x y).isNan = false := by
  rcases x with _ | _ | _ <;> rcases y with _ | _ | _ <;> rfl

@[simp] theorem isNan_mulB (x y : FVal) : (mulB x y).isNan = false := by
  unfold mulB
  split_ifs <;> rfl

/-- Two bounds that are not opposite infinities are added as extended real numbers. -/
theorem ext_addB (hx : x.isNan = false) (hy : y.isNan = false) (h : x.ext ≠ ⊤ ∨ y.ext ≠ ⊥) (h' : x.ext ≠ ⊥ ∨ y.ext ≠ ⊤) :
    (addB x y).ext = x.ext + y.ext := by
  rcases x with _ | ⟨_ | _⟩ | ⟨n, m, e⟩
  · cases hx
  · rw [FVal.ext_inf_false, EReal.top_add_of_ne_bot (by simpa using h)]
    rfl
  · rw [FVal.ext_inf_true, EReal.bot_add]
    rfl
  · rcases y with _ | ⟨_ | _⟩ | ⟨k, l, d⟩
    · cases hy
    · rw [FVal.ext_inf_false, EReal.add_top_of_ne_bot (by simp)]
      rfl
    · rw [FVal.ext_inf_true, EReal.add_bot]
      rfl
    · rw [FVal.ext_fin, FVal.ext_fin, ← ereal_add, ratOf_eq_num, ratOf_eq_num, ← Dyadic.num_add]
      exact FVal.ext_dyadic_val _

theorem FVal.ext_eq_zero (hx : x.isNan = false) : x.ext = 0 ↔ x.isZero = true := by
  rcases x with _ | ⟨_ | _⟩ | ⟨n, m, e⟩
  · cases hx
  · simp [FVal.isZero]
  · simp [FVal.isZero]
  · rw [FVal.ext_fin, ← ereal_zero, ereal_inj, ratOf_fin_eq_zero, FVal.isZero, decide_eq_true_iff]

/-- The sign of a value that is not zero. -/
theorem FVal.neg_iff (hx : x.isNan = false) (h0 : x.isZero = false) : (x.neg = true ↔ x.ext < 0) ∧ (x.neg = false ↔ 0 < x.ext) := by
  rcases x with _ | ⟨_ | _⟩ | ⟨n, m, e⟩
  · cases hx
  · simp [FVal.neg]
  · simp [FVal.neg]
  · have hm : m ≠ 0 := by simpa [FVal.isZero] using h0
    rw [FVal.ext_fin, ereal_neg_iff, ereal_pos, ratOf_fin_neg, ratOf_fin_pos hm]
    simp [FVal.neg, hm]

theorem ext_inf_mul (n : Bool) (hy : y.isNan = false) (h0 : y.isZero = false) : (FVal.inf (n != y.neg)).ext = (FVal.inf n).ext * y.ext := by
  obtain ⟨hneg, hpos⟩ := FVal.neg_iff hy h0
  cases hs : y.neg with
  | false =>
    have hy := hpos.1 hs
    cases n
    · exact (EReal.top_mul_of_pos hy).symm
    · exact (EReal.bot_mul_of_pos hy).symm
  | true =>
    have hy := hneg.1 hs
    cases n
    · exact (EReal.top_mul_of_neg hy).symm
    · exact (EReal.bot_mul_of_neg hy).symm

/-- Two bounds are multiplied as extended real numbers; 0 times an infinite bound is 0. -/
theorem ext_mulB (hx : x.isNan = false) (hy : y.isNan = false) : (mulB x y).ext = x.ext * y.ext := by
  unfold mulB
  split_ifs with h0 hi
  · rw [Bool.or_eq_true, ← FVal.ext_eq_zero hx, ← FVal.ext_eq_zero hy] at h0
    rcases h0 with h0 | h0 <;> simp [h0]
  · obtain ⟨hx0, hy0⟩ : x.isZero = false ∧ y.isZero = false := by simpa using h0
    rcases Bool.or_eq_true_iff.1 hi with hi | hi
    · obtain ⟨n, rfl⟩ := isInf_iff.1 hi
      exact ext_inf_mul n hy hy0
    · obtain ⟨n, rfl⟩ := isInf_iff.1 hi
      rw [bne_comm, mul_comm]
      exact ext_inf_mul n hx hx0
  · obtain ⟨hxi, hyi⟩ : x.isInf = false ∧ y.isInf = false := by simpa using hi
    rw [FVal.ext_number ⟨hx, hxi⟩, FVal.ext_number ⟨hy, hyi⟩, ← ereal_mul, ratOf_eq_num, ratOf_eq_num, ← Dyadic.num_mul, FVal.ext_dyadic_val]
end
end Sys2Proof.Machine
end

/-! The least and the greatest of the results that numbers of intervals have (R127) -/
section
namespace Sys2Proof.Machine

/-! ### Bounds of a set of numbers -/

/-- The greatest extended real number below a set of numbers. -/
structure Infimum (S : Rat → Prop) (x : EReal) : Prop where
  le : ∀ q, S q → x ≤ ereal q
  greatest : ∀ b, (∀ q, S q → b ≤ ereal q) → b ≤ x

/-- The opposites of the numbers of a set. -/
def Opposite (S : Rat → Prop) (q : Rat) : Prop := S (-q)

/-- The greatest lower and the least upper bound of a set of numbers; the latter is told by the opposite numbers. -/
structure Edges (S : Rat → Prop) (a b : EReal) : Prop where
  low : Infimum S a
  high : Infimum (Opposite S) (-b)

/-- The results of an operation on numbers of two sets. -/
def Results (op : Rat → Rat → Rat) (S T : Rat → Prop) (q : Rat) : Prop := ∃ u v, S u ∧ T v ∧ q = op u v

section
variable {S T : Rat → Prop} {x y a b c d : EReal}

theorem Infimum.congr (h : Infimum S a) (hS : ∀ q, S q ↔ T q) : Infimum T a := by
  obtain rfl : S = T := funext fun q => propext (hS q)
  exact h

theorem Edges.congr (h : Edges S a b) (hS : ∀ q, S q ↔ T q) : Edges T a b := by
  obtain rfl : S = T := funext fun q => propext (hS q)
  exact h

theorem opposite_opposite (S : Rat → Prop) : Opposite (Opposite S) = S := by
  funext q
  rw [Opposite, Opposite, neg_neg]

theorem exists_opposite (h : ∃ q, S q) : ∃ q, Opposite S q := by
  obtain ⟨q, hq⟩ := h
  exact ⟨-q, by rwa [Opposite, neg_neg]⟩

theorem Edges.opposite (h : Edges S a b) : Edges (Opposite S) (-b) (-a) :=
  ⟨h.high, by rw [opposite_opposite, neg_neg]; exact h.low⟩

theorem Edges.le (h : Edges S a b) {q : Rat} (hq : S q) : ereal q ≤ b := by
  have := h.high.le (-q) (by rwa [Opposite, neg_neg])
  rwa [ereal_neg, EReal.neg_le_neg_iff] at this

/-- Below a number that a set's infimum is below, the set has a number. -/
theorem Infimum.exists_lt (h : Infimum S a) (hx : a < x) : ∃ q, S q ∧ ereal q < x := by
  by_contra hc
  push Not at hc
  exact hx.not_ge (h.greatest x hc)

theorem Infimum.ne_top (h : Infimum S a) (hS : ∃ q, S q) : a ≠ ⊤ := by
  obtain ⟨q, hq⟩ := hS
  have := h.le q hq
  exact fun ht => ereal_ne_top (top_le_iff.1 (by rwa [ht] at this))

theorem Edges.ne_bot (h : Edges S a b) (hS : ∃ q, S q) : b ≠ ⊥ := by
  have := h.high.ne_top (exists_opposite hS)
  rwa [ne_eq, EReal.neg_eq_top_iff] at this

theorem Infimum.union (h : Infimum S a) (h' : Infimum T c) : Infimum (fun q => S q ∨ T q) (min a c) where
  le q hq := hq.elim (fun hq => (min_le_left a c).trans (h.le q hq)) fun hq => (min_le_right a c).trans (h'.le q hq)
  greatest b hb := le_min (h.greatest b fun q hq => hb q (.inl hq)) (h'.greatest b fun q hq => hb q (.inr hq))

theorem Edges.union (h : Edges S a b) (h' : Edges T c d) : Edges (fun q => S q ∨ T q) (min a c) (max b d) :=
  ⟨h.low.union h'.low, by rw [← EReal.min_neg_neg]; exact h.high.union h'.high⟩

/-! ### Sums -/

/-- The infimum of the sums of two sets is the sum of theirs. -/
theorem Infimum.add (ha : Infimum S a) (hc : Infimum T c) (hS : ∃ q, S q) (hT : ∃ q, T q) : Infimum (Results (fun u v => u + v) S T) (a + c) where
  le := by
    rintro _ ⟨u, v, hu, hv, rfl⟩
    rw [ereal_add]
    exact add_le_add (ha.le u hu) (hc.le v hv)
  greatest b hb := by
    refine EReal.le_add_of_forall_gt (.inr (hc.ne_top hT)) (.inl (ha.ne_top hS)) fun x hx y hy => ?_
    obtain ⟨u, hu, hux⟩ := ha.exists_lt hx
    obtain ⟨v, hv, hvy⟩ := hc.exists_lt hy
    calc b ≤ ereal (u + v) := hb _ ⟨u, v, hu, hv, rfl⟩
      _ = ereal u + ereal v := ereal_add u v
      _ ≤ x + y := add_le_add hux.le hvy.le

theorem Edges.add (h : Edges S a b) (h' : Edges T c d) (hS : ∃ q, S q) (hT : ∃ q, T q) : Edges (Results (fun u v => u + v) S T) (a + c) (b + d) := by
  refine ⟨h.low.add h'.low hS hT, ?_⟩
  rw [EReal.neg_add (.inl (h.ne_bot hS)) (.inr (h'.ne_bot hT)), sub_eq_add_neg]
  refine (h.high.add h'.high (exists_opposite hS) (exists_opposite hT)).congr fun q => ?_
  constructor
  · rintro ⟨u, v, hu, hv, rfl⟩
    exact ⟨-u, -v, hu, hv, by ring⟩
  · rintro ⟨u, v, hu, hv, hq⟩
    exact ⟨-u, -v, by rwa [Opposite, neg_neg], by rwa [Opposite, neg_neg], by linarith⟩

/-! ### Intervals -/

/-- The numbers between two bounds. -/
def Members (lo hi : EReal) (q : Rat) : Prop := lo ≤ ereal q ∧ ereal q ≤ hi

/-- Two bounds of an interval that has numbers: each is a number, or infinite on its own side (R125). -/
structure Interval (lo hi : EReal) : Prop where
  le : lo ≤ hi
  lo_cases : lo = ⊥ ∨ ∃ r, lo = ereal r
  hi_cases : hi = ⊤ ∨ ∃ r, hi = ereal r

theorem opposite_members (lo hi : EReal) : Opposite (Members lo hi) = Members (-hi) (-lo) := by
  funext q
  rw [Opposite, Members, Members, ereal_neg, EReal.neg_le, EReal.le_neg, and_comm]

theorem Interval.neg (h : Interval a b) : Interval (-b) (-a) := by
  refine ⟨EReal.neg_le_neg_iff.2 h.le, ?_, ?_⟩
  · rcases h.hi_cases with rfl | ⟨r, rfl⟩
    · exact .inl EReal.neg_top
    · exact .inr ⟨-r, (ereal_neg r).symm⟩
  · rcases h.lo_cases with rfl | ⟨r, rfl⟩
    · exact .inl EReal.neg_bot
    · exact .inr ⟨-r, (ereal_neg r).symm⟩

theorem Interval.infimum (h : Interval a b) : Infimum (Members a b) a where
  le q hq := hq.1
  greatest x hx := by
    rcases h.lo_cases with rfl | ⟨r, rfl⟩
    · have hb : ⊥ < b := by rcases h.hi_cases with rfl | ⟨r, rfl⟩ <;> simp
      by_contra hc
      obtain ⟨q, -, hq⟩ := exists_ereal_between (lt_min (not_le.1 hc) hb)
      obtain ⟨hqx, hqb⟩ := lt_min_iff.1 hq
      exact hqx.not_ge (hx q ⟨bot_le, hqb.le⟩)
    · exact hx r ⟨le_rfl, h.le⟩

theorem Interval.edges (h : Interval a b) : Edges (Members a b) a b := ⟨h.infimum, by rw [opposite_members]; exact h.neg.infimum⟩

theorem Interval.nonempty (h : Interval a b) : ∃ q, Members a b q := by
  rcases h.lo_cases with rfl | ⟨r, rfl⟩
  · obtain ⟨q, hq, -⟩ := h.infimum.exists_lt (x := ⊤) (by simp)
    exact ⟨q, hq⟩
  · exact ⟨r, le_rfl, h.le⟩

/-! ### Products -/

/-- A multiple of a number of an interval is not below the multiples of both bounds. -/
theorem min_mul_le {q z : EReal} (h : a ≤ q) (h' : q ≤ b) : min (a * z) (b * z) ≤ q * z := by
  rcases le_total 0 z with hz | hz
  · exact (min_le_left _ _).trans (mul_le_mul_of_nonneg_right h hz)
  · exact (min_le_right _ _).trans (EReal.mul_le_mul_of_nonpos_right h' hz)

/-- A bound of the multiples of an interval's numbers is one of its lower bound's multiple. -/
theorem Interval.le_low_mul (h : Interval a b) {z : EReal} (hx : ∀ q, Members a b q → x ≤ ereal q * z) : x ≤ a * z := by
  obtain ⟨q, hq⟩ := h.nonempty
  rcases lt_trichotomy z 0 with hz | rfl | hz
  · exact (hx q hq).trans (EReal.mul_le_mul_of_nonpos_right hq.1 hz.le)
  · simpa using hx q hq
  rcases eq_or_ne z ⊤ with rfl | ht
  · rcases lt_trichotomy a 0 with ha | rfl | ha
    · obtain ⟨u, hu, hu0⟩ := h.infimum.exists_lt ha
      have := hx u hu
      rw [EReal.mul_top_of_neg hu0, le_bot_iff] at this
      rw [this]
      exact bot_le
    · simpa using hx 0 ⟨by simp, by simpa using h.le⟩
    · rw [EReal.mul_top_of_pos ha]
      exact le_top
  · have := h.infimum.greatest (x / z) fun q hq => by
      rw [EReal.div_le_iff_le_mul hz ht, mul_comm]
      exact hx q hq
    rwa [EReal.div_le_iff_le_mul hz ht, mul_comm] at this

/-- A bound of the multiples of an interval's numbers is one of the multiples of both its bounds. -/
theorem Interval.le_mul (h : Interval a b) {z : EReal} (hx : ∀ q, Members a b q → x ≤ ereal q * z) : x ≤ a * z ∧ x ≤ b * z := by
  refine ⟨h.le_low_mul hx, ?_⟩
  have := h.neg.le_low_mul (x := x) (z := -z) fun q hq => by
    rw [← opposite_members] at hq
    have := hx (-q) hq
    rwa [ereal_neg, neg_mul, ← mul_neg] at this
  rwa [neg_mul_neg] at this

/-- The least of the products of two intervals' bounds. -/
noncomputable def leastProduct (a b c d : EReal) : EReal := min (min (a * c) (a * d)) (min (b * c) (b * d))

/-- The infimum of the products of two intervals is the least of the products of their bounds. -/
theorem Interval.infimum_mul (h : Interval a b) (h' : Interval c d) :
    Infimum (Results (fun u v => u * v) (Members a b) (Members c d)) (leastProduct a b c d) where
  le := by
    rintro _ ⟨u, v, hu, hv, rfl⟩
    have hz (z : EReal) : min (z * c) (z * d) ≤ z * ereal v := by simpa only [mul_comm z] using min_mul_le hv.1 hv.2
    rw [ereal_mul]
    exact (min_le_min (hz a) (hz b)).trans (min_mul_le hu.1 hu.2)
  greatest x hx := by
    have hv (v : Rat) (hv : Members c d v) : x ≤ a * ereal v ∧ x ≤ b * ereal v := h.le_mul fun u hu => by
      rw [← ereal_mul]
      exact hx _ ⟨u, v, hu, hv, rfl⟩
    obtain ⟨h1, h2⟩ := h'.le_mul (z := a) fun v hm => by rw [mul_comm]; exact (hv v hm).1
    obtain ⟨h3, h4⟩ := h'.le_mul (z := b) fun v hm => by rw [mul_comm]; exact (hv v hm).2
    rw [mul_comm] at h1 h2 h3 h4
    exact le_min (le_min h1 h2) (le_min h3 h4)

/-- The greatest of the products of two intervals' bounds. -/
noncomputable def greatestProduct (a b c d : EReal) : EReal := max (max (a * c) (a * d)) (max (b * c) (b * d))

theorem neg_greatestProduct (a b c d : EReal) : -greatestProduct a b c d = leastProduct (-b) (-a) c d := by
  simp only [greatestProduct, leastProduct, neg_mul, EReal.min_neg_neg, max_comm]

/-- An operation whose results change their sign with the first operand. -/
theorem opposite_results {op : Rat → Rat → Rat} (h : ∀ u v, op (-u) v = -op u v) (S T : Rat → Prop) :
    Opposite (Results op S T) = Results op (Opposite S) T := by
  funext q
  refine propext ⟨?_, ?_⟩
  · rintro ⟨u, v, hu, hv, hq⟩
    exact ⟨-u, v, by rwa [Opposite, neg_neg], hv, by rw [h, ← hq, neg_neg]⟩
  · rintro ⟨u, v, hu, hv, rfl⟩
    exact ⟨-u, v, hu, hv, (h u v).symm⟩

/-- The products of two intervals (R127). -/
theorem Interval.edges_mul (h : Interval a b) (h' : Interval c d) :
    Edges (Results (fun u v => u * v) (Members a b) (Members c d)) (leastProduct a b c d) (greatestProduct a b c d) := by
  refine ⟨h.infimum_mul h', ?_⟩
  rw [neg_greatestProduct, opposite_results neg_mul, opposite_members]
  exact h.neg.infimum_mul h'

/-! ### Squares and magnitudes -/

/-- Sets that reach below each other's numbers have one infimum. -/
theorem Infimum.of_cofinal (h : Infimum S x) (hT : ∀ q, T q → ∃ p, S p ∧ p ≤ q) (hS : ∀ p, S p → ∃ q, T q ∧ q ≤ p) : Infimum T x where
  le q hq := by
    obtain ⟨p, hp, hpq⟩ := hT q hq
    exact (h.le p hp).trans (ereal_le_ereal.2 hpq)
  greatest b hb := h.greatest b fun p hp => by
    obtain ⟨q, hq, hqp⟩ := hS p hp
    exact (hb q hq).trans (ereal_le_ereal.2 hqp)

/-- The results of an operation on numbers of a set. -/
def Images (op : Rat → Rat) (S : Rat → Prop) (q : Rat) : Prop := ∃ u, S u ∧ q = op u

/-- The greatest square of an interval is that of a bound, as the greatest product of two of its numbers is (R130). -/
theorem Interval.supremum_sqr (h : Interval a b) : Infimum (Opposite (Images (fun u => u * u) (Members a b))) (-max (a * a) (b * b)) := by
  have hg : greatestProduct a b a b = max (a * a) (b * b) := by
    have hab : a * b ≤ max (a * a) (b * b) := by
      rcases le_total 0 b with hb | hb
      · exact (mul_le_mul_of_nonneg_right h.le hb).trans (le_max_right _ _)
      · rw [mul_comm]
        exact (EReal.mul_le_mul_of_nonpos_right h.le (h.le.trans hb)).trans (le_max_left _ _)
    rw [greatestProduct, mul_comm b a]
    exact le_antisymm (max_le (max_le (le_max_left _ _) hab) (max_le hab (le_max_right _ _))) (max_le_max (le_max_left _ _) (le_max_right _ _))
  rw [← hg]
  refine (h.edges_mul h).high.of_cofinal ?_ ?_
  · rintro q ⟨u, hu, hq⟩
    exact ⟨q, ⟨u, u, hu, hu, hq⟩, le_rfl⟩
  · rintro p ⟨u, v, hu, hv, hp⟩
    rcases le_total (u * u) (v * v) with huv | huv
    · exact ⟨-(v * v), ⟨v, hv, neg_neg _⟩, by nlinarith [sq_nonneg (u - v)]⟩
    · exact ⟨-(u * u), ⟨u, hu, neg_neg _⟩, by nlinarith [sq_nonneg (u - v)]⟩

theorem mul_self_le_mul {u v : Rat} (h0 : 0 ≤ u * v) (h : u * u ≤ v * v) : u * u ≤ u * v :=
  calc u * u = |u| * |u| := (abs_mul_abs_self u).symm
    _ ≤ |u| * |v| := mul_le_mul_of_nonneg_left (abs_le_iff_mul_self_le.2 h) (abs_nonneg u)
    _ = u * v := by rw [← abs_mul, abs_of_nonneg h0]

/-- Off 0 the least square of an interval is that of a bound. -/
theorem Interval.infimum_sqr (h : Interval a b) (h0 : 0 < a ∨ b < 0) : Infimum (Images (fun u => u * u) (Members a b)) (min (a * a) (b * b)) := by
  have hg : leastProduct a b a b = min (a * a) (b * b) := by
    have hab : min (a * a) (b * b) ≤ a * b := by
      rcases h0 with ha | hb
      · rw [mul_comm a b]
        exact (min_le_left _ _).trans (mul_le_mul_of_nonneg_right h.le ha.le)
      · exact (min_le_right _ _).trans (EReal.mul_le_mul_of_nonpos_right h.le hb.le)
    rw [leastProduct, mul_comm b a]
    exact le_antisymm (min_le_min (min_le_left _ _) (min_le_right _ _)) (le_min (le_min (min_le_left _ _) hab) (le_min hab (min_le_right _ _)))
  have hsign (u v : Rat) (hu : Members a b u) (hv : Members a b v) : 0 ≤ u * v := by
    rcases h0 with ha | hb
    · exact mul_nonneg (ereal_pos.1 (ha.trans_le hu.1)).le (ereal_pos.1 (ha.trans_le hv.1)).le
    · exact mul_nonneg_of_nonpos_of_nonpos (ereal_neg_iff.1 (hu.2.trans_lt hb)).le (ereal_neg_iff.1 (hv.2.trans_lt hb)).le
  rw [← hg]
  refine (h.edges_mul h).low.of_cofinal ?_ ?_
  · rintro q ⟨u, hu, hq⟩
    exact ⟨q, ⟨u, u, hu, hu, hq⟩, le_rfl⟩
  · rintro _ ⟨u, v, hu, hv, rfl⟩
    have huv := hsign u v hu hv
    rcases le_total (u * u) (v * v) with hle | hle
    · exact ⟨u * u, ⟨u, hu, rfl⟩, mul_self_le_mul huv hle⟩
    · exact ⟨v * v, ⟨v, hv, rfl⟩, (mul_self_le_mul (mul_comm u v ▸ huv) hle).trans_eq (mul_comm v u)⟩

/-- An operation that is 0 at 0 and never negative has its least result there. -/
theorem infimum_images_of_zero {op : Rat → Rat} (h0 : Members a b 0) (hz : op 0 = 0) (hop : ∀ u, 0 ≤ op u) : Infimum (Images op (Members a b)) 0 where
  le := by
    rintro _ ⟨u, -, rfl⟩
    exact ereal_nonneg.2 (hop u)
  greatest x hx := by
    have := hx 0 ⟨0, h0, hz.symm⟩
    rwa [ereal_zero] at this

/-- The greatest size of an interval's numbers is that of a bound. -/
theorem Interval.supremum_abs (h : Interval a b) : Infimum (Opposite (Images absOf (Members a b))) (-max (-a) b) := by
  have hu := (h.edges.union h.edges.opposite).high
  rw [max_comm] at hu
  refine hu.of_cofinal ?_ ?_
  · rintro q ⟨u, hu, hq⟩
    refine ⟨q, ?_, le_rfl⟩
    rcases abs_choice u with habs | habs
    · rw [absOf_eq_abs, habs] at hq
      exact .inl (hq ▸ hu)
    · rw [absOf_eq_abs, habs, neg_inj] at hq
      refine .inr ?_
      rwa [Opposite, neg_neg, hq]
  · intro p hp
    refine ⟨-|p|, ?_, neg_abs_le p⟩
    rcases hp with hp | hp
    · exact ⟨-p, hp, by rw [absOf_eq_abs, abs_neg, neg_neg]⟩
    · rw [Opposite, neg_neg] at hp
      exact ⟨p, hp, by rw [absOf_eq_abs, neg_neg]⟩

/-! ### Quotients by positive numbers -/

/-- The least quotient of an interval by positive numbers (R131). -/
noncomputable def leastQuotient (a c d : EReal) : EReal := if 0 ≤ a then a / d else a / c

/-- The greatest quotient of an interval by positive numbers. -/
noncomputable def greatestQuotient (b c d : EReal) : EReal := if 0 ≤ b then b / c else b / d

theorem neg_div_ereal (x y : EReal) : -(x / y) = -x / y := by rw [div_eq_mul_inv, div_eq_mul_inv, neg_mul]

theorem neg_greatestQuotient (b c d : EReal) : -greatestQuotient b c d = leastQuotient (-b) c d := by
  rcases lt_trichotomy b 0 with hb | rfl | hb
  · rw [greatestQuotient, leastQuotient, if_neg hb.not_ge, if_pos (EReal.le_neg.2 (by simpa using hb.le)), neg_div_ereal]
  · simp [greatestQuotient, leastQuotient]
  · rw [greatestQuotient, leastQuotient, if_pos hb.le, if_neg (not_le.2 (EReal.neg_lt_comm.1 (by simpa using hb))), neg_div_ereal]

section
variable (h : Interval a b) (h' : Interval c d) (hc : 0 < c)
include h' hc

theorem leastQuotient_le {u v : Rat} (hu : a ≤ ereal u) (hv : Members c d v) : leastQuotient a c d ≤ ereal (u / v) := by
  have hv0 : 0 < ereal v := hc.trans_le hv.1
  rw [ereal_div, EReal.le_div_iff_mul_le hv0 ereal_ne_top, leastQuotient]
  split_ifs with ha
  · rcases h'.hi_cases with rfl | ⟨r, rfl⟩
    · simpa using ha.trans hu
    · have hr : 0 < ereal r := hv0.trans_le hv.2
      calc a / ereal r * ereal v ≤ a / ereal r * ereal r := mul_le_mul_of_nonneg_left hv.2 (EReal.div_nonneg ha hr.le)
        _ = a := EReal.div_mul_cancel ereal_ne_bot ereal_ne_top hr.ne'
        _ ≤ ereal u := hu
  · rcases h'.lo_cases with rfl | ⟨r, rfl⟩
    · exact absurd hc (by simp)
    · rw [mul_comm]
      calc ereal v * (a / ereal r) ≤ ereal r * (a / ereal r) :=
            EReal.mul_le_mul_of_nonpos_right hv.1 (EReal.div_nonpos_of_nonpos_of_nonneg (not_le.1 ha).le hc.le)
        _ = a := EReal.mul_div_cancel ereal_ne_bot ereal_ne_top hc.ne'
        _ ≤ ereal u := hu

/-- A bound of the quotients of a number by large numbers is not positive. -/
theorem nonpos_of_le_quotients {r : Rat} (hx : ∀ v, Members c ⊤ v → x ≤ ereal (r / v)) : x ≤ 0 := by
  rcases h'.lo_cases with rfl | ⟨k, rfl⟩
  · exact absurd hc (by simp)
  rw [ereal_pos] at hc
  by_contra h0
  obtain ⟨p, hp0, hpx⟩ := exists_ereal_between (not_le.1 h0)
  rw [ereal_pos] at hp0
  have hk : k ≤ max k ((r + 1) / p) := le_max_left _ _
  have hv := hpx.trans_le (hx _ ⟨ereal_le_ereal.2 hk, le_top⟩)
  rw [ereal_lt_ereal, lt_div_iff₀ (hc.trans_le hk)] at hv
  have := mul_le_mul_of_nonneg_left (le_max_right k ((r + 1) / p)) hp0.le
  rw [mul_div_cancel₀ _ hp0.ne'] at this
  linarith

include h

/-- The infimum of the quotients of an interval by one of positive numbers (R127, R131). -/
theorem Interval.infimum_div : Infimum (Results (fun u v => u / v) (Members a b) (Members c d)) (leastQuotient a c d) where
  le := by
    rintro _ ⟨u, v, hu, hv, rfl⟩
    exact leastQuotient_le h' hc hu.1 hv
  greatest x hx := by
    have hv (v : Rat) (hv : Members c d v) : x ≤ a / ereal v := by
      have hv0 : 0 < ereal v := hc.trans_le hv.1
      rw [EReal.le_div_iff_mul_le hv0 ereal_ne_top]
      refine h.infimum.greatest _ fun u hu => ?_
      rw [← EReal.le_div_iff_mul_le hv0 ereal_ne_top, ← ereal_div]
      exact hx _ ⟨u, v, hu, hv, rfl⟩
    rw [leastQuotient]
    split_ifs with ha
    · rcases h'.hi_cases with rfl | ⟨r, rfl⟩
      · rcases h.lo_cases with rfl | ⟨r, rfl⟩
        · exact absurd ha (by simp)
        · rw [EReal.div_top]
          exact nonpos_of_le_quotients h' hc fun v hm => by rw [ereal_div]; exact hv v hm
      · exact hv r ⟨h'.le, le_rfl⟩
    · rcases h'.lo_cases with rfl | ⟨r, rfl⟩
      · exact absurd hc (by simp)
      · exact hv r ⟨le_rfl, h'.le⟩

/-- The quotients of an interval by one of positive numbers (R127, R131). -/
theorem Interval.edges_div : Edges (Results (fun u v => u / v) (Members a b) (Members c d)) (leastQuotient a c d) (greatestQuotient b c d) := by
  refine ⟨h.infimum_div h' hc, ?_⟩
  rw [neg_greatestQuotient, opposite_results fun u v => neg_div v u, opposite_members]
  exact h.neg.infimum_div h' hc

end
end

end Sys2Proof.Machine
end

/-! Directed rounding to the values of a format, the infinities among them (R82, R127) -/
section
namespace Sys2Proof.Machine

/-! ### The largest number and the infinities of a format (R76) -/

section
variable {f : FFmt} {mode : RMode} {neg : Bool} {m c : Nat} {e : Int}

theorem FFmt.infCode_eq (hf : f.Proper) : f.infCode = 2 * f.bias * 2 ^ f.fbits + 2 ^ f.fbits := by
  rw [FFmt.infCode, show 2 ^ f.ebits - 1 = 2 * f.bias + 1 by have := f.two_mul_bias hf; omega, add_mul, one_mul]

/-- The exponent field of infinity is all ones, and its fraction 0. -/
theorem FFmt.value_infinity (neg : Bool) : f.value (f.signed neg f.infCode) = .inf neg := by
  have hp : 0 < 2 ^ f.fbits := by positivity
  have hi : f.infCode < f.signW := by have := f.infCode_add; omega
  have hW : f.signW = 2 ^ f.fbits * 2 ^ f.ebits := by rw [FFmt.signW, Nat.add_comm, pow_add]
  have hd : f.infCode / 2 ^ f.fbits = 2 ^ f.ebits - 1 := Nat.mul_div_cancel _ hp
  have hlt : 2 ^ f.ebits - 1 < 2 ^ f.ebits := Nat.sub_lt (by positivity) one_pos
  have hs : decide (f.signed neg f.infCode / f.signW % 2 = 1) = neg := by
    cases neg
    · simp [FFmt.signed, Nat.div_eq_of_lt hi]
    · simp [FFmt.signed, Nat.add_div_left _ (Nat.zero_lt_of_lt hi), Nat.div_eq_of_lt hi]
  have he : f.signed neg f.infCode / 2 ^ f.fbits % 2 ^ f.ebits = 2 ^ f.ebits - 1 := by
    cases neg
    · simpa only [FFmt.signed, Bool.false_eq_true, if_false, hd] using Nat.mod_eq_of_lt hlt
    · simpa only [FFmt.signed, if_true, hW, Nat.mul_add_div hp, Nat.add_mod_left, hd] using Nat.mod_eq_of_lt hlt
  have hm : f.signed neg f.infCode % 2 ^ f.fbits = 0 := by
    cases neg
    · exact Nat.mul_mod_left _ _
    · simp only [FFmt.signed, if_true, hW, Nat.mul_add_mod]
      exact Nat.mul_mod_left _ _
  simp only [FFmt.value, he, hm, hs, if_true]

/-- The number of the code below that of infinity. -/
theorem FFmt.value_maxCode (hf : f.Proper) (neg : Bool) :
    f.value (f.signed neg f.maxCode) = .fin neg (2 ^ (f.fbits + 1) - 1) ((f.bias : Int) - f.fbits) := by
  have hp : 0 < 2 ^ f.fbits := by positivity
  have hb := f.one_le_bias hf
  have hc : f.maxCode = 2 ^ f.fbits * (2 * f.bias) + (2 ^ f.fbits - 1) := by
    rw [FFmt.maxCode, f.infCode_eq hf, Nat.mul_comm]
    omega
  have hd : f.maxCode / 2 ^ f.fbits = 2 * f.bias := by
    rw [hc, Nat.mul_add_div hp, Nat.div_eq_of_lt (by omega), add_zero]
  have hm : f.maxCode % 2 ^ f.fbits = 2 ^ f.fbits - 1 := by
    rw [hc, Nat.mul_add_mod, Nat.mod_eq_of_lt (by omega)]
  have hsig : sigOf f.fbits f.maxCode = 2 ^ (f.fbits + 1) - 1 := by
    rw [sigOf, hd, hm, if_neg (by omega), pow_succ]
    omega
  have hq : f.qmin + (2 * f.bias - 1 : Nat) = (f.bias : Int) - f.fbits := by
    unfold FFmt.qmin
    omega
  rw [f.value_signed (by have := f.one_lt_infCode hf; unfold FFmt.maxCode; omega), hsig, hd, hq]

/-- The size of every number of the format is at most that of the largest. -/
theorem FFmt.abs_le_max (hf : f.Proper) (h : isNumber (f.value c)) : |ratOf (f.value c)| ≤ ratOf (f.value f.maxCode) := by
  obtain ⟨neg, m, e, hv⟩ := isNumber_iff_fin.1 h
  obtain ⟨hm, -, he⟩ := f.fin_of_value hf hv
  rw [hv, show f.value f.maxCode = _ from f.value_maxCode hf false, abs_ratOf_fin, ratOf_fin_false]
  exact mul_le_mul (by exact_mod_cast Nat.le_sub_one_of_lt hm) (two_zpow_le (by omega)) (two_zpow_pos e).le (by positivity)

theorem FFmt.isNumber_max (hf : f.Proper) (neg : Bool) : isNumber (f.value (f.signed neg f.maxCode)) := by
  rw [f.value_maxCode hf]
  exact ⟨rfl, rfl⟩

theorem FFmt.max_lt (hf : f.Proper) : ratOf (f.value f.maxCode) < (2 : Rat) ^ ((f.bias : Int) + 1) := by
  have hv : f.value f.maxCode = _ := f.value_maxCode hf false
  obtain ⟨hm, -, he⟩ := f.fin_of_value hf hv
  rw [hv]
  exact (le_abs_self _).trans_lt (f.abs_fin_lt hm he)

theorem FFmt.ratOf_signed_max (hf : f.Proper) (neg : Bool) :
    ratOf (f.value (f.signed neg f.maxCode)) = if neg then -ratOf (f.value f.maxCode) else ratOf (f.value f.maxCode) := by
  have h : f.value f.maxCode = _ := f.value_maxCode hf false
  rw [f.value_maxCode hf, h]
  cases neg
  · rfl
  · exact ratOf_negate false _ _

/-- A magnitude whose code would be that of infinity or more is above every number of the format (R82). -/
theorem FFmt.le_of_overflow (hf : f.Proper) (hm : m ≠ 0) (h : f.infCode ≤ f.roundedCode mode neg m e) :
    (2 : Rat) ^ ((f.bias : Int) + 1) ≤ |ratOf (.fin neg (roundAt mode neg m e (f.quantum m e)).1 (f.quantum m e))| := by
  obtain ⟨h1, h2⟩ := f.roundAt_bounds (mode := mode) (neg := neg) (e := e) hm
  have hb := f.one_le_bias hf
  have hq := f.qmin_add_quantum m e
  have hqm : f.qmin = 1 - (f.bias : Int) - f.fbits := rfl
  have hp : 0 < 2 ^ f.fbits := by positivity
  rw [FFmt.roundedCode, f.infCode_eq hf] at h
  set k := (f.quantum m e - f.qmin).toNat
  set n := (roundAt mode neg m e (f.quantum m e)).1
  have hn (i : Nat) (hi : 2 ^ i ≤ n) (hk : 2 * f.bias + f.fbits ≤ i + k) : (2 : Rat) ^ ((f.bias : Int) + 1) ≤ n * (2 : Rat) ^ f.quantum m e :=
    calc (2 : Rat) ^ ((f.bias : Int) + 1) ≤ (2 : Rat) ^ ((i : Int) + f.quantum m e) := two_zpow_le (by omega)
      _ = (2 ^ i : Nat) * (2 : Rat) ^ f.quantum m e := by rw [two_zpow_add, zpow_natCast]; norm_cast
      _ ≤ n * (2 : Rat) ^ f.quantum m e := mul_le_mul_of_nonneg_right (by exact_mod_cast hi) (two_zpow_pos _).le
  rw [abs_ratOf_fin]
  rcases lt_or_ge k (2 * f.bias) with hk | hk
  · have hk' := Nat.mul_le_mul_right (2 ^ f.fbits) (show k + 1 ≤ 2 * f.bias from hk)
    rw [add_mul, one_mul] at hk'
    have hn' : 2 ^ (f.fbits + 1) ≤ n := by rw [pow_succ]; omega
    refine hn (f.fbits + 1) hn' ?_
    by_contra hc
    have := Nat.mul_le_mul_right (2 ^ f.fbits) (show k + 2 ≤ 2 * f.bias by omega)
    rw [add_mul] at this
    rw [pow_succ] at h1
    omega
  · exact hn f.fbits (h2 (by omega)) (by omega)

/-- A number that lies to the quantum's halves as an exact one does has no closer neighbour in the format than the rounded magnitude (R82). -/
theorem FFmt.closer_of_sameCell {v : Rat} (hm : m ≠ 0) (hc : isNumber (f.value c))
    (h : SameCell (2 * (v / (2 : Rat) ^ f.quantum m e)) (2 * (ratOf (.fin neg m e) / (2 : Rat) ^ f.quantum m e))) :
    Closer mode (signedMag neg (roundAt mode neg m e (f.quantum m e)).1 % 2 = 0) v
      (ratOf (.fin neg (roundAt mode neg m e (f.quantum m e)).1 (f.quantum m e))) (ratOf (f.value c)) := by
  have hfit : Fits (ratOf (.fin neg m e) / (2 : Rat) ^ f.quantum m e) (ratOf (f.value c) / (2 : Rat) ^ f.quantum m e) := (f.grid_value hc).fits hm
  have hs := ((h.fits hfit).closer (roundsTo_of_sameCell h (roundAt_spec (mode := mode)).1)).scale (two_zpow_pos (f.quantum m e))
  rwa [div_mul_cancel₀ _ (two_zpow_ne_zero _), div_mul_cancel₀ _ (two_zpow_ne_zero _), ← ratOf_fin] at hs
end

/-! ### Zeros (R127) -/

section
variable {f : FFmt} {c : Nat}

/-- A code, in the place of −0 that of +0. -/
def FFmt.plusZeroed (f : FFmt) (c : Nat) : Nat := if c % f.signW = 0 then 0 else c

theorem FFmt.isZero_iff_mod (hf : f.Proper) : (f.value c).isZero = true ↔ c % f.signW = 0 := by
  have hW : f.signW = 2 ^ f.fbits * 2 ^ f.ebits := by rw [FFmt.signW, Nat.add_comm, pow_add]
  have hp : 0 < 2 ^ f.fbits := by positivity
  have hE : 2 ^ f.ebits - 1 ≠ 0 := by have := f.two_mul_bias hf; have := f.one_le_bias hf; omega
  rw [hW, Nat.mod_mul, Nat.add_eq_zero_iff, Nat.mul_eq_zero, or_iff_right hp.ne', FFmt.value]
  split_ifs with h1 h2 h3
  · simp [FVal.isZero, h1, hE]
  · simp [FVal.isZero, h1, hE]
  · simp [FVal.isZero, h3]
  · simp [FVal.isZero, h3]

theorem FFmt.plusZero_plusZeroed (hf : f.Proper) (c : Nat) : plusZero f (f.plusZeroed c) := by
  unfold FFmt.plusZeroed
  split_ifs with h
  · exact fun _ => rfl
  · exact fun hz => absurd ((f.isZero_iff_mod hf).1 hz) h

theorem FFmt.ext_plusZeroed (hf : f.Proper) (c : Nat) :
    (f.value (f.plusZeroed c)).ext = (f.value c).ext ∧ (f.value (f.plusZeroed c)).isNan = (f.value c).isNan := by
  unfold FFmt.plusZeroed
  split_ifs with h
  · obtain ⟨n, e, hv⟩ := Machine.isZero_iff.1 ((f.isZero_iff_mod hf).2 h)
    obtain ⟨k, d, hv'⟩ := Machine.isZero_iff.1 ((f.isZero_iff_mod (c := 0) hf).2 (Nat.zero_mod _))
    rw [hv, hv', FVal.ext_fin, FVal.ext_fin, (ratOf_fin_eq_zero ..).2 rfl, (ratOf_fin_eq_zero ..).2 rfl]
    exact ⟨rfl, rfl⟩
  · exact ⟨rfl, rfl⟩
end

/-! ### Directed rounding -/

/-- The mode that rounds to a side. -/
def sideMode (up : Bool) : RMode := if up then .rup else .rdn

/-- A value is on its side of a number, or is the number. -/
def Outer (up : Bool) (x y : EReal) : Prop := if up then y ≤ x else x ≤ y

/-- A code stands for the value of the format that is the closest on its side to an extended real number. -/
structure Directed (f : FFmt) (up : Bool) (c : Nat) (x : EReal) : Prop where
  number : (f.value c).isNan = false
  outer : Outer up (f.value c).ext x
  closest : ∀ d, (f.value d).isNan = false → Outer up (f.value d).ext x → Outer up (f.value d).ext (f.value c).ext

section
variable {f : FFmt} {up neg : Bool} {m c : Nat} {e : Int} {x : EReal} {v : Rat}

theorem Directed.of_ext_eq (h : (f.value c).isNan = false) (hx : (f.value c).ext = x) : Directed f up c x := by
  subst hx
  refine ⟨h, ?_, fun d _ hd => hd⟩
  cases up <;> exact le_rfl

theorem Directed.plusZeroed (hf : f.Proper) (h : Directed f up c x) : Directed f up (f.plusZeroed c) x := by
  obtain ⟨hx, hn⟩ := f.ext_plusZeroed hf c
  exact ⟨hn.trans h.number, by rw [hx]; exact h.outer, by rw [hx]; exact h.closest⟩

/-- For the closest value to a number, only the numbers of the format are rivals. -/
theorem Directed.of_numbers (hc : (f.value c).isNan = false) (ho : Outer up (f.value c).ext (ereal v))
    (h : ∀ d, isNumber (f.value d) → Outer up (ereal (ratOf (f.value d))) (ereal v) → Outer up (ereal (ratOf (f.value d))) (f.value c).ext) :
    Directed f up c (ereal v) := by
  refine ⟨hc, ho, fun d hd hv => ?_⟩
  rcases FVal.ext_cases hd with hb | ht | hd
  · rw [hb] at hv ⊢
    cases up
    · exact bot_le
    · exact absurd (le_bot_iff.1 hv) ereal_ne_bot
  · rw [ht] at hv ⊢
    cases up
    · exact absurd (top_le_iff.1 hv) ereal_ne_top
    · exact le_top
  · rw [FVal.ext_number hd] at hv ⊢
    exact h d hd hv

theorem Directed.of_closer {y : Rat} {even : Prop} (hc : isNumber (f.value c)) (hy : ratOf (f.value c) = y)
    (h : ∀ d, isNumber (f.value d) → Closer (sideMode up) even v y (ratOf (f.value d))) : Directed f up c (ereal v) := by
  refine .of_numbers hc.1 ?_ fun d hd => ?_ <;> rw [FVal.ext_number hc, hy]
  · cases up
    · exact ereal_le_ereal.2 (h c hc).1
    · exact ereal_le_ereal.2 (h c hc).1
  · cases up
    · exact fun hv => ereal_le_ereal.2 ((h d hd).2 (ereal_le_ereal.1 hv))
    · exact fun hv => ereal_le_ereal.2 ((h d hd).2 (ereal_le_ereal.1 hv))

/-- Where a number is above the format's on the side of the mode, the infinity is the closest value. -/
theorem Directed.infinity (h : ∀ d, isNumber (f.value d) → ¬Outer up (ereal (ratOf (f.value d))) (ereal v)) :
    Directed f up (f.signed (!up) f.infCode) (ereal v) := by
  have hv := f.value_infinity (!up)
  refine .of_numbers (by rw [hv]; rfl) ?_ fun d hd hv => absurd hv (h d hd)
  rw [hv]
  cases up
  · exact bot_le
  · exact le_top

/-- Where a number is above the format's on the other side, the largest number there is the closest value. -/
theorem Directed.largest (hf : f.Proper) (h : Outer up (ereal (ratOf (f.value (f.signed up f.maxCode)))) (ereal v)) :
    Directed f up (f.signed up f.maxCode) (ereal v) := by
  have hn := f.isNumber_max hf up
  refine .of_numbers hn.1 (by rwa [FVal.ext_number hn]) fun d hd _ => ?_
  rw [FVal.ext_number hn, f.ratOf_signed_max hf]
  obtain ⟨hl, hu⟩ := abs_le.1 (f.abs_le_max hf hd)
  cases up
  · exact ereal_le_ereal.2 hu
  · exact ereal_le_ereal.2 hl

/-- Where the rounded magnitude is above the format's numbers, the infinity on the mode's side or the largest number on the other is the closest. -/
theorem Directed.overflow (hf : f.Proper) {y : Rat} {even : Prop} (hbig : (2 : Rat) ^ ((f.bias : Int) + 1) ≤ |y|) (hs : y < 0 ↔ neg = true)
    (hcl : ∀ d, isNumber (f.value d) → Closer (sideMode up) even v y (ratOf (f.value d))) :
    Directed f up (f.signed neg (if neg = up then f.maxCode else f.infCode)) (ereal v) := by
  have hmax := (f.max_lt hf).trans_le hbig
  have hneg (hn : neg = true) : |y| = -y := abs_of_neg (hs.2 hn)
  have hpos (hn : neg = false) : |y| = y := abs_of_nonneg (not_lt.1 fun hy => by simp only [hn, Bool.false_eq_true, iff_false] at hs; exact hs hy)
  cases up <;> cases neg
  case false.false =>
    rw [hpos rfl] at hmax
    refine .largest hf (ereal_le_ereal.2 ?_)
    rw [f.ratOf_signed_max hf, if_neg Bool.false_ne_true]
    linarith [(hcl _ (f.isNumber_max hf false)).1]
  case true.true =>
    rw [hneg rfl] at hmax
    refine .largest hf (ereal_le_ereal.2 ?_)
    rw [f.ratOf_signed_max hf, if_pos rfl]
    linarith [(hcl _ (f.isNumber_max hf false)).1]
  case false.true =>
    rw [hneg rfl] at hmax
    refine .infinity fun d hd hv => ?_
    linarith [(hcl d hd).2 (ereal_le_ereal.1 hv), (abs_le.1 (f.abs_le_max hf hd)).1]
  case true.false =>
    rw [hpos rfl] at hmax
    refine .infinity fun d hd hv => ?_
    linarith [(hcl d hd).2 (ereal_le_ereal.1 hv), (abs_le.1 (f.abs_le_max hf hd)).2]

/-- An overflow in a directed mode gives the infinity on its side, and the largest number on the other (R82). -/
theorem FFmt.roundExact_side_overflow (hm : m ≠ 0) (hc : f.infCode ≤ f.roundedCode (sideMode up) neg m e) :
    (f.roundExact (sideMode up) neg m e).1 = f.signed neg (if neg = up then f.maxCode else f.infCode) := by
  rw [f.roundExact_overflow hm hc]
  cases up <;> cases neg <;> rfl

/-- Directed rounding of a magnitude gives the closest value on its side to each number that lies to the quantum as the magnitude does (R82). -/
theorem FFmt.directed_of_sameCell (hf : f.Proper) (hm : m ≠ 0)
    (h : SameCell (2 * (v / (2 : Rat) ^ f.quantum m e)) (2 * (ratOf (.fin neg m e) / (2 : Rat) ^ f.quantum m e))) :
    Directed f up (f.roundExact (sideMode up) neg m e).1 (ereal v) := by
  have hcl (d : Nat) (hd : isNumber (f.value d)) := f.closer_of_sameCell (mode := sideMode up) hm hd h
  rcases lt_or_ge (f.roundedCode (sideMode up) neg m e) f.infCode with hc | hc
  · obtain ⟨uf, hr, -⟩ := f.roundExact_finite hm hc
    rw [hr]
    exact .of_closer (by rw [f.value_signed hc]; exact ⟨rfl, rfl⟩) (f.ratOf_roundedCode hm hc) hcl
  · have hbig := f.le_of_overflow hf hm hc
    have hn0 : (roundAt (sideMode up) neg m e (f.quantum m e)).1 ≠ 0 := fun h0 => by
      rw [(ratOf_fin_eq_zero ..).2 h0, abs_zero] at hbig
      exact absurd hbig (not_le.2 (two_zpow_pos _))
    rw [f.roundExact_side_overflow hm hc]
    exact .overflow hf hbig ((ratOf_fin_neg ..).trans (and_iff_left hn0)) hcl

theorem SameCell.refl (w : Rat) : SameCell w w := fun _ => ⟨Iff.rfl, Iff.rfl⟩

/-! ### Bounds and quotients of bounds (R127, R131) -/

theorem FFmt.directed_zero (hf : f.Proper) (n : Bool) : Directed f up (f.signed n 0) 0 := by
  have hv := f.value_signed (Nat.zero_lt_of_lt (f.one_lt_infCode hf)) n
  refine .of_ext_eq ?_ ?_ <;> rw [hv]
  · rfl
  · rw [FVal.ext_fin, (ratOf_fin_eq_zero ..).2 (by simp [sigOf]), ereal_zero]

theorem FFmt.bound_plusZero (hf : f.Proper) (mode : RMode) (x : FVal) : plusZero f (f.bound mode x) := f.plusZero_plusZeroed hf _

/-- A bound is rounded to its side (R127). -/
theorem FFmt.bound_directed (hf : f.Proper) {x : FVal} (hx : x.isNan = false) : Directed f up (f.bound (sideMode up) x) x.ext := by
  refine Directed.plusZeroed hf ?_
  rcases x with _ | n | ⟨n, m, e⟩
  · cases hx
  · have hv := f.value_infinity n
    exact .of_ext_eq (by rw [hv]; rfl) (by rw [hv])
  · rcases eq_or_ne m 0 with rfl | hm
    · rw [FVal.ext_fin, (ratOf_fin_eq_zero ..).2 rfl, ereal_zero]
      exact f.directed_zero hf n
    · exact f.directed_of_sameCell hf hm (.refl _)

/-- A number known by its first bits and a sticky bit lies to the quantum as the magnitude with the sticky bit does. -/
theorem Between.sameCell_quantum {st : Bool} (hm : 2 ^ (f.fbits + 1) ≤ m) (h : Between neg st m e v) :
    SameCell (2 * (v / (2 : Rat) ^ f.quantum (stickyMag m st) (stickyExp e st)))
      (2 * (ratOf (.fin neg (stickyMag m st) (stickyExp e st)) / (2 : Rat) ^ f.quantum (stickyMag m st) (stickyExp e st))) := by
  have hm0 : m ≠ 0 := by have := Nat.two_pow_pos (f.fbits + 1); omega
  rw [f.quantum_sticky hm0]
  have hq : e + 1 ≤ f.quantum m e := by
    have : e + m.log2 - f.fbits ≤ f.quantum m e := le_max_left ..
    have := (Nat.le_log2 hm0).2 hm
    omega
  obtain ⟨d, hd⟩ := Int.eq_ofNat_of_zero_le (Int.sub_nonneg.2 hq)
  have hs (w : Rat) : 2 * (w / (2 : Rat) ^ f.quantum m e) = w / (2 : Rat) ^ e / (2 ^ d : Nat) := by
    rw [show f.quantum m e = e + d + 1 by omega, two_zpow_add, two_zpow_add, zpow_natCast]
    push_cast
    field_simp
  rw [hs, hs]
  exact (h.sameCell hm0).div (Nat.two_pow_pos d)

/-- The quotient of a bound by a positive one, at most one of them infinite, is rounded to its side (R131). -/
theorem FFmt.divV_directed (hf : f.Proper) {x y : FVal} (hx : x.isNan = false) (hy : y.isNan = false) (hpos : 0 < y.ext)
    (hi : x.isInf = false ∨ y.isInf = false) : Directed f up (f.divV (sideMode up) x y).1 (x.ext / y.ext) := by
  rcases y with _ | nb | ⟨nb, mb, eb⟩
  · cases hy
  · obtain ⟨na, ma, ea, rfl⟩ := isNumber_iff_fin.1 ⟨hx, hi.resolve_right Bool.noConfusion⟩
    cases nb
    · rw [FVal.ext_inf_false, EReal.div_top, f.divV_inf_right _ ⟨rfl, rfl⟩]
      exact f.directed_zero hf _
    · exact absurd hpos (by simp)
  · obtain ⟨hmb, rfl⟩ : mb ≠ 0 ∧ nb = false := by
      rw [FVal.ext_fin, ereal_pos] at hpos
      have hmb : mb ≠ 0 := fun h => hpos.ne' ((ratOf_fin_eq_zero ..).2 h)
      exact ⟨hmb, (ratOf_fin_pos hmb).1 hpos⟩
    rcases x with _ | na | ⟨na, ma, ea⟩
    · cases hx
    · have hv := f.value_infinity na
      rw [f.divV_inf_left _ ⟨rfl, rfl⟩, FVal.neg, Bool.bne_false]
      refine .of_ext_eq (by rw [hv]; rfl) ?_
      rw [hv]
      cases na
      · exact (EReal.top_div_of_pos_ne_top hpos (by simp)).symm
      · exact (EReal.bot_div_of_pos_ne_top hpos (by simp)).symm
    · rcases eq_or_ne ma 0 with rfl | hma
      · rw [f.divV_zero_left _ hmb, FVal.ext_fin, (ratOf_fin_eq_zero ..).2 rfl, ereal_zero, EReal.zero_div]
        exact f.directed_zero hf _
      · rw [f.divV_fin hma hmb, FVal.ext_fin, FVal.ext_fin, ← ereal_div]
        have hbits := le_quotient (f := f) hma hmb
        have hm0 : ma * 2 ^ (f.fbits + 4 + mb.log2) / mb ≠ 0 := by have := Nat.two_pow_pos (f.fbits + 1); omega
        rw [FFmt.divMag, f.round_eq_roundExact]
        exact f.directed_of_sameCell hf (stickyMag_ne_zero hm0) ((between_quotient hma hmb _).sameCell_quantum hbits)
end
end Sys2Proof.Machine
end

/-! The arithmetic of intervals encloses tightly (R127 to R132) -/
section
namespace Sys2Proof.Machine

/-! ### Intervals of values -/

/-- Two values that are the bounds of an interval that has numbers (R125). -/
structure Bounds (lo hi : FVal) : Prop where
  low : lo.isNan = false
  high : hi.isNan = false
  interval : Interval lo.ext hi.ext

section
variable {f : FFmt} {lo hi : FVal} {q : Rat}

/-- An operand that is not empty has two bounds of the format. -/
theorem exists_bounds_of_ivPair {cl ch : Nat} {a : Iv} (h : ivPair f cl ch = some a) (h0 : a ≠ .empty) :
    a = .mk (f.value cl) (f.value ch) ∧ Bounds (f.value cl) (f.value ch) := by
  rw [ivPair_eq, FFmt.iv, ivOf] at h
  split_ifs at h with he hw
  · exact absurd (Option.some.inj h).symm h0
  · simp only [Bool.or_eq_true, not_or, decide_eq_true_eq, Bool.not_eq_true', Bool.not_eq_true, Bool.not_eq_false] at hw
    obtain ⟨⟨⟨⟨hl, hh⟩, hlt⟩, hhb⟩, hle⟩ := hw
    refine ⟨(Option.some.inj h).symm, hl, hh, (FVal.leq_iff hl hh).1 hle, ?_, ?_⟩
    · exact (FVal.ext_cases hl).imp_right fun hx => ⟨_, FVal.ext_number (hx.resolve_left (mt FVal.ext_eq_top.1 hlt))⟩
    · exact ((FVal.ext_cases hh).resolve_left (mt FVal.ext_eq_bot.1 hhb)).imp_right fun hx => ⟨_, FVal.ext_number hx⟩

theorem isNan_of_ivHas (h : ivHas (.mk lo hi) q) : lo.isNan = false ∧ hi.isNan = false := by
  obtain ⟨hl, hh⟩ := h
  refine ⟨hl.elim ?_ fun h => h.1.1, hh.elim ?_ fun h => h.1.1⟩ <;> rintro rfl <;> rfl

theorem ivHas_iff (hl : lo.isNan = false) (hh : hi.isNan = false) : ivHas (.mk lo hi) q ↔ Members lo.ext hi.ext q := by
  refine and_congr ?_ ?_
  · rcases FVal.kinds hl with ⟨_ | _, rfl⟩ | hn
    · simp [isNumber, FVal.isInf]
    · simp
    · have hb : lo ≠ .inf true := by rintro rfl; exact Bool.noConfusion hn.2
      rw [or_iff_right hb, and_iff_right hn, FVal.ext_number hn, ereal_le_ereal]
  · rcases FVal.kinds hh with ⟨_ | _, rfl⟩ | hn
    · simp
    · simp [isNumber, FVal.isInf]
    · have ht : hi ≠ .inf false := by rintro rfl; exact Bool.noConfusion hn.2
      rw [or_iff_right ht, and_iff_right hn, FVal.ext_number hn, ereal_le_ereal]

theorem Bounds.has_eq (h : Bounds lo hi) : ivHas (.mk lo hi) = Members lo.ext hi.ext := funext fun _ => propext (ivHas_iff h.low h.high)

theorem Bounds.negate (h : Bounds lo hi) : Bounds hi.negate lo.negate := by
  refine ⟨FVal.isNan_negate.trans h.high, FVal.isNan_negate.trans h.low, ?_⟩
  rw [FVal.ext_negate, FVal.ext_negate]
  exact h.interval.neg

theorem Bounds.low_ne_top (h : Bounds lo hi) : lo.ext ≠ ⊤ := h.interval.infimum.ne_top h.interval.nonempty

theorem Bounds.high_ne_bot (h : Bounds lo hi) : hi.ext ≠ ⊥ := h.interval.edges.ne_bot h.interval.nonempty

theorem Bounds.isNumber_low (h : Bounds lo hi) (hb : lo.ext ≠ ⊥) : isNumber lo := FVal.isNumber_of_ext h.low hb h.low_ne_top

theorem Bounds.isNumber_high (h : Bounds lo hi) (ht : hi.ext ≠ ⊤) : isNumber hi := FVal.isNumber_of_ext h.high h.high_ne_bot ht
end

/-! ### Tightest bounds (R127) -/

section
variable {f : FFmt} {S : Rat → Prop} {x y : EReal} {lo hi : FVal}

/-- Bounds that are the closest values outside the edges of a set are the tightest that enclose it. -/
theorem tightest_of_edges {c : Nat × Nat} (hS : ∃ q, S q) (h : Edges S x y) (hl : Directed f false c.1 x) (hh : Directed f true c.2 y)
    (hzl : plusZero f c.1) (hzh : plusZero f c.2) : tightest f c S := by
  refine ⟨hzl, hzh, fun q hq => (ivHas_iff hl.number hh.number).2 ⟨le_trans hl.outer (h.low.le q hq), le_trans (h.le hq) hh.outer⟩, fun d hd => ?_⟩
  obtain ⟨q, hq⟩ := hS
  obtain ⟨hdl, hdh⟩ := isNan_of_ivHas (hd q hq)
  have hm (q : Rat) (hq : S q) := (ivHas_iff hdl hdh).1 (hd q hq)
  rw [FVal.cmp_ne_gt_iff hdl hl.number, FVal.cmp_ne_gt_iff hh.number hdh]
  refine ⟨hl.closest _ hdl (h.low.greatest _ fun q hq => (hm q hq).1), hh.closest _ hdh ?_⟩
  refine EReal.neg_le_neg_iff.1 (h.high.greatest _ fun q hq => ?_)
  have := (hm (-q) hq).2
  rwa [ereal_neg, EReal.neg_le] at this

/-- The rounded bounds of an interval whose bounds are the edges of a set. -/
theorem tightest_ivCodes (hf : f.Proper) (hS : ∃ q, S q) (hl : lo.isNan = false) (hh : hi.isNan = false) (h : Edges S lo.ext hi.ext) :
    tightest f (f.ivCodes (.mk lo hi)) S :=
  tightest_of_edges hS h (f.bound_directed hf hl) (f.bound_directed hf hh) (f.bound_plusZero hf _ _) (f.bound_plusZero hf _ _)

theorem exists_results {op : Rat → Rat → Rat} {T : Rat → Prop} (hS : ∃ q, S q) (hT : ∃ q, T q) : ∃ q, Results op S T q := by
  obtain ⟨u, hu⟩ := hS
  obtain ⟨v, hv⟩ := hT
  exact ⟨_, u, v, hu, hv, rfl⟩

theorem exists_images {op : Rat → Rat} (hS : ∃ q, S q) : ∃ q, Images op S q := by
  obtain ⟨u, hu⟩ := hS
  exact ⟨_, u, hu, rfl⟩
end

section
variable {f : FFmt} (hf : f.Proper) {a b c d : FVal} (h : Bounds a b)
include hf h

/-! ### Operations on one interval (R129, R130) -/

theorem tightest_self : tightest f (f.ivCodes (.mk a b)) (ivHas (.mk a b)) := by
  rw [h.has_eq]
  exact tightest_ivCodes hf h.interval.nonempty h.low h.high h.interval.edges

theorem tightest_negate : tightest f (f.ivCodes (Iv.mk a b).negate) (Images (fun u => -u) (ivHas (.mk a b))) := by
  rw [h.has_eq]
  refine tightest_ivCodes hf (exists_images h.interval.nonempty) h.negate.low h.negate.high (h.negate.interval.edges.congr fun q => ?_)
  rw [FVal.ext_negate, FVal.ext_negate, ← opposite_members]
  constructor
  · exact fun hq => ⟨-q, hq, (neg_neg q).symm⟩
  · rintro ⟨u, hu, rfl⟩
    rwa [Opposite, neg_neg]

/-- The magnitude keeps an interval from 0 on, mirrors one up to 0, and starts at 0 for the rest (R130). -/
theorem tightest_abs : tightest f (f.ivCodes (Iv.mk a b).abs) (Images absOf (ivHas (.mk a b))) := by
  have hne := exists_images (op := absOf) h.interval.nonempty
  rw [h.has_eq, Iv.abs]
  split_ifs with h0 h1
  · rw [FVal.leq_iff FVal.isNan_zero h.low, FVal.ext_zero] at h0
    have habs (u : Rat) (hu : Members a.ext b.ext u) : absOf u = u := by
      rw [absOf_eq_abs, abs_of_nonneg (ereal_nonneg.1 (h0.trans hu.1))]
    refine tightest_ivCodes hf hne h.low h.high (h.interval.edges.congr fun q => ⟨fun hq => ⟨q, hq, (habs q hq).symm⟩, ?_⟩)
    rintro ⟨u, hu, rfl⟩
    rwa [habs u hu]
  · rw [FVal.leq_iff h.high FVal.isNan_zero, FVal.ext_zero] at h1
    have habs (u : Rat) (hu : Members a.ext b.ext u) : absOf u = -u := by
      rw [absOf_eq_abs, abs_of_nonpos (ereal_nonpos.1 (hu.2.trans h1))]
    refine tightest_ivCodes hf hne h.negate.low h.negate.high (h.negate.interval.edges.congr fun q => ?_)
    rw [FVal.ext_negate, FVal.ext_negate, ← opposite_members]
    constructor
    · exact fun hq => ⟨-q, hq, by rw [habs _ hq, neg_neg]⟩
    · rintro ⟨u, hu, rfl⟩
      rwa [habs u hu, Opposite, neg_neg]
  · rw [FVal.leq_iff FVal.isNan_zero h.low, FVal.ext_zero, not_le] at h0
    rw [FVal.leq_iff h.high FVal.isNan_zero, FVal.ext_zero, not_le] at h1
    refine tightest_ivCodes hf hne FVal.isNan_zero (FVal.isNan_most h.negate.high h.high) ⟨?_, ?_⟩
    · rw [FVal.ext_zero]
      exact infimum_images_of_zero ⟨by rw [ereal_zero]; exact h0.le, by rw [ereal_zero]; exact h1.le⟩ (by simp [absOf])
        fun u => by rw [absOf_eq_abs]; exact abs_nonneg u
    · rw [FVal.ext_most h.negate.high h.high, FVal.ext_negate]
      exact h.interval.supremum_abs

theorem tightest_sqr : tightest f (f.ivCodes (Iv.mk a b).sqr) (Images (fun u => u * u) (ivHas (.mk a b))) := by
  have hp := isNan_mulB a a
  have hq := isNan_mulB b b
  rw [h.has_eq, Iv.sqr]
  refine tightest_ivCodes hf (exists_images h.interval.nonempty) ?_ (FVal.isNan_most hp hq) ⟨?_, ?_⟩
  · split_ifs
    · exact FVal.isNan_zero
    · exact FVal.isNan_least hp hq
  · split_ifs with h0
    · rw [Bool.and_eq_true, FVal.leq_iff h.low FVal.isNan_zero, FVal.leq_iff FVal.isNan_zero h.high, FVal.ext_zero, ← ereal_zero] at h0
      rw [FVal.ext_zero]
      exact infimum_images_of_zero h0 (mul_zero 0) mul_self_nonneg
    · rw [Bool.and_eq_true, FVal.leq_iff h.low FVal.isNan_zero, FVal.leq_iff FVal.isNan_zero h.high, FVal.ext_zero, not_and_or, not_le, not_le] at h0
      rw [FVal.ext_least hp hq, ext_mulB h.low h.low, ext_mulB h.high h.high]
      exact h.interval.infimum_sqr h0
  · rw [FVal.ext_most hp hq, ext_mulB h.low h.low, ext_mulB h.high h.high]
    exact h.interval.supremum_sqr

variable (h' : Bounds c d)
include h'

/-! ### Operations on two intervals (R130, R132) -/

theorem tightest_add : tightest f (f.ivCodes ((Iv.mk a b).add (.mk c d))) (Results (fun u v => u + v) (ivHas (.mk a b)) (ivHas (.mk c d))) := by
  rw [h.has_eq, h'.has_eq]
  refine tightest_ivCodes hf (exists_results h.interval.nonempty h'.interval.nonempty) (isNan_addB ..) (isNan_addB ..) ?_
  rw [ext_addB h.low h'.low (.inl h.low_ne_top) (.inr h'.low_ne_top), ext_addB h.high h'.high (.inr h'.high_ne_bot) (.inl h.high_ne_bot)]
  exact h.interval.edges.add h'.interval.edges h.interval.nonempty h'.interval.nonempty

theorem tightest_sub : tightest f (f.ivCodes ((Iv.mk a b).add (Iv.mk c d).negate))
    (Results (fun u v => u - v) (ivHas (.mk a b)) (ivHas (.mk c d))) := by
  have hadd := tightest_add hf h h'.negate
  have hsub : Results (fun u v => u - v) (ivHas (.mk a b)) (ivHas (.mk c d))
      = Results (fun u v => u + v) (ivHas (.mk a b)) (ivHas (.mk d.negate c.negate)) := by
    rw [h'.has_eq, h'.negate.has_eq, FVal.ext_negate, FVal.ext_negate, ← opposite_members]
    funext q
    refine propext ⟨?_, ?_⟩
    · rintro ⟨u, v, hu, hv, rfl⟩
      exact ⟨u, -v, hu, by rwa [Opposite, neg_neg], sub_eq_add_neg u v⟩
    · rintro ⟨u, v, hu, hv, rfl⟩
      exact ⟨u, -v, hu, hv, (sub_neg_eq_add u v).symm⟩
  rw [hsub]
  exact hadd

theorem tightest_mul : tightest f (f.ivCodes ((Iv.mk a b).mul (.mk c d))) (Results (fun u v => u * v) (ivHas (.mk a b)) (ivHas (.mk c d))) := by
  have hac := isNan_mulB a c
  have had := isNan_mulB a d
  have hbc := isNan_mulB b c
  have hbd := isNan_mulB b d
  rw [h.has_eq, h'.has_eq]
  refine tightest_ivCodes hf (exists_results h.interval.nonempty h'.interval.nonempty) (FVal.isNan_least (FVal.isNan_least hac had) (FVal.isNan_least hbc hbd))
    (FVal.isNan_most (FVal.isNan_most hac had) (FVal.isNan_most hbc hbd)) ?_
  rw [FVal.ext_least (FVal.isNan_least hac had) (FVal.isNan_least hbc hbd), FVal.ext_least hac had, FVal.ext_least hbc hbd,
    FVal.ext_most (FVal.isNan_most hac had) (FVal.isNan_most hbc hbd), FVal.ext_most hac had, FVal.ext_most hbc hbd,
    ext_mulB h.low h'.low, ext_mulB h.low h'.high, ext_mulB h.high h'.low, ext_mulB h.high h'.high]
  exact h.interval.edges_mul h'.interval

theorem tightest_hull : tightest f (f.ivCodes ((Iv.mk a b).hull (.mk c d))) fun q => ivHas (.mk a b) q ∨ ivHas (.mk c d) q := by
  rw [h.has_eq, h'.has_eq]
  obtain ⟨q, hq⟩ := h.interval.nonempty
  refine tightest_ivCodes hf ⟨q, .inl hq⟩ (FVal.isNan_least h.low h'.low) (FVal.isNan_most h.high h'.high) ?_
  rw [FVal.ext_least h.low h'.low, FVal.ext_most h.high h'.high]
  exact h.interval.edges.union h'.interval.edges

omit hf in
/-- The greater of the lower bounds and the lesser of the upper ones bound the intersection, where they are in order. -/
theorem Bounds.meet (hle : (a.most c).leq (b.least d) = true) : Bounds (a.most c) (b.least d) := by
  have hl := FVal.isNan_most h.low h'.low
  have hh := FVal.isNan_least h.high h'.high
  refine ⟨hl, hh, (FVal.leq_iff hl hh).1 hle, ?_, ?_⟩
  · rw [FVal.most]
    split_ifs
    · exact h'.interval.lo_cases
    · exact h.interval.lo_cases
  · rw [FVal.least]
    split_ifs
    · exact h.interval.hi_cases
    · exact h'.interval.hi_cases

omit hf in
theorem members_meet (q : Rat) : Members (a.most c).ext (b.least d).ext q ↔ ivHas (.mk a b) q ∧ ivHas (.mk c d) q := by
  rw [h.has_eq, h'.has_eq, FVal.ext_most h.low h'.low, FVal.ext_least h.high h'.high, Members, Members, Members, max_le_iff, le_min_iff]
  exact and_and_and_comm

theorem tightest_meet (hne : (Iv.mk a b).meet (.mk c d) ≠ .empty) :
    tightest f (f.ivCodes ((Iv.mk a b).meet (.mk c d))) fun q => ivHas (.mk a b) q ∧ ivHas (.mk c d) q := by
  rw [Iv.meet] at hne ⊢
  split_ifs at hne ⊢ with hle
  · have hm := h.meet h' hle
    obtain ⟨q, hq⟩ := hm.interval.nonempty
    exact tightest_ivCodes hf ⟨q, (members_meet h h' q).1 hq⟩ hm.low hm.high (hm.interval.edges.congr (members_meet h h'))
  · exact absurd rfl hne

omit hf in
theorem meet_eq_empty (hd : ∀ q, ivHas (.mk a b) q → ¬ivHas (.mk c d) q) : (Iv.mk a b).meet (.mk c d) = .empty := by
  refine if_neg fun hle => ?_
  obtain ⟨q, hq⟩ := (h.meet h' hle).interval.nonempty
  obtain ⟨hab, hcd⟩ := (members_meet h h' q).1 hq
  exact hd q hab hcd

/-! ### Quotients (R131) -/

theorem directed_quotient_low (hc : 0 < c.ext) :
    Directed f false (f.ivDivPos a b c d).1 (leastQuotient a.ext c.ext d.ext) := by
  refine Directed.plusZeroed hf ?_
  rw [leastQuotient, ← FVal.ext_zero]
  by_cases h0 : FVal.zero.ext ≤ a.ext
  · rw [if_pos h0, if_pos ((FVal.leq_iff FVal.isNan_zero h.low).2 h0)]
    have ha : isNumber a := h.isNumber_low fun hb => by simp [hb] at h0
    exact f.divV_directed hf h.low h'.high (hc.trans_le h'.interval.le) (.inl ha.2)
  · rw [if_neg h0, if_neg (mt (FVal.leq_iff FVal.isNan_zero h.low).1 h0)]
    have hcn : isNumber c := h'.isNumber_low fun hb => by simp [hb] at hc
    exact f.divV_directed hf h.low h'.low hc (.inr hcn.2)

theorem directed_quotient_high (hc : 0 < c.ext) :
    Directed f true (f.ivDivPos a b c d).2 (greatestQuotient b.ext c.ext d.ext) := by
  refine Directed.plusZeroed hf ?_
  rw [greatestQuotient, ← FVal.ext_zero]
  by_cases h0 : FVal.zero.ext ≤ b.ext
  · rw [if_pos h0, if_pos ((FVal.leq_iff FVal.isNan_zero h.high).2 h0)]
    have hcn : isNumber c := h'.isNumber_low fun hb => by simp [hb] at hc
    exact f.divV_directed hf h.high h'.low hc (.inr hcn.2)
  · rw [if_neg h0, if_neg (mt (FVal.leq_iff FVal.isNan_zero h.high).1 h0)]
    have hb : isNumber b := h.isNumber_high fun ht => by simp [ht] at h0
    exact f.divV_directed hf h.high h'.high (hc.trans_le h'.interval.le) (.inl hb.2)

theorem tightest_ivDivPos (hc : 0 < c.ext) : tightest f (f.ivDivPos a b c d) (Results (fun u v => u / v) (ivHas (.mk a b)) (ivHas (.mk c d))) := by
  rw [h.has_eq, h'.has_eq]
  exact tightest_of_edges (exists_results h.interval.nonempty h'.interval.nonempty) (h.interval.edges_div h'.interval hc)
    (directed_quotient_low hf h h' hc) (directed_quotient_high hf h h' hc) (f.plusZero_plusZeroed hf _) (f.plusZero_plusZeroed hf _)

omit hf in
theorem results_div_negate : Results (fun u v => u / v) (ivHas (.mk b.negate a.negate)) (ivHas (.mk d.negate c.negate)) =
    Results (fun u v => u / v) (ivHas (.mk a b)) (ivHas (.mk c d)) := by
  rw [h.has_eq, h'.has_eq, h.negate.has_eq, h'.negate.has_eq]
  simp only [FVal.ext_negate, ← opposite_members]
  funext q
  refine propext ⟨?_, ?_⟩
  · rintro ⟨u, v, hu, hv, rfl⟩
    exact ⟨-u, -v, hu, hv, (neg_div_neg_eq u v).symm⟩
  · rintro ⟨u, v, hu, hv, rfl⟩
    exact ⟨-u, -v, by rwa [Opposite, neg_neg], by rwa [Opposite, neg_neg], (neg_div_neg_eq u v).symm⟩

/-- A quotient by an interval with 0 is the whole line; one by negative numbers is that of the opposites (R131). -/
theorem exists_ivDiv : ∃ r, f.ivDiv (.mk a b) (.mk c d) = some r
    ∧ (¬ivHas (.mk c d) 0 → tightest f r (Results (fun u v => u / v) (ivHas (.mk a b)) (ivHas (.mk c d))))
    ∧ (ivHas (.mk c d) 0 → f.value r.1 = .inf true ∧ f.value r.2 = .inf false) := by
  have h0 : (c.leq .zero && FVal.zero.leq d) = true ↔ ivHas (.mk c d) 0 := by
    rw [Bool.and_eq_true, FVal.leq_iff h'.low FVal.isNan_zero, FVal.leq_iff FVal.isNan_zero h'.high, h'.has_eq, FVal.ext_zero, Members, ereal_zero]
  refine ⟨_, rfl, fun hz => ?_, fun hz => ?_⟩
  · rw [if_neg (mt h0.1 hz)]
    rw [h'.has_eq, Members, ereal_zero, not_and_or, not_le, not_le] at hz
    by_cases hc : 0 < c.ext
    · rw [if_pos ((FVal.ltn_iff FVal.isNan_zero h'.low).2 (by rwa [FVal.ext_zero]))]
      exact tightest_ivDivPos hf h h' hc
    · rw [if_neg (mt (FVal.ltn_iff FVal.isNan_zero h'.low).1 (by rwa [FVal.ext_zero])), ← results_div_negate h h']
      refine tightest_ivDivPos hf h.negate h'.negate ?_
      rw [FVal.ext_negate, EReal.lt_neg_comm, neg_zero]
      exact hz.resolve_left hc
  · rw [if_pos (h0.2 hz)]
    exact ⟨f.value_infinity true, f.value_infinity false⟩
end
end Sys2Proof.Machine
end

/-! Roots of intervals (R130) -/
section
namespace Sys2Proof.Machine

section
variable {f : FFmt} {mode : RMode} {m k : Nat} {e : Int}

/-- A rounded magnitude has no sign bit. -/
theorem FFmt.roundExact_lt_signW (hf : f.Proper) (m : Nat) (e : Int) : (f.roundExact mode false m e).1 < f.signW := by
  have hi := f.infCode_add
  have hp : 0 < 2 ^ f.fbits := by positivity
  rcases eq_or_ne m 0 with rfl | hm
  · exact Nat.two_pow_pos _
  rcases lt_or_ge (f.roundedCode mode false m e) f.infCode with hc | hc
  · obtain ⟨uf, hr, -⟩ := f.roundExact_finite hm hc
    rw [hr]
    exact hc.trans (by omega)
  · have hmax : f.maxCode < f.infCode := Nat.sub_one_lt (Nat.ne_zero_of_lt (f.one_lt_infCode hf))
    rw [f.roundExact_overflow hm hc]
    refine (show (if _ then f.infCode else f.maxCode) < f.signW from ?_)
    split_ifs <;> omega

theorem plusZero_of_lt (hf : f.Proper) {c : Nat} (h : c < f.signW) : plusZero f c := fun hz => by
  have := (f.isZero_iff_mod hf).1 hz
  rwa [Nat.mod_eq_of_lt h] at this

theorem value_zero_code (hf : f.Proper) : isNumber (f.value 0) ∧ ratOf (f.value 0) = 0 := by
  rw [show f.value 0 = _ from f.value_signed (c := 0) (Nat.zero_lt_of_lt (f.one_lt_infCode hf)) false]
  exact ⟨⟨rfl, rfl⟩, (ratOf_fin_eq_zero ..).2 (by simp [sigOf])⟩

/-- A code is the root of a number from 0 on, rounded in a mode; one that is zero is +0. -/
structure RootCode (f : FFmt) (mode : RMode) (c : Nat) (R : Rat) : Prop where
  zero : plusZero f c
  number : isNumber (f.value c)
  nonneg : 0 ≤ ratOf (f.value c)
  closer : ∀ d, isNumber (f.value d) → 0 ≤ ratOf (f.value d) → RootCloser mode R (ratOf (f.value c)) (ratOf (f.value d))

theorem rootCode_zero (hf : f.Proper) (up : Bool) : RootCode f (sideMode up) 0 0 := by
  obtain ⟨hn, hz⟩ := value_zero_code hf
  refine ⟨fun _ => rfl, hn, hz.ge, fun d _ hd => ?_⟩
  rw [hz]
  cases up
  · exact ⟨(mul_zero 0).le, fun h => (mul_self_eq_zero.1 (le_antisymm h (mul_self_nonneg _))).le⟩
  · exact ⟨(mul_zero 0).ge, fun _ => hd⟩

/-- The root's code of a number of the format is that of FSQRT, or 0 (R108, R130). -/
theorem rootCode_rootB (hf : f.Proper) {x : FVal} (hk : x = f.value k) (hx : isNumber x) (h0 : 0 ≤ ratOf x) (up : Bool) :
    RootCode f (sideMode up) (f.rootB (sideMode up) x) (ratOf x) := by
  obtain ⟨n, m, e, rfl⟩ := isNumber_iff_fin.1 hx
  rcases eq_or_ne m 0 with rfl | hm
  · rw [(ratOf_fin_eq_zero ..).2 rfl]
    exact rootCode_zero hf up
  · obtain rfl : n = false := by
      have := mt (ratOf_fin_neg n m e).2 h0.not_gt
      simpa [hm] using this
    have hs := f.sqrt_spec (mode := sideMode up) hf hk.symm hm
    have hr : (f.sqrt (sideMode up) k).1 = f.rootB (sideMode up) (.fin false m e) := by
      unfold FFmt.sqrt FFmt.rootB
      rw [← hk]
      simp only [if_neg hm, Bool.false_eq_true, if_false]
    rw [← hr]
    refine ⟨?_, hs.number, ratOf_nonneg hs.number hs.sign, hs.closer⟩
    simp only [hr, FFmt.rootB, if_neg hm, FFmt.round_eq_roundExact]
    exact plusZero_of_lt hf (f.roundExact_lt_signW hf _ _)
end

/-! ### The part of an interval from 0 on -/

/-- An interval whose upper bound is not below 0 has a number from 0 on. -/
theorem Interval.exists_nonneg {a b : EReal} (h : Interval a b) (hb : 0 ≤ b) : ∃ u, Members a b u ∧ 0 ≤ u := by
  obtain ⟨q, hq⟩ := h.nonempty
  rcases h.hi_cases with rfl | ⟨r, rfl⟩
  · exact ⟨max q 0, ⟨hq.1.trans (ereal_le_ereal.2 (le_max_left q 0)), le_top⟩, le_max_right q 0⟩
  · exact ⟨r, ⟨h.le, le_rfl⟩, ereal_nonneg.1 hb⟩

/-- What is not below any number of an interval is not below its upper bound. -/
theorem Interval.high_le {a b x : EReal} (h : Interval a b) (hx : ∀ u, Members a b u → ereal u ≤ x) : b ≤ x := by
  refine EReal.neg_le_neg_iff.1 (h.edges.high.greatest _ fun q hq => ?_)
  have := hx (-q) hq
  rwa [ereal_neg, EReal.neg_le] at this

section
variable {f : FFmt} (hf : f.Proper) {al ah : Nat} (h : Bounds (f.value al) (f.value ah))
include h

theorem ivSqrt_eq_none_iff : f.ivSqrt (.mk (f.value al) (f.value ah)) = none ↔ (f.value ah).ext < 0 := by
  have hneg := FVal.ltn_iff h.high FVal.isNan_zero
  rw [FVal.ext_zero] at hneg
  rw [FFmt.ivSqrt, ← hneg]
  split_ifs with h0 <;> simp [h0]

theorem ivSqrt_eq_none (hu : ∀ u, ivHas (.mk (f.value al) (f.value ah)) u → u < 0) : f.ivSqrt (.mk (f.value al) (f.value ah)) = none := by
  rw [ivSqrt_eq_none_iff h]
  by_contra hb
  obtain ⟨u, hm, h0⟩ := h.interval.exists_nonneg (not_lt.1 hb)
  rw [h.has_eq] at hu
  exact (hu u hm).not_ge h0

theorem isSome_ivSqrt (hu : ∃ u, ivHas (.mk (f.value al) (f.value ah)) u ∧ 0 ≤ u) : (f.ivSqrt (.mk (f.value al) (f.value ah))).isSome = true := by
  obtain ⟨u, hm, h0⟩ := hu
  rw [h.has_eq] at hm
  rw [← Option.ne_none_iff_isSome, ne_eq, ivSqrt_eq_none_iff h, not_lt]
  exact (ereal_nonneg.2 h0).trans hm.2

include hf

/-- The lower bound of a root is 0, or the root of the lower bound rounded down; no number with its square below the interval is above it (R130). -/
theorem rootB_low : let l := f.rootB .rdn ((f.value al).most .zero)
    plusZero f l ∧ isNumber (f.value l) ∧ 0 ≤ ratOf (f.value l)
    ∧ (ratOf (f.value l) = 0 ∨ ∀ u, ivHas (.mk (f.value al) (f.value ah)) u → ratOf (f.value l) * ratOf (f.value l) ≤ u)
    ∧ ∀ z, isNumber (f.value z) → 0 ≤ ratOf (f.value z) →
      (∀ u, ivHas (.mk (f.value al) (f.value ah)) u → ratOf (f.value z) * ratOf (f.value z) ≤ u) → ratOf (f.value z) ≤ ratOf (f.value l) := by
  intro l
  have hle := FVal.leq_iff h.low FVal.isNan_zero
  rw [FVal.ext_zero] at hle
  have hlow {x : EReal} (hx : ∀ u, ivHas (.mk (f.value al) (f.value ah)) u → x ≤ ereal u) : x ≤ (f.value al).ext :=
    h.interval.infimum.greatest x fun u hu => hx u (by rwa [h.has_eq])
  by_cases h0 : (f.value al).ext ≤ 0
  · obtain ⟨hn, hz⟩ := value_zero_code hf
    have hl : l = 0 := by simp only [l, FVal.most, if_pos (hle.2 h0)]; rfl
    rw [hl, hz]
    refine ⟨fun _ => rfl, hn, le_rfl, .inl rfl, fun z _ _ hu => ?_⟩
    have := (hlow fun u hm => ereal_le_ereal.2 (hu u hm)).trans h0
    rw [ereal_nonpos] at this
    exact (mul_self_eq_zero.1 (le_antisymm this (mul_self_nonneg _))).le
  · have hnum : isNumber (f.value al) := h.isNumber_low fun hb => h0 (by rw [hb]; exact bot_le)
    have hl : l = f.rootB .rdn (f.value al) := by simp only [l, FVal.most, if_neg (mt hle.1 h0)]
    rw [FVal.ext_number hnum] at h0 hlow
    obtain ⟨hz, hn, hnn, hc⟩ := rootCode_rootB hf rfl hnum (not_le.1 (mt ereal_nonpos.2 h0)).le false
    rw [hl]
    refine ⟨hz, hn, hnn, .inr fun u hu => ?_, fun z hzn hz0 hu => ?_⟩
    · rw [h.has_eq, FVal.ext_number hnum] at hu
      exact (hc _ hn hnn).1.trans (ereal_le_ereal.1 hu.1)
    · exact (hc z hzn hz0).2 (ereal_le_ereal.1 (hlow fun u hm => ereal_le_ereal.2 (hu u hm)))

/-- The upper bound of a root is the root of the upper bound rounded up; no number with its square above the interval is below it (R130). -/
theorem rootB_high (hb : 0 ≤ (f.value ah).ext) : let r := f.rootB .rup (f.value ah)
    plusZero f r
    ∧ (f.value r = .inf false ∨ (isNumber (f.value r) ∧ 0 ≤ ratOf (f.value r)
      ∧ ∀ u, ivHas (.mk (f.value al) (f.value ah)) u → u ≤ ratOf (f.value r) * ratOf (f.value r)))
    ∧ ∀ z, isNumber (f.value z) → 0 ≤ ratOf (f.value z) →
      (∀ u, ivHas (.mk (f.value al) (f.value ah)) u → u ≤ ratOf (f.value z) * ratOf (f.value z)) →
      isNumber (f.value r) ∧ ratOf (f.value r) ≤ ratOf (f.value z) := by
  intro r
  have hhigh {x : EReal} (hx : ∀ u, ivHas (.mk (f.value al) (f.value ah)) u → ereal u ≤ x) : (f.value ah).ext ≤ x :=
    h.interval.high_le fun u hu => hx u (by rwa [h.has_eq])
  by_cases ht : (f.value ah).ext = ⊤
  · have hv : f.value r = .inf false := by
      simp only [r, FVal.ext_eq_top.1 ht]
      exact f.value_infinity false
    refine ⟨fun hz => ?_, .inl hv, fun z _ _ hu => ?_⟩
    · rw [hv] at hz
      exact Bool.noConfusion hz
    · have := hhigh fun u hm => ereal_le_ereal.2 (hu u hm)
      rw [ht, top_le_iff] at this
      exact absurd this ereal_ne_top
  · have hnum : isNumber (f.value ah) := h.isNumber_high ht
    rw [FVal.ext_number hnum] at hb hhigh
    obtain ⟨hz, hn, hnn, hc⟩ := rootCode_rootB hf rfl hnum (ereal_nonneg.1 hb) true
    refine ⟨hz, .inr ⟨hn, hnn, fun u hu => ?_⟩, fun z hzn hz0 hu => ?_⟩
    · rw [h.has_eq, FVal.ext_number hnum] at hu
      exact (ereal_le_ereal.1 hu.2).trans (hc _ hn hnn).1
    · exact ⟨hn, (hc z hzn hz0).2 (ereal_le_ereal.1 (hhigh fun u hm => ereal_le_ereal.2 (hu u hm)))⟩
end
end Sys2Proof.Machine
end

/-! Midpoints and widths of intervals (R133, R134) -/
section
namespace Sys2Proof.Machine

section
variable {f : FFmt} {mode : RMode} {neg : Bool} {c k m : Nat} {e : Int}

/-! ### Rounding a number of the format (R82) -/

/-- A code's significand is of the code's parity, and fills the precision but at the least exponent (R76). -/
theorem FFmt.significand_of_value (hf : f.Proper) (h : f.value c = .fin neg m e) : m % 2 = c % 2 ∧ (e = f.qmin ∨ 2 ^ f.fbits ≤ m) := by
  have h2 : 2 ∣ 2 ^ f.fbits := dvd_pow_self 2 (by have := hf.1; omega)
  have hc : c % 2 ^ f.fbits % 2 = c % 2 := Nat.mod_mod_of_dvd c h2
  have hx := f.isNumber_iff.1 (isNumber_iff_fin.2 ⟨_, _, _, h⟩)
  rw [f.value_of_exponent hx, FVal.fin.injEq] at h
  obtain ⟨-, rfl, rfl⟩ := h
  split_ifs with h0
  · exact ⟨hc, .inl (by simp [h0])⟩
  · exact ⟨by omega, .inr (Nat.le_add_right _ _)⟩

theorem FFmt.quantum_of_value (hf : f.Proper) (h : f.value c = .fin neg m e) (hm : m ≠ 0) : f.quantum m e = e := by
  obtain ⟨hlt, hle, -⟩ := f.fin_of_value hf h
  have hlog : m.log2 < f.fbits + 1 := (Nat.log2_lt hm).2 hlt
  have hq : f.quantum m e = max (e + m.log2 - f.fbits) f.qmin := rfl
  rcases (f.significand_of_value hf h).2 with he | hfull
  · omega
  · have := (Nat.le_log2 hm).2 hfull
    omega

/-- The rounding of a number of the format has the parity of its code. -/
theorem FFmt.roundExact_mod_two (hf : f.Proper) (h : f.value c = .fin neg m e) : (f.roundExact mode neg m e).1 % 2 = c % 2 := by
  obtain ⟨hpar, -⟩ := f.significand_of_value hf h
  rcases eq_or_ne m 0 with rfl | hm
  · rw [f.roundExact_zero, f.signed_mod_two hf, ← hpar]
  · obtain ⟨hlt, hle, htop⟩ := f.fin_of_value hf h
    have hex := f.roundExact_exact (mode := mode) hf (f.grid_fin (neg := neg) hlt hle) (f.abs_fin_lt hlt htop)
    have hc := f.lt_infCode_of_ov hm (congrArg Conds.ov hex.1)
    obtain ⟨uf, hr, -⟩ := f.roundExact_finite hm hc
    rw [hr, f.signed_mod_two hf, f.roundedCode_mod_two hf, f.quantum_of_value hf h hm, roundAt_of_le le_rfl, sub_self]
    simpa using hpar

theorem FFmt.plusZeroed_mod_two (hf : f.Proper) (c : Nat) : f.plusZeroed c % 2 = c % 2 := by
  have h2 : 2 ∣ f.signW := dvd_pow_self 2 (by have := hf.1; omega)
  unfold FFmt.plusZeroed
  split_ifs with h
  · rw [Nat.zero_mod, Nat.mod_eq_zero_of_dvd (h2.trans (Nat.dvd_of_mod_eq_zero h))]
  · rfl

/-- A number of the format is its own rounded bound, by a code of its parity. -/
theorem FFmt.bound_of_value (hf : f.Proper) (h : isNumber (f.value k)) : isNumber (f.value (f.bound mode (f.value k)))
    ∧ ratOf (f.value (f.bound mode (f.value k))) = ratOf (f.value k) ∧ f.bound mode (f.value k) % 2 = k % 2 := by
  obtain ⟨n, m, e, hv⟩ := isNumber_iff_fin.1 h
  obtain ⟨hlt, hle, htop⟩ := f.fin_of_value hf hv
  obtain ⟨-, hnum, -, hval⟩ := f.roundExact_exact (mode := mode) hf (f.grid_fin (neg := n) hlt hle) (f.abs_fin_lt hlt htop)
  have hb : f.bound mode (f.value k) = f.plusZeroed (f.roundExact mode n m e).1 := by rw [hv]; rfl
  obtain ⟨hx, hn⟩ := f.ext_plusZeroed hf (f.roundExact mode n m e).1
  rw [FVal.ext_number hnum, hval] at hx
  have hnumber : isNumber (f.value (f.plusZeroed (f.roundExact mode n m e).1)) :=
    FVal.isNumber_of_ext (hn.trans hnum.1) (by simp [hx]) (by simp [hx])
  rw [FVal.ext_number hnumber, ereal_inj] at hx
  rw [hb, f.plusZeroed_mod_two hf, f.roundExact_mod_two hf hv, hx, hv]
  exact ⟨hnumber, rfl, rfl⟩

theorem code_eq_zero (h : plusZero f c) (hn : isNumber (f.value c)) (h0 : ratOf (f.value c) = 0) : c = 0 :=
  h ((FVal.ext_eq_zero hn.1).1 (by rw [FVal.ext_number hn, h0, ereal_zero]))

/-! ### Rounding to nearest between two numbers of the format (R82, R133) -/

theorem FFmt.isNan_roundExact (hf : f.Proper) : (f.value (f.roundExact mode neg m e).1).isNan = false := by
  rcases eq_or_ne m 0 with rfl | hm
  · rw [f.roundExact_zero, f.value_signed (Nat.zero_lt_of_lt (f.one_lt_infCode hf))]
    rfl
  rcases lt_or_ge (f.roundedCode mode neg m e) f.infCode with hc | hc
  · obtain ⟨uf, hr, -⟩ := f.roundExact_finite hm hc
    rw [hr, f.value_signed hc]
    rfl
  · rw [f.roundExact_overflow hm hc]
    split_ifs
    · rw [f.value_infinity]
      rfl
    · exact (f.isNumber_max hf neg).1

/-- A number between two of the format does not overflow to nearest: either of them is closer than a number above the format's. -/
theorem FFmt.ov_of_between {l h : Nat} (hf : f.Proper) (hl : isNumber (f.value l)) (hh : isNumber (f.value h)) (hm : m ≠ 0)
    (h1 : ratOf (f.value l) ≤ ratOf (.fin neg m e)) (h2 : ratOf (.fin neg m e) ≤ ratOf (f.value h)) : (f.roundExact .rne neg m e).2.ov = false := by
  rcases lt_or_ge (f.roundedCode .rne neg m e) f.infCode with hc | hc
  · obtain ⟨uf, hr, -⟩ := f.roundExact_finite hm hc
    rw [hr]
  · have hbig := (f.max_lt hf).trans_le (f.le_of_overflow hf hm hc)
    have hcl := (f.closer_of_sameCell (mode := .rne) (neg := neg) (e := e) hm hl (.refl _)).1
    have hch := (f.closer_of_sameCell (mode := .rne) (neg := neg) (e := e) hm hh (.refl _)).1
    have hlmax := (abs_le.1 (f.abs_le_max hf hl)).1
    have hhmax := (abs_le.1 (f.abs_le_max hf hh)).2
    set y := ratOf (.fin neg (roundAt .rne neg m e (f.quantum m e)).1 (f.quantum m e))
    rw [absOf_eq_abs, absOf_eq_abs] at hcl hch
    rw [abs_of_nonpos (by linarith : ratOf (f.value l) - ratOf (.fin neg m e) ≤ 0)] at hcl
    rw [abs_of_nonneg (by linarith : 0 ≤ ratOf (f.value h) - ratOf (.fin neg m e))] at hch
    rcases lt_abs.1 hbig with hy | hy
    · linarith [le_abs_self (y - ratOf (.fin neg m e))]
    · linarith [neg_abs_le (y - ratOf (.fin neg m e))]

/-- A number between two of the format is rounded to nearest (R82). -/
theorem FFmt.isRounded_roundDy {l h : Nat} (hf : f.Proper) (hl : isNumber (f.value l)) (hh : isNumber (f.value h)) {d : Dyadic}
    (h1 : ratOf (f.value l) ≤ d.num) (h2 : d.num ≤ ratOf (f.value h)) : isRounded f .rne (f.roundDy .rne d false).1 d.num := by
  have hd : ratOf (.fin (decide (d.m < 0)) d.m.natAbs d.e) = d.num := by rw [ratOf_eq_num]; exact congrArg Dyadic.num (dyadic_val d)
  rw [f.roundDy_eq]
  split_ifs with hm
  · rw [← hd] at h1 h2 ⊢
    have hm' : d.m.natAbs ≠ 0 := Int.natAbs_ne_zero.2 hm
    exact (f.roundExact_spec hf hm' (f.ov_of_between hf hl hh hm' h1 h2)).1
  · obtain ⟨hn, hz⟩ := value_zero_code hf
    rw [d.num_eq_zero_iff.2 (not_not.1 hm)]
    refine ⟨hn, fun c _ => ?_⟩
    change absOf (ratOf (f.value 0) - 0) ≤ _ ∧ (absOf (ratOf (f.value 0) - 0) = _ → _ ∨ 0 % 2 = 0)
    rw [hz, sub_self, absOf_eq_abs, absOf_eq_abs, abs_zero]
    exact ⟨abs_nonneg _, fun _ => .inr rfl⟩

/-- What is as close to the mean of two numbers as one between them is between them. -/
theorem between_of_close_to_mean {a b y z : Rat} (h1 : a < z) (h2 : z < b) (h : |y - (a + b) / 2| ≤ |z - (a + b) / 2|) : a < y ∧ y < b := by
  have hz : |z - (a + b) / 2| < (b - a) / 2 := abs_lt.2 ⟨by linarith, by linarith⟩
  obtain ⟨hl, hu⟩ := abs_lt.1 (h.trans_lt hz)
  exact ⟨by linarith, by linarith⟩

/-- A code that stands for the same number, with the same parity, is the rounding of the same number. -/
theorem isRounded_congr {c' : Nat} {v : Rat} (h : isRounded f mode c v) (hn : isNumber (f.value c')) (hr : ratOf (f.value c') = ratOf (f.value c))
    (hp : c' % 2 = c % 2) : isRounded f mode c' v := by
  rw [isRounded_iff] at h ⊢
  rw [hr, hp]
  exact ⟨hn, h.2⟩

/-! ### Midpoints (R133) -/

/-- The sum of two numbers, halved. -/
def halfSum (lo hi : FVal) : Dyadic := ⟨(lo.dyadic.add hi.dyadic).m, (lo.dyadic.add hi.dyadic).e - 1⟩

theorem num_halfSum (lo hi : FVal) : (halfSum lo hi).num = (ratOf lo + ratOf hi) / 2 := by
  rw [ratOf_eq_num, ratOf_eq_num, ← Dyadic.num_add, halfSum, Dyadic.num, Dyadic.num, zpow_sub_one₀ two_ne_zero]
  ring

/-- The code that a midpoint is, where it lies between the bounds (R133). -/
def FFmt.midCode (f : FFmt) (lo hi : FVal) : Nat :=
  if lo = .inf true ∧ hi = .inf false then 0
  else if lo = .inf true then f.signed true f.maxCode
  else if hi = .inf false then f.maxCode
  else (f.roundDy .rne (halfSum lo hi) false).1

/-- The value that a midpoint is (R133). -/
def FFmt.midValue (f : FFmt) (lo hi : FVal) : FVal :=
  let v := f.value (f.midCode lo hi)
  if lo.ltn v && v.ltn hi then v else if lo = .inf true then hi else lo

theorem FFmt.ivMid_eq (f : FFmt) (lo hi : FVal) : f.ivMid lo hi = f.bound .rne (f.midValue lo hi) := rfl

theorem FFmt.isNan_midCode (hf : f.Proper) (lo hi : FVal) : (f.value (f.midCode lo hi)).isNan = false := by
  unfold FFmt.midCode
  split_ifs
  · exact (value_zero_code hf).1.1
  · exact (f.isNumber_max hf true).1
  · exact (f.isNumber_max hf false).1
  · rw [f.roundDy_eq]
    split_ifs
    · exact f.isNan_roundExact hf
    · exact (value_zero_code hf).1.1

theorem FFmt.midCode_line (f : FFmt) : f.midCode (.inf true) (.inf false) = 0 := rfl

theorem FFmt.midCode_low (f : FFmt) {hi : FVal} (hh : isNumber hi) : f.midCode (.inf true) hi = f.signed true f.maxCode := by
  have : hi ≠ .inf false := by rintro rfl; exact Bool.noConfusion hh.2
  rw [FFmt.midCode, if_neg (fun h => this h.2), if_pos rfl]

theorem FFmt.midCode_high (f : FFmt) {lo : FVal} (hl : isNumber lo) : f.midCode lo (.inf false) = f.maxCode := by
  have : lo ≠ .inf true := by rintro rfl; exact Bool.noConfusion hl.2
  rw [FFmt.midCode, if_neg (fun h => this h.1), if_neg this, if_pos rfl]

theorem FFmt.midCode_numbers (f : FFmt) {lo hi : FVal} (hl : isNumber lo) (hh : isNumber hi) :
    f.midCode lo hi = (f.roundDy .rne (halfSum lo hi) false).1 := by
  have hl' : lo ≠ .inf true := by rintro rfl; exact Bool.noConfusion hl.2
  have hh' : hi ≠ .inf false := by rintro rfl; exact Bool.noConfusion hh.2
  rw [FFmt.midCode, if_neg (fun h => hl' h.1), if_neg hl', if_neg hh']
end

/-- What R133 says of a code of a number between the bounds, where the format has one there. -/
structure Middle (f : FFmt) (lo hi : FVal) (c : Nat) : Prop where
  number : isNumber (f.value c)
  above : lo.ext < (f.value c).ext
  below : (f.value c).ext < hi.ext
  mean : isNumber lo → isNumber hi → isRounded f .rne c ((ratOf lo + ratOf hi) / 2)
  line : lo = .inf true → hi = .inf false → ratOf (f.value c) = 0
  least : lo = .inf true → isNumber hi → ∀ z, isNumber (f.value z) → ratOf (f.value c) ≤ ratOf (f.value z)
  largest : isNumber lo → hi = .inf false → ∀ z, isNumber (f.value z) → ratOf (f.value z) ≤ ratOf (f.value c)

section
variable {f : FFmt} {lo hi : FVal} {c k : Nat}

theorem Middle.congr (h : Middle f lo hi c) (hn : isNumber (f.value k)) (hr : ratOf (f.value k) = ratOf (f.value c)) (hp : k % 2 = c % 2) :
    Middle f lo hi k := by
  have hx : (f.value k).ext = (f.value c).ext := by rw [FVal.ext_number hn, FVal.ext_number h.number, hr]
  refine ⟨hn, hx ▸ h.above, hx ▸ h.below, fun h1 h2 => isRounded_congr (h.mean h1 h2) hn hr hp, ?_, ?_, ?_⟩ <;> rw [hr]
  · exact h.line
  · exact h.least
  · exact h.largest

variable (h : Bounds lo hi)
include h

theorem between_iff (hc : isNumber (f.value c)) :
    (ltVal lo (f.value c) ∧ ltVal (f.value c) hi) ↔ lo.ext < (f.value c).ext ∧ (f.value c).ext < hi.ext := by
  rw [ltVal_iff h.low hc.1, ltVal_iff hc.1 h.high]

theorem Middle.midpointOf (hm : Middle f lo hi c) (hz : plusZero f c) : midpointOf f lo hi c := by
  have hb := (between_iff h hm.number).2 ⟨hm.above, hm.below⟩
  have h0 := code_eq_zero hz hm.number
  exact ⟨hm.number, hb.1.1, hb.2.1, h0, fun hno => absurd ⟨hm.number, hb⟩ (hno c),
    fun _ => ⟨hb.1, hb.2, hm.mean, fun h1 h2 => h0 (hm.line h1 h2), hm.least, hm.largest⟩⟩

/-- Where the format has no number between the bounds, the lower one is the midpoint, or the upper one where the lower is infinite (R133). -/
theorem midpointOf_bound (hno : ∀ z, ¬(isNumber (f.value z) ∧ lo.ext < (f.value z).ext ∧ (f.value z).ext < hi.ext)) (hz : plusZero f c)
    (hn : isNumber (f.value c)) (hx : (f.value c).ext = if lo = .inf true then hi.ext else lo.ext) : midpointOf f lo hi c := by
  have hno' : ¬∃ z, isNumber (f.value z) ∧ ltVal lo (f.value z) ∧ ltVal (f.value z) hi :=
    fun ⟨z, hz, hb⟩ => hno z ⟨hz, (between_iff h hz).1 hb⟩
  have hin : lo.ext ≤ (f.value c).ext ∧ (f.value c).ext ≤ hi.ext := by
    rw [hx]
    split_ifs
    · exact ⟨h.interval.le, le_rfl⟩
    · exact ⟨le_rfl, h.interval.le⟩
  refine ⟨hn, (leVal_iff h.low hn.1).2 hin.1, (leVal_iff hn.1 h.high).2 hin.2, code_eq_zero hz hn, fun _ => ?_, fun hc => absurd hc hno'⟩
  split_ifs at hx ⊢
  · exact (eqVal_iff hn.1 h.high).2 hx
  · exact (eqVal_iff hn.1 h.low).2 hx
end

section
variable {f : FFmt} (hf : f.Proper) {al ah c : Nat} (hc : isNumber (f.value c))

theorem middle_line (hf : f.Proper) : Middle f (.inf true) (.inf false) (f.midCode (.inf true) (.inf false)) := by
  obtain ⟨hn, hz⟩ := value_zero_code hf
  rw [f.midCode_line]
  exact ⟨hn, by simp [FVal.ext_number hn], by simp [FVal.ext_number hn], fun h => absurd h (not_isNumber_inf _), fun _ _ => hz,
    fun _ h => absurd h (not_isNumber_inf _), fun h => absurd h (not_isNumber_inf _)⟩

include hf hc

/-- Above −∞ the largest negative number is below every bound that a number is below. -/
theorem middle_low (hn : isNumber (f.value ah)) (hh : (f.value c).ext < (f.value ah).ext) :
    Middle f (.inf true) (f.value ah) (f.midCode (.inf true) (f.value ah)) := by
  have hmax := f.isNumber_max hf true
  have hr := f.ratOf_signed_max hf true
  rw [if_pos rfl] at hr
  rw [FVal.ext_number hc, FVal.ext_number hn, ereal_lt_ereal] at hh
  rw [f.midCode_low hn]
  refine ⟨hmax, by simp [FVal.ext_number hmax], ?_, fun h => absurd h (not_isNumber_inf _), fun _ ht => absurd (ht ▸ hn) (not_isNumber_inf _),
    fun _ _ z hz => ?_, fun h => absurd h (not_isNumber_inf _)⟩
  · rw [FVal.ext_number hmax, FVal.ext_number hn, ereal_lt_ereal, hr]
    exact (abs_le.1 (f.abs_le_max hf hc)).1.trans_lt hh
  · rw [hr]
    exact (abs_le.1 (f.abs_le_max hf hz)).1

theorem middle_high (hn : isNumber (f.value al)) (hl : (f.value al).ext < (f.value c).ext) :
    Middle f (f.value al) (.inf false) (f.midCode (f.value al) (.inf false)) := by
  have hmax : isNumber (f.value f.maxCode) := f.isNumber_max hf false
  rw [FVal.ext_number hc, FVal.ext_number hn, ereal_lt_ereal] at hl
  rw [f.midCode_high hn]
  refine ⟨hmax, ?_, by simp [FVal.ext_number hmax], fun _ h => absurd h (not_isNumber_inf _), fun hb => absurd (hb ▸ hn) (not_isNumber_inf _),
    fun _ h => absurd h (not_isNumber_inf _), fun _ _ z hz => (abs_le.1 (f.abs_le_max hf hz)).2⟩
  rw [FVal.ext_number hmax, FVal.ext_number hn, ereal_lt_ereal]
  exact hl.trans_le (abs_le.1 (f.abs_le_max hf hc)).2

/-- Between numbers the rounded mean is at least as close to the mean as any number of the format between them. -/
theorem middle_numbers (hln : isNumber (f.value al)) (hhn : isNumber (f.value ah)) (hl : (f.value al).ext < (f.value c).ext)
    (hh : (f.value c).ext < (f.value ah).ext) : Middle f (f.value al) (f.value ah) (f.midCode (f.value al) (f.value ah)) := by
  rw [FVal.ext_number hc, FVal.ext_number hln, ereal_lt_ereal] at hl
  rw [FVal.ext_number hc, FVal.ext_number hhn, ereal_lt_ereal] at hh
  have hnum := num_halfSum (f.value al) (f.value ah)
  have hr := f.isRounded_roundDy hf hln hhn (d := halfSum (f.value al) (f.value ah)) (by rw [hnum]; linarith) (by rw [hnum]; linarith)
  rw [hnum, ← f.midCode_numbers hln hhn] at hr
  have hclose := (hr.2 c hc).1
  rw [absOf_eq_abs, absOf_eq_abs] at hclose
  obtain ⟨h1, h2⟩ := between_of_close_to_mean hl hh hclose
  have hlow (h : f.value al = .inf true) : False := not_isNumber_inf _ (h ▸ hln)
  refine ⟨hr.1, ?_, ?_, fun _ _ => hr, fun h => (hlow h).elim, fun h => (hlow h).elim, fun _ h => absurd (h ▸ hhn) (not_isNumber_inf _)⟩
  · rwa [FVal.ext_number hln, FVal.ext_number hr.1, ereal_lt_ereal]
  · rwa [FVal.ext_number hhn, FVal.ext_number hr.1, ereal_lt_ereal]
end

section
variable {f : FFmt} (hf : f.Proper) {al ah c : Nat} (h : Bounds (f.value al) (f.value ah))
include hf h

theorem middle_midCode (hc : isNumber (f.value c)) (hl : (f.value al).ext < (f.value c).ext) (hh : (f.value c).ext < (f.value ah).ext) :
    Middle f (f.value al) (f.value ah) (f.midCode (f.value al) (f.value ah)) := by
  by_cases hb : (f.value al).ext = ⊥ <;> by_cases ht : (f.value ah).ext = ⊤
  · rw [FVal.ext_eq_bot.1 hb, FVal.ext_eq_top.1 ht]
    exact middle_line hf
  · rw [FVal.ext_eq_bot.1 hb]
    exact middle_low hf hc (h.isNumber_high ht) hh
  · rw [FVal.ext_eq_top.1 ht]
    exact middle_high hf hc (h.isNumber_low hb) hl
  · exact middle_numbers hf hc (h.isNumber_low hb) (h.isNumber_high ht) hl hh

/-- The value of a midpoint is one of the format, between the bounds where there is one, and otherwise a bound. -/
theorem midValue_cases : (Middle f (f.value al) (f.value ah) (f.midCode (f.value al) (f.value ah))
      ∧ f.midValue (f.value al) (f.value ah) = f.value (f.midCode (f.value al) (f.value ah)))
    ∨ ((∀ c, ¬(isNumber (f.value c) ∧ (f.value al).ext < (f.value c).ext ∧ (f.value c).ext < (f.value ah).ext))
      ∧ f.midValue (f.value al) (f.value ah) = f.value (if f.value al = .inf true then ah else al)) := by
  have hn := f.isNan_midCode hf (f.value al) (f.value ah)
  have hb := FVal.ltn_iff h.low hn
  have ha := FVal.ltn_iff hn h.high
  by_cases hc : ∃ c, isNumber (f.value c) ∧ (f.value al).ext < (f.value c).ext ∧ (f.value c).ext < (f.value ah).ext
  · obtain ⟨c, hc, hl, hh⟩ := hc
    have hm := middle_midCode hf h hc hl hh
    refine .inl ⟨hm, if_pos ?_⟩
    rw [hb.2 hm.above, ha.2 hm.below]
    rfl
  · rw [apply_ite f.value]
    refine .inr ⟨fun c hx => hc ⟨c, hx⟩, if_neg fun hx => hc ⟨f.midCode (f.value al) (f.value ah), ?_⟩⟩
    rw [Bool.and_eq_true, hb, ha] at hx
    exact ⟨FVal.isNumber_of_ext hn (bot_le.trans_lt hx.1).ne' (hx.2.trans_le le_top).ne, hx⟩

/-- Where the format has no number between the bounds, the bound that is the midpoint is a number. -/
theorem isNumber_bound (hno : ∀ c, ¬(isNumber (f.value c) ∧ (f.value al).ext < (f.value c).ext ∧ (f.value c).ext < (f.value ah).ext)) :
    isNumber (f.value (if f.value al = .inf true then ah else al)) := by
  split_ifs with hb
  · refine h.isNumber_high fun ht => ?_
    obtain ⟨hn, -⟩ := value_zero_code hf
    exact hno 0 ⟨hn, by simp [hb, FVal.ext_number hn], by simp [ht, FVal.ext_number hn]⟩
  · exact h.isNumber_low (mt FVal.ext_eq_bot.1 hb)

theorem midpointOf_ivMid : midpointOf f (f.value al) (f.value ah) (f.ivMid (f.value al) (f.value ah)) := by
  have hz := f.bound_plusZero hf .rne (f.midValue (f.value al) (f.value ah))
  rw [f.ivMid_eq]
  rcases midValue_cases hf h with ⟨hm, hv⟩ | ⟨hno, hv⟩ <;> rw [hv] at hz ⊢
  · obtain ⟨hn, hr, hp⟩ := f.bound_of_value (mode := .rne) hf hm.number
    exact (hm.congr hn hr hp).midpointOf h hz
  · have hb := isNumber_bound hf h hno
    obtain ⟨hn, hr, -⟩ := f.bound_of_value (mode := .rne) hf hb
    refine midpointOf_bound h hno hz hn ?_
    rw [FVal.ext_number hn, hr, ← FVal.ext_number hb, apply_ite f.value, apply_ite FVal.ext]

/-! ### Widths (R134) -/

theorem widthOf_ivWid : widthOf f (f.value al) (f.value ah) (f.ivWid (.mk (f.value al) (f.value ah))) := by
  rw [FFmt.ivWid]
  split_ifs with hi
  · have hv : f.value f.infCode = .inf false := f.value_infinity false
    refine ⟨fun hz => ?_, fun _ => hv, fun hl hh => ?_⟩
    · rw [hv] at hz
      exact Bool.noConfusion hz
    · rw [hl.2, hh.2] at hi
      exact Bool.noConfusion hi
  · obtain ⟨hli, hhi⟩ : (f.value al).isInf = false ∧ (f.value ah).isInf = false := by simpa using hi
    set d := (f.value ah).dyadic.sub (f.value al).dyadic with hd
    have hdn : d.num = ratOf (f.value ah) - ratOf (f.value al) := Dyadic.num_sub ..
    have hw : Directed f true (f.bound .rup d.val) (ereal d.num) := by
      rw [← FVal.ext_dyadic_val]
      exact f.bound_directed hf rfl
    have hz := f.bound_plusZero hf .rup d.val
    generalize f.bound .rup d.val = k at *
    refine ⟨hz, fun hb => ?_, fun _ _ => ?_⟩
    · rcases hb with hb | hb
      · rw [hb] at hli
        exact Bool.noConfusion hli
      · rw [hb] at hhi
        exact Bool.noConfusion hhi
    have hout : ereal d.num ≤ (f.value k).ext := hw.outer
    have hcl (z : Nat) (hz : isNumber (f.value z)) (hle : d.num ≤ ratOf (f.value z)) : (f.value k).ext ≤ ereal (ratOf (f.value z)) := by
      have : Outer true (f.value z).ext (ereal d.num) := by rw [FVal.ext_number hz]; exact ereal_le_ereal.2 hle
      rw [← FVal.ext_number hz]
      exact hw.closest z hz.1 this
    rw [← hdn]
    rcases FVal.ext_cases hw.number with hb | ht | hn
    · rw [hb, le_bot_iff] at hout
      exact absurd hout ereal_ne_bot
    · refine .inl ⟨FVal.ext_eq_top.1 ht, fun z hz => not_le.1 fun hle => ?_⟩
      have := hcl z hz hle
      rw [ht, top_le_iff] at this
      exact ereal_ne_top this
    · rw [FVal.ext_number hn] at hout hcl
      refine .inr ⟨hn, ereal_le_ereal.1 hout, fun z hz hle => ereal_le_ereal.1 (hcl z hz hle), fun he => ?_⟩
      obtain ⟨h0, hr0⟩ := value_zero_code hf
      rw [eqVal_iff h.low h.high, FVal.ext_number ⟨h.low, hli⟩, FVal.ext_number ⟨h.high, hhi⟩, ereal_inj] at he
      rw [he, sub_self] at hdn
      rw [hdn, ereal_le_ereal] at hout
      refine code_eq_zero hz hn (le_antisymm ?_ hout)
      have := hcl 0 h0 (by rw [hdn, hr0])
      rwa [hr0, ereal_le_ereal] at this
end
end Sys2Proof.Machine
end

/-! Relations and tests of intervals, and what their results enclose: O13 (R127 to R137) -/
section
namespace Sys2Proof.Machine

/-! ### Relations (R135, R136) -/

theorem isTri_pTri {t f : Bool} {isTrue isFalse : Prop} (ht : t = true ↔ isTrue) (hf : f = true ↔ isFalse) (h : isTrue → ¬isFalse) :
    isTri (pTri t f) isTrue isFalse := by
  rw [← ht, ← hf] at h ⊢
  cases t <;> cases f <;> simp [isTri, pTri, pTrue, pFalse, pUndecided] at h ⊢

theorem isTwo_pOf {t : Bool} {isTrue : Prop} (ht : t = true ↔ isTrue) : isTwo (pOf t) isTrue := by
  rw [← ht]
  cases t <;> simp [isTwo, pOf, pTrue, pFalse]

section
variable {x y : FVal} (hx : x.isNan = false) (hy : y.isNan = false)
include hx hy

theorem leq_eq_true_iff : x.leq y = true ↔ leVal x y := (FVal.leq_iff hx hy).trans (leVal_iff hx hy).symm

theorem ltn_eq_true_iff : x.ltn y = true ↔ ltVal x y := (FVal.ltn_iff hx hy).trans (ltVal_iff hx hy).symm

theorem eqn_eq_true_iff : x.eqn y = true ↔ eqVal x y := (FVal.eqn_iff hx hy).trans (eqVal_iff hx hy).symm
end

section
variable {a b c d : FVal} (ha : a.isNan = false) (hb : b.isNan = false) (hc : c.isNan = false) (hd : d.isNan = false)
include ha hb hc hd

/-- Of intervals one of which is below the other at most one of the orders of their facing bounds holds. -/
theorem not_leVal_of_ltVal (hab : leVal a b) (hcd : leVal c d) (h : ltVal b c) : ¬leVal d a := by
  rw [leVal_iff ha hb] at hab
  rw [leVal_iff hc hd] at hcd
  rw [ltVal_iff hb hc] at h
  rw [leVal_iff hd ha, not_le]
  exact hab.trans_lt (h.trans_le hcd)

theorem not_ltVal_of_leVal (hab : leVal a b) (hcd : leVal c d) (h : leVal b c) : ¬ltVal d a :=
  fun hda => not_leVal_of_ltVal hc hd ha hb hcd hab hda h

/-- The same number is no interval apart from itself. -/
theorem not_apart_of_point (h : eqVal a b ∧ eqVal b c ∧ eqVal c d) : ¬(ltVal b c ∨ ltVal d a) := by
  rw [eqVal_iff ha hb, eqVal_iff hb hc, eqVal_iff hc hd] at h
  rw [ltVal_iff hb hc, ltVal_iff hd ha]
  obtain ⟨h1, h2, h3⟩ := h
  simp [h1, h2, h3]

theorem apart_iff : (b.ltn c || d.ltn a) = true ↔ ltVal b c ∨ ltVal d a := by rw [Bool.or_eq_true, ltn_eq_true_iff hb hc, ltn_eq_true_iff hd ha]

theorem point_iff : (a.eqn b && b.eqn c && c.eqn d) = true ↔ eqVal a b ∧ eqVal b c ∧ eqVal c d := by
  rw [Bool.and_eq_true, Bool.and_eq_true, eqn_eq_true_iff ha hb, eqn_eq_true_iff hb hc, eqn_eq_true_iff hc hd, and_assoc]

/-- The relations that are true, false or undecided (R135). -/
theorem isTri_ivCmp (hab : leVal a b) (hcd : leVal c d) : let r (k : IvRel) : Word := ivCmp k (.mk a b) (.mk c d)
    isTri (r .lt) (ltVal b c) (leVal d a) ∧ isTri (r .le) (leVal b c) (ltVal d a) ∧ isTri (r .gt) (ltVal d a) (leVal b c)
    ∧ isTri (r .ge) (leVal d a) (ltVal b c) ∧ isTri (r .eq) (eqVal a b ∧ eqVal b c ∧ eqVal c d) (ltVal b c ∨ ltVal d a)
    ∧ isTri (r .ne) (ltVal b c ∨ ltVal d a) (eqVal a b ∧ eqVal b c ∧ eqVal c d) := by
  have hlt := not_leVal_of_ltVal ha hb hc hd hab hcd
  have hle := not_ltVal_of_leVal ha hb hc hd hab hcd
  have hpt := not_apart_of_point ha hb hc hd
  have happ := apart_iff ha hb hc hd
  have hpoint := point_iff ha hb hc hd
  exact ⟨isTri_pTri (ltn_eq_true_iff hb hc) (leq_eq_true_iff hd ha) hlt, isTri_pTri (leq_eq_true_iff hb hc) (ltn_eq_true_iff hd ha) hle,
    isTri_pTri (ltn_eq_true_iff hd ha) (leq_eq_true_iff hb hc) fun h h' => hle h' h,
    isTri_pTri (leq_eq_true_iff hd ha) (ltn_eq_true_iff hb hc) fun h h' => hlt h' h, isTri_pTri hpoint happ hpt, isTri_pTri happ hpoint fun h h' => hpt h' h⟩

/-- The relations that are true or false (R136). -/
theorem isTwo_ivCmp : let r (k : IvRel) : Word := ivCmp k (.mk a b) (.mk c d)
    isTwo (r .sub) (leVal c a ∧ leVal b d)
    ∧ isTwo (r .int) ((ltVal c a ∨ (a = .inf true ∧ c = .inf true)) ∧ (ltVal b d ∨ (b = .inf false ∧ d = .inf false)))
    ∧ isTwo (r .dis) (ltVal b c ∨ ltVal d a) ∧ isTwo (r .seq) (eqVal a c ∧ eqVal b d) ∧ isTwo (r .clt) (ltVal b c) ∧ isTwo (r .cle) (leVal b c)
    ∧ isTwo (r .plt) (ltVal a d) ∧ isTwo (r .ple) (leVal a d) := by
  refine ⟨isTwo_pOf ?sub, isTwo_pOf ?int, isTwo_pOf (apart_iff ha hb hc hd), isTwo_pOf ?seq, isTwo_pOf (ltn_eq_true_iff hb hc),
    isTwo_pOf (leq_eq_true_iff hb hc), isTwo_pOf (ltn_eq_true_iff ha hd), isTwo_pOf (leq_eq_true_iff ha hd)⟩
  case sub => rw [Bool.and_eq_true, leq_eq_true_iff hc ha, leq_eq_true_iff hb hd]
  case int =>
    simp only [Bool.and_eq_true, Bool.or_eq_true, decide_eq_true_eq, ltn_eq_true_iff hc ha, ltn_eq_true_iff hb hd]
  case seq => rw [Bool.and_eq_true, eqn_eq_true_iff ha hc, eqn_eq_true_iff hb hd]
end

/-- Relations of which one operand is empty (R135, R136). -/
theorem ivCmp_empty (x y : Iv) (h : x = .empty ∨ y = .empty) :
    (∀ k ∈ [IvRel.lt, .le, .gt, .ge, .eq, .ne], ivCmp k x y = 0xFFFFFFFF) ∧ (∀ k ∈ [IvRel.sub, .int], isTwo (ivCmp k x y) (x = .empty))
    ∧ ivCmp .dis x y = 1 ∧ isTwo (ivCmp .seq x y) (x = .empty ∧ y = .empty) ∧ ∀ k ∈ [IvRel.clt, .cle, .plt, .ple], ivCmp k x y = 0 := by
  simp only [List.forall_mem_cons, List.not_mem_nil, false_imp_iff, implies_true, and_true]
  have hseq {x y : Iv} (h : x = .empty ∨ y = .empty) : isTwo (pOf (decide (x = y))) (x = .empty ∧ y = .empty) := by
    refine isTwo_pOf ?_
    rw [decide_eq_true_iff]
    rcases h with rfl | rfl
    · exact ⟨fun h => ⟨rfl, h.symm⟩, fun h => h.2.symm⟩
    · exact ⟨fun h => ⟨h, rfl⟩, fun h => h.1⟩
  have hsub (x : Iv) : isTwo (pOf (decide (x = .empty))) (x = .empty) := isTwo_pOf decide_eq_true_iff
  cases x with
  | empty => exact ⟨⟨rfl, rfl, rfl, rfl, rfl, rfl⟩, ⟨hsub .empty, hsub .empty⟩, rfl, hseq h, rfl, rfl, rfl, rfl⟩
  | mk lo hi =>
    obtain rfl : y = .empty := h.resolve_left Iv.noConfusion
    exact ⟨⟨rfl, rfl, rfl, rfl, rfl, rfl⟩, ⟨hsub _, hsub _⟩, rfl, hseq h, rfl, rfl, rfl, rfl⟩

/-! ### Tests (R137) -/

theorem ivTest_spec {a b : FVal} (v : FVal) (ha : a.isNan = false) (hb : b.isNan = false) :
    ivTest .empty (.mk a b) v = false ∧ (ivTest .entire (.mk a b) v = true ↔ a = .inf true ∧ b = .inf false)
    ∧ (ivTest .bnd (.mk a b) v = true ↔ isNumber a ∧ isNumber b) ∧ (ivTest .pt (.mk a b) v = true ↔ eqVal a b)
    ∧ (ivTest .zero (.mk a b) v = true ↔ leVal a (.fin false 0 0) ∧ leVal (.fin false 0 0) b)
    ∧ (ivTest .mem (.mk a b) v = true ↔ v.isNan = false ∧ leVal a v ∧ leVal v b) := by
  refine ⟨rfl, by simp [ivTest], by simp [ivTest, isNumber, ha, hb], eqn_eq_true_iff ha hb, ?_, ?_⟩
  · rw [ivTest, Bool.and_eq_true, leq_eq_true_iff ha FVal.isNan_zero, leq_eq_true_iff FVal.isNan_zero hb]
    rfl
  · rw [ivTest, Bool.and_eq_true, Bool.and_eq_true, Bool.not_eq_true', and_assoc]
    exact and_congr_right fun hv => and_congr (leq_eq_true_iff ha hv) (leq_eq_true_iff hv hb)

theorem intervalTables_holds (f : FFmt) : intervalTables f := by
  refine ⟨?_, ivCmp_empty, fun v => ⟨rfl, fun q hq => decide_eq_false hq⟩, fun k l v => fun ha hb _ => ivTest_spec v ha hb⟩
  intro a b c d _ _ ha hb hc hd r apart point hab hcd
  obtain ⟨hlt, hle, hgt, hge, heq, hne⟩ := isTri_ivCmp ha hb hc hd hab hcd
  exact ⟨hlt, hle, hgt, hge, heq, hne, isTwo_ivCmp ha hb hc hd⟩

/-! ### The statement -/

/-- What a root's bounds are where it has them (R130). -/
theorem ivSqrt_eq_some {f : FFmt} {al ah : Nat} {c : Nat × Nat} (h : Bounds (f.value al) (f.value ah))
    (hc : f.ivSqrt (.mk (f.value al) (f.value ah)) = some c) :
    c = (f.rootB .rdn ((f.value al).most .zero), f.rootB .rup (f.value ah)) ∧ 0 ≤ (f.value ah).ext := by
  have h0 : ¬(f.value ah).ext < 0 := by
    rw [← ivSqrt_eq_none_iff h, hc]
    exact Option.some_ne_none c
  rw [FFmt.ivSqrt] at hc
  split_ifs at hc
  exact ⟨(Option.some.inj hc).symm, not_lt.1 h0⟩

theorem value_nanCode {f : FFmt} (hf : f ∈ [f64, f32]) : f.value f.nanCode = .nan false := by
  simp only [List.mem_cons, List.not_mem_nil, or_false] at hf
  rcases hf with rfl | rfl <;> decide

/-- Settles O13: the bounds of each result are the values of the format closest to the edges of the set of exact results. -/
theorem intervalResultsEnclose : Obligations.IntervalResultsEnclose := by
  unfold Obligations.IntervalResultsEnclose
  refine ⟨?results, fun f hf => ⟨intervalTables_holds f, fun mode x _ => f.bound_plusZero (f.wide_of_mem hf).1 mode x, value_nanCode hf, rfl, rfl,
    fun b => ⟨rfl, ?_⟩⟩, ?empties⟩
  case results =>
    intro f hf g _ al ah bl bh a b ha hb ha0 hb0 both one
    have hf := (f.wide_of_mem hf).1
    obtain ⟨rfl, hab⟩ := exists_bounds_of_ivPair ha ha0
    obtain ⟨rfl, hbb⟩ := exists_bounds_of_ivPair hb hb0
    refine ⟨tightest_add hf hab hbb, tightest_sub hf hab hbb, tightest_mul hf hab hbb, exists_ivDiv hf hab hbb, tightest_negate hf hab, tightest_abs hf hab,
      tightest_sqr hf hab, tightest_hull hf hab hbb, tightest_meet hf hab hbb, meet_eq_empty hab hbb, ?_, ivSqrt_eq_none hab, isSome_ivSqrt hab, ?_, ?_⟩
    · intro gl gh v hv hv0
      obtain ⟨rfl, hvb⟩ := exists_bounds_of_ivPair hv hv0
      exact tightest_self hf hvb
    · intro c hc
      obtain ⟨rfl, h0⟩ := ivSqrt_eq_some hab hc
      obtain ⟨hlz, hln, hl0, hlu, hlz'⟩ := rootB_low hf hab
      obtain ⟨hhz, hhu, hhz'⟩ := rootB_high hf hab h0
      exact ⟨hlz, hhz, ⟨hln, hl0, hlu⟩, hhu, fun z hz hz0 => ⟨hlz' z hz hz0, hhz' z hz hz0⟩⟩
    · intro lo hi h
      obtain ⟨rfl, rfl⟩ := Iv.mk.inj h
      exact ⟨midpointOf_ivMid hf hab, widthOf_ivWid hf hab⟩
  case empties =>
    intro b
    refine ⟨rfl, ?_, rfl, ?_, rfl, ?_, rfl, ?_, rfl, rfl, rfl⟩ <;> cases b <;> rfl
  cases b <;> rfl
end Sys2Proof.Machine
end

/-! What the homes, the caches, the flags and the writes of bytes leave of the engines and the matrix contexts (R159, R241, R245, R263) -/
section
namespace Sys2Proof.Machine

/-! ### Tables and cores -/

theorem Tbl.look_map {α β : Type} {g : Nat × α → Nat × β} (hg : ∀ e, (g e).1 = e.1) (t : Tbl α) (k : Nat) :
    Tbl.look (t.map g) k = (t.look k).map fun v => (g (k, v)).2 := by
  induction t with
  | nil => rfl
  | cons e t ih =>
    obtain ⟨j, v⟩ := e
    have hj : g (j, v) = (j, (g (j, v)).2) := Prod.ext (hg (j, v)) rfl
    rw [List.map_cons, hj]
    by_cases h : j = k
    · subst h; simp [Tbl.look]
    · simp only [Tbl.look, if_neg h, ih]

theorem Tbl.mem_of_look {α : Type} {t : Tbl α} {k : Nat} {v : α} (h : t.look k = some v) : (k, v) ∈ t := by
  induction t with
  | nil => cases h
  | cons e t ih =>
    obtain ⟨j, w⟩ := e
    simp only [Tbl.look] at h
    split at h
    · next hj => cases h; subst hj; exact List.mem_cons_self
    · exact List.mem_cons_of_mem _ (ih h)

theorem State.core_updCore (s : State) (n k : Nat) (f : Core → Core) : (s.updCore n f).core k = if k = n then f (s.core n) else s.core k := by
  split
  · next h => rw [h, State.core_updCore_same]
  · next h => exact State.core_updCore_ne s f h

/-- A change of the directory drops lines of the L1s, and changes nothing else of a core. -/
theorem State.core_setDir (s : State) (d : List DirEntry) (n : Nat) : ∃ l, (s.setDir d).core n = { s.core n with l1 := l } := by
  unfold State.core State.setDir
  dsimp only
  rw [Tbl.look_map (by intro _; rfl)]
  cases s.cores.look n with
  | none => exact ⟨[], rfl⟩
  | some c => exact ⟨_, rfl⟩

@[simp] theorem Core.mc_setMc (c : Core) (k : Nat) (m : MatCtx) : (c.setMc k m).mc k = m := by
  unfold Core.mc Core.setMc
  split <;> rfl

@[simp] theorem Core.ops_setMc (c : Core) (k : Nat) (m : MatCtx) : (c.setMc k m).ops = c.ops := by
  unfold Core.setMc
  split <;> rfl

/-- What engines and matrix contexts work on stands as it did: the keys, the partitions, the next number; the operations, handles and matrix contexts of
every core; the phase of every team. -/
structure State.KeepsWork (s t : State) : Prop where
  hbmKeys : t.hbmKeys = s.hbmKeys
  wsKeys : t.wsKeys = s.wsKeys
  parts : t.parts = s.parts
  nextId : t.nextId = s.nextId
  ops : ∀ n, (t.core n).ops = (s.core n).ops
  handles : ∀ n, (t.core n).handles = (s.core n).handles
  mc : ∀ n k, (t.core n).mc k = (s.core n).mc k
  phase : ∀ n, (t.team n).map Team.phase = (s.team n).map Team.phase

section
variable {s t u : State}

theorem State.KeepsWork.refl (s : State) : s.KeepsWork s := ⟨rfl, rfl, rfl, rfl, fun _ => rfl, fun _ => rfl, fun _ _ => rfl, fun _ => rfl⟩

theorem State.KeepsWork.trans (h : s.KeepsWork t) (k : t.KeepsWork u) : s.KeepsWork u where
  hbmKeys := k.hbmKeys.trans h.hbmKeys
  wsKeys := k.wsKeys.trans h.wsKeys
  parts := k.parts.trans h.parts
  nextId := k.nextId.trans h.nextId
  ops n := (k.ops n).trans (h.ops n)
  handles n := (k.handles n).trans (h.handles n)
  mc n j := (k.mc n j).trans (h.mc n j)
  phase n := (k.phase n).trans (h.phase n)

/-- A fold of operations each of which keeps the work. -/
theorem State.KeepsWork.foldl {α : Type} {f : State → α → State} (hf : ∀ (s : State) (x : α), s.KeepsWork (f s x)) (l : List α) (s : State) :
    s.KeepsWork (l.foldl f s) := by
  induction l generalizing s with
  | nil => exact .refl s
  | cons x l ih => exact (hf s x).trans (ih (f s x))

/-- Neither the cores, the teams, the keys, the partitions nor the next number change. -/
theorem State.KeepsWork.of_same (hh : t.hbmKeys = s.hbmKeys) (hw : t.wsKeys = s.wsKeys) (hp : t.parts = s.parts) (hn : t.nextId = s.nextId)
    (hc : t.cores = s.cores) (ht : t.teams = s.teams) : s.KeepsWork t := by
  have core (n : Nat) : t.core n = s.core n := by unfold State.core; rw [hc]
  refine ⟨hh, hw, hp, hn, fun n => by rw [core], fun n => by rw [core], fun n k => by rw [core], fun n => ?_⟩
  unfold State.team
  rw [ht]

/-- The place of an operation among those of a core is where it was. -/
theorem State.KeepsWork.op (h : s.KeepsWork t) (n id : Nat) : (t.core n).op id = (s.core n).op id := by
  unfold Core.op
  rw [h.ops n]

theorem State.KeepsWork.handle (h : s.KeepsWork t) (n k : Nat) : (t.core n).handle k = (s.core n).handle k := by
  unfold Core.handle
  rw [h.handles n]

/-- The copies whose welts wait are those that waited. -/
theorem State.KeepsWork.landed (h : s.KeepsWork t) (n k : Nat) : (t.core n).landed k = (s.core n).landed k := by
  unfold Core.landed Core.ofMc
  rw [h.ops n, h.mc n k]

theorem State.KeepsWork.queueRoom (h : s.KeepsWork t) (n k : Nat) : (t.core n).queueRoom k = (s.core n).queueRoom k := by
  unfold Core.queueRoom
  rw [h.landed n k, h.mc n k]

theorem State.KeepsWork.tileBusy (h : s.KeepsWork t) (n k j : Nat) : (t.core n).tileBusy k j = (s.core n).tileBusy k j := by
  unfold Core.tileBusy Core.ofMc
  rw [h.ops n, h.mc n k]

/-- A team holds the matrix context that it held. -/
theorem State.KeepsWork.mcOf (h : s.KeepsWork t) (e : Env) : t.mcOf e = s.mcOf e := by
  have h0 : (t.core e.core).mc0 = (s.core e.core).mc0 := h.mc e.core 0
  have h1 : (t.core e.core).mc1 = (s.core e.core).mc1 := h.mc e.core 1
  unfold State.mcOf Core.mcOf
  rw [h0, h1]

theorem State.KeepsWork.boundsFault (h : s.KeepsWork t) (e : Env) (sp : Space) (a n : Nat) : t.boundsFault e sp a n = s.boundsFault e sp a n := by
  unfold State.boundsFault
  rw [h.parts]

/-- An operation whose team lives is no orphan. -/
theorem State.KeepsWork.orphan_eq_false (h : s.KeepsWork t) {o : EngOp} {tm : Team} (htm : s.team o.ref.team = some tm) (hp : tm.phase ≠ .killed) :
    t.orphan o = false := by
  have hm := h.phase o.ref.team
  rw [htm, Option.map_some, Option.map_eq_some_iff] at hm
  obtain ⟨tm', htm', hp'⟩ := hm
  unfold State.orphan
  rw [htm']
  exact decide_eq_false (hp' ▸ hp)

/-- The same memories under the same keys hold the same bytes. -/
theorem State.KeepsWork.byte (h : s.KeepsWork t) (hm : t.mems = s.mems) (k : MemId) (b : Nat) : t.byte k b = s.byte k b := by
  have mask : t.mask k b = s.mask k b := by cases k <;> simp [State.mask, h.hbmKeys, h.wsKeys]
  simp [State.byte, State.mem, hm, mask]

theorem State.load_congr (h : ∀ m a, t.byte m a = s.byte m a) (b : Target) (n : Nat) : t.load b n = s.load b n := by
  unfold State.load
  rw [State.bytes_congr h]

theorem State.KeepsWork.load (h : s.KeepsWork t) (hm : t.mems = s.mems) (b : Target) (n : Nat) : t.load b n = s.load b n :=
  State.load_congr (h.byte hm) b n
end

/-! ### Changes of cores and teams -/

/-- A change of a core that leaves its operations, handles and matrix contexts. -/
theorem State.keepsWork_updCore (s : State) (n : Nat) {f : Core → Core} (ho : ∀ c, (f c).ops = c.ops) (hh : ∀ c, (f c).handles = c.handles)
    (hm : ∀ c k, (f c).mc k = c.mc k) : s.KeepsWork (s.updCore n f) := by
  have core (k : Nat) : (s.updCore n f).core k = s.core k ∨ (s.updCore n f).core k = f (s.core k) := by
    rw [State.core_updCore]
    split
    · next h => exact .inr (by rw [h])
    · exact .inl rfl
  refine ⟨rfl, rfl, rfl, rfl, fun k => ?_, fun k => ?_, fun k j => ?_, fun _ => rfl⟩
  · rcases core k with h | h <;> simp only [h, ho]
  · rcases core k with h | h <;> simp only [h, hh]
  · rcases core k with h | h <;> simp only [h, hm]

theorem State.keepsWork_setDir (s : State) (d : List DirEntry) : s.KeepsWork (s.setDir d) := by
  have core (n : Nat) : ∃ l, (s.setDir d).core n = { s.core n with l1 := l } := s.core_setDir d n
  refine ⟨rfl, rfl, rfl, rfl, fun n => ?_, fun n => ?_, fun n k => ?_, fun _ => rfl⟩ <;> obtain ⟨l, h⟩ := core n
  · rw [h]
  · rw [h]
  · rw [h]
    rfl

theorem State.keepsWork_updTeam (s : State) (n : Nat) {f : Team → Team} (hf : ∀ tm, (f tm).phase = tm.phase) : s.KeepsWork (s.updTeam n f) := by
  unfold State.updTeam
  split
  · next tm htm =>
    refine ⟨rfl, rfl, rfl, rfl, fun _ => rfl, fun _ => rfl, fun _ _ => rfl, fun k => ?_⟩
    by_cases hk : n = k
    · subst hk; rw [State.team_setTeam, htm, Option.map_some, Option.map_some, hf]
    · unfold State.team State.setTeam; rw [Tbl.look_put_ne _ _ hk]
  · exact .refl s

theorem State.keepsWork_updThread (s : State) (r : ThreadRef) (f : Thread → Thread) : s.KeepsWork (s.updThread r f) := by
  unfold State.updThread
  split
  · exact s.keepsWork_updTeam _ fun _ => rfl
  · exact .refl s

theorem State.keepsWork_countAt (s : State) (p : Nat) (k : Counter) (l : List Nat) : s.KeepsWork (s.countAt p k l) := by
  unfold State.countAt
  split
  · exact .refl s
  · exact s.keepsWork_updCore _ (fun _ => rfl) (fun _ => rfl) fun _ _ => rfl

theorem State.keepsWork_count (s : State) (k : Counter) (l : List Nat) : s.KeepsWork (s.count k l) := s.keepsWork_countAt _ k l

theorem State.keepsWork_raise (s : State) (k : Counter) (cs : List Conds) : s.KeepsWork (s.raise k cs) :=
  (s.keepsWork_updThread _ _).trans (State.keepsWork_count _ _ _)

theorem State.keepsWork_raiseLast (s : State) (k : Counter) (cs : List Conds) : s.KeepsWork (s.raiseLast k cs) :=
  (s.keepsWork_updThread _ _).trans (State.keepsWork_countAt _ _ _ _)

/-- The dead reads that an instruction counts touch no engine and no matrix context (R89). -/
theorem State.keepsWork_counted (s : State) (e : Env) (i : Instr) : s.KeepsWork (s.counted e i) := by
  have phased (s : State) (n m : Nat) : s.KeepsWork ((s.countDead e.counter n).setPhase e.ref m) :=
    (s.keepsWork_count _ _).trans (State.keepsWork_updThread _ _ _)
  have guard : s.KeepsWork (s.guardCounted e i) := by
    unfold State.guardCounted
    split
    · split
      · exact phased _ _ _
      · exact .refl s
    · exact .refl s
  unfold State.counted
  dsimp only
  split
  · exact guard.trans (phased _ _ _)
  · exact guard

@[simp] theorem State.counted_mems (s : State) (e : Env) (i : Instr) : (s.counted e i).mems = s.mems := by
  have phased (s : State) (n m : Nat) : ((s.countDead e.counter n).setPhase e.ref m).mems = s.mems := by
    unfold State.countDead State.count State.countAt
    split <;> simp
  have guard : (s.guardCounted e i).mems = s.mems := by
    unfold State.guardCounted
    split
    · split
      · exact phased _ _ _
      · rfl
    · rfl
  unfold State.counted
  dsimp only
  split
  · rw [phased, guard]
  · exact guard

/-! ### Homes and caches -/

theorem State.keepsWork_wroteBy (s : State) (g : Agent) (c : Bool) (r : Range) : s.KeepsWork (s.wroteBy g c r) := by
  refine ⟨rfl, rfl, rfl, rfl, fun _ => rfl, fun _ => rfl, fun _ _ => rfl, fun n => ?_⟩
  unfold State.team State.wroteBy State.noteWrite
  dsimp only
  rw [Tbl.look_map (by intro _; rfl)]
  cases s.teams.look n <;> rfl

theorem State.keepsWork_unpoison (s : State) (r : Range) : s.KeepsWork (s.unpoison r) := .of_same rfl rfl rfl rfl rfl rfl

theorem State.keepsWork_l2Wrote (s : State) (rs : List Range) : s.KeepsWork (s.l2Wrote rs) := .of_same rfl rfl rfl rfl rfl rfl

theorem State.keepsWork_recall (s : State) (rs : List Range) : s.KeepsWork (s.recall rs) :=
  (s.keepsWork_l2Wrote _).trans (State.keepsWork_setDir _ _)

theorem State.keepsWork_homePut (s : State) (rs : List Range) : s.KeepsWork (s.homePut rs) :=
  ((s.keepsWork_recall rs).trans (State.keepsWork_l2Wrote _ rs)).trans (.foldl (fun s r => s.keepsWork_unpoison r) _ _)

theorem State.keepsWork_homeWrote (s : State) (g : Agent) (rs : List Range) : s.KeepsWork (s.homeWrote g rs) :=
  (s.keepsWork_homePut rs).trans (.foldl (fun s r => s.keepsWork_wroteBy g false r) _ _)

theorem State.keepsWork_makeL2Room (s : State) (t : Target) : s.KeepsWork (s.makeL2Room t) := by
  unfold State.makeL2Room
  split
  · exact .refl s
  · split
    · exact (s.keepsWork_recall _).trans (.of_same rfl rfl rfl rfl rfl rfl)
    · exact .refl s

theorem State.keepsWork_l2Bring (s : State) (t : Target) (v d : BitVec 16) (h p : Nat) : s.KeepsWork (s.l2Bring t v d h p) := by
  unfold State.l2Bring
  dsimp only
  split
  · exact (s.keepsWork_makeL2Room t).trans (.of_same rfl rfl rfl rfl rfl rfl)
  · exact s.keepsWork_makeL2Room t

theorem State.keepsWork_l2Results (s : State) (r : Range) : s.KeepsWork (s.l2Results r) := .foldl (fun s t => s.keepsWork_l2Bring t _ _ _ _) _ s

theorem State.keepsWork_translate (s : State) (core ctx : Nat) (last : Option Xlate) (va : Nat) : s.KeepsWork (s.translate core ctx last va).2 := by
  obtain ⟨tlb, h | h⟩ := s.translate_snd core ctx last va
  · rw [h]; exact .refl s
  · rw [h]; exact s.keepsWork_updCore core (f := fun c => { c with tlb := tlb }) (fun _ => rfl) (fun _ => rfl) fun _ _ => rfl

theorem State.keepsWork_walked (s : State) (core ctx : Nat) (l : List (Nat × Nat)) : s.KeepsWork (s.walked core ctx l) :=
  .foldl (fun s _ => .foldl (fun s _ => s.keepsWork_translate _ _ _ _) _ s) _ s

/-! ### Writes of bytes -/

theorem State.keepsWork_setByte (s : State) (k : MemId) (a : Nat) (v : Byte) : s.KeepsWork (s.setByte k a v) := .of_same rfl rfl rfl rfl rfl rfl

theorem State.keepsWork_setBytes (s : State) (t : Target) (l : List Byte) : s.KeepsWork (s.setBytes t l) := by
  induction l generalizing s t with
  | nil => exact .refl s
  | cons b l ih => exact (s.keepsWork_setByte _ _ _).trans (ih _ _)

theorem State.keepsWork_store (s : State) (t : Target) (n v : Nat) : s.KeepsWork (s.store t n v) := s.keepsWork_setBytes t _

theorem State.keepsWork_writeData (s : State) (g : Agent) (c : Bool) (t : Target) (n v : Nat) : s.KeepsWork (s.writeData g c t n v) :=
  ((s.keepsWork_store t n v).trans (State.keepsWork_unpoison _ _)).trans (State.keepsWork_wroteBy _ _ _ _)

theorem State.keepsWork_completionWord (s : State) (g : Agent) (team : Nat) (cw : Option (Nat × Word)) : s.KeepsWork (s.completionWord g team cw) := by
  unfold State.completionWord
  split
  · exact s.keepsWork_writeData _ _ _ _ _
  · exact .refl s

theorem State.keepsWork_putAt (s : State) (l : List (Option Target)) (bs : List Byte) : s.KeepsWork (s.putAt l bs) := by
  induction l generalizing s bs with
  | nil => exact .refl s
  | cons t l ih =>
    cases t with
    | none => cases bs with
      | nil => exact .refl s
      | cons b bs => exact ih s bs
    | some t => cases bs with
      | nil => exact .refl s
      | cons b bs => exact (s.keepsWork_setByte _ _ _).trans (ih _ bs)

end Sys2Proof.Machine
end

/-! Bytes and numbers that are written, and the ends of engine operations (R7, R307, R312) -/
section
namespace Sys2Proof.Machine

/-! ### Bytes and numbers of a memory -/

/-- A byte lies among the `n` bytes from a place on. -/
def Target.holds (t : Target) (n : Nat) (m : MemId) (b : Nat) : Prop := m = t.mem ∧ t.addr ≤ b ∧ b < t.addr + n

theorem Range.meets_iff (a b : Range) : a.meets b = true ↔ a.mem = b.mem ∧ a.lo < b.hi ∧ b.lo < a.hi := by
  simp [Range.meets, and_assoc]

/-- Ranges that do not meet share no byte. -/
theorem Target.not_holds_of_meets {t u : Target} {n k : Nat} (h : (t.range n).meets (u.range k) = false) {m : MemId} {b : Nat} (hb : u.holds k m b) :
    ¬t.holds n m b := by
  obtain ⟨rfl, h1, h2⟩ := hb
  rintro ⟨h3, h4, h5⟩
  have : (t.range n).meets (u.range k) = true := (Range.meets_iff _ _).2 ⟨h3.symm, by simp only [Target.range]; omega, by simp only [Target.range]; omega⟩
  simp [this] at h

theorem State.bytes_eq_map (s : State) (t : Target) (n : Nat) : s.bytes t n = (List.range n).map fun i => s.byte t.mem (t.addr + i) := by
  induction n generalizing t with
  | zero => rfl
  | succ n ih =>
    rw [State.bytes, ih, List.range_succ_eq_map, List.map_cons, List.map_map]
    simp [Function.comp_def, Nat.add_assoc, Nat.add_comm 1]

/-- A number is known by the bytes that hold it. -/
theorem State.load_congr_on {s z : State} {t : Target} {n : Nat} (h : ∀ b, t.holds n t.mem b → z.byte t.mem b = s.byte t.mem b) :
    z.load t n = s.load t n := by
  unfold State.load
  rw [State.bytes_eq_map, State.bytes_eq_map]
  refine congrArg leNat (List.map_congr_left fun i hi => h _ ⟨rfl, by omega, ?_⟩)
  have := List.mem_range.1 hi
  omega

theorem State.load_one (s : State) (t : Target) : s.load t 1 = (s.byte t.mem t.addr).toNat := by
  simp [State.load, State.bytes, leNat]

theorem State.byte_store_outside (s : State) {t : Target} {n : Nat} (v : Nat) {m : MemId} {b : Nat} (h : ¬t.holds n m b) :
    (s.store t n v).byte m b = s.byte m b := by
  refine State.byte_setBytes_outside _ _ _ _ _ ?_
  rwa [length_leBytes]

/-- A number stored is the number read, as far as its bytes hold it (R7). -/
theorem State.load_store (s : State) (t : Target) (n v : Nat) : (s.store t n v).load t n = v % 256 ^ n := by
  have h := State.bytes_setBytes (leBytes n v) s t
  rw [length_leBytes] at h
  rw [State.load, State.store, h, leNat_leBytes]

/-- A write of data at a home changes the bytes that a store does. -/
theorem State.byte_writeData (s : State) (g : Agent) (c : Bool) (t : Target) (n v : Nat) (m : MemId) (b : Nat) :
    (s.writeData g c t n v).byte m b = (s.store t n v).byte m b :=
  ((State.keepsWork_unpoison _ _).trans (State.keepsWork_wroteBy _ _ _ _)).byte rfl m b

/-! ### Stores one after another -/

section
variable {α : Type} {f : State → α → State} {at_ : α → Target} {n : Nat} {val : α → Nat}
  (hf : ∀ (s : State) (x : α) (m : MemId) (b : Nat), (f s x).byte m b = (s.store (at_ x) n (val x)).byte m b)
include hf

/-- Stores leave every byte outside them. -/
theorem State.byte_foldl_store (l : List α) (s : State) {m : MemId} {b : Nat} (h : ∀ x ∈ l, ¬(at_ x).holds n m b) :
    (l.foldl f s).byte m b = s.byte m b := by
  induction l generalizing s with
  | nil => rfl
  | cons x l ih =>
    rw [List.foldl_cons, ih _ fun y hy => h y (List.mem_cons_of_mem x hy), hf, State.byte_store_outside s _ (h x List.mem_cons_self)]

/-- Of stores no two of which meet, each number stands where it was stored. -/
theorem State.load_foldl_store {l : List α} (hp : l.Pairwise fun x y => ((at_ y).range n).meets ((at_ x).range n) = false) {x : α} (hx : x ∈ l)
    (s : State) : (l.foldl f s).load (at_ x) n = val x % 256 ^ n := by
  induction l generalizing s with
  | nil => cases hx
  | cons y l ih =>
    obtain ⟨hy, hl⟩ := List.pairwise_cons.1 hp
    rw [List.foldl_cons]
    rcases List.mem_cons.1 hx with rfl | hx
    · calc (l.foldl f (f s x)).load (at_ x) n
        _ = (f s x).load (at_ x) n :=
          State.load_congr_on fun b hb => State.byte_foldl_store hf l _ fun z hz => Target.not_holds_of_meets (hy z hz) hb
        _ = (s.store (at_ x) n (val x)).load (at_ x) n := State.load_congr (fun m b => hf s x m b) _ _
        _ = val x % 256 ^ n := State.load_store ..
    · exact ih hl hx _
end

/-! ### Bytes written at places -/

/-- Bytes written at places leave every other byte. -/
theorem State.byte_putAt_outside (l : List (Option Target)) (bs : List Byte) (s : State) {m : MemId} {b : Nat} (h : some ⟨m, b⟩ ∉ l) :
    (s.putAt l bs).byte m b = s.byte m b := by
  induction l generalizing s bs with
  | nil => rfl
  | cons t l ih =>
    obtain ⟨ht, hl⟩ : some ⟨m, b⟩ ≠ t ∧ some ⟨m, b⟩ ∉ l := ⟨fun e => h (e ▸ List.mem_cons_self), fun e => h (List.mem_cons_of_mem t e)⟩
    cases bs with
    | nil => cases t <;> rfl
    | cons v bs =>
      cases t with
      | none => exact ih bs s hl
      | some t =>
        rw [State.putAt, ih bs _ hl, State.byte_setByte, if_neg]
        rintro ⟨rfl, rfl⟩
        exact ht rfl

/-- Where two bytes go to one place, the later stays. -/
theorem State.byte_putAt_last {l : List (Option Target)} {bs : List Byte} (hlen : bs.length = l.length) (s : State) {k : Nat} {q : Target}
    (hk : l[k]? = some (some q)) (hlast : ∀ j, k < j → l[j]? ≠ some (some q)) : (s.putAt l bs).byte q.mem q.addr = bs.getD k 0 := by
  induction l generalizing s bs k with
  | nil => cases hk
  | cons t l ih =>
    cases bs with
    | nil => cases hlen
    | cons v bs =>
      have hlen' : bs.length = l.length := Nat.succ.inj hlen
      cases k with
      | zero =>
        obtain rfl : t = some q := Option.some.inj hk
        have hq : some q ∉ l := fun hm => by
          obtain ⟨j, hj⟩ := List.mem_iff_getElem?.1 hm
          exact hlast (j + 1) (Nat.succ_pos j) hj
        rw [State.putAt, State.byte_putAt_outside l bs _ hq, State.byte_setByte, if_pos ⟨rfl, rfl⟩]
        rfl
      | succ k =>
        have hrec (z : State) : (z.putAt l bs).byte q.mem q.addr = (v :: bs).getD (k + 1) 0 :=
          ih hlen' z hk fun j hj => hlast (j + 1) (Nat.succ_lt_succ hj)
        cases t with
        | none => exact hrec s
        | some t => exact hrec _

/-! ### Operations of a core -/

/-- The operation that a core finds has the number it was sought by. -/
theorem Core.id_of_op {c : Core} {id : Nat} {o : EngOp} (h : c.op id = some o) : o.id = id := by simpa using List.find?_some h

theorem Core.mem_of_op {c : Core} {id : Nat} {o : EngOp} (h : c.op id = some o) : o ∈ c.ops := List.mem_of_find?_eq_some h

/-- An operation that a core finds is among those of the package. -/
theorem State.mem_allOps_of_op {s : State} {c k : Nat} {p : EngOp} (h : (s.core c).op k = some p) : (c, p) ∈ s.allOps := by
  have hp := Core.mem_of_op h
  unfold State.core at hp
  cases hc : s.cores.look c with
  | none => rw [hc] at hp; cases hp
  | some d =>
    rw [hc] at hp
    exact List.mem_flatMap.2 ⟨(c, d), Tbl.mem_of_look hc, List.mem_map.2 ⟨p, hp, rfl⟩⟩

/-- A change of the operations of a number, which keep it, changes what is found under that number alone. -/
theorem find?_map_update {l : List EngOp} {id k : Nat} {f : EngOp → EngOp} (hf : ∀ o, (f o).id = o.id) :
    (l.map fun o => if o.id = id then f o else o).find? (fun o => o.id == k) = (l.find? fun o => o.id == k).map fun o => if k = id then f o else o := by
  induction l with
  | nil => rfl
  | cons o l ih =>
    have hid : (if o.id = id then f o else o).id = o.id := by
      split
      · exact hf o
      · rfl
    rw [List.map_cons, List.find?_cons, List.find?_cons, hid]
    by_cases hk : o.id = k
    · rw [beq_iff_eq.2 hk, ← hk]
      rfl
    · rw [beq_eq_false_iff_ne.2 hk]
      exact ih

theorem State.op_updOp (s : State) (core id c k : Nat) {f : EngOp → EngOp} (hf : ∀ o, (f o).id = o.id) :
    ((s.updOp core id f).core c).op k = ((s.core c).op k).map fun o => if c = core ∧ k = id then f o else o := by
  have hr : s.updOp core id f = (s.updCore core fun c => { c with ops := c.ops.map fun o => if o.id = id then f o else o }).reown := rfl
  rw [hr, State.reown, (State.keepsWork_setDir _ _).op, State.core_updCore]
  by_cases hc : c = core
  · subst hc
    rw [if_pos rfl]
    unfold Core.op
    rw [find?_map_update hf]
    simp
  · simp [hc]

section
variable {α : Type} {core : α → Nat} {id : α → Nat} {f : α → EngOp → EngOp} (hf : ∀ x o, (f x o).id = o.id)
include hf

/-- Changes of operations leave an operation that none of them names. -/
theorem State.op_foldl_updOp_of_not_mem {l : List α} {c k : Nat} (h : ∀ x ∈ l, ¬(c = core x ∧ k = id x)) (s : State) :
    ((l.foldl (fun s x => s.updOp (core x) (id x) (f x)) s).core c).op k = (s.core c).op k := by
  induction l generalizing s with
  | nil => rfl
  | cons x l ih =>
    rw [List.foldl_cons, ih (fun y hy => h y (List.mem_cons_of_mem x hy)), State.op_updOp _ _ _ _ _ (hf x)]
    simp [h x List.mem_cons_self]

/-- Changes of operations, all of which that name an operation have one outcome for it. -/
theorem State.op_foldl_updOp {l : List α} {c k : Nat} {p q : EngOp} (hp : ∀ x ∈ l, c = core x → k = id x → f x p = q)
    (hq : ∀ x ∈ l, c = core x → k = id x → f x q = q) (s : State) (hs : (s.core c).op k = some p) (hm : ∃ x ∈ l, c = core x ∧ k = id x) :
    ((l.foldl (fun s x => s.updOp (core x) (id x) (f x)) s).core c).op k = some q := by
  have stays : ∀ (m : List α) (z : State), (∀ x ∈ m, x ∈ l) → (z.core c).op k = some q →
      ((m.foldl (fun s x => s.updOp (core x) (id x) (f x)) z).core c).op k = some q := by
    intro m
    induction m with
    | nil => exact fun _ _ hz => hz
    | cons x m ih =>
      intro z hx hz
      refine ih _ (fun y hy => hx y (List.mem_cons_of_mem x hy)) ?_
      rw [State.op_updOp _ _ _ _ _ (hf x), hz, Option.map_some]
      split
      · next h => rw [hq x (hx x List.mem_cons_self) h.1 h.2]
      · rfl
  have reaches : ∀ (m : List α) (z : State), (∀ x ∈ m, x ∈ l) → (z.core c).op k = some p → (∃ x ∈ m, c = core x ∧ k = id x) →
      ((m.foldl (fun s x => s.updOp (core x) (id x) (f x)) z).core c).op k = some q := by
    intro m
    induction m with
    | nil => rintro _ _ _ ⟨x, hx, -⟩; cases hx
    | cons x m ih =>
      intro z hx hz hm
      have hmem : ∀ y ∈ m, y ∈ l := fun y hy => hx y (List.mem_cons_of_mem x hy)
      by_cases h : c = core x ∧ k = id x
      · refine stays m _ hmem ?_
        rw [State.op_updOp _ _ _ _ _ (hf x), hz, Option.map_some, if_pos h, hp x (hx x List.mem_cons_self) h.1 h.2]
      · obtain ⟨y, hy, hyc⟩ := hm
        refine ih _ hmem ?_ ⟨y, (List.mem_cons.1 hy).resolve_left fun e => h (e ▸ hyc), hyc⟩
        rw [State.op_updOp _ _ _ _ _ (hf x), hz, Option.map_some, if_neg h]
  exact reaches l s (fun _ h => h) hs hm

/-- Changes of operations let none of them go. -/
theorem State.exists_op_foldl_updOp (l : List α) {c k : Nat} {p : EngOp} (s : State) (hs : (s.core c).op k = some p) :
    ∃ q, ((l.foldl (fun s x => s.updOp (core x) (id x) (f x)) s).core c).op k = some q := by
  induction l generalizing s p with
  | nil => exact ⟨p, hs⟩
  | cons x l ih =>
    refine ih _ (p := if c = core x ∧ k = id x then f x p else p) ?_
    rw [State.op_updOp _ _ _ _ _ (hf x), hs, Option.map_some]
end

/-! ### The end of an operation (R307, R312) -/

theorem State.core_of_cores {s t : State} (h : t.cores = s.cores) (n : Nat) : t.core n = s.core n := by
  unfold State.core
  rw [h]

section
variable (s : State) (core : Nat) (o : EngOp) (err : Nat) (m : Word)

/-- A core once a handle has completed: the entry, and the operations that are left; the matrix contexts stand as they did. -/
theorem State.core_completeHandle : ∃ l, (s.completeHandle core o err m).core core = { s.core core with
    handles := (s.core core).handles.put o.slot { (s.core core).handle o.slot with pending := false, err := err, rmask := m }
    freed := (s.core core).freed ++ [(o.slot, (s.core core).clock)]
    ops := (s.core core).ops.filter fun p => p.id != o.id
    l1 := l } := by
  unfold State.completeHandle
  dsimp only
  rw [State.core_of_cores (State.updThread_cores _ _ _), State.core_of_cores (State.updTeam_cores _ _ _), State.reown]
  obtain ⟨l, h⟩ := State.core_setDir (s.setCore core _) (State.dir _) core
  refine ⟨l, h.trans ?_⟩
  rw [State.core_setCore]

/-- An operation that completes is gone, and its handle's entry holds the status (R307). -/
theorem State.endedWith_completeHandle : endedWith core o.id o.slot err m (s.completeHandle core o err m) := by
  obtain ⟨l, h⟩ := s.core_completeHandle core o err m
  unfold endedWith
  rw [h]
  refine ⟨?_, ?_, ?_, ?_⟩
  · simp [Core.handle]
  · simp [Core.handle]
  · simp [Core.handle]
  · unfold Core.op
    simp

theorem State.mc_completeHandle (k : Nat) : ((s.completeHandle core o err m).core core).mc k = (s.core core).mc k := by
  obtain ⟨l, h⟩ := s.core_completeHandle core o err m
  rw [h]
  rfl

theorem State.byte_completeHandle (k : MemId) (b : Nat) : (s.completeHandle core o err m).byte k b = s.byte k b := by
  have hh : (s.completeHandle core o err m).hbmKeys = s.hbmKeys := by
    simp [State.completeHandle, State.reown, (State.keepsWork_setDir _ _).hbmKeys]
  have hw : (s.completeHandle core o err m).wsKeys = s.wsKeys := by
    simp [State.completeHandle, State.reown, (State.keepsWork_setDir _ _).wsKeys]
  have mask : (s.completeHandle core o err m).mask k b = s.mask k b := by cases k <;> simp [State.mask, hh, hw]
  simp [State.byte, State.mem, mask]
end

/-- The end of an operation stays its end while nothing touches the engines. -/
theorem endedWith.keepsWork {core id slot err : Nat} {m : Word} {s t : State} (h : endedWith core id slot err m s) (k : s.KeepsWork t) :
    endedWith core id slot err m t := by
  unfold endedWith at *
  rwa [k.handle, k.op]

/-- A byte lies in the completion word of an operation. -/
def inCompletion (team : Nat) (cw : Option (Nat × Word)) (m : MemId) (b : Nat) : Prop := ∃ off v, cw = some (off, v) ∧ (localByte team off).holds 4 m b

/-- A completion word changes its own bytes alone (R312). -/
theorem State.byte_completionWord (s : State) (g : Agent) {team : Nat} {cw : Option (Nat × Word)} {m : MemId} {b : Nat}
    (h : ¬inCompletion team cw m b) : (s.completionWord g team cw).byte m b = s.byte m b := by
  unfold State.completionWord
  split
  · next off v => rw [State.byte_writeData, State.byte_store_outside _ _ fun hb => h ⟨off, v, rfl, hb⟩]
  · rfl

/-- The completion word stands in the scratchpad (R312). -/
theorem State.load_completionWord (s : State) (g : Agent) (team off : Nat) (v : Word) :
    (s.completionWord g team (some (off, v))).load (localByte team off) 4 = v.toNat := by
  have h : (s.completionWord g team (some (off, v))).load (localByte team off) 4 = (s.store (localByte team off) 4 v.toNat).load (localByte team off) 4 :=
    State.load_congr (fun m b => State.byte_writeData ..) _ _
  rw [h, State.load_store]
  exact Nat.mod_eq_of_lt v.isLt

section
variable (s : State) (core : Nat) (o : EngOp) (m : Word)

theorem State.endedWith_finishOp : endedWith core o.id o.slot 0 m (s.finishOp core o m) := State.endedWith_completeHandle ..

theorem State.byte_finishOp {k : MemId} {b : Nat} (h : ¬inCompletion o.ref.team o.cw k b) : (s.finishOp core o m).byte k b = s.byte k b := by
  rw [State.finishOp, State.byte_completeHandle, State.byte_completionWord s _ h]

theorem State.load_finishOp {off : Nat} {v : Word} (h : o.cw = some (off, v)) : (s.finishOp core o m).load (localByte o.ref.team off) 4 = v.toNat := by
  rw [State.finishOp, State.load_congr (State.byte_completeHandle _ _ _ _ _), h, State.load_completionWord]
end

end Sys2Proof.Machine
end

/-! Matrix instructions as threads issue them (R147 to R154, R160 to R165) -/
section
namespace Sys2Proof.Machine

/-! ### An instruction that takes place -/

section
variable {i : Instr} {body : Env → State → Res} {s t : State} {e : Env} (h : TakesPlaceAs i body) (hr : Runs i s e)
include h hr

theorem TakesPlaceAs.exec_done {ws : List (Reg × Word)} {pend : List Reg} (hb : body e (s.counted e i) = .done t ws pend none) :
    exec i s = .next (t.leaving e i ws pend (e.nextPc i)) := by
  rw [h s e hr, hb]
  rfl

theorem TakesPlaceAs.exec_wait {w : Wait} (hb : body e (s.counted e i) = .wait w t) : exec i s = .next (t.wait e.ref w) := by
  rw [h s e hr, hb]
  rfl

theorem TakesPlaceAs.exec_stop (hb : body e (s.counted e i) = .stop t) : exec i s = .next t := by
  rw [h s e hr, hb]
  rfl
end

/-! ### Matrix contexts and their queues -/

section
variable {s : State} {e : Env} {mc : Nat}

theorem withMc_some (h : s.mcOf e = some mc) (k : Nat → Res) : withMc e s k = k mc := by rw [withMc, h]

theorem State.updMc_congr {core : Nat} {f g : MatCtx → MatCtx} (h : f ((s.core core).mc mc) = g ((s.core core).mc mc)) :
    s.updMc core mc f = s.updMc core mc g := by
  simp only [State.updMc, State.updCore, h]

@[simp] theorem Core.setMc_setMc (c : Core) (k : Nat) (m n : MatCtx) : (c.setMc k m).setMc k n = c.setMc k n := by
  unfold Core.setMc
  split <;> rfl

theorem State.core_updMc (s : State) (core mc : Nat) (f : MatCtx → MatCtx) :
    (s.updMc core mc f).core core = (s.core core).setMc mc (f ((s.core core).mc mc)) := State.core_updCore_same ..

/-- Two changes of a context make one. -/
theorem State.updMc_updMc (s : State) (core mc : Nat) (f g : MatCtx → MatCtx) :
    (s.updMc core mc f).updMc core mc g = s.updMc core mc fun m => g (f m) := by
  rw [State.updMc, State.updCore, State.core_updMc]
  simp only [Core.mc_setMc, Core.setMc_setMc]
  simp [State.updMc, State.updCore, State.setCore, Tbl.put_put]

/-- A queue takes a command when it has an entry free and no welt waits for one (R154). -/
theorem Core.queueRoom_iff (c : Core) (mc : Nat) : c.queueRoom mc = true ↔ (c.mc mc).queue.length < 64 ∧ c.landed mc = [] := by
  rw [Core.queueRoom, Bool.and_eq_true, decide_eq_true_iff, List.isEmpty_iff, Config.commands]

/-- Whether a queue has room hangs on its own length, on the context's team and on the operations. -/
theorem Core.queueRoom_setMc (c : Core) (mc : Nat) {m : MatCtx} (hq : m.queue = (c.mc mc).queue) (ht : m.team = (c.mc mc).team) :
    (c.setMc mc m).queueRoom mc = c.queueRoom mc := by
  simp only [Core.queueRoom, Core.landed, Core.ofMc, Core.mc_setMc, Core.ops_setMc, hq, ht]

/-- A command as its thread issues it. -/
def Env.command (e : Env) (id : Nat) (kind : MKind) : MCmd :=
  { id := id, ref := e.ref, tcore := e.tcore, pc := e.t.pc, kind := kind, welt := none, einst := e.words }

/-- The package once a command has joined its context's queue, the context's sequence number moved on by `n`. -/
def State.queued (s : State) (e : Env) (mc : Nat) (kind : MKind) (n : Nat) : State :=
  (s.updMc e.core mc fun m => { m with queue := m.queue ++ [e.command s.nextId kind], seq := (m.seq + n) % 2 ^ 32 }).fresh

theorem State.queued_eq {n : Nat} (h : s.nextId = n) (e : Env) (mc : Nat) (kind : MKind) (k : Nat) : s.queued e mc kind k =
    { s.updMc e.core mc fun m => { m with queue := m.queue ++ [e.command n kind], seq := (m.seq + k) % 2 ^ 32 } with nextId := n + 1 } := by
  subst h
  rfl

theorem enqueue_of_room (h : (s.core e.core).queueRoom mc = true) (hseq : ((s.core e.core).mc mc).seq < 2 ^ 32) (kind : MKind) :
    enqueue mc kind e s = .done (s.queued e mc kind 0) [] [] none := by
  have hm : s.updMc e.core mc (fun m => { m with queue := m.queue ++ [e.command s.nextId kind] })
      = s.updMc e.core mc fun m => { m with queue := m.queue ++ [e.command s.nextId kind], seq := (m.seq + 0) % 2 ^ 32 } :=
    State.updMc_congr (by rw [Nat.add_zero, Nat.mod_eq_of_lt hseq])
  unfold State.queued
  rw [← hm, enqueue, h]
  rfl

theorem enqueue_of_full (h : (s.core e.core).queueRoom mc = false) (kind : MKind) : enqueue mc kind e s = .wait .commandQueue s := by
  rw [enqueue, h]
  rfl
end

/-! ### Tiles -/

section
variable {s : State} {e : Env} {mc : Nat} (h : s.mcOf e = some mc)
include h

theorem tshapeBody_of_free {x : Ops} (f : Nat → Env → State → Res) (hb : (s.core e.core).tileBusy mc x.d.toNat = false) : tshapeBody f x e s = f mc e s := by
  rw [tshapeBody, withMc_some h, hb]
  rfl

omit h in
theorem setTile_of_legal {n : Nat} {t : Tile} (hl : tileLegal t = true) (ho : ((s.core e.core).mc mc).overlaps n t = false) :
    setTile mc n t e s = .done (s.updMc e.core mc fun m => { m with tiles := m.tiles.put n t }) [] [] none := by
  rw [setTile, hl, ho]
  rfl

theorem trdBody_eq (x : Ops) : trdBody x e s = .done s (wordsOf x.d 4 (((s.core e.core).mc mc).tile x.a.toNat).toNat) [] none := by
  rw [trdBody, withMc_some h]

/-! ### Commands -/

theorem mmaBody_of_room {x : Ops} (z : Bool) (hc : mmaCheck ((s.core e.core).mc mc) x.d.toNat x.a.toNat (srcB x e.t).toNat = none)
    (hroom : (s.core e.core).queueRoom mc = true) :
    mmaBody z x e s = .done (s.queued e mc (.mma x.d.toNat x.a.toNat (((s.core e.core).mc mc).tile x.d.toNat) (((s.core e.core).mc mc).tile x.a.toNat)
      (srcB x e.t).toNat z ((s.core e.core).mc mc).seq) 1) [] [] none := by
  have hnext : ((s.nextSeq e.core mc).core e.core).queueRoom mc = true := by
    rw [State.nextSeq, State.core_updMc, ← hroom]
    exact Core.queueRoom_setMc _ _ rfl rfl
  rw [mmaBody, withMc_some h]
  simp only [hc, hroom]
  rw [enqueue, hnext]
  exact congrArg (fun z => Res.done z.fresh [] [] none) (State.updMc_updMc ..)

theorem mmaBody_of_full {x : Ops} (z : Bool) (hc : mmaCheck ((s.core e.core).mc mc) x.d.toNat x.a.toNat (srcB x e.t).toNat = none)
    (hroom : (s.core e.core).queueRoom mc = false) : mmaBody z x e s = .wait .commandQueue s := by
  rw [mmaBody, withMc_some h]
  simp only [hc, hroom]
  rfl

theorem acczBody_eq {x : Ops} (ho : (e.t.rd x.a).toNat % 32 = 0) (hn : (srcB x e.t).toNat % 32 = 0) (hpos : 32 ≤ (srcB x e.t).toNat)
    (hfit : (e.t.rd x.a).toNat + (srcB x e.t).toNat ≤ 196608) : acczBody x e s = enqueue mc (.accz (e.t.rd x.a).toNat (srcB x e.t).toNat) e s := by
  rw [acczBody, withMc_some h]
  refine if_neg ?_
  rw [Config.accElems]
  omega

omit h in
theorem srcB_toNat (x : Ops) (t : Thread) : (srcB x t).toNat = if x.len = .s then (t.rd x.b).toNat else x.ext.toNat % 2 ^ 32 := by
  rw [srcB, imm32]
  split
  · rfl
  · exact BitVec.toNat_setWidth ..

omit h in
theorem checkCw_of_fits {cw : Option (Nat × Word)} (hw : wordFits e cw) (k : Unit → Res) : checkCw e cw s k = k () := by
  unfold checkCw
  split
  · rfl
  · next off v => rw [hw off v rfl]

/-- The offset of an ACCRD or ACCWR: the immediate in the M form. -/
def accOff (x : Ops) (t : Thread) : Nat := if x.len = .m then x.ext.toNat % 2 ^ 32 else (t.rd x.b).toNat

def accRows (x : Ops) (t : Thread) : Nat := (t.rd x.c).toNat % 256 + 1

def accCols (x : Ops) (t : Thread) : Nat := (t.rd x.c).toNat / 256 % 256 + 1

/-- The pitch of an ACCRD or ACCWR: that of dense rows where none is given. -/
def accPitch (f : AccFmt) (x : Ops) (t : Thread) : Nat :=
  if (t.rd x.c).toNat / 65536 = 0 then accCols x t * accBytes f else (t.rd x.c).toNat / 65536

/-- Bytes from the first to the last of the rows of an ACCRD or ACCWR. -/
def accSpan (f : AccFmt) (x : Ops) (t : Thread) : Nat := (accRows x t - 1) * accPitch f x t + accCols x t * accBytes f

omit h in
theorem accShape_eq (f : AccFmt) (x : Ops) (t : Thread) : accShape f x t = (accOff x t, accRows x t, accCols x t, accPitch f x t) := by
  have hoff : (if x.len = .m then (imm32 x).toNat else (t.rd x.b).toNat) = accOff x t := by
    rw [accOff, imm32, BitVec.toNat_setWidth]
  rw [accShape, hoff]
  rfl

/-- The checks of R162 pass. -/
structure AccFits (f : AccFmt) (x : Ops) (e : Env) : Prop where
  aligned : accOff x e.t % 32 = 0
  inside : accOff x e.t + accRows x e.t * accCols x e.t ≤ 196608
  word : (e.t.rd x.a).toNat % 4 = 0
  pitchWord : accPitch f x e.t % 4 = 0
  pitch : accCols x e.t * accBytes f ≤ accPitch f x e.t
  local_ : e.localCheck (e.t.rd x.a).toNat (accSpan f x e.t) = none
  cw : wordFits e (engineWord x).2

omit h in
theorem accChecks_of_fits {f : AccFmt} {x : Ops} (hf : AccFits f x e) (k : Nat → Nat → Nat → Nat → Res) :
    accChecks f x e s k = k (accOff x e.t) (accRows x e.t) (accCols x e.t) (accPitch f x e.t) := by
  obtain ⟨haligned, hinside, hword, hpitchWord, hpitch, hlocal, hcw⟩ := hf
  unfold accSpan at hlocal
  rw [accChecks, accShape_eq]
  dsimp only
  rw [if_neg, if_neg]
  · simp only [hlocal]
    exact checkCw_of_fits hcw _
  · omega
  · rw [Config.accElems]
    omega

/-- ACCWR's read of its codes is in order (log entry 26). -/
def accReady (f : AccFmt) (x : Ops) (e : Env) (s : State) : Bool :=
  s.readReady e.ref e.core e.t ((e.localPlace (e.t.rd x.a).toNat).range (accSpan f x e.t))

theorem accwrBody_eq {f : AccFmt} {x : Ops} (hf : AccFits f x e) : accwrBody f x e s = inOrder s (accReady f x e s) fun _ =>
    enqueue mc (.accwr f (accOff x e.t) (accRows x e.t) (accCols x e.t) (s.accCodes e.ref.team (e.t.rd x.a).toNat (accRows x e.t) (accCols x e.t)
      (accPitch f x e.t) (accBytes f)) (engineWord x).2) e s := by
  rw [accwrBody, withMc_some h, accChecks_of_fits hf, accReady, accSpan]
  simp [readingNow]

/-! ### The context's status (R153) -/

theorem mctxStatus_some : mctxStatus e s
    = 1 + (if mc = 1 then 2 else 0) + (if e.st.red then 4 else 0) + if ((s.core e.core).mc mc).halt then 8 else 0 := by
  rw [mctxStatus, h]
  dsimp only
  split_ifs <;> rfl

omit h in
theorem mctxStatus_none (hn : s.mcOf e = none) : mctxStatus e s = if e.st.red then 4 else 0 := by rw [mctxStatus, hn]

theorem mctxRelBody_of_idle (x : Ops) (hq : ((s.core e.core).mc mc).queue = [])
    (ho : ∀ p ∈ (s.core e.core).ops, p.ref.team = e.ref.team → p.ofContext = false) :
    mctxRelBody x e s = .done ((s.updMc e.core mc fun m => { m with team := none }).updTeam e.ref.team fun tm =>
      { tm with released := e.tcore :: tm.released }) (w1 x.d (mctxStatus e s)) [] none := by
  have hany : ((s.core e.core).ops.any fun o => o.ref.team == e.ref.team && o.ofContext) = false := by
    rw [List.any_eq_false]
    intro p hp
    rw [Bool.and_eq_true, beq_iff_eq]
    rintro ⟨ht, hc⟩
    rw [ho p hp ht] at hc
    cases hc
  rw [mctxRelBody, h]
  dsimp only
  rw [hq, hany]
  rfl
end

/-! ### ELECT (R165) -/

/-- A thread below the executing one that has not exited, on its core where ELECT asks for that. -/
def Env.lower (e : Env) (core : Bool) (y : Nat × Thread) : Prop :=
  y.1 < e.ref.tid ∧ y.2.status ≠ .exited ∧ (core = true → ∃ tc k n, y.2.loc = .slot tc k n ∧ e.tm.cores[tc]? = some e.core)

/-- The rivals that ELECT finds are the threads below the executing one. -/
theorem electBody_eq (b : Bool) (x : Ops) (e : Env) (s : State) : ∃ l : List (Nat × Thread), (∀ y, y ∈ l ↔ y ∈ e.tm.threads ∧ e.lower b y)
    ∧ electBody b x e s = .done s (w1 x.d (if l.isEmpty then 1 else 0)) [] none := by
  refine ⟨_, fun y => ?_, rfl⟩
  rw [List.mem_filter, Bool.and_eq_true, Bool.and_eq_true, decide_eq_true_iff, decide_eq_true_iff, Bool.or_eq_true, and_assoc]
  refine and_congr_right fun _ => and_congr_right fun _ => and_congr_right fun _ => ?_
  cases b with
  | false => simp
  | true => cases hloc : y.2.loc <;> simp [hloc]

theorem electBody_of_none {b : Bool} {x : Ops} {e : Env} {s : State} (h : ∀ y ∈ e.tm.threads, ¬e.lower b y) :
    electBody b x e s = .done s (w1 x.d 1) [] none := by
  obtain ⟨l, hl, heq⟩ := electBody_eq b x e s
  obtain rfl : l = [] := List.eq_nil_iff_forall_not_mem.2 fun y hy => h y ((hl y).1 hy).1 ((hl y).1 hy).2
  exact heq

theorem electBody_of_lower {b : Bool} {x : Ops} {e : Env} {s : State} (h : ∃ y ∈ e.tm.threads, e.lower b y) :
    electBody b x e s = .done s (w1 x.d 0) [] none := by
  obtain ⟨l, hl, heq⟩ := electBody_eq b x e s
  obtain ⟨y, hy, hlow⟩ := h
  cases l with
  | nil => cases (hl y).2 ⟨hy, hlow⟩
  | cons z l => exact heq

/-! ### The statement -/

theorem wordsOf_tile (r : Reg) (t : Tile) : wordsOf r 4 t.toNat = (List.range 4).map fun k => (r + BitVec.ofNat 8 k, BitVec.ofNat 32 (t.toNat / 2 ^ (32 * k))) := rfl

theorem toNat_append_eq {m n : Nat} (a : BitVec m) (b : BitVec n) : (a ++ b).toNat = a.toNat * 2 ^ n + b.toNat := by
  rw [BitVec.toNat_append, ← Nat.shiftLeft_add_eq_or_of_lt b.isLt, Nat.shiftLeft_eq]

/-- A descriptor whose second word is replaced (R151). -/
theorem tile_reshaped (t : Tile) (x : Ops) : BitVec.ofNat 128 (t.toNat / 2 ^ 64 * 2 ^ 64 + x.ext.toNat % 2 ^ 32 * 2 ^ 32 + t.toNat % 2 ^ 32)
    = t.extractLsb' 64 64 ++ imm32 x ++ t.extractLsb' 0 32 := by
  refine BitVec.eq_of_toNat_eq ?_
  have ht := t.isLt
  rw [toNat_append_eq, toNat_append_eq, BitVec.extractLsb'_toNat, BitVec.extractLsb'_toNat, imm32, BitVec.toNat_setWidth, BitVec.toNat_ofNat,
    Nat.shiftRight_eq_div_pow, Nat.shiftRight_eq_div_pow]
  omega

/-- The codes that ACCWR has read at issue (R163). -/
theorem State.KeepsWork.accCodes {s z : State} (h : s.KeepsWork z) (hm : z.mems = s.mems) (team a rows cols pitch n : Nat) :
    z.accCodes team a rows cols pitch n = s.accCodes team a rows cols pitch n := by
  simp only [State.accCodes, h.load hm]

theorem tshape_takesPlace (x : Ops) : TakesPlaceAs (.tshape x) (tshapeBody (fun mc e s => setTile mc x.d.toNat (e.t.quad x.a) e s) x) :=
  takesPlaceAs_of_runInstr (fun x => tshapeBody (fun mc e s => setTile mc x.d.toNat (e.t.quad x.a) e s) x) rfl fun _ => rfl

theorem tshapeFree_takesPlace (x : Ops) : TakesPlaceAs (.tshapeFree x) (tshapeBody (fun mc e s =>
    .done (s.updMc e.core mc fun m => { m with tiles := m.tiles.drop x.d.toNat }) [] [] none) x) :=
  takesPlaceAs_of_runInstr (fun x => tshapeBody (fun mc e s => .done (s.updMc e.core mc fun m => { m with tiles := m.tiles.drop x.d.toNat }) [] [] none) x)
    rfl fun _ => rfl

theorem tshapeRs_takesPlace (x : Ops) : TakesPlaceAs (.tshapeRs x) (tshapeBody (fun mc e s =>
    let t := ((s.core e.core).mc mc).tile x.d.toNat
    if !tileValid t then tileFault 4 s
    else setTile mc x.d.toNat (t.extractLsb' 64 64 ++ imm32 x ++ t.extractLsb' 0 32) e s) x) :=
  takesPlaceAs_of_runInstr (fun x => tshapeBody (fun mc e s =>
    let t := ((s.core e.core).mc mc).tile x.d.toNat
    if !tileValid t then tileFault 4 s
    else setTile mc x.d.toNat (t.extractLsb' 64 64 ++ imm32 x ++ t.extractLsb' 0 32) e s) x) rfl fun _ => rfl

theorem trd_takesPlace (x : Ops) : TakesPlaceAs (.trd x) (trdBody x) := takesPlaceAs_of_runInstr _ rfl fun _ => rfl

theorem mma_takesPlace (x : Ops) (b : Bool) : TakesPlaceAs (.mma x b) (mmaBody b x) := takesPlaceAs_of_runInstr _ rfl fun _ => rfl

theorem accz_takesPlace (x : Ops) : TakesPlaceAs (.accz x) (acczBody x) := takesPlaceAs_of_runInstr _ rfl fun _ => rfl

theorem accwr_takesPlace (x : Ops) (f : AccFmt) : TakesPlaceAs (.accwr x f) (accwrBody f x) := takesPlaceAs_of_runInstr _ rfl fun _ => rfl

theorem mctx_takesPlace (x : Ops) : TakesPlaceAs (.mctx x) (fun e s => .done s (w1 x.d (mctxStatus e s)) [] none) :=
  takesPlaceAs_of_runInstr (fun x e s => .done s (w1 x.d (mctxStatus e s)) [] none) rfl fun _ => rfl

theorem mctxRel_takesPlace (x : Ops) : TakesPlaceAs (.mctxRel x) (mctxRelBody x) := takesPlaceAs_of_runInstr _ rfl fun _ => rfl

theorem elect_takesPlace (x : Ops) (b : Bool) : TakesPlaceAs (.elect x b) (electBody b x) := takesPlaceAs_of_runInstr _ rfl fun _ => rfl

/-- Settles O52: each clause is the equation of its instruction's effect, at the state once the dead reads have been counted, where the matrix contexts stand as
they did. -/
theorem matrixInstructionsComplete : Obligations.MatrixInstructionsComplete := by
  unfold Obligations.MatrixInstructionsComplete
  intro x f b s e mc q c m upd goes cmd queued tile reshaped set imm o v n cols rows pitch off codes status lower room mma accz accwr full
  have keeps (i : Instr) : s.KeepsWork (q i) := s.keepsWork_counted e i
  have hm (i : Instr) : ((q i).core e.core).mc mc = m := (keeps i).mc e.core mc
  have himm : (srcB x e.t).toNat = imm := srcB_toNat x e.t
  have hroom (i : Instr) : ((q i).core e.core).queueRoom mc = true ↔ room := by
    rw [(keeps i).queueRoom]
    exact Core.queueRoom_iff ..
  refine ⟨fun hmc hseq => ?context, fun hmc => ?none_, fun h hr => (elect_takesPlace x b).exec_done hr (electBody_of_none h),
    fun h hr => (elect_takesPlace x b).exec_done hr (electBody_of_lower h)⟩
  case none_ =>
    have status_ (i : Instr) : mctxStatus e (q i) = if e.st.red then 4 else 0 := mctxStatus_none (((keeps i).mcOf e).trans hmc)
    refine ⟨fun hr => (mctx_takesPlace x).exec_done hr ?_, fun hr => (mctxRel_takesPlace x).exec_done hr ?_⟩
    · rw [status_]
      rfl
    · rw [mctxRelBody, ((keeps (.mctxRel x)).mcOf e).trans hmc]
      dsimp only
      rw [status_]
      rfl
  case context =>
    have hmc' (i : Instr) : (q i).mcOf e = some mc := ((keeps i).mcOf e).trans hmc
    have status_ (i : Instr) : mctxStatus e (q i) = status := by rw [mctxStatus_some (hmc' i), hm]
    have queued_ (i : Instr) (kind : MKind) (n : Nat) : (q i).queued e mc kind n = queued i kind n := State.queued_eq (State.counted_nextId s e i) e mc kind n
    have joins (i : Instr) (kind : MKind) (h : room) : enqueue mc kind e (q i) = .done (queued i kind 0) [] [] none := by
      rw [enqueue_of_room ((hroom i).2 h) (by rw [hm]; exact hseq), queued_]
    have waits (i : Instr) (kind : MKind) (h : ¬room) : enqueue mc kind e (q i) = .wait .commandQueue (q i) :=
      enqueue_of_full (eq_false_of_ne_true fun h' => h ((hroom i).1 h')) kind
    refine ⟨fun hb => ?tiles, fun hr => ?trd, fun hc => ⟨fun h hr => ?mmaJoins, fun h hr => ?mmaWaits⟩, fun ho hi hpos hfit => ?accz,
      fun ha hin hw hpw hp hl hcw => ?accwr, fun hr => ?mctx, fun hq hops hr => ?rel⟩
    case tiles =>
      have free (i : Instr) (g : Nat → Env → State → Res) : tshapeBody g x e (q i) = g mc e (q i) :=
        tshapeBody_of_free (hmc' i) g (by rw [(keeps i).tileBusy]; exact hb)
      have sets (i : Instr) {t : Tile} (hl : tileLegal t = true) (ho : m.overlaps x.d.toNat t = false) :
          setTile mc x.d.toNat t e (q i) = .done (set i t) [] [] none := setTile_of_legal hl (by rw [hm]; exact ho)
      refine ⟨fun hl ho hr => ?_, fun hr => ?_, fun hv hl ho hr => ?_⟩
      · exact (tshape_takesPlace x).exec_done hr ((free _ _).trans (sets _ hl ho))
      · exact (tshapeFree_takesPlace x).exec_done hr (free _ _)
      · refine (tshapeRs_takesPlace x).exec_done hr ((free _ _).trans ?_)
        have hset : tile.extractLsb' 64 64 ++ imm32 x ++ tile.extractLsb' 0 32 = reshaped := (tile_reshaped tile x).symm
        have hvalid : ¬(!tileValid tile) = true := by simp [hv]
        rw [← sets _ hl ho, ← hset, hm]
        exact if_neg hvalid
    case trd =>
      refine (trd_takesPlace x).exec_done hr ?_
      rw [trdBody_eq (hmc' _), hm, wordsOf_tile]
    case mmaJoins =>
      refine (mma_takesPlace x b).exec_done hr ?_
      rw [← himm] at hc
      rw [mmaBody_of_room (hmc' _) b (by rw [hm]; exact hc) ((hroom _).2 h), hm, himm, queued_]
    case mmaWaits =>
      refine (mma_takesPlace x b).exec_wait hr ?_
      rw [← himm] at hc
      exact mmaBody_of_full (hmc' _) b (by rw [hm]; exact hc) (eq_false_of_ne_true fun h' => h ((hroom _).1 h'))
    case accz =>
      rw [← himm] at hi hpos hfit
      have hbody := acczBody_eq (hmc' accz) ho hi hpos hfit
      rw [himm] at hbody
      exact ⟨fun h hr => (accz_takesPlace x).exec_done hr (hbody.trans (joins _ _ h)), fun h hr => (accz_takesPlace x).exec_wait hr (hbody.trans (waits _ _ h))⟩
    case accwr =>
      have hbody := accwrBody_eq (hmc' accwr) (f := f) (x := x) ⟨ha, hin, hw, hpw, hp, hl, hcw⟩
      rw [(keeps _).accCodes (State.counted_mems _ _ _)] at hbody
      intro ready
      refine ⟨fun h hr => (accwr_takesPlace x f).exec_stop hr (hbody.trans ?_), fun h => ?_⟩
      · exact if_neg (by rw [show accReady f x e (q accwr) = false from h]; decide)
      · have ready_ (k : Unit → Res) : inOrder (q accwr) (accReady f x e (q accwr)) k = k () := if_pos h
        rw [ready_] at hbody
        exact ⟨fun h hr => (accwr_takesPlace x f).exec_done hr (hbody.trans (joins _ _ h)),
          fun h hr => (accwr_takesPlace x f).exec_wait hr (hbody.trans (waits _ _ h))⟩
    case mctx =>
      refine (mctx_takesPlace x).exec_done hr ?_
      rw [status_]
      rfl
    case rel =>
      refine (mctxRel_takesPlace x).exec_done hr ?_
      rw [mctxRelBody_of_idle (hmc' _) x (by rw [hm]; exact hq) (by rw [(keeps _).ops]; exact hops), status_]
      rfl

end Sys2Proof.Machine
end

/-! Tile copies, drains, MSYNC, CPYW and COLL as threads issue them (R154, R162, R164, R166, R318, R325, R329, R405) -/
section
namespace Sys2Proof.Machine

/-! ### An operation that starts -/

theorem Res.noting_id (r : Res) : r.noting id = r := by cases r <;> rfl

section
variable {i : Instr} {body : Env → State → Res} {s s' : State} {e : Env} (h : TakesPlaceAs i body) (hr : Runs i s e)
include h hr

/-- An instruction whose effect is the start of an operation hands it over (R307, R311). -/
theorem TakesPlaceAs.handsOver_noting {d : Reg} {sc : Scope} {mk : Nat → Nat → EngOp} {after : Nat → State → State} {f : State → State}
    (hb : body e (s.counted e i) = (startOp d sc mk after e s').noting f) : handsOver i s s' e d sc mk fun z => f (after s'.nextId z) := by
  unfold handsOver
  refine ⟨fun hn => h.exec_wait hr (hb.trans ?limit), fun hn hf => h.exec_wait hr (hb.trans ?entry), fun slot hn hf => h.exec_done hr (hb.trans ?start)⟩
  case limit =>
    rw [startOp, Config.outstanding, if_pos hn]
    rfl
  case entry =>
    rw [startOp, Config.outstanding, if_neg (not_le.2 hn), hf]
    rfl
  case start =>
    rw [startOp, Config.outstanding, if_neg (not_le.2 hn), hf]
    rfl

theorem TakesPlaceAs.handsOver {d : Reg} {sc : Scope} {mk : Nat → Nat → EngOp} {after : Nat → State → State}
    (hb : body e (s.counted e i) = startOp d sc mk after e s') : handsOver i s s' e d sc mk (after s'.nextId) :=
  h.handsOver_noting hr (hb.trans (Res.noting_id _).symm)
end

/-! ### Checks that pass (R320) -/

section
variable {s : State} {e : Env}

theorem checkBounds_of_none {sp : Space} {a n : Nat} (h : s.boundsFault e sp a n = none) (k : Unit → Res) : checkBounds s e sp a n k = k () := by
  rw [checkBounds, h]

/-- A range of no bytes is not looked at. -/
theorem checkRange_of_inside {sp : Space} {a n : Nat} (h : n = 0 ∨ s.boundsFault e sp a n = none) (k : Unit → Res) : checkRange s e sp a n k = k () := by
  unfold checkRange
  split
  · rfl
  · next hn => exact checkBounds_of_none (h.resolve_left hn) k

theorem checkAligned_of_all {unit : Nat} {l : List Nat} (h : ∀ a ∈ l, a % unit = 0) (k : Unit → Res) : checkAligned unit l s k = k () := by
  have hf : (l.find? fun a => a % unit != 0) = none := by simpa [List.find?_eq_none] using h
  rw [checkAligned, hf]

theorem orFault_none (k : Unit → Res) : orFault none s k = k () := rfl

theorem startCopy_of_fits {x : Ops} {cw : Scope × Option (Nat × Word)} (h : wordFits e cw.2) (mc : Nat) (kind : EngKind) (owns : List Range) :
    startCopy x cw mc kind owns e s = startOp x.d cw.1 (e.engOp mc x.d cw.1 cw.2 kind owns) (fun _ s => s) e s := by
  rw [startCopy, checkCw_of_fits h]

/-- A tile copy goes on, its checks passed (R164). -/
theorem tileCopy_of_fits {sp : Space} {x : Ops} {mc : Nat} (h : s.mcOf e = some mc) (hv : tileValid (((s.core e.core).mc mc).tile x.c.toNat) = true)
    (ha : tileAddr sp x e.t % 32 = 0) (hb : s.boundsFault e sp (tileAddr sp x e.t) (tileSize (((s.core e.core).mc mc).tile x.c.toNat)) = none)
    (hw : wordFits e (engineWord x).2) (k : Nat → Tile → Nat → Res) :
    tileCopy sp x e s k = k mc (((s.core e.core).mc mc).tile x.c.toNat) (tileAddr sp x e.t) := by
  rw [tileCopy, withMc_some h]
  dsimp only
  rw [hv, if_neg (not_not_intro ha), checkBounds_of_none hb, checkCw_of_fits hw]
  rfl

/-- An ACCRD whose checks pass joins the queue with its operation, or waits for an entry (R162). -/
theorem accrdBody_eq {f : AccFmt} {x : Ops} {mc : Nat} (h : s.mcOf e = some mc) (hf : AccFits f x e) :
    accrdBody f x e s = if !(s.core e.core).queueRoom mc then .wait .commandQueue s
      else startOp x.d (engineWord x).1 (e.engOp mc x.d (engineWord x).1 (engineWord x).2 .accrd []) (fun id s => s.updMc e.core mc fun m =>
        { m with queue := m.queue ++ [e.command (id + 1) (.accrd f (e.t.rd x.a).toNat (accOff x e.t) (accRows x e.t) (accCols x e.t) (accPitch f x e.t) id)] })
        e s := by
  rw [accrdBody, withMc_some h, accChecks_of_fits hf]
  rfl

/-! ### Records (R320) -/

/-- A record whose page is reached is read, in order and without poison, and the race detector sees that. -/
structure Fetches (s : State) (e : Env) (a n : Nat) (t : Target) (s' : State) : Prop where
  goes : goesTo s e .glb a n .read t s'
  ready : (s'.keepPage e).readReady e.ref e.core e.t (t.range n) = true
  clean : (s'.keepPage e).poisoned (t.range n) = false

theorem readRecord_of_fetches {a n : Nat} {t : Target} {s' : State} (h : Fetches s e a n t s') (k : List Byte → State → Res) :
    readRecord n a e s k = (k ((s'.keepPage e).bytes t n) (s'.keepPage e)).noting fun s => s.raceRead e a n t := by
  obtain ⟨⟨⟨g, hres⟩, hpeer⟩, hready, hclean⟩ := h
  have hadmit : ¬(t.mem = .peer ∧ 3 ≤ Config.peerAnswer s'.tick) := fun h => absurd (hpeer h.1) (not_lt.2 h.2)
  rw [readRecord, accessing, reaching, hres]
  simp only [if_neg hadmit, readingNow, List.all_cons, List.all_nil, hready, hclean, inOrder, Bool.and_true, if_true]
  rfl

theorem readShape_of_fetches {sp : Space} {a : Nat} {t : Target} {s' : State} (h : Fetches s e a 128 t s')
    (hok : shapeOk ((s'.keepPage e).bytes t 128) = true) (k : Shape → State → Res) :
    readShape sp a e s k = (k ((shapeOf ((s'.keepPage e).bytes t 128)).based sp) (s'.keepPage e)).noting fun s => s.raceRead e a 128 t := by
  rw [readShape, readRecord_of_fetches h, hok]
  rfl

theorem coordsAt_eq (t : Thread) (r : Reg) (n : Nat) : coordsAt t r n = (List.range n).map fun j => (t.rd (r + BitVec.ofNat 8 j)).toInt := by
  rw [coordsAt, regRange, List.map_map]
  rfl
end

/-! ### Collectives (R325, R329, R405) -/

section
variable {s : State} {e : Env}

/-- The number of the next issue on a slot: what the slot has counted for the group, or a new stream's first (log entry 61). -/
theorem Die.nextColl_eq (x : Die) (slot : Nat) (g : List Nat) : x.nextColl slot g =
    (((x.slots.look slot).bind fun k => k.issued.find? fun i => decide (i.1 = g)).map fun i => i.2).getD (x.begun g * 2 ^ 40) := by
  unfold Die.nextColl
  cases (x.slots.look slot).bind fun k => k.issued.find? fun i => decide (i.1 = g) <;> rfl

theorem checkSlot_of_held {r : CollRec} (hs : ∃ k, (s.die (dieOf e.core)).slots.look r.slot = some k ∧ k.ctx = e.pl.ctxNum)
    (hw : ∃ y, s.parts.look e.pl.part = some y ∧ y.collWeight.getD (dieOf e.core) 0 ≠ 0) (a : Nat) (k : Unit → Res) : checkSlot r a e s k = k () := by
  obtain ⟨c, hc, hctx⟩ := hs
  obtain ⟨y, hy, hweight⟩ := hw
  rw [checkSlot]
  simp only [hc, hy, hctx]
  exact if_pos (by rw [decide_eq_true hweight, decide_true]; rfl)

/-- What follows the start of a rank's part: its issue is counted, and where its operation has been aborted it has failed already. -/
def State.collIssued (s : State) (e : Env) (r : CollRec) (num : Nat) (late : Bool) (id : Nat) : State :=
  let g := r.group e.pl.ctxNum
  let t := s.setDie (dieOf e.core) ((s.die (dieOf e.core)).countColl r.slot g num)
  if late then (t.forgetAbort (dieOf e.core) g num).updOp e.core id fun o => { o with stage := .failed 4 } else t

theorem startColl_of_fits {x : Ops} (h : wordFits e (engineWord x).2) (r : CollRec) (mk : Nat → EngKind) (owns : List Range) {num : Nat}
    (hn : (s.die (dieOf e.core)).nextColl r.slot (r.group e.pl.ctxNum) = num) :
    startColl x r mk owns e s = startOp x.d (engineWord x).1 (e.engOp 2 x.d (engineWord x).1 (engineWord x).2 (mk num) owns)
      (fun id z => z.collIssued e r num ((s.die (dieOf e.core)).aborted.contains (r.group e.pl.ctxNum, num)) id) e s := by
  subst hn
  unfold startColl
  generalize engineWord x = w at h ⊢
  obtain ⟨sc, cw⟩ := w
  exact checkCw_of_fits h _

section
variable {x : Ops} {t : Target} {z : State} (hf : Fetches s e (e.t.pair x.c).toNat 64 t z)
include hf

/-- COLL with a legal record, on a slot of its context (R325). -/
theorem collBody_plain {r : CollRec} (hr : collOf ((z.keepPage e).bytes t 64) = r) (hok : collOk false ((z.keepPage e).bytes t 64) = true)
    (hd : r.die = dieOf e.core) (ha : (e.t.pair x.a).toNat % 4 = 0) (hb : (e.t.pair x.b).toNat % 4 = 0)
    (hsrc : (if r.reads then 4 * r.lanes else 0) = 0 ∨ (z.keepPage e).boundsFault e .glb (e.t.pair x.a).toNat (if r.reads then 4 * r.lanes else 0) = none)
    (hdst : r.dstBytes = 0 ∨ (z.keepPage e).boundsFault e .glb (e.t.pair x.b).toNat r.dstBytes = none)
    (hs : ∃ k, ((z.keepPage e).die (dieOf e.core)).slots.look r.slot = some k ∧ k.ctx = e.pl.ctxNum)
    (hw : ∃ y, (z.keepPage e).parts.look e.pl.part = some y ∧ y.collWeight.getD (dieOf e.core) 0 ≠ 0) :
    collBody false x e s = (startColl x r (.coll r (e.t.pair x.a).toNat (e.t.pair x.b).toNat)
      ((z.keepPage e).ownRange e .glb id (e.t.pair x.b).toNat r.dstBytes) e (z.keepPage e)).noting fun s => s.raceRead e (e.t.pair x.c).toNat 64 t := by
  subst hr
  have hlegal : ¬((!collOk false ((z.keepPage e).bytes t 64)) = true ∨ (collOf ((z.keepPage e).bytes t 64)).die ≠ dieOf e.core) := by simp [hok, hd]
  have hunits : ∀ a ∈ [(e.t.pair x.a).toNat, (e.t.pair x.b).toNat], a % 4 = 0 := by simp [ha, hb]
  rw [collBody, readRecord_of_fetches hf]
  dsimp only
  rw [if_neg hlegal, if_neg (by decide), checkAligned_of_all hunits, checkRange_of_inside hsrc, checkRange_of_inside hdst, checkSlot_of_held hs hw]

/-- COLL `.sk` with a legal record, on an instance of its type (R328). -/
theorem collBody_sk {r : CollRec} {b : Bind} (hr : collOf ((z.keepPage e).bytes t 64) = r) (hok : collOk true ((z.keepPage e).bytes t 64) = true)
    (hd : r.die = dieOf e.core) (hs : ∃ k, ((z.keepPage e).die (dieOf e.core)).slots.look r.slot = some k ∧ k.ctx = e.pl.ctxNum)
    (hw : ∃ y, (z.keepPage e).parts.look e.pl.part = some y ∧ y.collWeight.getD (dieOf e.core) 0 ≠ 0)
    (hb : (z.keepPage e).bound e.pl.ctxNum (e.t.rd x.a).toNat = some b) (hty : (skParams b.desc).ty + 4 = r.op) :
    collBody true x e s = (startColl x r (.collSk r (e.t.rd x.a).toNat) ((z.keepPage e).bindUnits e.pl.ctxNum b) e (z.keepPage e)).noting
      fun s => s.raceRead e (e.t.pair x.c).toNat 64 t := by
  subst hr
  have hlegal : ¬((!collOk true ((z.keepPage e).bytes t 64)) = true ∨ (collOf ((z.keepPage e).bytes t 64)).die ≠ dieOf e.core) := by simp [hok, hd]
  rw [collBody, readRecord_of_fetches hf]
  dsimp only
  rw [if_neg hlegal, if_pos rfl, checkSlot_of_held hs hw, hb]
  dsimp only
  rw [if_neg (not_not_intro hty)]
end
end

/-- CPYW of a record that fits its tile (R318). -/
theorem cpywBody_of_fits {s : State} {e : Env} {sp : Space} {x : Ops} {t : Target} {z : State} {mc : Nat} {rec_ : Shape} {k0 : List Int}
    (hf : Fetches s e (e.t.pair x.a).toNat 128 t z) (hok : shapeOk ((z.keepPage e).bytes t 128) = true)
    (hrec : (shapeOf ((z.keepPage e).bytes t 128)).based sp = rec_) (hk : coordsAt e.t x.b rec_.rank = k0) (hmc : (z.keepPage e).mcOf e = some mc)
    {m : MatCtx} (hm : ((z.keepPage e).core e.core).mc mc = m) (hv : tileValid (m.tile x.c.toNat) = true)
    (hfit : fitsTile rec_ (m.tile x.c.toNat) = true) {ta tb off : Nat} (hta : x.ext.toNat / 2 ^ 59 = ta) (htb : x.ext.toNat / 2 ^ 54 % 32 = tb)
    (hoff : x.ext.toNat / 2 ^ 41 % 2 ^ 13 * 32 = off) (hmma : mmaCheck m ta tb off = none)
    (hb : (z.keepPage e).recordFault e sp rec_ (rec_.elements k0) = none) (hw : wordFits e (weltWord x).2) :
    cpywBody sp x e s = (startOp x.d (weltWord x).1 (e.engOp mc x.d (weltWord x).1 (weltWord x).2 (.cpyw sp rec_ k0 x.c.toNat ta tb off (x.ext.getLsbD 40))
      [tileRange e.core mc (m.tile x.c.toNat)]) (fun _ s => s) e (z.keepPage e)).noting fun s => s.raceRead e (e.t.pair x.a).toNat 128 t := by
  subst hrec hk hm hta htb hoff
  rw [cpywBody, readShape_of_fetches hf hok, withMc_some hmc]
  dsimp only
  rw [hv, hfit, hmma, hb]
  simp only [orFault_none, startCopy_of_fits hw]
  rfl

/-! ### The statement -/

theorem tld_takesPlace (x : Ops) (sp : Space) : TakesPlaceAs (.tld x sp) (tldBody sp x) := takesPlaceAs_of_runInstr _ rfl fun _ => rfl

theorem tst_takesPlace (x : Ops) (sp : Space) : TakesPlaceAs (.tst x sp) (tstBody sp x) := takesPlaceAs_of_runInstr _ rfl fun _ => rfl

theorem accrd_takesPlace (x : Ops) (f : AccFmt) : TakesPlaceAs (.accrd x f) (accrdBody f x) := takesPlaceAs_of_runInstr _ rfl fun _ => rfl

theorem msync_takesPlace (x : Ops) : TakesPlaceAs (.msync x) (msyncBody x) := takesPlaceAs_of_runInstr _ rfl fun _ => rfl

theorem coll_takesPlace (x : Ops) (sk : Bool) : TakesPlaceAs (.coll x sk) (collBody sk x) := takesPlaceAs_of_runInstr _ rfl fun _ => rfl

theorem cpyw_takesPlace (x : Ops) (sp : Space) : TakesPlaceAs (.cpyw x sp) (cpywBody sp x) := takesPlaceAs_of_runInstr _ rfl fun _ => rfl

/-- Settles O50: once the checks have passed, the effect of each is the start of its operation, with what the instruction does beside it. -/
theorem matrixCopiesAndCollectivesAreHandedOver : Obligations.MatrixCopiesAndCollectivesAreHandedOver := by
  unfold Obligations.MatrixCopiesAndCollectivesAreHandedOver
  intro x f sp s s' e t mc q sc cw tile a la v n cols rows pitch o drain z fetched seen r g die old mine num late counted held tld tst rd coll skc cpyw room hw
  have keeps (i : Instr) : s.KeepsWork (q i) := s.keepsWork_counted e i
  have hnum : (z.die die).nextColl r.slot g = num := Die.nextColl_eq ..
  refine ⟨fun hmc => ?context, ?coll, ?sk, ?cpyw⟩
  case context =>
    have hmc' (i : Instr) : (q i).mcOf e = some mc := ((keeps i).mcOf e).trans hmc
    have htile (i : Instr) : (((q i).core e.core).mc mc).tile x.c.toNat = tile := by rw [(keeps i).mc]
    have copies (i : Instr) (hv : tileValid tile = true) (ha : a % 32 = 0) (hb : s.boundsFault e sp a (tileSize tile) = none)
        (k : Nat → Tile → Nat → Res) : tileCopy sp x e (q i) k = k mc tile a := by
      rw [tileCopy_of_fits (hmc' i) (by rw [htile]; exact hv) ha (by rw [htile, (keeps i).boundsFault]; exact hb) hw, htile]
    refine ⟨fun hr hv ha hb => ?_, fun hr hv ha hb => ?_, fun hr h1 h2 h3 h4 h5 h6 => ?_, fun hr => ?_⟩
    · exact (tld_takesPlace x sp).handsOver hr (copies _ hv ha hb _)
    · exact (tst_takesPlace x sp).handsOver hr (copies _ hv ha hb _)
    · have hbody := accrdBody_eq (hmc' rd) (f := f) (x := x) ⟨h1, h2, h3, h4, h5, h6, hw⟩
      have hroom : ((q rd).core e.core).queueRoom mc = true ↔ room (s.core e.core) := by
        rw [(keeps rd).queueRoom]
        exact Core.queueRoom_iff ..
      refine ⟨fun h => ?_, fun h => (accrd_takesPlace x f).exec_wait hr (hbody.trans (if_pos ?_))⟩
      · refine (accrd_takesPlace x f).handsOver hr (hbody.trans (if_neg ?_))
        rw [hroom.2 h]
        decide
      · rw [eq_false_of_ne_true fun h' => h (hroom.1 h')]
        rfl
    · refine (msync_takesPlace x).handsOver hr (after := fun _ s => s) ?_
      rw [msyncBody, withMc_some (hmc' _)]
  case coll =>
    rintro ⟨hr, hgo, hready, hclean⟩ hok hd ha hb hsrc hdst ⟨hslot, hweight⟩
    have hsrc' : (if r.reads then 4 * r.lanes else 0) = 0 ∨ z.boundsFault e .glb (e.t.pair x.a).toNat (if r.reads then 4 * r.lanes else 0) = none := by
      cases hreads : r.reads with
      | false => exact .inl rfl
      | true => exact (hsrc.resolve_left (by simp [hreads])).imp (fun h => by simp [h]) id
    have hbody := collBody_plain ⟨hgo, hready, hclean⟩ (r := r) rfl hok hd ha hb hsrc' hdst hslot hweight
    rw [startColl_of_fits hw _ _ _ hnum] at hbody
    exact (coll_takesPlace x false).handsOver_noting hr hbody
  case sk =>
    rintro b ⟨hr, hgo, hready, hclean⟩ hok hd ⟨hslot, hweight⟩ hb hty
    have hbody := collBody_sk ⟨hgo, hready, hclean⟩ (r := r) rfl hok hd hslot hweight hb hty
    rw [startColl_of_fits hw _ _ _ hnum] at hbody
    exact (coll_takesPlace x true).handsOver_noting hr hbody
  case cpyw =>
    rintro rec_ k0 ⟨hr, hgo, hready, hclean⟩ hok hrec hk hmc m ta tb off hv hfit hmma hb hww
    have hbody := cpywBody_of_fits ⟨hgo, hready, hclean⟩ hok hrec.symm ((coordsAt_eq ..).trans hk.symm) hmc rfl hv hfit rfl rfl rfl hmma hb hww
    exact (cpyw_takesPlace x sp).handsOver_noting hr hbody

end Sys2Proof.Machine
end

/-! The blocks of a product (R157, R158) -/
section
namespace Sys2Proof.Machine

/-! ### The value of a block: the first case of R158 that applies -/

section
variable (l : List (FVal × FVal))

/-- An element of a pair is a NaN. -/
def nanPairs : Bool := l.any fun p => p.1.isNan || p.2.isNan

def snanPairs : Bool := l.any fun p => p.1.isSnan || p.2.isSnan

/-- A pair multiplies an infinity and a zero. -/
def infZeroPairs : Bool := l.any fun p => (p.1.isInf && p.2.isZero) || (p.1.isZero && p.2.isInf)

/-- A pair's product is an infinity of a sign. -/
def infPairs (n : Bool) : Bool := l.any fun p => (p.1.isInf || p.2.isInf) && (p.1.neg != p.2.neg) == n

theorem nanPairs_iff : nanPairs l = true ↔ ∃ p ∈ l, p.1.isNan = true ∨ p.2.isNan = true := by simp [nanPairs]

theorem snanPairs_iff : snanPairs l = true ↔ ∃ p ∈ l, p.1.isSnan = true ∨ p.2.isSnan = true := by simp [snanPairs]

theorem infZeroPairs_iff : infZeroPairs l = true ↔ ∃ p ∈ l, (p.1.isInf = true ∧ p.2.isZero = true) ∨ (p.1.isZero = true ∧ p.2.isInf = true) := by
  simp [infZeroPairs]

theorem infPairs_iff (n : Bool) : infPairs l n = true ↔ ∃ p ∈ l, (p.1.isInf = true ∨ p.2.isInf = true) ∧ (p.1.neg != p.2.neg) = n := by
  simp [infPairs]

/-- The exact sum of the products. -/
def pairSum : Dyadic := l.foldl (fun d p => d.add (p.1.dyadic.mul p.2.dyadic)) ⟨0, 0⟩

theorem num_pairSum : (pairSum l).num = (l.map fun p => ratOf p.1 * ratOf p.2).sum := by
  have fold : ∀ (m : List (FVal × FVal)) (d : Dyadic), (m.foldl (fun (d : Dyadic) p => d.add (p.1.dyadic.mul p.2.dyadic)) d).num
      = d.num + (m.map fun p => ratOf p.1 * ratOf p.2).sum := by
    intro m
    induction m with
    | nil => simp
    | cons p m ih =>
      intro d
      rw [List.foldl_cons, ih, Dyadic.num_add, Dyadic.num_mul, List.map_cons, List.sum_cons, add_assoc]
      rfl
  rw [pairSum, fold]
  simp [Dyadic.num]

variable {l} {sa sb : FVal}

theorem blockValue_poisoned (h : sa.isNan = true ∨ sb.isNan = true) : blockValue l sa sb = (.nan false, .ifInvalid false) :=
  if_pos (by simpa using h)

section
variable (h : ¬(sa.isNan = true ∨ sb.isNan = true))
include h

theorem blockValue_nan (hn : nanPairs l = true) : blockValue l sa sb = (.nan false, .ifInvalid (snanPairs l)) :=
  (if_neg (by simpa using h)).trans (if_pos hn)

variable (hn : nanPairs l = false)
include hn

theorem blockValue_infZero (hz : infZeroPairs l = true) : blockValue l sa sb = (.nan false, .ifInvalid true) :=
  (if_neg (by simpa using h)).trans ((if_neg (ne_true_of_eq_false hn)).trans (if_pos hz))

variable (hz : infZeroPairs l = false)
include hz

/-- Past the NaNs, the infinities decide. -/
theorem blockValue_eq : blockValue l sa sb = if infPairs l true && infPairs l false then (.nan false, .ifInvalid true)
    else if infPairs l true || infPairs l false then (if sa.isZero || sb.isZero then (.nan false, .ifInvalid true) else (.inf (infPairs l true), {}))
    else ((((pairSum l).mul sa.dyadic).mul sb.dyadic).val, {}) :=
  (if_neg (by simpa using h)).trans ((if_neg (ne_true_of_eq_false hn)).trans (if_neg (ne_true_of_eq_false hz)))

theorem blockValue_opposite (ht : infPairs l true = true) (hf : infPairs l false = true) : blockValue l sa sb = (.nan false, .ifInvalid true) := by
  rw [blockValue_eq h hn hz, ht, hf]
  rfl

theorem blockValue_inf {n : Bool} (hi : infPairs l n = true) (ho : infPairs l (!n) = false) :
    blockValue l sa sb = if sa.isZero || sb.isZero then (.nan false, .ifInvalid true) else (.inf n, {}) := by
  rw [blockValue_eq h hn hz]
  cases n with
  | true => rw [hi, show infPairs l false = false from ho]; rfl
  | false => rw [hi, show infPairs l true = false from ho]; rfl

theorem blockValue_finite (ht : infPairs l true = false) (hf : infPairs l false = false) :
    blockValue l sa sb = ((((pairSum l).mul sa.dyadic).mul sb.dyadic).val, {}) := by
  rw [blockValue_eq h hn hz, ht, hf]
  rfl
end
end

/-! ### A floating block added to an element -/

/-- The canonical NaN, with the conditions of the block and of the addend. -/
def nanSum (c : FVal) (invalid : Bool) : Nat × Conds := (0x7FC00000, { nv := invalid || c.isSnan })

section
variable {acc : Nat} {l : List (FVal × FVal)} {sa sb : FVal}

theorem addBlock_false {v : FVal} {k : Conds} (h : blockValue l sa sb = (v, k)) :
    addBlock false acc l sa sb = ((f32.addV .rne (f32.value acc) v).1, k.join (f32.addV .rne (f32.value acc) v).2) := by
  rw [addBlock, h]
  rfl

theorem addBlock_nan {iv : Bool} (h : blockValue l sa sb = (.nan false, .ifInvalid iv)) : addBlock false acc l sa sb = nanSum (f32.value acc) iv := by
  rw [addBlock_false h, FFmt.addV_nan _ _ (Or.inr rfl), FVal.isSnan, Bool.or_false]
  rfl

/-- Without a condition of the block, the sum and its conditions are those of the addition. -/
theorem addBlock_quiet {v : FVal} (h : blockValue l sa sb = (v, {})) : addBlock false acc l sa sb = f32.addV .rne (f32.value acc) v := by
  rw [addBlock_false h]
  rfl

/-- A NaN in the element stays, whatever number or infinity is added. -/
theorem addV_nan_left {c v : FVal} (hc : c.isNan = true) (hv : v.isSnan = false) : f32.addV .rne c v = nanSum c false := by
  rw [FFmt.addV_nan _ _ (Or.inl hc), hv, Bool.or_false]
  rfl

theorem addBlock_inf {n : Bool} (h : blockValue l sa sb = (.inf n, {})) : addBlock false acc l sa sb =
    if (f32.value acc).isNan = true then nanSum (f32.value acc) false else if f32.value acc = .inf (!n) then nanSum (f32.value acc) true
    else (f32.signed n f32.infCode, {}) := by
  rw [addBlock_quiet h]
  split
  · next hc => exact addV_nan_left hc rfl
  · next hc =>
    split
    · next hi =>
      rw [hi]
      cases n <;> rfl
    · next hi =>
      refine FFmt.addV_inf_right _ _ (eq_false_of_ne_true hc) fun hinf => ?_
      obtain ⟨k, hk⟩ := isInf_iff.1 hinf
      rw [hk] at hi ⊢
      by_contra hkn
      exact hi (congrArg FVal.inf (Bool.eq_not.2 hkn))

theorem addBlock_finite_nan {d : Dyadic} (h : blockValue l sa sb = (d.val, {})) (hc : (f32.value acc).isNan = true) :
    addBlock false acc l sa sb = nanSum (f32.value acc) false := by
  rw [addBlock_quiet h]
  exact addV_nan_left hc rfl

theorem addBlock_finite_inf {d : Dyadic} (h : blockValue l sa sb = (d.val, {})) {n : Bool} (hc : f32.value acc = .inf n) :
    addBlock false acc l sa sb = (f32.signed n f32.infCode, {}) := by
  rw [addBlock_quiet h, hc]
  rfl

/-- An exact zero sum is +0 to nearest: two zeros that are both negative do not meet here, where an exact block has no -0. -/
theorem zeroSign_val (z n : Bool) (d : Dyadic) : zeroSign .rne z n d.val.isZero d.val.neg = false := by
  have hd : d.val.isZero = true → d.val.neg = false := by
    simp only [Dyadic.val, FVal.isZero, FVal.neg, decide_eq_true_eq, decide_eq_false_iff_not]
    omega
  unfold zeroSign
  split
  · next h =>
    simp only [Bool.and_eq_true, beq_iff_eq] at h
    rw [h.2, hd h.1.2]
  · rfl

/-- The sum of an element and a block of numbers is rounded once. -/
theorem addBlock_finite_number {d : Dyadic} (h : blockValue l sa sb = (d.val, {})) (hc : isNumber (f32.value acc)) : addBlock false acc l sa sb =
    if ((f32.value acc).dyadic.add d).m = 0 then (0, {})
    else f32.roundExact .rne (decide (((f32.value acc).dyadic.add d).m < 0)) ((f32.value acc).dyadic.add d).m.natAbs ((f32.value acc).dyadic.add d).e := by
  obtain ⟨n, m, e, hv⟩ := isNumber_iff_fin.1 hc
  rw [addBlock_quiet h, hv, FFmt.addV_val, zeroSign_val, FFmt.roundDy_eq, ite_not]
  rfl
end

theorem floatBlock_addBlock (acc : Nat) (l : List (FVal × FVal)) (sa sb : FVal) : floatBlock acc l sa sb (addBlock false acc l sa sb) := by
  unfold floatBlock
  intro c poisoned nanElement signalling infZero infinite zeroScale nan
  have hnan : nanPairs l = true ↔ nanElement := nanPairs_iff l
  have hsig : snanPairs l = true ↔ signalling := snanPairs_iff l
  have hzero : infZeroPairs l = true ↔ infZero := infZeroPairs_iff l
  have hinf (n : Bool) : infPairs l n = true ↔ infinite n := infPairs_iff l n
  have off {b : Bool} {P : Prop} (h : b = true ↔ P) (hp : ¬P) : b = false := eq_false_of_ne_true fun hb => hp (h.1 hb)
  refine ⟨fun hp => addBlock_nan (blockValue_poisoned hp), fun hp hn => ⟨fun hs => ?_, fun hs => ?_⟩, fun hp hn =>
    ⟨fun hz => addBlock_nan (blockValue_infZero hp (off hnan hn) (hzero.2 hz)),
     fun hz ht hf => addBlock_nan (blockValue_opposite hp (off hnan hn) (off hzero hz) ((hinf true).2 ht) ((hinf false).2 hf)), fun n hz hi ho => ?_,
     fun hnum => ?_⟩⟩
  · exact addBlock_nan (by rw [blockValue_nan hp (hnan.2 hn), hsig.2 hs])
  · exact addBlock_nan (by rw [blockValue_nan hp (hnan.2 hn), off hsig hs])
  · have hv := blockValue_inf hp (off hnan hn) (off hzero hz) ((hinf n).2 hi) (off (hinf !n) ho)
    refine ⟨fun hs => addBlock_nan (by rw [hv, if_pos (by simpa using hs)]), fun hs => ?_⟩
    have hblock := addBlock_inf (acc := acc) (hv.trans (if_neg (by rw [Bool.or_eq_true]; exact hs)))
    split
    · next hc => exact hblock.trans (if_pos hc)
    · next hc =>
      rw [if_neg hc] at hblock
      split
      · next hi => exact hblock.trans (if_pos hi)
      · next hi => exact hblock.trans (if_neg hi)
  · have noInf (n : Bool) : ¬infinite n := by
      rintro ⟨p, hp, h | h, -⟩
      · rw [(hnum p hp).1.2] at h; cases h
      · rw [(hnum p hp).2.2] at h; cases h
    have noZero : ¬infZero := by
      rintro ⟨p, hp, ⟨h, -⟩ | ⟨-, h⟩⟩
      · rw [(hnum p hp).1.2] at h; cases h
      · rw [(hnum p hp).2.2] at h; cases h
    have hv := blockValue_finite hp (off hnan hn) (off hzero noZero) (off (hinf true) (noInf true)) (off (hinf false) (noInf false))
    refine ⟨addBlock_finite_nan hv, fun n => addBlock_finite_inf hv, fun hc => ⟨_, ?_, addBlock_finite_number hv hc⟩⟩
    rw [← num_pairSum, ratOf_eq_num, ratOf_eq_num, ratOf_eq_num]
    exact ((Dyadic.num_add _ _).trans (by rw [Dyadic.num_mul, Dyadic.num_mul])).symm

/-! ### An integer block -/

/-- The exact sum of the products of a block of integers. -/
def intSum (l : List (FVal × FVal)) : Int := (l.map fun p => p.1.dyadic.m * p.2.dyadic.m).sum

theorem intSum_eq_foldl (l : List (FVal × FVal)) : l.foldl (fun (n : Int) p => n + p.1.dyadic.m * p.2.dyadic.m) 0 = intSum l := by
  rw [intSum, List.sum_eq_foldl, List.foldl_map]

/-- An integer block is added with one clamp (R157). -/
theorem addBlock_true (acc : Nat) (l : List (FVal × FVal)) (sa sb : FVal) (v : Int) (hv : (BitVec.ofNat 32 acc).toInt + intSum l = v) :
    addBlock true acc l sa sb = ((BitVec.ofInt 32 (max (-2 ^ 31) (min v (2 ^ 31 - 1)))).toNat, { ns := decide (v < -2 ^ 31 ∨ 2 ^ 31 - 1 < v) }) := by
  rw [addBlock]
  simp only [if_true]
  rw [intSum_eq_foldl, hv, satTo_sat, clampedTo]
  have hclamp : (if v < -2 ^ (32 - 1) then -2 ^ (32 - 1) else if 2 ^ (32 - 1) - 1 < v then 2 ^ (32 - 1) - 1 else v) = max (-2 ^ 31) (min v (2 ^ 31 - 1)) := by
    split_ifs <;> omega
  rw [hclamp]

/-- Within the range of 32 bits an integer block adds its exact sum. -/
theorem toInt_addBlock_true {acc : Nat} {l : List (FVal × FVal)} {sa sb : FVal} (hlo : -2 ^ 31 ≤ (BitVec.ofNat 32 acc).toInt + intSum l)
    (hhi : (BitVec.ofNat 32 acc).toInt + intSum l < 2 ^ 31) :
    (BitVec.ofNat 32 (addBlock true acc l sa sb).1).toInt = (BitVec.ofNat 32 acc).toInt + intSum l := by
  rw [addBlock_true acc l sa sb _ rfl]
  generalize (BitVec.ofNat 32 acc).toInt + intSum l = v at hlo hhi ⊢
  rw [show max (-2 ^ 31) (min v (2 ^ 31 - 1)) = v by omega, BitVec.ofNat_toNat, BitVec.setWidth_eq, BitVec.toInt_ofInt]
  exact Int.bmod_eq_of_le (by norm_num; exact hlo) (by norm_num; omega)

/-- The integers of a format are small. -/
theorem natAbs_fmtValue_le {f : Nat} (hlo : 6 ≤ f) (hhi : f ≤ 7) (c : Nat) : (fmtValue f c).dyadic.m.natAbs ≤ 128 := by
  have mag (n : Bool) (k : Nat) : (signedMag n k).natAbs = k := by cases n <;> simp [signedMag]
  obtain rfl | rfl : f = 6 ∨ f = 7 := by omega
  · refine (mag _ _).le.trans ?_
    have := (BitVec.ofNat 8 c).isLt
    rw [BitVec.toInt_eq_toNat_cond]
    split <;> omega
  · refine (mag _ _).le.trans ?_
    have := (BitVec.ofNat 4 c).isLt
    rw [BitVec.toInt_eq_toNat_cond]
    split <;> omega

/-! ### An element of a product -/

section
variable (s : State) (core mc : Nat) (a b : Tile) (y x : Nat)

theorem State.tileScale_eq (t : Tile) (row kb : Nat) : s.tileScale core mc t row kb = if tileScaled t then
    s8Value (s.byte (.oper core mc) (tileBase t + tileSoff t + row * ((tileCols t + tileBl t - 1) / tileBl t) + kb)).toNat else .fin false 1 0 := by
  rw [State.tileScale, State.load_one]
  rfl

/-- The blocks that a product adds are those of R157. -/
theorem State.blocksOf_eq : s.blocksOf core mc a b y x = (List.range (tileNb a)).map fun kb => blockOf s core mc a b y x kb := by
  refine List.map_congr_left fun kb _ => ?_
  rw [State.tileScale_eq, State.tileScale_eq]
  rfl

/-- An element of a product once a block of columns has been added to it. -/
def State.addColumns (r kb : Nat) : Nat :=
  (addBlock (fmtInt (tileFmt a)) r (blockOf s core mc a b y x kb).1 (blockOf s core mc a b y x kb).2.1 (blockOf s core mc a b y x kb).2.2).1

/-- An element takes the blocks of the columns in turn. -/
theorem State.mmaElem_fst (acc : Nat) : (s.mmaElem core mc a b y x acc).1 = (List.range (tileNb a)).foldl (s.addColumns core mc a b y x) acc := by
  have fold : ∀ (l : List (List (FVal × FVal) × FVal × FVal)) (r : Nat × Conds),
      (l.foldl (fun (r : Nat × Conds) x =>
        let v := addBlock (fmtInt (tileFmt a)) r.1 x.1 x.2.1 x.2.2
        (v.1, r.2.join v.2)) r).1 = l.foldl (fun r x => (addBlock (fmtInt (tileFmt a)) r x.1 x.2.1 x.2.2).1) r.1 := by
    intro l
    induction l with
    | nil => exact fun _ => rfl
    | cons x l ih => exact fun r => ih _
  rw [State.mmaElem, fold, State.blocksOf_eq, List.foldl_map]
  rfl
end

/-! ### Integer products without a clamp -/

theorem natAbs_sum_range_le {f : Nat → Int} {B : Nat} (h : ∀ k, (f k).natAbs ≤ B) (n : Nat) : (((List.range n).map f).sum).natAbs ≤ n * B := by
  induction n with
  | zero => simp
  | succ n ih =>
    rw [List.range_succ, List.map_append, List.sum_append, List.map_cons, List.map_nil, List.sum_cons, List.sum_nil, add_zero, Nat.succ_mul]
    exact (Int.natAbs_add_le _ _).trans (Nat.add_le_add ih (h n))

theorem sum_range_add (f : Nat → Int) (m n : Nat) : ((List.range (m + n)).map f).sum = ((List.range m).map f).sum + ((List.range n).map fun k => f (m + k)).sum := by
  rw [List.range_add, List.map_append, List.sum_append, List.map_map]
  rfl

section
variable (s : State) (core mc : Nat) (a b : Tile) (y x : Nat)

/-- The product of the elements of one column. -/
def State.columnProduct (k : Nat) : Int :=
  (fmtValue (tileFmt a) (s.tileElem core mc a y k)).dyadic.m * (fmtValue (tileFmt b) (s.tileElem core mc b x k)).dyadic.m

theorem intSum_blockOf (kb : Nat) : intSum (blockOf s core mc a b y x kb).1
    = ((List.range (min (tileBl a) (tileCols a - kb * tileBl a))).map fun k => s.columnProduct core mc a b y x (kb * tileBl a + k)).sum := by
  simp only [intSum, blockOf, List.map_map]
  rfl

theorem tileBl_pos (t : Tile) : 0 < tileBl t := by
  unfold tileBl
  positivity

/-- The columns of the first blocks. -/
theorem min_cols_succ {n : Nat} (h : n < tileNb a) : min (tileCols a) ((n + 1) * tileBl a) = n * tileBl a + min (tileBl a) (tileCols a - n * tileBl a)
    ∧ min (tileCols a) (n * tileBl a) = n * tileBl a := by
  have hpos := tileBl_pos a
  have hlt : n * tileBl a + tileBl a ≤ tileCols a + tileBl a - 1 := by
    have := (Nat.le_div_iff_mul_le hpos).1 (Nat.succ_le_of_lt h)
    rwa [Nat.succ_mul] at this
  rw [Nat.succ_mul]
  generalize n * tileBl a = m at hlt ⊢
  omega

theorem min_cols_tileNb : min (tileCols a) (tileNb a * tileBl a) = tileCols a := by
  refine min_eq_left ?_
  have hpos := tileBl_pos a
  have := Nat.lt_div_mul_add (a := tileCols a + tileBl a - 1) hpos
  unfold tileNb
  omega

variable {a b} (hint : 6 ≤ tileFmt a ∧ tileFmt a ≤ 7 ∧ 6 ≤ tileFmt b ∧ tileFmt b ≤ 7) (hcols : tileCols a ≤ 512) {old : Nat} (hold : old < 2 ^ 30)
include hint

theorem natAbs_columnProduct_le (k : Nat) : (s.columnProduct core mc a b y x k).natAbs ≤ 16384 := by
  rw [State.columnProduct, Int.natAbs_mul]
  exact Nat.mul_le_mul (natAbs_fmtValue_le hint.1 hint.2.1 _) (natAbs_fmtValue_le hint.2.2.1 hint.2.2.2 _)

include hcols hold

/-- The integers of a product within range are summed exactly: no block meets a bound. -/
theorem toInt_foldl_addColumns {n : Nat} (hn : n ≤ tileNb a) : (BitVec.ofNat 32 ((List.range n).foldl (s.addColumns core mc a b y x) old)).toInt
    = old + ((List.range (min (tileCols a) (n * tileBl a))).map (s.columnProduct core mc a b y x)).sum := by
  have small (m : Nat) : (((List.range (min (tileCols a) m)).map (s.columnProduct core mc a b y x)).sum).natAbs ≤ 8388608 := by
    refine (natAbs_sum_range_le (natAbs_columnProduct_le s core mc y x hint) _).trans ?_
    have := min_le_left (tileCols a) m
    omega
  induction n with
  | zero =>
    rw [Nat.zero_mul, Nat.min_zero, List.range_zero, List.foldl_nil, List.map_nil, List.sum_nil, BitVec.toInt_eq_toNat_cond,
      BitVec.toNat_ofNat, Nat.mod_eq_of_lt (by omega), if_pos (by omega), add_zero]
  | succ n ih =>
    have ih := ih (Nat.le_of_succ_le hn)
    obtain ⟨hnext, hhere⟩ := min_cols_succ a (Nat.lt_of_succ_le hn)
    have hsum := sum_range_add (s.columnProduct core mc a b y x) (n * tileBl a) (min (tileBl a) (tileCols a - n * tileBl a))
    rw [← intSum_blockOf, ← hnext] at hsum
    have hs := small ((n + 1) * tileBl a)
    rw [hhere] at ih
    rw [List.range_succ, List.foldl_append, List.foldl_cons, List.foldl_nil, State.addColumns, fmtInt, decide_eq_true hint.1, toInt_addBlock_true, ih, hsum, add_assoc]
    all_goals
      rw [ih]
      omega
end

end Sys2Proof.Machine
end

/-! The matrix unit executes commands (R154, R161 to R163, R168, R381) -/
section
namespace Sys2Proof.Machine

/-! ### Accumulator elements -/

section
variable (core mc : Nat)

theorem State.keepsWork_setAcc (s : State) (l : List (Nat × Nat × Conds)) : s.KeepsWork (s.setAcc core mc l) :=
  .foldl (fun s _ => s.keepsWork_store _ _ _) l s

theorem accAt_holds {e b : Nat} {m : MemId} : (accAt core mc e).holds 4 m b ↔ m = .acc core mc ∧ 4 * e ≤ b ∧ b < 4 * e + 4 := Iff.rfl

/-- Elements of different numbers do not meet. -/
theorem accAt_apart {e f : Nat} (h : e ≠ f) : ((accAt core mc f).range 4).meets ((accAt core mc e).range 4) = false := by
  refine eq_false_of_ne_true fun hm => h ?_
  obtain ⟨-, h1, h2⟩ := (Range.meets_iff _ _).1 hm
  simp only [Target.range, accAt] at h1 h2
  omega

theorem State.byte_setAcc {s : State} {l : List (Nat × Nat × Conds)} {m : MemId} {b : Nat} (h : ∀ e ∈ l, ¬(accAt core mc e.1).holds 4 m b) :
    (s.setAcc core mc l).byte m b = s.byte m b := State.byte_foldl_store (fun _ _ _ _ => rfl) l s h

/-- Of elements with numbers of their own, each has the code written. -/
theorem State.load_setAcc (s : State) {l : List (Nat × Nat × Conds)} (hl : (l.map Prod.fst).Nodup) {e : Nat × Nat × Conds} (he : e ∈ l) :
    (s.setAcc core mc l).load (accAt core mc e.1) 4 = e.2.1 % 2 ^ 32 := by
  refine State.load_foldl_store (at_ := fun e : Nat × Nat × Conds => accAt core mc e.1) (n := 4) (val := fun e => e.2.1) (fun _ _ _ _ => rfl) ?_ he s
  exact (List.pairwise_map.1 hl).imp fun h => accAt_apart core mc h
end

/-- Bytes written outside the elements from one on are as before, whatever the step logs. -/
theorem onlyWrites_acc {s t : State} {core mc o n : Nat} (h : ∀ m b, (∀ e, o ≤ e → e < o + n → ¬(accAt core mc e).holds 4 m b) → t.byte m b = s.byte m b) :
    onlyWrites s t (.acc core mc) (4 * o) (4 * n) := by
  intro m b _ hout
  refine h m b fun e h1 h2 hb => ?_
  obtain ⟨hm, h3, h4⟩ := (accAt_holds core mc).1 hb
  rcases hout with h | h | h
  · exact h hm
  · omega
  · omega

/-! ### The elements of a product, row by row -/

theorem flatMap_range_keys (a b : Nat) : ((List.range a).flatMap fun i => (List.range b).map fun j => i * b + j) = List.range (a * b) := by
  induction a with
  | zero => simp
  | succ a ih => rw [List.range_succ, List.flatMap_append, ih, Nat.succ_mul, List.range_add, List.flatMap_singleton]

section
variable (s : State) (core mc : Nat) (a b : Tile) (o : Nat) (z : Bool)

theorem State.product_keys : (s.product core mc a b o z).map Prod.fst = (List.range (tileRows a * tileRows b)).map fun k => o + k := by
  rw [← flatMap_range_keys, State.product, List.map_flatMap, List.map_flatMap]
  simp only [List.map_map, Function.comp_def, Nat.add_assoc]

theorem State.nodup_product_keys : ((s.product core mc a b o z).map Prod.fst).Nodup := by
  rw [State.product_keys]
  exact List.nodup_range.map fun _ _ => Nat.add_left_cancel

theorem State.lt_of_mem_product {e : Nat × Nat × Conds} (h : e ∈ s.product core mc a b o z) : o ≤ e.1 ∧ e.1 < o + tileRows a * tileRows b := by
  have hk : e.1 ∈ (s.product core mc a b o z).map Prod.fst := List.mem_map_of_mem h
  rw [State.product_keys, List.mem_map] at hk
  obtain ⟨k, hk, he⟩ := hk
  have := List.mem_range.1 hk
  omega

theorem State.mem_product {y x : Nat} (hy : y < tileRows a) (hx : x < tileRows b) : (o + y * tileRows b + x,
    s.mmaElem core mc a b y x (if z then 0 else s.load (accAt core mc (o + y * tileRows b + x)) 4)) ∈ s.product core mc a b o z :=
  List.mem_flatMap.2 ⟨y, List.mem_range.2 hy, List.mem_map.2 ⟨x, List.mem_range.2 hx, rfl⟩⟩
end

/-! ### The package at a command's turn -/

/-- The package once the head command has left its context's queue, `l` of which is left (R154). -/
def State.headGone (s : State) (core mc : Nat) (l : List MCmd) : State :=
  s.updCore core fun k => { k.setMc mc { (s.core core).mc mc with queue := l } with lastMc := mc }

section
variable (s : State) (core mc : Nat) (l : List MCmd)

theorem State.popCommand_eq {c : MCmd} (h : ((s.core core).mc mc).queue = c :: l) : s.popCommand core mc = s.headGone core mc l := by
  unfold State.popCommand State.headGone State.updCore
  dsimp only
  rw [h]
  rfl

theorem State.mc_headGone : ((s.headGone core mc l).core core).mc mc = { (s.core core).mc mc with queue := l } := by
  rw [State.headGone, State.core_updCore_same]
  exact Core.mc_setMc ..

theorem State.ops_headGone : ((s.headGone core mc l).core core).ops = (s.core core).ops := by
  rw [State.headGone, State.core_updCore_same]
  exact Core.ops_setMc ..

theorem State.op_headGone (k : Nat) : ((s.headGone core mc l).core core).op k = (s.core core).op k := by rw [Core.op, State.ops_headGone, Core.op]

theorem State.byte_headGone (m : MemId) (b : Nat) : (s.headGone core mc l).byte m b = s.byte m b := rfl

theorem State.load_headGone (t : Target) (n : Nat) : (s.headGone core mc l).load t n = s.load t n := State.load_congr (s.byte_headGone core mc l) t n

theorem State.tileElem_headGone (t : Tile) (y x : Nat) : (s.headGone core mc l).tileElem core mc t y x = s.tileElem core mc t y x := by
  simp only [State.tileElem, State.load_headGone]

theorem State.blockOf_headGone (a b : Tile) (y x kb : Nat) : blockOf (s.headGone core mc l) core mc a b y x kb = blockOf s core mc a b y x kb := by
  simp only [blockOf, State.tileElem_headGone, State.byte_headGone]

theorem State.addColumns_headGone (a b : Tile) (y x : Nat) : (s.headGone core mc l).addColumns core mc a b y x = s.addColumns core mc a b y x := by
  funext r kb
  simp only [State.addColumns, State.blockOf_headGone]

/-- What keeps the work of the engines leaves the queue as the command has left it. -/
theorem State.KeepsWork.queue_headGone {t : State} (h : (s.headGone core mc l).KeepsWork t) : ((t.core core).mc mc).queue = l := by
  rw [h.mc, State.mc_headGone]
end

/-- A command at its turn: its context has a number, it is at the head and may begin, the other context does not come before it, and its thread issues no
stitch. -/
structure AtTurn (s : State) (core mc : Nat) (c : MCmd) (l : List MCmd) : Prop where
  context : mc ≤ 1
  head : ((s.core core).mc mc).queue = c :: l
  ready : s.commandReady core mc = some c
  turn : s.commandReady core (1 - mc) = none ∨ (s.core core).lastMc ≠ mc
  apart : ∀ y ∈ (s.core core).stitch, y.1 ≠ c.ref

section
variable {s : State} {core mc : Nat} {c : MCmd} {l : List MCmd} (h : AtTurn s core mc c l) (agree : Bool)
include h

theorem exec_matrixCommandExecute : exec (.matrixCommandExecute core mc agree) s = if ((s.core core).mc mc).halt
    then .next ((s.headGone core mc l).discard core c) else .next ((s.headGone core mc l).runCommand core mc c agree) := by
  obtain ⟨hmc, hhead, hready, hturn, hapart⟩ := h
  have hst : s.inStitch core c.ref = false := by simpa [State.inStitch] using hapart
  have hnot : ¬((s.commandReady core (1 - mc)).isSome ∧ (s.core core).lastMc = mc ∨ s.inStitch core c.ref) := by
    rintro (⟨h1, h2⟩ | h)
    · rcases hturn with h | h
      · rw [h] at h1; cases h1
      · exact h h2
    · rw [hst] at h; cases h
  have hexec : exec (.matrixCommandExecute core mc agree) s = execMatrixCommandExecute core mc agree s := rfl
  rw [hexec, execMatrixCommandExecute, if_neg (not_lt.2 hmc), hready]
  dsimp only
  rw [if_neg hnot, State.popCommand_eq s core mc l hhead]

theorem exec_halted (hh : ((s.core core).mc mc).halt = true) : exec (.matrixCommandExecute core mc agree) s = .next ((s.headGone core mc l).discard core c) := by
  rw [exec_matrixCommandExecute h, if_pos hh]

theorem exec_running (hh : ((s.core core).mc mc).halt = false) :
    exec (.matrixCommandExecute core mc agree) s = .next ((s.headGone core mc l).runCommand core mc c agree) := by
  rw [exec_matrixCommandExecute h, if_neg (ne_true_of_eq_false hh)]
end

/-! ### Products (R157, R168) -/

section
variable (p : State) (core mc : Nat) {c : MCmd} {ta tb : Nat} {da db : Tile} {o : Nat} {z : Bool} {seq : Nat} (hk : c.kind = .mma ta tb da db o z seq)

/-- The package once a product has been added. -/
def State.multiplied (p : State) (core mc : Nat) (c : MCmd) (da db : Tile) (o : Nat) (z : Bool) : State :=
  (p.setAcc core mc (p.product core mc da db o z)).raiseLast (c.counter core) ((p.product core mc da db o z).map fun e => e.2.2)

include hk in
theorem State.runCommand_mma {agree : Bool} (h : p.isRedundant c = false ∨ agree = true) :
    p.runCommand core mc c agree = p.multiplied core mc c da db o z := by
  unfold State.runCommand
  rw [hk]
  refine if_neg ?_
  rcases h with h | h <;> simp [h]

include hk in
theorem State.runCommand_mismatch (h : p.isRedundant c = true) : p.runCommand core mc c false = p.mismatch core mc c seq := by
  unfold State.runCommand
  rw [hk]
  exact if_pos (by rw [h]; rfl)

theorem State.keepsWork_multiplied : p.KeepsWork (p.multiplied core mc c da db o z) :=
  (p.keepsWork_setAcc core mc _).trans (State.keepsWork_raiseLast _ _ _)

theorem State.byte_multiplied (m : MemId) (b : Nat) :
    (p.multiplied core mc c da db o z).byte m b = (p.setAcc core mc (p.product core mc da db o z)).byte m b :=
  (State.keepsWork_raiseLast _ _ _).byte (State.raiseLast_mems _ _ _) m b

theorem State.onlyWrites_multiplied : onlyWrites p (p.multiplied core mc c da db o z) (.acc core mc) (4 * o) (4 * (tileRows da * tileRows db)) := by
  refine onlyWrites_acc fun m b hout => ?_
  rw [State.byte_multiplied]
  refine State.byte_setAcc core mc fun e he => ?_
  obtain ⟨h1, h2⟩ := p.lt_of_mem_product core mc da db o z he
  exact hout e.1 h1 h2

theorem State.load_multiplied {y x : Nat} (hy : y < tileRows da) (hx : x < tileRows db) :
    (p.multiplied core mc c da db o z).load (accAt core mc (o + y * tileRows db + x)) 4
      = (List.range (tileNb da)).foldl (p.addColumns core mc da db y x) (if z then 0 else p.load (accAt core mc (o + y * tileRows db + x)) 4) % 2 ^ 32 := by
  have hset := State.load_setAcc core mc p (p.nodup_product_keys core mc da db o z) (p.mem_product core mc da db o z hy hx)
  rw [State.mmaElem_fst] at hset
  exact (State.load_congr (p.byte_multiplied core mc) _ _).trans hset

/-! ### Mismatches (R168, R381) -/

theorem mem_holdIn {l : List Trap} {t u : Trap} (h : u ∈ l) : u ∈ holdIn l t := by
  unfold holdIn
  split
  · exact h
  · by_cases hr : u.rank < t.rank
    · exact List.mem_append_left _ (List.mem_filter.2 ⟨h, by simpa using hr⟩)
    · exact List.mem_append_right _ (List.mem_cons_of_mem _ (List.mem_filter.2 ⟨h, by simpa using hr⟩))

/-- A trap of a cause that is not held yet joins those held (R381). -/
theorem self_mem_holdIn {l : List Trap} {t : Trap} (h : ∀ u ∈ l, u.cause ≠ t.cause) : t ∈ holdIn l t := by
  unfold holdIn
  rw [if_neg (by simpa using h)]
  exact List.mem_append_right _ List.mem_cons_self

/-- The trap of a redundancy mismatch (R381). -/
def MCmd.mismatchTrap (c : MCmd) (seq : Nat) : Trap :=
  { cause := .redundancy, deferred := true, epc := c.pc, eaddr := 0, einfo := BitVec.ofNat 32 seq, einst := c.einst }

/-- A mismatch of a thread that has not exited: its context halts, and it holds the trap. -/
theorem State.mismatch_of_live {th : Thread} (ht : p.thread c.ref = some th) (he : th.status ≠ .exited) (seq : Nat) :
    p.mismatch core mc c seq = (p.updMc core mc fun m => { m with halt := true, haltAt := c.id }).updThread c.ref
      fun u => if u.status = .exited then u else { u with held := holdIn u.held (c.mismatchTrap seq) } := by
  obtain ⟨tm, htm, hth⟩ := State.team_of_thread ht
  have htm' : (p.updMc core mc fun m => { m with halt := true, haltAt := c.id }).team c.ref.team = some tm := htm
  unfold State.mismatch
  dsimp only
  rw [htm']
  dsimp only
  rw [hth]
  exact if_neg (by simpa using he)
end

/-- What a mismatch leaves of its context, and of its thread's held traps. -/
theorem State.mismatch_spec (p : State) (core mc : Nat) (c : MCmd) (seq : Nat) {th : Thread} (ht : p.thread c.ref = some th) (he : th.status ≠ .exited) :
    ((p.mismatch core mc c seq).core core).mc mc = { (p.core core).mc mc with halt := true, haltAt := c.id } ∧ (p.mismatch core mc c seq).mems = p.mems
    ∧ (p.mismatch core mc c seq).thread c.ref = some { th with held := holdIn th.held (c.mismatchTrap seq) } := by
  rw [p.mismatch_of_live core mc ht he]
  refine ⟨?_, State.updThread_mems _ _ _, ?_⟩
  · rw [State.core_of_cores (State.updThread_cores _ _ _), State.core_updMc, Core.mc_setMc]
  · have ht' : (p.updMc core mc fun m => { m with halt := true, haltAt := c.id }).thread c.ref = some th := ht
    rw [State.thread_updThread _ ht', if_neg he]

/-! ### ACCZ and ACCWR (R161, R163) -/

section
variable (p : State) (core mc o n : Nat)

/-- The package once elements have been zeroed. -/
def State.zeroed : State := (List.range n).foldl (fun s e => s.store (accAt core mc (o + e)) 4 0) p

theorem State.keepsWork_zeroed : p.KeepsWork (p.zeroed core mc o n) := .foldl (fun s _ => s.keepsWork_store _ _ _) _ p

theorem State.onlyWrites_zeroed : onlyWrites p (p.zeroed core mc o n) (.acc core mc) (4 * o) (4 * n) := by
  refine onlyWrites_acc fun m b hout => State.byte_foldl_store (at_ := fun e => accAt core mc (o + e)) (val := fun _ => 0) (fun _ _ _ _ => rfl) _ p fun e he => ?_
  have := List.mem_range.1 he
  exact hout (o + e) (by omega) (by omega)

theorem State.load_zeroed {e : Nat} (he : e < n) : (p.zeroed core mc o n).load (accAt core mc (o + e)) 4 = 0 := by
  refine State.load_foldl_store (at_ := fun e => accAt core mc (o + e)) (n := 4) (val := fun _ => 0) (fun _ _ _ _ => rfl) ?_ (List.mem_range.2 he) p
  exact List.nodup_range.imp fun h => accAt_apart core mc fun h' => h (Nat.add_left_cancel h')
end

section
variable (p : State) (core mc o : Nat) (f : AccFmt) (data : List Nat)

/-- The elements that ACCWR writes, with their numbers. -/
def accwrElems (o : Nat) (f : AccFmt) (data : List Nat) : List (Nat × Nat × Conds) := ((List.range data.length).zip data).map fun e => (o + e.1, accIn f e.2)

theorem accwrElems_keys : (accwrElems o f data).map Prod.fst = (List.range data.length).map fun k => o + k := by
  have h : ((List.range data.length).zip data).map Prod.fst = List.range data.length := List.map_fst_zip (by simp)
  conv_rhs => rw [← h]
  rw [accwrElems, List.map_map, List.map_map]
  rfl

theorem nodup_accwrElems_keys : ((accwrElems o f data).map Prod.fst).Nodup := by
  rw [accwrElems_keys]
  exact List.nodup_range.map fun _ _ => Nat.add_left_cancel

theorem lt_of_mem_accwrElems {e : Nat × Nat × Conds} (h : e ∈ accwrElems o f data) : o ≤ e.1 ∧ e.1 < o + data.length := by
  have hk : e.1 ∈ (accwrElems o f data).map Prod.fst := List.mem_map_of_mem h
  rw [accwrElems_keys, List.mem_map] at hk
  obtain ⟨k, hk, he⟩ := hk
  have := List.mem_range.1 hk
  omega

theorem mem_accwrElems {k v : Nat} (h : data[k]? = some v) : (o + k, accIn f v) ∈ accwrElems o f data := by
  obtain ⟨hk, hv⟩ := List.getElem?_eq_some_iff.1 h
  refine List.mem_map.2 ⟨(k, v), List.mem_iff_getElem.2 ⟨k, by simpa using hk, ?_⟩, rfl⟩
  simp [hv]

/-- The package once ACCWR has written its elements and its completion word. -/
def State.accWritten (p : State) (core mc : Nat) (c : MCmd) (f : AccFmt) (o : Nat) (data : List Nat) (cw : Option (Nat × Word)) : State :=
  ((p.setAcc core mc (accwrElems o f data)).completionWord (.copier c.ref.team core) c.ref.team cw).raiseLast (c.counter core)
    ((accwrElems o f data).map fun e => e.2.2)

variable {c : MCmd} {cw : Option (Nat × Word)}

theorem State.keepsWork_accWritten : p.KeepsWork (p.accWritten core mc c f o data cw) :=
  ((p.keepsWork_setAcc core mc _).trans (State.keepsWork_completionWord _ _ _ _)).trans (State.keepsWork_raiseLast _ _ _)

theorem State.byte_accWritten (m : MemId) (b : Nat) : (p.accWritten core mc c f o data cw).byte m b
    = ((p.setAcc core mc (accwrElems o f data)).completionWord (.copier c.ref.team core) c.ref.team cw).byte m b :=
  (State.keepsWork_raiseLast _ _ _).byte (State.raiseLast_mems _ _ _) m b

/-- The completion word lies in the scratchpad, apart from the accumulator. -/
theorem State.load_accWritten {k v : Nat} (h : data[k]? = some v) :
    (p.accWritten core mc c f o data cw).load (accAt core mc (o + k)) 4 = (accIn f v).1 % 2 ^ 32 := by
  rw [← State.load_setAcc core mc p (nodup_accwrElems_keys o f data) (mem_accwrElems o f data h)]
  refine State.load_congr_on fun b hb => ?_
  rw [State.byte_accWritten]
  refine State.byte_completionWord _ _ ?_
  rintro ⟨off, w, -, hm, -⟩
  cases hm

theorem State.onlyWrites_accWritten : onlyWrites p (p.accWritten core mc c f o data none) (.acc core mc) (4 * o) (4 * data.length) := by
  refine onlyWrites_acc fun m b hout => ?_
  rw [State.byte_accWritten]
  refine State.byte_setAcc core mc fun e he => ?_
  obtain ⟨h1, h2⟩ := lt_of_mem_accwrElems o f data he
  exact hout e.1 h1 h2

theorem State.load_accWritten_cw {off : Nat} {v : Word} :
    (p.accWritten core mc c f o data (some (off, v))).load (localByte c.ref.team off) 4 = v.toNat := by
  rw [State.load_congr (p.byte_accWritten core mc o f data), State.load_completionWord]
end

/-! ### ACCRD (R162, R163) -/

section
variable (p : State) (core mc : Nat) (f : AccFmt) (a o rows cols pitch : Nat)

/-- The package once ACCRD has written its codes. -/
def State.drained (p : State) (core mc : Nat) (c : MCmd) (f : AccFmt) (a o rows cols pitch : Nat) : State :=
  (p.drain core mc f a o rows cols pitch).foldl
    (fun s e => s.writeData (.copier c.ref.team core) false (localByte c.ref.team e.1) (accBytes f) e.2.1) p

variable {c : MCmd} {a o rows cols pitch}

theorem State.keepsWork_drained : p.KeepsWork (p.drained core mc c f a o rows cols pitch) := .foldl (fun s _ => s.keepsWork_writeData _ _ _ _ _) _ p

theorem State.byte_drained {m : MemId} {b : Nat} (h : ∀ j, m ≠ .spad c.ref.team j) : (p.drained core mc c f a o rows cols pitch).byte m b = p.byte m b :=
  State.byte_foldl_store (at_ := fun e : Nat × Nat × Conds => localByte c.ref.team e.1) (n := accBytes f) (val := fun e => e.2.1)
    (fun s _ m b => s.byte_writeData _ _ _ _ _ m b) _ p fun _ _ hb => h _ hb.1

theorem accBytes_pos : 0 < accBytes f := by cases f <;> decide

variable (hpitch : cols * accBytes f ≤ pitch) (hfit : a % 2 ^ 24 + rows * pitch ≤ 2 ^ 24)
include hpitch

/-- An element ends before one that comes after it in its row, or in a later row. -/
theorem drain_row {i i' j j' : Nat} (hj : j < cols) (h : i < i' ∨ i = i' ∧ j < j') : i * pitch + j * accBytes f + accBytes f ≤ i' * pitch + j' * accBytes f := by
  rcases h with h | ⟨rfl, h⟩
  · have h1 := Nat.mul_le_mul_right pitch (Nat.succ_le_of_lt h)
    have h2 := Nat.mul_le_mul_right (accBytes f) (Nat.succ_le_of_lt hj)
    rw [Nat.succ_mul] at h1 h2
    omega
  · have h2 := Nat.mul_le_mul_right (accBytes f) (Nat.succ_le_of_lt h)
    rw [Nat.succ_mul] at h2
    omega

theorem drain_end {i j : Nat} (hi : i < rows) (hj : j < cols) : i * pitch + j * accBytes f + accBytes f ≤ rows * pitch := by
  have h := drain_row f hpitch (i' := rows) (j' := 0) hj (.inl hi)
  omega

include hfit

/-- The codes of a drain lie in one part of the scratchpad. -/
theorem localByte_drain (team : Nat) {i j : Nat} (hi : i < rows) (hj : j < cols) :
    localByte team (a + i * pitch + j * accBytes f) = ⟨.spad team (a / 2 ^ 24 % 4), a % 2 ^ 24 + (i * pitch + j * accBytes f)⟩ := by
  have h := drain_end f hpitch hi hj
  have hpos := accBytes_pos f
  have hlt : a % 2 ^ 24 + (i * pitch + j * accBytes f) < 2 ^ 24 := by omega
  rw [localByte, show a + i * pitch + j * accBytes f = a % 2 ^ 24 + (i * pitch + j * accBytes f) + 2 ^ 24 * (a / 2 ^ 24) by omega,
    Nat.add_mul_div_left _ _ (by norm_num), Nat.add_mul_mod_self_left, Nat.div_eq_of_lt hlt, Nat.mod_eq_of_lt hlt, Nat.zero_add]

/-- No two codes of a drain meet. -/
theorem State.drain_apart (team : Nat) : (p.drain core mc f a o rows cols pitch).Pairwise fun e e' =>
    ((localByte team e'.1).range (accBytes f)).meets ((localByte team e.1).range (accBytes f)) = false := by
  have apart {i i' j j' : Nat} (hi : i < rows) (hi' : i' < rows) (hj : j < cols) (hj' : j' < cols) (h : i < i' ∨ i = i' ∧ j < j') :
      ((localByte team (a + i' * pitch + j' * accBytes f)).range (accBytes f)).meets
        ((localByte team (a + i * pitch + j * accBytes f)).range (accBytes f)) = false := by
    have hend := drain_row f hpitch (j' := j') hj h
    refine eq_false_of_ne_true fun hm => ?_
    rw [localByte_drain f hpitch hfit team hi hj, localByte_drain f hpitch hfit team hi' hj'] at hm
    obtain ⟨-, h1, h2⟩ := (Range.meets_iff _ _).1 hm
    simp only [Target.range] at h1 h2
    omega
  refine List.pairwise_flatMap.2 ⟨fun i hi => List.pairwise_map.2 ?_, ?_⟩
  · refine List.pairwise_lt_range.imp_of_mem fun hj hj' h => ?_
    exact apart (List.mem_range.1 hi) (List.mem_range.1 hi) (List.mem_range.1 hj) (List.mem_range.1 hj') (.inr ⟨rfl, h⟩)
  · refine List.pairwise_lt_range.imp_of_mem fun hi hi' h e he e' he' => ?_
    obtain ⟨j, hj, rfl⟩ := List.mem_map.1 he
    obtain ⟨j', hj', rfl⟩ := List.mem_map.1 he'
    exact apart (List.mem_range.1 hi) (List.mem_range.1 hi') (List.mem_range.1 hj) (List.mem_range.1 hj') (.inl h)

theorem State.load_drained {y x : Nat} (hy : y < rows) (hx : x < cols) :
    (p.drained core mc c f a o rows cols pitch).load (localByte c.ref.team (a + y * pitch + x * accBytes f)) (accBytes f)
      = (accOut f (p.load (accAt core mc (o + y * cols + x)) 4)).1 % 2 ^ (8 * accBytes f) := by
  have hmem : (a + y * pitch + x * accBytes f, accOut f (p.load (accAt core mc (o + y * cols + x)) 4)) ∈ p.drain core mc f a o rows cols pitch :=
    List.mem_flatMap.2 ⟨y, List.mem_range.2 hy, List.mem_map.2 ⟨x, List.mem_range.2 hx, rfl⟩⟩
  rw [pow_mul]
  exact State.load_foldl_store (at_ := fun e : Nat × Nat × Conds => localByte c.ref.team e.1) (n := accBytes f) (val := fun e => e.2.1)
    (fun s e m b => s.byte_writeData _ _ _ _ _ m b) (p.drain_apart core mc f hpitch hfit c.ref.team) hmem p
end

/-- The package once ACCRD has completed. -/
def State.accRead (p : State) (core mc : Nat) (c : MCmd) (f : AccFmt) (a o rows cols pitch : Nat) (e : EngOp) : State :=
  ((p.drained core mc c f a o rows cols pitch).raiseLast (c.counter core) ((p.drain core mc f a o rows cols pitch).map fun e => e.2.2)).finishOp core e 0

section
variable (p : State) (core mc : Nat) (f : AccFmt) {c : MCmd} {a o rows cols pitch : Nat} {e : EngOp} (he : e.ref.team = c.ref.team)

/-- Until its operation ends, a drain leaves the engines' work. -/
theorem State.keepsWork_drainRaised : p.KeepsWork ((p.drained core mc c f a o rows cols pitch).raiseLast (c.counter core)
    ((p.drain core mc f a o rows cols pitch).map fun e => e.2.2)) := (p.keepsWork_drained core mc f).trans (State.keepsWork_raiseLast _ _ _)

theorem State.mc_accRead (k : Nat) : ((p.accRead core mc c f a o rows cols pitch e).core core).mc k = (p.core core).mc k := by
  rw [State.accRead, State.finishOp, State.mc_completeHandle, (State.keepsWork_completionWord _ _ _ _).mc, (p.keepsWork_drainRaised core mc f).mc]

/-- Outside the completion word the bytes are those that the drain has written. -/
theorem State.byte_accRead {m : MemId} {b : Nat} (h : ¬inCompletion e.ref.team e.cw m b) :
    (p.accRead core mc c f a o rows cols pitch e).byte m b = (p.drained core mc c f a o rows cols pitch).byte m b := by
  rw [State.accRead, State.byte_finishOp _ _ _ _ h]
  exact (State.keepsWork_raiseLast _ _ _).byte (State.raiseLast_mems _ _ _) m b

include he in
theorem State.byte_accRead_outside {m : MemId} {b : Nat} (h : ∀ j, m ≠ .spad c.ref.team j) :
    (p.accRead core mc c f a o rows cols pitch e).byte m b = p.byte m b := by
  rw [State.byte_accRead, State.byte_drained _ _ _ _ h]
  rintro ⟨off, v, -, hm, -⟩
  exact h _ (hm.trans (by rw [he]; rfl))

include he in
theorem State.load_accRead_cw {off : Nat} {v : Word} (h : e.cw = some (off, v)) :
    (p.accRead core mc c f a o rows cols pitch e).load (localByte c.ref.team off) 4 = v.toNat := by
  rw [← he]
  exact State.load_finishOp _ _ _ _ h

include he in
theorem State.load_accRead (hpitch : cols * accBytes f ≤ pitch) (hfit : a % 2 ^ 24 + rows * pitch ≤ 2 ^ 24) {y x : Nat} (hy : y < rows) (hx : x < cols)
    (hcw : ∀ off v, e.cw = some (off, v) → ((localByte c.ref.team off).range 4).meets
      ((localByte c.ref.team (a + y * pitch + x * accBytes f)).range (accBytes f)) = false) :
    (p.accRead core mc c f a o rows cols pitch e).load (localByte c.ref.team (a + y * pitch + x * accBytes f)) (accBytes f)
      = (accOut f (p.load (accAt core mc (o + y * cols + x)) 4)).1 % 2 ^ (8 * accBytes f) := by
  rw [← p.load_drained core mc f hpitch hfit hy hx]
  refine State.load_congr_on fun b hb => p.byte_accRead core mc f ?_
  rintro ⟨off, v, hv, hin⟩
  rw [he] at hin
  exact Target.not_holds_of_meets (hcw off v hv) hb hin
end

section
variable (p : State) (core mc : Nat) {c : MCmd} (agree : Bool)

theorem State.runCommand_accz {o n : Nat} (hk : c.kind = .accz o n) : p.runCommand core mc c agree = p.zeroed core mc o n := by
  unfold State.runCommand
  rw [hk]
  rfl

theorem State.runCommand_accwr {f : AccFmt} {o rows cols : Nat} {data : List Nat} {cw : Option (Nat × Word)} (hk : c.kind = .accwr f o rows cols data cw) :
    p.runCommand core mc c agree = p.accWritten core mc c f o data cw := by
  unfold State.runCommand
  rw [hk]
  rfl

theorem State.runCommand_accrd {f : AccFmt} {a o rows cols pitch op : Nat} {e : EngOp} (hk : c.kind = .accrd f a o rows cols pitch op)
    (ho : (p.core core).op op = some e) : p.runCommand core mc c agree = p.accRead core mc c f a o rows cols pitch e := by
  unfold State.runCommand
  rw [hk]
  dsimp only
  rw [ho]
  rfl

/-- A halted context's ACCRD is discarded, and its handle ends with ERR 7 (R168). -/
theorem State.discard_accrd {f : AccFmt} {a o rows cols pitch op : Nat} {e : EngOp} (hk : c.kind = .accrd f a o rows cols pitch op)
    (ho : (p.core core).op op = some e) : p.discard core c = p.completeHandle core e 7 0 := by
  unfold State.discard
  rw [hk]
  dsimp only
  rw [ho]

theorem State.discard_other (hk : ∀ f a o rows cols pitch op, c.kind ≠ .accrd f a o rows cols pitch op) : p.discard core c = p := by
  unfold State.discard
  split
  · next h => exact absurd h (hk _ _ _ _ _ _ _)
  all_goals rfl
end

/-! ### The statement -/

/-- Settles O53: a command at its turn leaves its queue and runs, and each kind's effect is known by what it stores. -/
theorem matrixUnitExecutes : Obligations.MatrixUnitExecutes := by
  unfold Obligations.MatrixUnitExecutes
  refine ⟨fun acc l sa sb _ _ => ⟨floatBlock_addBlock acc l sa sb, addBlock_true acc l sa sb _ rfl⟩, fun c => ⟨rfl, rfl, rfl, by simp [fmtValue, PkCode.value]⟩, ?_⟩
  intro s core mc agree c l m p i acc only left hmc hhead hready hturn hapart
  have turn : AtTurn s core mc c l := ⟨hmc, hhead, hready, hturn, hapart⟩
  have hop (k : Nat) : (p.core core).op k = (s.core core).op k := s.op_headGone core mc l k
  have hload (t : Target) (n : Nat) : p.load t n = s.load t n := s.load_headGone core mc l t n
  have hleft {t : State} (h : p.KeepsWork t) : left t := State.KeepsWork.queue_headGone s core mc l h
  have honly {t : State} {o n : Nat} (h : onlyWrites p t (.acc core mc) (4 * o) (4 * n)) : only t o n := h
  have drops (hh : m.halt = true) : exec i s = .next (p.discard core c) := exec_halted turn agree hh
  have runs (hh : m.halt = false) : exec i s = .next (p.runCommand core mc c agree) := exec_running turn agree hh
  refine ⟨fun hh => ⟨fun f a o rows cols pitch op e hk ho => ?_, fun hk => ?_⟩, fun hh => ⟨?mma, ?accz, ?accrd, ?accwr⟩⟩
  · rw [drops hh, State.discard_accrd p core hk ((hop op).trans ho)]
  · rw [drops hh, State.discard_other p core hk]
  case mma =>
    intro ta tb da db o z seq hk
    refine ⟨fun hr => ⟨p.multiplied core mc c da db o z, ?_, hleft (p.keepsWork_multiplied core mc), honly (p.onlyWrites_multiplied core mc),
      fun y x hy hx => ?_⟩, fun th hr ha ht he => ⟨p.mismatch core mc c seq, ?_, ?_⟩⟩
    · rw [runs hh, State.runCommand_mma p core mc hk hr]
    · intro old new term add
      have hadd : p.addColumns core mc da db y x = s.addColumns core mc da db y x := s.addColumns_headGone core mc l da db y x
      have hnew : new = (List.range (tileNb da)).foldl (s.addColumns core mc da db y x) old % 2 ^ 32 := by
        have h := p.load_multiplied core mc (c := c) (o := o) (z := z) hy hx
        rwa [hload, hadd] at h
      refine ⟨hnew, fun ha1 ha2 hb1 hb2 hold hcols => ?_⟩
      have hsum := toInt_foldl_addColumns s core mc y x ⟨ha1, ha2, hb1, hb2⟩ hcols hold le_rfl
      rw [min_cols_tileNb] at hsum
      rw [hnew]
      refine Eq.trans (congrArg BitVec.toInt (BitVec.eq_of_toNat_eq ?_)) hsum
      rw [BitVec.toNat_ofNat, BitVec.toNat_ofNat, Nat.mod_mod]
    · subst ha
      rw [runs hh, State.runCommand_mismatch p core mc hk hr]
    · obtain ⟨hctx, hmems, hth⟩ := p.mismatch_spec core mc c seq ht he
      have hq : ((p.core core).mc mc).queue = l := by rw [show (p.core core).mc mc = _ from s.mc_headGone core mc l]
      refine ⟨(congrArg MatCtx.queue hctx).trans hq, hmems, congrArg MatCtx.halt hctx, congrArg MatCtx.haltAt hctx, _, hth, fun tr htr => mem_holdIn htr,
        fun hnone => ⟨c.mismatchTrap seq, self_mem_holdIn hnone, rfl, rfl, rfl, rfl, rfl⟩⟩
  case accz =>
    intro o n hk
    refine ⟨p.zeroed core mc o n, ?_, hleft (p.keepsWork_zeroed core mc o n), honly (p.onlyWrites_zeroed core mc o n), fun e he => p.load_zeroed core mc o n he⟩
    rw [runs hh, State.runCommand_accz p core mc agree hk]
  case accrd =>
    intro f a o rows cols pitch op e hk ho _ hteam hpitch hfit
    refine ⟨p.accRead core mc c f a o rows cols pitch e, ?_, ?_, ?_, fun q b hq => p.byte_accRead_outside core mc f hteam hq,
      fun off v hcw => p.load_accRead_cw core mc f hteam hcw, fun y x hy hx => ?_⟩
    · rw [runs hh, State.runCommand_accrd p core mc agree hk ((hop op).trans ho)]
    · refine (congrArg MatCtx.queue (p.mc_accRead core mc f mc)).trans ?_
      rw [show (p.core core).mc mc = _ from s.mc_headGone core mc l]
    · rw [← Core.id_of_op ho]
      exact State.endedWith_finishOp ..
    · intro at_ hcw
      rw [← hload]
      exact p.load_accRead core mc f hteam hpitch hfit hy hx hcw
  case accwr =>
    intro f o rows cols data cw hk
    refine ⟨p.accWritten core mc c f o data cw, ?_, hleft (p.keepsWork_accWritten core mc o f data), fun k v hv => p.load_accWritten core mc o f data hv, ?_, ?_⟩
    · rw [runs hh, State.runCommand_accwr p core mc agree hk]
    · rintro rfl
      exact honly (p.onlyWrites_accWritten core mc o f data)
    · rintro off v rfl
      exact p.load_accWritten_cw core mc o f data

end Sys2Proof.Machine
end

/-! Groups of collectives, aborts, MSYNC and failed operations (R166, R168, R323, R329) -/
section
namespace Sys2Proof.Machine

/-! ### Aborts (R329) -/

/-- An abort leaves an operation's number. -/
theorem EngOp.id_abort (all : Word) (lost : List Nat) (o : EngOp) : (o.abort all lost).id = o.id := by
  unfold EngOp.abort
  dsimp only
  split <;> rfl

theorem EngOp.stage_abort (all : Word) (lost : List Nat) (o : EngOp) : (o.abort all lost).stage = if o.losing.isSome then .failed 4 else o.stage := by
  unfold EngOp.abort
  dsimp only
  split <;> rfl

/-- A part whose stage tells that it is not under way loses no result any more. -/
theorem EngOp.losing_of_failed {o : EngOp} {n : Nat} (h : o.stage = .failed n) : o.losing = none := by
  unfold EngOp.losing
  rw [h]

/-- A part that is under way can lose its result. -/
theorem EngOp.losing_isSome {o : EngOp} (hc : o.kind.coll?.isSome) (h : o.stage = .waiting ∨ (∃ l, o.stage = .reading l) ∨ ∃ l, o.stage = .begun l) :
    o.losing.isSome := by
  obtain ⟨c, hc⟩ := Option.isSome_iff_exists.1 hc
  unfold EngOp.losing
  rw [hc]
  rcases h with h | ⟨l, h⟩ | ⟨l, h⟩ <;> rw [h] <;> rfl

/-- Of an operation that loses no result an abort strikes ranks from RMASK, and no more. -/
theorem EngOp.abort_of_losing_none {o : EngOp} (all : Word) (lost : List Nat) (hl : o.losing = none) (hc : o.kind.coll?.isSome ∨ ∃ n, o.stage = .failed n) :
    o.abort all lost = { o with rmask := o.rmask &&& ~~~rankBits lost } := by
  unfold EngOp.abort
  rw [hl]
  rcases hc with hc | ⟨n, hn⟩
  · have hno (h : o.stage = .waiting ∨ (∃ l, o.stage = .reading l) ∨ ∃ l, o.stage = .begun l) : False := by
      have := o.losing_isSome hc h
      rw [hl] at this
      cases this
    cases hs : o.stage with
    | waiting => exact (hno (.inl hs)).elim
    | reading l => exact (hno (.inr (.inl ⟨l, hs⟩))).elim
    | begun l => exact (hno (.inr (.inr ⟨l, hs⟩))).elim
    | exchanged | result | failed | landed => rfl
  · rw [hn]
    rfl

/-- A second abort of a part changes nothing. -/
theorem EngOp.abort_abort {o : EngOp} (all : Word) (lost : List Nat) (hc : o.kind.coll?.isSome) : (o.abort all lost).abort all lost = o.abort all lost := by
  have twice (w : Word) : w &&& ~~~rankBits lost &&& ~~~rankBits lost = w &&& ~~~rankBits lost := by rw [BitVec.and_assoc, BitVec.and_self]
  cases hl : o.losing with
  | none =>
    rw [o.abort_of_losing_none all lost hl (.inl hc)]
    refine (EngOp.abort_of_losing_none (o := { o with rmask := o.rmask &&& ~~~rankBits lost }) all lost hl (.inl hc)).trans ?_
    dsimp only
    rw [twice]
  | some n =>
    have hs : (o.abort all lost).stage = .failed 4 := by rw [EngOp.stage_abort, hl]; rfl
    rw [EngOp.abort_of_losing_none all lost (EngOp.losing_of_failed hs) (.inr ⟨4, hs⟩)]
    unfold EngOp.abort
    rw [hl]
    dsimp only [Option.isSome]
    rw [if_pos rfl, twice]

theorem State.coll?_of_inGroup {s : State} {o : EngOp} {g : List Nat} {num : Nat} (h : s.inGroup o g num = true) : o.kind.coll?.isSome := by
  unfold State.inGroup at h
  split at h
  · next hc => rw [hc]; rfl
  · cases h

/-- The parts of an operation after a change of all of them, which makes the same of a part when it is made again: each is changed, and other operations, where
numbers are unique, are not. -/
theorem State.op_foldl_parts (s : State) (g : List Nat) (num : Nat) {f : EngOp → EngOp} (hid : ∀ o, (f o).id = o.id) {c k : Nat} {p : EngOp}
    (hp : (s.core c).op k = some p) (hg : s.inGroup p g num = true) (hf : f (f p) = f p) :
    (((s.partsOf g num).foldl (fun s e => s.updOp e.1 e.2.id f) s).core c).op k = some (f p) := by
  refine State.op_foldl_updOp (core := fun e : Nat × EngOp => e.1) (id := fun e => e.2.id) (f := fun _ => f) (fun _ => hid) (p := p) (fun _ _ _ _ => rfl)
    (fun _ _ _ _ => hf) s hp ⟨(c, p), List.mem_filter.2 ⟨State.mem_allOps_of_op hp, hg⟩, rfl, (Core.id_of_op hp).symm⟩

theorem State.op_foldl_others (s : State) (g : List Nat) (num : Nat) {f : EngOp → EngOp} (hid : ∀ o, (f o).id = o.id) {c k : Nat} {p : EngOp}
    (hp : (s.core c).op k = some p) (hg : s.inGroup p g num = false) (hu : ∀ e ∈ s.allOps, (s.core e.1).op e.2.id = some e.2) :
    (((s.partsOf g num).foldl (fun s e => s.updOp e.1 e.2.id f) s).core c).op k = some p := by
  rw [State.op_foldl_updOp_of_not_mem (core := fun e : Nat × EngOp => e.1) (id := fun e => e.2.id) (f := fun _ => f) (fun _ => hid), hp]
  rintro ⟨n, o⟩ he ⟨rfl, rfl⟩
  obtain ⟨hmem, hin⟩ := List.mem_filter.1 he
  rw [hu _ hmem] at hp
  cases hp
  rw [hg] at hin
  cases hin

theorem State.exists_op_foldl_parts (s : State) (g : List Nat) (num : Nat) {f : EngOp → EngOp} (hid : ∀ o, (f o).id = o.id) {c k : Nat} {p : EngOp}
    (hp : (s.core c).op k = some p) : ∃ q, (((s.partsOf g num).foldl (fun s e => s.updOp e.1 e.2.id f) s).core c).op k = some q :=
  State.exists_op_foldl_updOp (core := fun e : Nat × EngOp => e.1) (id := fun e => e.2.id) (f := fun _ => f) (fun _ => hid) _ s hp

/-- The note of an abort on a die whose rank has not issued its part. -/
def State.noteAbort (s : State) (g : List Nat) (num d : Nat) : State :=
  if (s.die d).hasIssued g num then s else s.setDie d { s.die d with aborted := (g, num) :: (s.die d).aborted }

theorem State.cores_noteAborts (s : State) (g : List Nat) (num : Nat) (l : List Nat) : (l.foldl (fun s d => s.noteAbort g num d) s).cores = s.cores := by
  induction l generalizing s with
  | nil => rfl
  | cons d l ih =>
    rw [List.foldl_cons, ih]
    unfold State.noteAbort
    split <;> rfl

theorem State.die_noteAbort_ne (s : State) (g : List Nat) (num : Nat) {d e : Nat} (h : d ≠ e) : (s.noteAbort g num d).die e = s.die e := by
  unfold State.noteAbort
  split
  · rfl
  · unfold State.die State.setDie
    rw [Tbl.look_put_ne _ _ h]

theorem State.die_noteAbort (s : State) (g : List Nat) (num d : Nat) : (s.noteAbort g num d).die d =
    if (s.die d).hasIssued g num then s.die d else { s.die d with aborted := (g, num) :: (s.die d).aborted } := by
  unfold State.noteAbort
  split
  · rfl
  · unfold State.die State.setDie
    rw [Tbl.look_put]
    rfl

/-- Notes stay. -/
theorem State.mem_aborted_noteAborts (s : State) (g : List Nat) (num : Nat) (l : List Nat) {d : Nat} (h : (g, num) ∈ (s.die d).aborted) :
    (g, num) ∈ ((l.foldl (fun s d => s.noteAbort g num d) s).die d).aborted := by
  induction l generalizing s with
  | nil => exact h
  | cons e l ih =>
    refine ih _ ?_
    by_cases he : e = d
    · subst he
      rw [State.die_noteAbort]
      split
      · exact h
      · exact List.mem_cons_self
    · rwa [State.die_noteAbort_ne s g num he]

theorem State.noted_of_mem (s : State) (g : List Nat) (num : Nat) (l : List Nat) {d : Nat} (hd : d ∈ l) (h : (s.die d).hasIssued g num = false) :
    (g, num) ∈ ((l.foldl (fun s d => s.noteAbort g num d) s).die d).aborted := by
  induction l generalizing s with
  | nil => cases hd
  | cons e l ih =>
    rw [List.foldl_cons]
    by_cases he : e = d
    · subst he
      refine State.mem_aborted_noteAborts _ _ _ _ ?_
      rw [State.die_noteAbort, if_neg (ne_true_of_eq_false h)]
      exact List.mem_cons_self
    · exact ih _ ((List.mem_cons.1 hd).resolve_left (Ne.symm he)) (by rwa [State.die_noteAbort_ne s g num he])

/-- What an abort makes of the parts, and the notes of the dies. -/
theorem State.abortGroup_eq (s : State) (g : List Nat) (num : Nat) (received : Option (List Nat)) : ∃ all lost, s.abortGroup g num received =
    [0, 1, 2, 3].foldl (fun s d => s.noteAbort g num d) ((s.partsOf g num).foldl (fun s e => s.updOp e.1 e.2.id (EngOp.abort all lost)) s) := by
  unfold State.abortGroup State.noteAbort State.partsOf
  exact ⟨_, _, rfl⟩

theorem State.dies_foldl_updOp (l : List (Nat × EngOp)) (f : EngOp → EngOp) (s : State) : (l.foldl (fun s e => s.updOp e.1 e.2.id f) s).dies = s.dies := by
  induction l generalizing s with
  | nil => rfl
  | cons e l ih => exact (ih _).trans rfl

/-- An abort reaches every part of the operation, and each die that has not issued its own (R329). -/
theorem State.abortedIn_abortGroup (s : State) (g : List Nat) (num : Nat) (received : Option (List Nat)) : abortedIn s (s.abortGroup g num received) g num := by
  obtain ⟨all, lost, heq⟩ := s.abortGroup_eq g num received
  have hid : ∀ o : EngOp, (o.abort all lost).id = o.id := EngOp.id_abort all lost
  have hop (c k : Nat) : ((s.abortGroup g num received).core c).op k
      = (((s.partsOf g num).foldl (fun s e => s.updOp e.1 e.2.id (EngOp.abort all lost)) s).core c).op k := by
    rw [heq, State.core_of_cores (State.cores_noteAborts _ _ _ _)]
  refine ⟨fun c k p hp => ?_, fun d hd hnot => ?_⟩
  · rw [hop]
    cases hg : s.inGroup p g num with
    | true =>
      refine ⟨_, s.op_foldl_parts g num hid hp hg (EngOp.abort_abort all lost (State.coll?_of_inGroup hg)), fun _ => EngOp.stage_abort all lost p, ?_⟩
      rintro ⟨⟩
    | false =>
      by_cases hu : ∀ e ∈ s.allOps, (s.core e.1).op e.2.id = some e.2
      · exact ⟨p, s.op_foldl_others g num hid hp hg hu, nofun, fun _ _ => rfl⟩
      · obtain ⟨q, hq⟩ := s.exists_op_foldl_parts g num hid hp
        exact ⟨q, hq, nofun, fun _ h => absurd h hu⟩
  · rw [heq]
    refine State.noted_of_mem _ _ _ _ ?_ ?_
    · simp only [List.mem_cons, List.not_mem_nil, or_false]
      omega
    · unfold State.die
      rw [State.dies_foldl_updOp]
      exact hnot

/-- An abort of a group that spans packages arrives (R329). -/
theorem exec_collAbort {s : State} {g : List Nat} {num : Nat} {received : List Nat} (hn : (groupRanks g).1 < (groupRanks g).2)
    (h : received = [] ∨ ((groupRanks g).1 ≤ (s.partsOf g num).length ∧ (∀ p ∈ s.partsOf g num, p.2.stage ≠ .waiting ∧ ∀ l, p.2.stage ≠ .reading l)
      ∧ ∀ p ∈ recsOf (s.partsOf g num), p.2.rank ∉ received)) : exec (.collAbort g num received) s = .next (s.abortGroup g num (some received)) := by
  have hexec : exec (.collAbort g num received) s = execCollAbort g num received s := rfl
  rw [hexec, execCollAbort]
  refine if_neg ?_
  intro hnot
  rw [Bool.or_eq_true, decide_eq_true_eq] at hnot
  rcases hnot with hle | hrec
  · exact absurd hle (not_le.2 hn)
  · simp only [Bool.and_eq_true, Bool.or_eq_true, decide_eq_true_eq, List.any_eq_true, Bool.not_eq_true', List.isEmpty_eq_false_iff] at hrec
    obtain ⟨hne, hbad⟩ := hrec
    obtain ⟨hlen, hstage, hrank⟩ := h.resolve_left hne
    obtain (hlt | ⟨p, hp, hearly⟩) | ⟨k, hk, hin⟩ := hbad
    · omega
    · obtain ⟨hw, hr⟩ := hstage p hp
      split at hearly
      · next hs => exact hw hs
      · next l hs => exact hr l hs
      all_goals cases hearly
    · obtain ⟨q, hq, hqk⟩ := List.mem_map.1 (List.contains_iff_mem.1 hin)
      exact hrank q hq (hqk ▸ hk)

/-! ### Assembly (R323) -/

section
variable {s : State} {die slot core : Nat} {o : EngOp} {r : CollRec} {num : Nat} {peers : List PeerRank} {order : Nat}

/-- The parts of an assembled group begin, or fail where they do not agree. -/
def EngOp.assemble (ok : Bool) (peers : List PeerRank) (order : Nat) (o : EngOp) : EngOp :=
  if ok then { o with assembled := true, peers := peers, order := order } else { o with stage := .failed 5 }

theorem exec_groupAssembly (hu : s.unassembled die slot = some (core, o)) (hk : o.kind.coll? = some (r, num))
    (hf : groupFull r (recsOf (s.partsOf (r.group (s.ctxOf o.ref)) num)) peers = true) (hp : peers = [] ∨ s.cutOff (r.group (s.ctxOf o.ref)) = false) :
    exec (.groupAssembly die slot peers order) s = .next ((s.partsOf (r.group (s.ctxOf o.ref)) num).foldl (fun z e => z.updOp e.1 e.2.id
      (EngOp.assemble (s.groupAgrees core r (recsOf (s.partsOf (r.group (s.ctxOf o.ref)) num)) peers) peers order)) s) := by
  have hexec : exec (.groupAssembly die slot peers order) s = execGroupAssembly die slot peers order s := rfl
  rw [hexec, execGroupAssembly, hu]
  dsimp only
  rw [hk]
  dsimp only
  rw [hf]
  refine if_neg ?_
  rcases hp with hp | hp <;> rw [hp] <;> simp

theorem EngOp.id_assemble (ok : Bool) (peers : List PeerRank) (order : Nat) (o : EngOp) : (o.assemble ok peers order).id = o.id := by cases ok <;> rfl

theorem EngOp.assemble_assemble (ok : Bool) (peers : List PeerRank) (order : Nat) (o : EngOp) :
    (o.assemble ok peers order).assemble ok peers order = o.assemble ok peers order := by cases ok <;> rfl
end

/-! ### Completions without a payload -/

section
variable {s : State} {core id : Nat} {o : EngOp} (ho : (s.core core).op id = some o)
include ho

theorem exec_engineCompletion {t : State} (h : s.completeOp core o = some t) : exec (.engineCompletion core id) s = .next t := by
  have hexec : exec (.engineCompletion core id) s = execEngineCompletion core id s := rfl
  rw [hexec, execEngineCompletion, ho, Option.bind_some, h]

theorem exec_failed {n : Nat} (h : o.stage = .failed n) : exec (.engineCompletion core id) s = .next (s.completeHandle core o n o.rmask) := by
  refine exec_engineCompletion ho ?_
  unfold State.completeOp
  rw [h]

theorem exec_msync (hk : o.kind = .msync) (hs : o.stage = .waiting) (hd : s.msyncDone core o = true) :
    exec (.engineCompletion core id) s = .next (s.completeHandle core o (s.msyncErr core o) 0) := by
  refine exec_engineCompletion ho ?_
  unfold State.completeOp
  rw [hs, hk]
  exact if_pos hd
end

/-- What MSYNC ends with (R166, R168). -/
theorem State.msyncErr_halted {s : State} {core : Nat} {o : EngOp} (h : (s.tileHome core o).2.halt = true ∧ (s.tileHome core o).2.haltAt < o.id) :
    s.msyncErr core o = 7 := by
  rw [State.msyncErr, h.1, decide_eq_true h.2]
  rfl

theorem State.msyncErr_running {s : State} {core : Nat} {o : EngOp} (h : (s.tileHome core o).2.halt = false ∨ o.id ≤ (s.tileHome core o).2.haltAt) :
    s.msyncErr core o = 0 := by
  rw [State.msyncErr]
  rcases h with h | h
  · rw [h]
    rfl
  · rw [decide_eq_false (not_lt.2 h), Bool.and_false]
    rfl

end Sys2Proof.Machine
end

/-! What an engine writes: payload, completion word and handle (R154, R167, R245, R312, R318) -/
section
namespace Sys2Proof.Machine

/-! ### Bytes put at places -/

/-- The same bytes put at the same places over the same bytes give the same bytes. -/
theorem State.byte_putAt_congr {s t : State} (h : ∀ m b, t.byte m b = s.byte m b) (l : List (Option Target)) (bs : List Byte) (m : MemId) (b : Nat) :
    (t.putAt l bs).byte m b = (s.putAt l bs).byte m b := by
  induction l generalizing s t bs with
  | nil => exact h m b
  | cons p l ih =>
    cases p with
    | none => cases bs with
      | nil => exact h m b
      | cons v bs => exact ih h bs
    | some p => cases bs with
      | nil => exact h m b
      | cons v bs =>
        refine ih (fun m b => ?_) bs
        rw [State.byte_setByte, State.byte_setByte, h]

/-- Consecutive places, each present. -/
def spanPlaces (m : MemId) (a n : Nat) : List (Option Target) := (List.range n).map fun k => some ⟨m, a + k⟩

theorem getElem?_spanPlaces {m : MemId} {a n k : Nat} (hk : k < n) : (spanPlaces m a n)[k]? = some (some ⟨m, a + k⟩) := by
  simp [spanPlaces, hk]

theorem mem_spanPlaces {m : MemId} {a n : Nat} {t : Target} : some t ∈ spanPlaces m a n ↔ ∃ k, k < n ∧ t = ⟨m, a + k⟩ := by
  simp [spanPlaces, eq_comm]

/-- Bytes put at consecutive places stand there, and nothing else changes. -/
theorem State.wroteOnly_putAt_span (s : State) (m : MemId) (a n : Nat) {d : List Byte} (hd : d.length = n) :
    wroteOnly s (s.putAt (spanPlaces m a n) d) m a n fun k => d.getD k 0 := by
  refine ⟨fun k hk => ?_, fun q b hout => State.byte_putAt_outside _ _ _ fun hm => ?_⟩
  · refine State.byte_putAt_last (q := ⟨m, a + k⟩) (by simp [spanPlaces, hd]) s (getElem?_spanPlaces hk) fun j hj => ?_
    by_cases hjn : j < n
    · rw [getElem?_spanPlaces hjn]
      simp only [ne_eq, Option.some.injEq, Target.mk.injEq, true_and]
      omega
    · simp [spanPlaces, hjn]
  · obtain ⟨k, hk, ht⟩ := mem_spanPlaces.1 hm
    obtain ⟨rfl, rfl⟩ := Target.mk.inj ht
    rcases hout with h | h | h
    · exact h rfl
    · omega
    · omega

/-- Another state with the same bytes, or other names of the same bytes, was written likewise. -/
theorem wroteOnly_congr {s t u : State} {m : MemId} {a n : Nat} {f g : Nat → Byte} (h : wroteOnly s t m a n f) (ht : ∀ q b, u.byte q b = t.byte q b)
    (hfg : ∀ k, k < n → f k = g k) : wroteOnly s u m a n g :=
  ⟨fun k hk => by rw [ht, h.1 k hk, hfg k hk], fun q b hb => by rw [ht, h.2 q b hb]⟩

/-! ### The payload at its places -/

section
variable (s : State) (r : Reach) (o : EngOp) (l : List Byte) (pick : Target → Bool) (all : List (Option Target))

/-- The package once those bytes of a payload that a test picks stand in their places. -/
def State.payloadPut : State :=
  (rangesAt (all.map fun t => t.filter pick)).foldl State.l2Results
    (((s.walked r.core r.ctx (s.writeSpans r.core o)).putAt (all.map fun t => t.filter pick) l).homeWrote (o.scopeAgent r.core)
      (rangesAt (all.map fun t => t.filter pick)))

theorem State.keepsWork_payloadPut : s.KeepsWork (s.payloadPut r o l pick all) :=
  (((s.keepsWork_walked _ _ _).trans (State.keepsWork_putAt _ _ _)).trans (State.keepsWork_homeWrote _ _ _)).trans
    (.foldl (fun s t => s.keepsWork_l2Results t) _ _)

theorem State.byte_payloadPut (m : MemId) (b : Nat) : (s.payloadPut r o l pick all).byte m b = (s.putAt (all.map fun t => t.filter pick) l).byte m b := by
  have homes : ∀ t : State, ((rangesAt (all.map fun t => t.filter pick)).foldl State.l2Results (t.homeWrote (o.scopeAgent r.core)
      (rangesAt (all.map fun t => t.filter pick)))).byte m b = t.byte m b := fun t =>
    State.KeepsWork.byte ((State.keepsWork_homeWrote _ _ _).trans (.foldl (fun s t => s.keepsWork_l2Results t) _ _))
      ((State.foldl_mems (fun s t => s.l2Results_mems t) _ _).trans (State.homeWrote_mems _ _ _)) m b
  rw [State.payloadPut, homes]
  exact State.byte_putAt_congr ((s.keepsWork_walked _ _ _).byte (State.walked_mems _ _ _ _)) _ _ m b

variable {s r o l pick all}

/-- The places of an operation may be written: no port that they need is down, the peer admits it, and nothing comes before it. -/
structure Writable (s : State) (r : Reach) (o : EngOp) (pick : Target → Bool) (all : List (Option Target)) : Prop where
  places : s.dstPlaces r o = .ok all
  port : s.portGone all = false
  peer : s.peerRefuses all = false
  may : s.mayWrite o (rangesAt (all.map fun t => t.filter pick)) = true

theorem State.writePart_of_writable (h : Writable s r o pick all) (l : List Byte) (after : State → State) :
    s.writePart r o l pick after = some (after (s.payloadPut r o l pick all)) := by
  obtain ⟨hplaces, hport, hpeer, hmay⟩ := h
  rw [State.writePart, hplaces]
  dsimp only
  rw [hport, hpeer, hmay]
  rfl

/-- What is left of a payload to be written: the bytes of the units that have not been written (R245). -/
def EngOp.unwritten (o : EngOp) (t : Target) : Bool := o.wrote.all fun g => !g.meets (t.range 1)

theorem State.writePayload_of_writable (h : Writable s r o o.unwritten all) (l : List Byte) (after : State → State) :
    s.writePayload r o l after = some (after ((s.payloadPut r o l o.unwritten all).land r.core o)) :=
  State.writePart_of_writable h l fun s => after (s.land r.core o)

theorem EngOp.filter_unwritten_of_nil (h : o.wrote = []) (all : List (Option Target)) : all.map (fun t => t.filter o.unwritten) = all := by
  have htrue : o.unwritten = fun _ => true := by
    funext t
    rw [EngOp.unwritten, h]
    rfl
  have hkeep : ∀ t ∈ all, t.filter o.unwritten = t := by
    rintro (_ | t) -
    · rfl
    · rw [htrue]
      rfl
  exact (List.map_congr_left hkeep).trans (List.map_id' all)
end

/-- The reach of an operation is of its core and its team. -/
theorem State.reach_eq_some {s : State} {core : Nat} {o : EngOp} {r : Reach} (h : s.reach core o = some r) : r.core = core ∧ r.team = o.ref.team := by
  unfold State.reach at h
  obtain ⟨p, -, rfl⟩ := Option.map_eq_some_iff.1 h
  exact ⟨rfl, rfl⟩

/-- Places on the package need no port. -/
theorem State.portGone_span (s : State) {m : MemId} (a n : Nat) (h : m ≠ .peer) : s.portGone (spanPlaces m a n) = false := by
  have hdead : ∀ b, s.linkDead ⟨m, b⟩ = false := fun b => by
    unfold State.linkDead
    split
    · next hm => exact absurd hm h
    all_goals rfl
  unfold State.portGone
  rw [List.any_eq_false]
  intro t ht
  obtain ⟨k, -, rfl⟩ := List.mem_map.1 ht
  exact ne_true_of_eq_false (hdead _)

theorem State.peerRefuses_span (s : State) {m : MemId} (a n : Nat) (h : m ≠ .peer) : s.peerRefuses (spanPlaces m a n) = false := by
  unfold State.peerRefuses
  rw [Bool.and_eq_false_iff]
  refine .inl (List.any_eq_false.2 fun t ht => ?_)
  obtain ⟨k, -, rfl⟩ := List.mem_map.1 ht
  exact ne_true_of_eq_false (decide_eq_false h)

/-- An operation may write consecutive places on the package. -/
theorem Writable.of_span {s : State} {r : Reach} {o : EngOp} {m : MemId} {a n : Nat} (hw : o.wrote = [])
    (hplaces : s.dstPlaces r o = .ok (spanPlaces m a n)) (hm : m ≠ .peer) (hmay : s.mayWrite o (rangesAt (spanPlaces m a n)) = true) :
    Writable s r o o.unwritten (spanPlaces m a n) :=
  ⟨hplaces, s.portGone_span a n hm, s.peerRefuses_span a n hm, by rwa [o.filter_unwritten_of_nil hw]⟩

theorem State.wroteOnly_payloadPut {s : State} {r : Reach} {o : EngOp} {m : MemId} {a n : Nat} {l : List Byte} (hw : o.wrote = []) (hl : l.length = n) :
    wroteOnly s (s.payloadPut r o l o.unwritten (spanPlaces m a n)) m a n fun k => l.getD k 0 :=
  wroteOnly_congr (s.wroteOnly_putAt_span m a n hl) (fun q b => by rw [State.byte_payloadPut, o.filter_unwritten_of_nil hw]) fun _ _ => rfl

/-! ### Copies and fills into LOCAL (R312, R317) -/

/-- An operation that is no copy with a welt. -/
def EngOp.plain (o : EngOp) : Prop := ∀ sp rec_ k0 tile ta tb a z, o.kind ≠ .cpyw sp rec_ k0 tile ta tb a z

/-- The last bytes of a plain operation's payload are written: it ends. -/
theorem State.land_of_plain {o : EngOp} (hk : o.plain) (u : State) (core : Nat) : u.land core o = u.finishOp core o o.rmask := by
  unfold State.land
  split
  · next h => exact absurd h (hk _ _ _ _ _ _ _ _)
  all_goals rfl

/-- The bytes of LOCAL in one part of the scratchpad. -/
theorem localPlaces_eq (team : Nat) {a n : Nat} (h : a % 2 ^ 24 + n ≤ 2 ^ 24) :
    (List.range n).map (fun k => some (localByte team ((a + k) % 2 ^ 32))) = spanPlaces (.spad team (a / 2 ^ 24 % 4)) (a % 2 ^ 24) n := by
  refine List.map_congr_left fun k hk => ?_
  have := List.mem_range.1 hk
  rw [localByte, show (a + k) % 2 ^ 32 / 2 ^ 24 % 4 = a / 2 ^ 24 % 4 by omega, show (a + k) % 2 ^ 32 % 2 ^ 24 = a % 2 ^ 24 + k by omega]

section
variable {s : State} {core id : Nat} {o : EngOp} (ho : (s.core core).op id = some o)
include ho

/-- A plain operation whose payload goes to consecutive places on the package. -/
theorem exec_of_span {m : MemId} {a n : Nat} {l : List Byte} (hk : o.plain) (hw : o.wrote = []) (hl : l.length = n) (hm : m ≠ .peer)
    (hplaces : ∀ r, s.reach core o = some r → s.dstPlaces r o = .ok (spanPlaces m a n)) (hmay : s.mayWrite o (rangesAt (spanPlaces m a n)) = true)
    (hr : (s.reach core o).isSome = true) (hc : s.completeOp core o = (s.reach core o).bind fun r => s.writePayload r o l fun s => s) :
    ∃ t, exec (.engineCompletion core id) s = .next t ∧ endedWith core id o.slot 0 o.rmask t
      ∧ (o.cw = none → wroteOnly s t m a n fun k => l.getD k 0) ∧ ∀ off v, o.cw = some (off, v) → t.load (localByte o.ref.team off) 4 = v.toNat := by
  obtain ⟨r, hr⟩ := Option.isSome_iff_exists.1 hr
  have hwrite := State.writePayload_of_writable (Writable.of_span hw (hplaces r hr) hm hmay) l fun s => s
  rw [hr, Option.bind_some, hwrite, State.land_of_plain hk, (State.reach_eq_some hr).1] at hc
  refine ⟨_, exec_engineCompletion ho hc, ?_, fun hcw => ?_, fun off v hcw => State.load_finishOp _ _ _ _ hcw⟩
  · rw [← Core.id_of_op ho]
    exact State.endedWith_finishOp ..
  · refine wroteOnly_congr (State.wroteOnly_payloadPut (r := r) hw hl) (fun q b => State.byte_finishOp _ _ _ _ ?_) fun _ _ => rfl
    rintro ⟨off, v, h, -⟩
    rw [hcw] at h
    cases h

/-- A linear copy into LOCAL (R317). -/
theorem exec_lin_local {ssp : Space} {a b n : Nat} {d : List Byte} (hk : o.kind = .lin .loc ssp a b n) (hs : o.stage = .begun d) (hd : d.length = n)
    (hfit : a % 2 ^ 24 + n ≤ 2 ^ 24) (hw : o.wrote = []) (hp : s.isPaused o = false) (hr : (s.reach core o).isSome = true)
    (hmay : s.mayWrite o (rangesAt ((List.range n).map fun k => some (localByte o.ref.team ((a + k) % 2 ^ 32)))) = true) :
    ∃ t, exec (.engineCompletion core id) s = .next t ∧ endedWith core id o.slot 0 o.rmask t
      ∧ (o.cw = none → wroteOnly s t (.spad o.ref.team (a / 2 ^ 24 % 4)) (a % 2 ^ 24) n fun k => d.getD k 0)
      ∧ ∀ off v, o.cw = some (off, v) → t.load (localByte o.ref.team off) 4 = v.toNat := by
  rw [localPlaces_eq _ hfit] at hmay
  refine exec_of_span ho (fun _ _ _ _ _ _ _ _ h => by rw [hk] at h; cases h) hw hd nofun (fun r hr => ?_) hmay hr ?_
  · rw [← localPlaces_eq _ hfit, ← (State.reach_eq_some hr).2, State.dstPlaces, hk]
    simp only [State.places, present, List.map_map]
    rfl
  · unfold State.completeOp State.payload
    rw [hs, hk, hp]
    rfl

/-- A fill of LOCAL (R317). -/
theorem exec_fill_local {a n : Nat} {pat : Word} (hk : o.kind = .fill .loc a pat n) (hs : o.stage = .waiting) (hi : s.issuerDone o.ref o.id = true)
    (hfit : a % 2 ^ 24 + n ≤ 2 ^ 24) (hw : o.wrote = []) (hp : s.isPaused o = false) (hr : (s.reach core o).isSome = true)
    (hmay : s.mayWrite o (rangesAt ((List.range n).map fun k => some (localByte o.ref.team ((a + k) % 2 ^ 32)))) = true) :
    ∃ t, exec (.engineCompletion core id) s = .next t ∧ endedWith core id o.slot 0 o.rmask t
      ∧ (o.cw = none → wroteOnly s t (.spad o.ref.team (a / 2 ^ 24 % 4)) (a % 2 ^ 24) n fun k => BitVec.ofNat 8 (pat.toNat / 2 ^ (8 * (k % 4))))
      ∧ ∀ off v, o.cw = some (off, v) → t.load (localByte o.ref.team off) 4 = v.toNat := by
  rw [localPlaces_eq _ hfit] at hmay
  have hplaces (r : Reach) (hr : s.reach core o = some r) :
      s.dstPlaces r o = .ok (spanPlaces (.spad o.ref.team (a / 2 ^ 24 % 4)) (a % 2 ^ 24) n) := by
    rw [← localPlaces_eq _ hfit, ← (State.reach_eq_some hr).2, State.dstPlaces, hk]
    simp only [State.places, present, List.map_map]
    rfl
  have hcomplete : s.completeOp core o = (s.reach core o).bind fun r =>
      s.writePayload r o ((List.range n).map fun k => BitVec.ofNat 8 (pat.toNat / 2 ^ (8 * (k % 4)))) fun s => s := by
    unfold State.completeOp State.payload
    rw [hs, hk, hp, hi]
    rfl
  have hspad : MemId.spad o.ref.team (a / 2 ^ 24 % 4) ≠ .peer := nofun
  have hlen : ((List.range n).map fun k => BitVec.ofNat 8 (pat.toNat / 2 ^ (8 * (k % 4)))).length = n := by rw [List.length_map, List.length_range]
  obtain ⟨t, hexec, hend, hbytes, hcw⟩ := exec_of_span ho (fun _ _ _ _ _ _ _ _ h => by rw [hk] at h; cases h) hw hlen hspad hplaces hmay hr hcomplete
  exact ⟨t, hexec, hend, fun h => wroteOnly_congr (hbytes h) (fun _ _ => rfl) fun k hk => by simp [hk], hcw⟩
end

/-! ### Welts (R154, R167, R318) -/

theorem length_tileBytes (t : Tile) (rec_ : Shape) (l : List Byte) : (tileBytes t rec_ l).length = tileRows t * tilePitch t := by
  simp [tileBytes, List.length_flatMap]

section
variable {s u : State} {core id : Nat} {o : EngOp} {sp : Space} {rec_ : Shape} {k0 : List Int} {tile ta tb a : Nat} {z : Bool}
  (ho : (s.core core).op id = some o) (hk : o.kind = .cpyw sp rec_ k0 tile ta tb a z)

/-- The welt of a copy has joined the queue of its context, with the next sequence number, and the copy's handle has ended. -/
def weltJoined (s : State) (core id : Nat) (o : EngOp) (ta tb a : Nat) (z : Bool) (t : State) : Prop :=
  ((t.core core).mc o.mc).queue = ((s.core core).mc o.mc).queue ++ [weltCommand s ((s.core core).mc o.mc) o ta tb a z]
    ∧ ((t.core core).mc o.mc).seq = (((s.core core).mc o.mc).seq + 1) % 2 ^ 32 ∧ endedWith core id o.slot 0 o.rmask t

include ho hk in
theorem weltJoined_enterWelt (hu : s.KeepsWork u) : weltJoined s core id o ta tb a z (u.enterWelt core o) := by
  have hm : (u.core core).mc o.mc = (s.core core).mc o.mc := hu.mc core o.mc
  have hcmd : weltCommand u ((s.core core).mc o.mc) o ta tb a z = weltCommand s ((s.core core).mc o.mc) o ta tb a z := by rw [weltCommand, hu.nextId]; rfl
  have henter : u.enterWelt core o = (u.fresh.updMc core o.mc fun m => { m with
      queue := m.queue ++ [weltCommand s ((s.core core).mc o.mc) o ta tb a z], seq := (m.seq + 1) % 2 ^ 32 }).completeHandle core o 0 o.rmask := by
    unfold State.enterWelt
    rw [hk]
    dsimp only
    rw [hm, ← hcmd]
    rfl
  have hfresh : (u.fresh.core core).mc o.mc = (s.core core).mc o.mc := hm
  rw [henter]
  refine ⟨?_, ?_, ?_⟩
  · rw [State.mc_completeHandle, State.core_updMc, Core.mc_setMc, hfresh]
  · rw [State.mc_completeHandle, State.core_updMc, Core.mc_setMc, hfresh]
  · rw [← Core.id_of_op ho]
    exact State.endedWith_completeHandle ..

theorem State.byte_enterWelt (m : MemId) (b : Nat) : (u.enterWelt core o).byte m b = u.byte m b := by
  unfold State.enterWelt
  split <;> rw [State.byte_completeHandle]
  rfl

/-- A copy whose welt waits for an entry of the queue: it stands last of its core's operations. -/
def State.weltWaits (s : State) (core : Nat) (o : EngOp) : State :=
  (s.updCore core fun c => { c with ops := (c.ops.filter fun p => p.id != o.id) ++ [{ o with stage := .landed, owns := [], atHome := [] }] }).reown

theorem State.core_weltWaits : ∃ l, (u.weltWaits core o).core core = { u.core core with
    ops := ((u.core core).ops.filter fun p => p.id != o.id) ++ [{ o with stage := .landed, owns := [], atHome := [] }], l1 := l } := by
  obtain ⟨l, h⟩ := State.core_setDir (u.updCore core fun c => { c with
    ops := (c.ops.filter fun p => p.id != o.id) ++ [{ o with stage := .landed, owns := [], atHome := [] }] }) (State.dir _) core
  exact ⟨l, h.trans (by rw [State.core_updCore_same])⟩

include ho in
/-- The copy is found, the last of all, and its handle is as it was. -/
theorem weltWaits_spec (hu : s.KeepsWork u) :
    ((u.weltWaits core o).core core).op id = some { o with stage := .landed, owns := [], atHome := [] }
    ∧ ((u.weltWaits core o).core core).ops.getLast? = some { o with stage := .landed, owns := [], atHome := [] }
    ∧ ((u.weltWaits core o).core core).handle o.slot = (s.core core).handle o.slot := by
  obtain ⟨l, h⟩ := State.core_weltWaits (u := u) (core := core) (o := o)
  rw [h, ← hu.handle]
  refine ⟨?_, by simp, rfl⟩
  have hnone : ((u.core core).ops.filter fun p => p.id != o.id).find? (fun p => p.id == o.id) = none := by
    rw [List.find?_eq_none]
    intro p hp
    simpa using (List.mem_filter.1 hp).2
  unfold Core.op
  rw [← Core.id_of_op ho, List.find?_append, hnone]
  simp

include hk in
/-- What follows the last byte of a copy with a welt, whose team lives. -/
theorem State.land_of_welt {tm : Team} (hu : s.KeepsWork u) (htm : s.team o.ref.team = some tm) (hp : tm.phase ≠ .killed) :
    u.land core o = if (s.core core).queueRoom o.mc then (u.completionWord (o.scopeAgent core) o.ref.team o.cw).enterWelt core o
      else (u.completionWord (o.scopeAgent core) o.ref.team o.cw).weltWaits core o := by
  have hcw : s.KeepsWork (u.completionWord (o.scopeAgent core) o.ref.team o.cw) := hu.trans (State.keepsWork_completionWord _ _ _ _)
  unfold State.land
  rw [hk]
  dsimp only
  rw [← hk, hcw.orphan_eq_false htm hp, hcw.queueRoom]
  rfl

theorem State.byte_land_welt (hl : u.land core o = (u.completionWord (o.scopeAgent core) o.ref.team o.cw).enterWelt core o
    ∨ u.land core o = (u.completionWord (o.scopeAgent core) o.ref.team o.cw).weltWaits core o) (m : MemId) (b : Nat) :
    (u.land core o).byte m b = (u.completionWord (o.scopeAgent core) o.ref.team o.cw).byte m b := by
  rcases hl with h | h <;> rw [h]
  · exact State.byte_enterWelt m b
  · rfl

include ho hk in
/-- The bytes of a copy with a welt land in its tile (R154, R318). -/
theorem exec_cpyw {tm : Team} {p : Pipeline} {d : List Byte} (htm : s.team o.ref.team = some tm) (hp : tm.phase ≠ .killed) (hs : o.stage = .begun d)
    (hw : o.wrote = []) (hpause : s.isPaused o = false) (hpipe : s.pipeOf tm = some p) (hhome : s.tileHome core o = (.oper core o.mc, (s.core core).mc o.mc))
    (hmay : s.mayWrite o (rangesAt (((⟨.oper core o.mc, tileBase (((s.core core).mc o.mc).tile tile)⟩ : Target).span
      (tileRows (((s.core core).mc o.mc).tile tile) * tilePitch (((s.core core).mc o.mc).tile tile))).map some)) = true) :
    ∃ t, exec (.engineCompletion core id) s = .next t
      ∧ (o.cw = none → wroteOnly s t (.oper core o.mc) (tileBase (((s.core core).mc o.mc).tile tile))
          (tileRows (((s.core core).mc o.mc).tile tile) * tilePitch (((s.core core).mc o.mc).tile tile)) fun k =>
            (tileBytes (((s.core core).mc o.mc).tile tile) rec_ (xfGather rec_.xf d)).getD k 0)
      ∧ (∀ off v, o.cw = some (off, v) → t.load (localByte o.ref.team off) 4 = v.toNat)
      ∧ ((s.core core).queueRoom o.mc = true → weltJoined s core id o ta tb a z t)
      ∧ ((s.core core).queueRoom o.mc = false → (t.core core).op id = some { o with stage := .landed, owns := [], atHome := [] }
          ∧ (t.core core).ops.getLast? = some { o with stage := .landed, owns := [], atHome := [] }
          ∧ (t.core core).handle o.slot = (s.core core).handle o.slot) := by
  generalize hdst : ((s.core core).mc o.mc).tile tile = dst at hmay ⊢
  have htile : s.tileOf core o tile = dst := by rw [State.tileOf, hhome, ← hdst]
  have hspan : ((⟨.oper core o.mc, tileBase dst⟩ : Target).span (tileRows dst * tilePitch dst)).map some
      = spanPlaces (.oper core o.mc) (tileBase dst) (tileRows dst * tilePitch dst) := by
    rw [Target.span, List.map_map]
    rfl
  rw [hspan] at hmay
  obtain ⟨r, hreach, hcore⟩ : ∃ r, s.reach core o = some r ∧ r.core = core := ⟨{ team := o.ref.team, part := p.part, ctx := p.ctxNum, core := core }, by
    rw [State.reach, htm, Option.bind_some, hpipe]
    rfl, rfl⟩
  have hplaces : s.dstPlaces r o = .ok (spanPlaces (.oper core o.mc) (tileBase dst) (tileRows dst * tilePitch dst)) := by
    rw [State.dstPlaces, hk]
    dsimp only
    rw [hcore, htile, State.tileSpan, hhome, hspan]
  have hl := length_tileBytes dst rec_ (xfGather rec_.xf d)
  have hcomplete : s.completeOp core o = (s.reach core o).bind fun r => s.writePayload r o (tileBytes dst rec_ (xfGather rec_.xf d)) fun s => s := by
    unfold State.completeOp State.payload
    rw [hs, hk, hpause]
    dsimp only
    rw [htile]
    rfl
  rw [hreach, Option.bind_some, State.writePayload_of_writable (Writable.of_span hw hplaces nofun hmay), hcore] at hcomplete
  have hkeeps := s.keepsWork_payloadPut r o (tileBytes dst rec_ (xfGather rec_.xf d)) o.unwritten
    (spanPlaces (.oper core o.mc) (tileBase dst) (tileRows dst * tilePitch dst))
  have hwrote := State.wroteOnly_payloadPut (s := s) (r := r) (m := .oper core o.mc) (a := tileBase dst) hw hl
  generalize s.payloadPut r o (tileBytes dst rec_ (xfGather rec_.xf d)) o.unwritten
    (spanPlaces (.oper core o.mc) (tileBase dst) (tileRows dst * tilePitch dst)) = u at hcomplete hkeeps hwrote
  have hland := State.land_of_welt (core := core) hk hkeeps htm hp
  have hcw : s.KeepsWork (u.completionWord (o.scopeAgent core) o.ref.team o.cw) := hkeeps.trans (State.keepsWork_completionWord _ _ _ _)
  have hbyte := State.byte_land_welt (u := u) (core := core) (o := o) (by rw [hland]; split <;> simp)
  refine ⟨_, exec_engineCompletion ho hcomplete, fun hnone => wroteOnly_congr hwrote (fun q b => ?_) fun _ _ => rfl, fun off v hsome => ?_, fun hroom => ?_, fun hroom => ?_⟩
  · rw [hbyte, hnone]
    rfl
  · rw [State.load_congr hbyte, hsome, State.load_completionWord]
  · rw [hland, if_pos hroom]
    exact weltJoined_enterWelt ho hk hcw
  · rw [hland, if_neg (ne_true_of_eq_false hroom)]
    exact weltWaits_spec ho hcw

include ho hk in
/-- The first of the welts that wait joins the queue once an entry is free (R154). -/
theorem exec_weltEnqueue {tm : Team} (htm : s.team o.ref.team = some tm) (hp : tm.phase ≠ .killed) (hs : o.stage = .landed)
    (hhead : ((s.core core).landed o.mc).head? = some o) (hroom : ((s.core core).mc o.mc).queue.length < 64) :
    ∃ t, exec (.weltEnqueue core id) s = .next t ∧ weltJoined s core id o ta tb a z t ∧ t.mems = s.mems := by
  have hfirst : (((s.core core).landed o.mc).headD o).id = id := by rw [List.headD_eq_head?_getD, hhead, Option.getD_some, Core.id_of_op ho]
  have hexec : exec (.weltEnqueue core id) s = execWeltEnqueue core id s := rfl
  refine ⟨s.enterWelt core o, ?_, weltJoined_enterWelt ho hk (.refl s), State.enterWelt_mems _ _ _⟩
  rw [hexec, execWeltEnqueue, ho]
  dsimp only
  rw [if_neg (not_not_intro hs), (State.KeepsWork.refl s).orphan_eq_false htm hp, if_neg (by decide), if_neg]
  rw [hfirst, Config.commands]
  omega
end

end Sys2Proof.Machine
end

/-! The places of an engine's bytes, and what it reads and writes (R221, R245, R312, R315, R317, R321) -/
section
namespace Sys2Proof.Machine

/-! ### Consecutive addresses -/

/-- A list of a length is known by its elements. -/
theorem eq_map_range_of_getElem? {α : Type} {l : List α} {n : Nat} {f : Nat → α} (hl : l.length = n) (h : ∀ k, k < n → l[k]? = some (f k)) :
    l = (List.range n).map f := by
  refine List.ext_getElem? fun k => ?_
  by_cases hk : k < n
  · rw [h k hk]
    simp [hk]
  · rw [List.getElem?_eq_none (by omega), List.getElem?_eq_none (by simpa using hk)]

/-- A page that an engine may use: no older translation stands in its core's TLB, and the walk gives one that grants the access and is no window. -/
def State.usable (s : State) (r : Reach) (need : Need) (page : Nat) (x : Xlate) : Prop :=
  s.xlate (some r.core) r.ctx page = .ok x ∧ x.grants need = true ∧ x.sk = none

theorem State.xlate_of_walk {s : State} {core : Option Nat} {ctx page : Nat} (h : s.oldXlates core ctx page = []) :
    s.xlate core ctx page = s.walk ctx page := by rw [State.xlate, h]

/-- Pages that may all be used have their places, in order. -/
theorem State.exists_pages {s : State} {r : Reach} {need : Need} (n va : Nat) (acc : List Target)
    (h : ∀ j, j < n → ∃ x, s.usable r need (va + 4096 * j) x) : ∃ l, s.pages (some r.core) r.ctx need n va acc = .ok (acc.reverse ++ l)
      ∧ ∀ j x, j < n → s.usable r need (va + 4096 * j) x → l[j]? = some (x.place (va + 4096 * j)) := by
  induction n generalizing va acc with
  | zero => exact ⟨[], by rw [List.append_nil]; rfl, nofun⟩
  | succ n ih =>
    obtain ⟨x, hx, hgrants, hsk⟩ := h 0 (Nat.succ_pos n)
    have hstep (j : Nat) : va + 4096 + 4096 * j = va + 4096 * (j + 1) := by omega
    obtain ⟨l, hl, hplaces⟩ := ih (va + 4096) (x.place va :: acc) fun j hj => by
      rw [hstep]
      exact h (j + 1) (Nat.succ_lt_succ hj)
    refine ⟨x.place va :: l, ?_, fun j y hj hy => ?_⟩
    · rw [State.pages, show s.xlate (some r.core) r.ctx va = .ok x from hx]
      dsimp only
      rw [hgrants, hsk]
      refine (if_pos rfl).trans ?_
      rw [hl]
      simp
    · cases j with
      | zero =>
        have : Except.ok x = Except.ok y := hx.symm.trans hy.1
        cases this
        rfl
      | succ j => exact (hplaces j y (Nat.lt_of_succ_lt_succ hj) (by rw [hstep]; exact hy)).trans (by rw [hstep])

section
variable {s : State} {r : Reach} {need : Need} {sw : Nat → Nat} {a n : Nat} {ps : List (Option Target)}

/-- The places of consecutive addresses are those that the model finds (R221, R231, R355). -/
theorem State.places_global (h : consecutive s r need .glb sw a n ps) : present (s.places r .glb need sw a n) = .ok ps := by
  obtain ⟨hlen, hps⟩ := h
  rcases Nat.eq_zero_or_pos n with rfl | hn
  · rw [List.length_eq_zero_iff.1 hlen]
    rfl
  have hpage (k : Nat) (hk : k < n) : ∃ x, s.usable r need ((a + k) / 4096 * 4096) x
      ∧ ps[k]? = some (some { x.place ((a + k) / 4096 * 4096) with addr := (x.place ((a + k) / 4096 * 4096)).addr + (a + k) % 4096 }) := by
    obtain ⟨t, ht, hold, x, hwalk, hgrants, hsk, rfl⟩ := hps k hk
    exact ⟨x, ⟨(State.xlate_of_walk hold).trans hwalk, hgrants, hsk⟩, ht⟩
  have hin (j : Nat) (hj : j < (a + n - 1) / 4096 - a / 4096 + 1) : ∃ k, k < n ∧ (a + k) / 4096 * 4096 = a / 4096 * 4096 + 4096 * j := by
    refine ⟨a / 4096 * 4096 + 4096 * j - a, ?_, ?_⟩ <;> omega
  obtain ⟨l, hl, hplace⟩ := State.exists_pages (s := s) (r := r) (need := need) ((a + n - 1) / 4096 - a / 4096 + 1) (a / 4096 * 4096) [] fun j hj => by
    obtain ⟨k, hk, heq⟩ := hin j hj
    obtain ⟨x, hx, -⟩ := hpage k hk
    rw [heq] at hx
    exact ⟨x, hx⟩
  rw [State.places, State.blocks, if_neg (by omega), hl]
  dsimp only [present]
  rw [List.map_map]
  refine congrArg Except.ok (eq_map_range_of_getElem? hlen fun k hk => ?_).symm
  obtain ⟨x, hx, ht⟩ := hpage k hk
  have heq : (a + k) / 4096 * 4096 = a / 4096 * 4096 + 4096 * ((a + k) / 4096 - a / 4096) := by omega
  have hblock := hplace ((a + k) / 4096 - a / 4096) x (by omega) (by rw [← heq]; exact hx)
  rw [ht, Function.comp_apply, blockByte, List.reverse_nil, List.nil_append, List.getD_eq_getElem?_getD, hblock, Option.getD_some, ← heq]

theorem State.places_local (h : consecutive s r need .loc sw a n ps) : present (s.places r .loc need sw a n) = .ok ps := by
  obtain ⟨hlen, hps⟩ := h
  rw [State.places]
  dsimp only [present]
  rw [List.map_map]
  refine congrArg Except.ok (eq_map_range_of_getElem? hlen fun k hk => ?_).symm
  obtain ⟨t, ht, rfl⟩ := hps k hk
  exact ht

theorem Partition.isSome_wsPlace (p : Partition) (die off size : Nat) : (p.wsPlace die off size).isSome = true ↔ off + size ≤ (p.wsOn die).length * 2 ^ 26 := by
  unfold Partition.wsPlace
  dsimp only
  split
  · next h => exact ⟨fun _ => h, fun _ => rfl⟩
  · next h => exact ⟨nofun, fun h' => absurd h' h⟩

theorem Partition.exists_wsPlace {p : Partition} {die a n : Nat} {t : Target} (hn : 0 < n) (h : p.wsPlace die (a + (n - 1)) 1 = some t) :
    ∃ u, p.wsPlace die a n = some u := by
  have hfit := (p.isSome_wsPlace die (a + (n - 1)) 1).1 (by rw [h, Option.isSome_some])
  rw [Nat.add_assoc, Nat.sub_add_cancel hn] at hfit
  exact Option.isSome_iff_exists.1 ((p.isSome_wsPlace _ _ _).2 hfit)

theorem State.places_ws_of {place : Nat → Nat → Option Target} {u : Target}
    (hplace : ∀ a n, ((s.parts.look r.part).bind fun p => p.wsPlace (dieOf r.core) a n) = place a n) (hn : n ≠ 0) (hu : place a n = some u) :
    s.places r .ws need sw a n = .ok ((List.range n).map fun i => (place (a + i) 1).getD u) := by
  rw [State.places]
  simp only [hplace]
  rw [if_neg hn, hu]

theorem State.places_ws (h : consecutive s r need .ws sw a n ps) : present (s.places r .ws need sw a n) = .ok ps := by
  obtain ⟨hlen, hps⟩ := h
  rcases Nat.eq_zero_or_pos n with rfl | hn
  · rw [List.length_eq_zero_iff.1 hlen]
    rfl
  obtain ⟨t, -, p, hp, ht⟩ := hps (n - 1) (Nat.sub_lt hn Nat.one_pos)
  have hdie : r.core / 64 = dieOf r.core := rfl
  rw [hdie] at ht
  obtain ⟨u, hu⟩ := Partition.exists_wsPlace hn ht
  rw [State.places_ws_of (fun a n => by rw [hp, Option.bind_some]) hn.ne' hu]
  dsimp only [present]
  rw [List.map_map]
  refine congrArg Except.ok (eq_map_range_of_getElem? hlen fun k hk => ?_).symm
  obtain ⟨v, hv, q, hq, hplace⟩ := hps k hk
  rw [hdie] at hplace
  obtain rfl : p = q := Option.some.inj (hp.symm.trans hq)
  rw [hv, Function.comp_apply, hplace, Option.getD_some]

theorem State.places_consecutive {sp : Space} (h : consecutive s r need sp sw a n ps) : present (s.places r sp need sw a n) = .ok ps := by
  cases sp with
  | glb => exact State.places_global h
  | loc => exact State.places_local h
  | ws => exact State.places_ws h

/-! ### The elements of a box -/

/-- The places of one element: at its address, if it has one, and else none. -/
def elementAt (s : State) (r : Reach) (need : Need) (sp : Space) (sw : Nat → Nat) (n : Nat) (address : Option Nat) (ps : List (Option Target)) : Prop :=
  match address with
  | some a => consecutive s r need sp sw a n ps
  | none => ps = List.replicate n none

/-- The places of elements, one after another. -/
def elementsAt (s : State) (r : Reach) (need : Need) (sp : Space) (sw : Nat → Nat) (n : Nat) : List (Option Nat) → List (Option Target) → Prop
  | [], ps => ps = []
  | x :: xs, ps => elementAt s r need sp sw n x (ps.take n) ∧ elementsAt s r need sp sw n xs (ps.drop n)

theorem elementsAt_of_elementwise {sp : Space} (n : Nat) (xs : List (Option Nat)) {ps : List (Option Target)} (hlen : ps.length = xs.length * n)
    (h : ∀ m j x, xs[m]? = some x → j < n → match x with
      | some a => ∃ t, ps[m * n + j]? = some (some t) ∧ reaches s r need sp sw (a + j) t
      | none => ps[m * n + j]? = some none) : elementsAt s r need sp sw n xs ps := by
  induction xs generalizing ps with
  | nil => exact List.length_eq_zero_iff.1 (by simpa using hlen)
  | cons x xs ih =>
    rw [List.length_cons, Nat.succ_mul] at hlen
    have htake : (ps.take n).length = n := by rw [List.length_take]; omega
    refine ⟨?_, ih (by rw [List.length_drop]; omega) fun m j y hy hj => ?_⟩
    · have hget (j : Nat) (hj : j < n) : (ps.take n)[j]? = ps[j]? := List.getElem?_take_of_lt hj
      cases x with
      | none =>
        refine List.eq_replicate_iff.2 ⟨htake, fun t ht => ?_⟩
        obtain ⟨j, hj⟩ := List.mem_iff_getElem?.1 ht
        have hjn : j < n := by
          have := (List.getElem?_eq_some_iff.1 hj).1
          omega
        have h0 := h 0 j none rfl hjn
        rw [Nat.zero_mul, Nat.zero_add, ← hget j hjn, hj] at h0
        exact Option.some.inj h0
      | some a =>
        refine ⟨htake, fun j hj => ?_⟩
        have h0 := h 0 j (some a) rfl hj
        rw [Nat.zero_mul, Nat.zero_add, ← hget j hj] at h0
        exact h0
    · have hm := h (m + 1) j y hy hj
      rw [show (m + 1) * n + j = n + (m * n + j) by rw [Nat.succ_mul]; omega, ← List.getElem?_drop] at hm
      exact hm

theorem State.boxPlaces_eq {sp : Space} {rec_ : Shape} (ks : List (List Int)) {ps : List (Option Target)}
    (h : elementsAt s r need sp rec_.swizzle rec_.n (ks.map fun k =>
      if rec_.inBounds k then some (rec_.addr k % 2 ^ (if sp = Space.glb then 64 else 32)).toNat else none) ps) :
    s.boxPlaces r sp need rec_ ks = .ok ps := by
  induction ks generalizing ps with
  | nil =>
    rw [show ps = [] from h]
    rfl
  | cons k ks ih =>
    obtain ⟨hhead, htail⟩ := h
    beta_reduce at hhead
    rw [State.boxPlaces, ih htail]
    dsimp only
    split
    · next hin =>
      rw [if_pos hin] at hhead
      have hplaces := State.places_consecutive hhead
      cases hp : s.places r sp need rec_.swizzle (rec_.addr k % 2 ^ (if sp = Space.glb then 64 else 32)).toNat rec_.n with
      | error x => rw [hp] at hplaces; cases hplaces
      | ok l =>
        rw [hp] at hplaces
        dsimp only
        rw [Except.ok.inj hplaces, List.take_append_drop]
    · next hout =>
      rw [if_neg hout] at hhead
      rw [← show ps.take rec_.n = List.replicate rec_.n none from hhead, List.take_append_drop]

theorem State.densePlaces_eq {sp : Space} {rec_ : Shape} {b : Nat} {els : List Nat} (l : List Nat) {ps : List (Option Target)}
    (h : elementsAt s r .read sp rec_.swizzle rec_.n (l.map fun m =>
      if m ∈ els then some (if sp = .ws then (b + m * rec_.n) % 2 ^ 32 else b + m * rec_.n) else none) ps) :
    s.densePlaces r sp rec_ b els l = .ok ps := by
  induction l generalizing ps with
  | nil =>
    rw [show ps = [] from h]
    rfl
  | cons m l ih =>
    obtain ⟨hhead, htail⟩ := h
    beta_reduce at hhead
    rw [State.densePlaces, ih htail]
    dsimp only
    split
    · next hin =>
      rw [if_pos (List.contains_iff_mem.1 hin)] at hhead
      have hplaces := State.places_consecutive hhead
      cases hp : s.places r sp .read rec_.swizzle (if sp = .ws then (b + m * rec_.n) % 2 ^ 32 else b + m * rec_.n) rec_.n with
      | error x => rw [hp] at hplaces; cases hplaces
      | ok l =>
        rw [hp] at hplaces
        dsimp only
        rw [Except.ok.inj hplaces, List.take_append_drop]
    · next hout =>
      rw [if_neg fun hm => hout (List.contains_iff_mem.2 hm)] at hhead
      rw [← show ps.take rec_.n = List.replicate rec_.n none from hhead, List.take_append_drop]
end

theorem foldl_mul_eq (l : List Nat) (a : Nat) : l.foldl (fun a b => a * b) a = a * l.foldl (fun a b => a * b) 1 := by
  induction l generalizing a with
  | nil => exact (Nat.mul_one a).symm
  | cons b l ih => rw [List.foldl_cons, ih, List.foldl_cons, ih (1 * b), Nat.one_mul, Nat.mul_assoc]

theorem length_boxCoords (l : List Nat) : (boxCoords l).length = l.foldl (fun a b => a * b) 1 := by
  induction l with
  | nil => rfl
  | cons b l ih =>
    rw [boxCoords, List.length_flatMap, List.foldl_cons, foldl_mul_eq, ← ih]
    simp [Nat.mul_comm]

theorem Shape.length_elements (rec_ : Shape) (k0 : List Int) : (rec_.elements k0).length = rec_.count := by
  rw [Shape.elements, List.length_map, length_boxCoords, Shape.count]

section
variable {s : State} {r : Reach} {sp : Space} {rec_ : Shape} {k0 : List Int} {ps : List (Option Target)}

theorem State.boxPlaces_of_elementwise {need : Need} (h : elementwise s r need sp rec_ (boxAddress sp rec_ k0) ps) :
    s.boxPlaces r sp need rec_ (rec_.elements k0) = .ok ps := by
  obtain ⟨hlen, hps⟩ := h
  refine State.boxPlaces_eq _ (elementsAt_of_elementwise _ _ (by rw [List.length_map, Shape.length_elements, hlen]) fun m j x hx hj => ?_)
  rw [List.getElem?_map, Option.map_eq_some_iff] at hx
  obtain ⟨k, hk, rfl⟩ := hx
  have hm : m < rec_.count := by
    rw [← rec_.length_elements k0]
    exact (List.getElem?_eq_some_iff.1 hk).1
  have haddr : boxAddress sp rec_ k0 m = if rec_.inBounds k then some (rec_.addr k % 2 ^ (if sp = Space.glb then 64 else 32)).toNat else none := by
    rw [boxAddress, hk]
    rfl
  have hmj := hps m j hm hj
  rw [haddr] at hmj
  exact hmj

theorem State.densePlaces_of_elementwise {b : Nat} {els : List Nat} (h : elementwise s r .read sp rec_
    (fun m => if m ∈ els then some (if sp = .ws then (b + m * rec_.n) % 2 ^ 32 else b + m * rec_.n) else none) ps) :
    s.densePlaces r sp rec_ b els (List.range rec_.count) = .ok ps := by
  obtain ⟨hlen, hps⟩ := h
  refine State.densePlaces_eq _ (elementsAt_of_elementwise _ _ (by rw [List.length_map, List.length_range, hlen]) fun m j x hx hj => ?_)
  rw [List.getElem?_map, Option.map_eq_some_iff] at hx
  obtain ⟨k, hk, rfl⟩ := hx
  obtain ⟨hm, rfl⟩ := List.getElem?_eq_some_iff.1 hk
  rw [List.length_range] at hm
  rw [List.getElem_range]
  exact hps m j hm hj
end

end Sys2Proof.Machine
end

/-! What engines read and write (R245, R312, R315, R317, R321, R325) -/
section
namespace Sys2Proof.Machine

/-! ### The places of an operation -/

section
variable {s : State} {r : Reach} {o : EngOp} {ps : List (Option Target)}

/-- The bytes of a tile are those of its span. -/
theorem State.span_of_tilePlaces {core tile : Nat} (h : tilePlaces s core o tile ps) :
    (s.tileSpan core o (s.tileOf core o tile) (tileSize (s.tileOf core o tile))).map some = ps := by
  rw [show ps = _ from h, State.tileSpan, Target.span, List.map_map]
  rfl

theorem CollRec.reads_iff (r : CollRec) : r.reads = true ↔ ¬(r.kind = 1 ∧ r.rank ≠ 0) := by
  simp only [CollRec.reads, Bool.or_eq_true, decide_eq_true_eq]
  tauto

/-- The places that an operation reads are those that the model finds. -/
theorem State.srcPlaces_of_sourceOf : sourceOf s r o ps → s.srcPlaces r o = .ok ps := by
  unfold sourceOf State.srcPlaces
  cases o.kind with
  | lin | tld => exact State.places_consecutive
  | gather | cpyw => exact State.boxPlaces_of_elementwise
  | scatter => exact State.densePlaces_of_elementwise
  | tst _ _ tile => exact fun h => congrArg Except.ok (State.span_of_tilePlaces h)
  | coll rec_ =>
    intro h
    dsimp only at h ⊢
    by_cases hnot : rec_.kind = 1 ∧ rec_.rank ≠ 0
    · rw [if_pos hnot] at h
      rw [if_neg fun hreads => (rec_.reads_iff.1 hreads) hnot, h]
    · rw [if_neg hnot] at h
      rw [if_pos (rec_.reads_iff.2 hnot)]
      exact State.places_consecutive h
  | fill | accrd | msync | collSk => exact False.elim

/-- The places that an operation writes are those that the model finds. -/
theorem State.dstPlaces_of_destinationOf : destinationOf s r o ps → s.dstPlaces r o = .ok ps := by
  unfold destinationOf State.dstPlaces
  cases o.kind with
  | lin | fill | gather | tst | coll => exact State.places_consecutive
  | scatter => exact State.boxPlaces_of_elementwise
  | tld _ _ tile => exact fun h => congrArg Except.ok (State.span_of_tilePlaces h)
  | cpyw | accrd | msync | collSk => exact False.elim
end

/-! ### Reading -/

section
variable {s : State} {r : Reach} {o : EngOp} {ps : List (Option Target)}

/-- An operation whose whole source is free reads it at once (R321). -/
theorem State.readSource_of_free (hplaces : s.srcPlaces r o = .ok ps) (hport : s.portGone ps = false) (hpeer : s.peerRefuses ps = false)
    (hrefresh : ∀ t, some t ∈ ps → s.inRefresh r.core t = false) (hfree : s.sourceFree r.core o (rangesAt ps) = true)
    (hpoison : (rangesAt ps).any s.poisoned = false) :
    s.readSource r o [] = some ((s.walked r.core r.ctx (s.readSpans r.core o)).updOp r.core o.id fun o => { o with stage := .begun (s.bytesAt ps), paused := none }) := by
  have hall : ps.takeWhile (fun t => !(t.any (s.inRefresh r.core))) = ps := List.takeWhile_eq_self_iff.2 fun t ht => by
    cases t with
    | none => rfl
    | some t => simp [hrefresh t ht]
  rw [State.readSource, hplaces]
  dsimp only
  rw [hport, hpeer, List.length_nil, List.drop_zero, hall, hfree, hpoison]
  simp

/-- An operation that waits and whose issuer has made its accesses reads its source, a collective's part once its slot has begun it. -/
theorem State.engineBegin_of_source {core id : Nat} (ho : (s.core core).op id = some o) (hr : s.reach core o = some r) (hp : s.isPaused o = false)
    (hs : sourceOf s r o ps) (hstage : o.stage = .waiting) (hi : s.issuerDone o.ref o.id = true)
    (hcoll : ∀ rec_ num, o.kind.coll? = some (rec_, num) → o.admitted = true ∧ s.cutOff (rec_.group (s.ctxOf o.ref)) = false) :
    s.engineBegin core id = s.readSource r o [] := by
  have hsoFar : o.soFar = some [] := by rw [EngOp.soFar, hstage]
  rw [State.engineBegin, ho, Option.bind_some]
  unfold sourceOf at hs
  cases hk : o.kind with
  | lin | tld | gather | cpyw | scatter | tst =>
    simp only [EngKind.coll?, State.beginCopy, hk, hp, hi, hsoFar, hr, Option.bind_some]
    rfl
  | coll rec_ _ _ num =>
    obtain ⟨hadmitted, hcut⟩ := hcoll rec_ num (by rw [hk]; rfl)
    simp only [EngKind.coll?, hcut, Bool.and_false, State.partMove, hstage, hadmitted, State.beginPart, hk, hp, hi, hsoFar, hr, Option.bind_some]
    rfl
  | fill | accrd | msync | collSk => rw [hk] at hs; exact hs.elim

/-- What an operation does to its own entry stands there afterwards. -/
theorem State.op_updOp_of_keepsWork {t : State} {core id : Nat} {f : EngOp → EngOp} (k : s.KeepsWork t) (ho : (s.core core).op id = some o) (hf : ∀ o, (f o).id = o.id) :
    ((t.updOp core id f).core core).op id = some (f o) := by
  rw [State.op_updOp _ _ _ _ _ hf, k.op, ho, Option.map_some, if_pos ⟨rfl, rfl⟩]
end

/-! ### Writing -/

section
variable {s : State} {core : Nat} {r : Reach} {o : EngOp} {ps : List (Option Target)} {bytes : List Byte}

/-- An operation that may write its bytes is no copy with a welt. -/
theorem EngOp.plain_of_writes (h : writes s o bytes) : o.plain := by
  intro sp rec_ k0 tile ta tb a z hk
  unfold writes at h
  rw [hk] at h
  exact h

/-- What follows a payload touches no engine and no byte: the conditions of a collective's lanes are raised with the handle (R325). -/
theorem State.completeOp_of_writes (hr : s.reach core o = some r) (hp : s.isPaused o = false) (hw : writes s o bytes) :
    ∃ after : State → State, s.completeOp core o = s.writePayload r o bytes after ∧ ∀ u, u.KeepsWork (after u) ∧ (after u).mems = u.mems := by
  unfold writes at hw
  cases hk : o.kind with
  | lin | tld | tst =>
    rw [hk] at hw
    exact ⟨fun u => u, by simp [State.completeOp, State.payload, show o.stage = _ from hw, hk, hp, hr]; rfl, fun u => ⟨.refl u, rfl⟩⟩
  | gather | scatter =>
    rw [hk] at hw
    obtain ⟨d, hstage, rfl⟩ := hw
    exact ⟨fun u => u, by simp [State.completeOp, State.payload, hstage, hk, hp, hr]; rfl, fun u => ⟨.refl u, rfl⟩⟩
  | fill =>
    rw [hk] at hw
    obtain ⟨hstage, hi, rfl⟩ := hw
    exact ⟨fun u => u, by simp [State.completeOp, State.payload, hstage, hk, hp, hr, hi]; rfl, fun u => ⟨.refl u, rfl⟩⟩
  | coll rec_ _ _ num =>
    rw [hk] at hw
    obtain ⟨⟨cs, hstage⟩, hsettled⟩ := hw
    refine ⟨fun u => if cs.all fun c => decide (c = {}) then u else u.raise (o.counter core) cs, ?_, fun u => ?_⟩
    · simp only [State.completeOp, hstage, hk, hp, hsettled, State.finishColl, hr]
      rfl
    · dsimp only
      split
      · exact ⟨.refl u, rfl⟩
      · exact ⟨u.keepsWork_raise _ _, u.raise_mems _ _⟩
  | cpyw | accrd | msync | collSk => rw [hk] at hw; exact hw.elim

/-- An operation other than a tile load may write its payload a unit at a time (R245). -/
theorem State.writing_of_writes (hp : s.isPaused o = false) (hw : writes s o bytes) (hk : ∀ sp a t, o.kind ≠ .tld sp a t) : s.writing core o = some bytes := by
  unfold writes at hw
  cases hkind : o.kind with
  | lin | tst =>
    rw [hkind] at hw
    simp [State.writing, State.payload, show o.stage = _ from hw, hkind, hp]
  | gather | scatter =>
    rw [hkind] at hw
    obtain ⟨d, hstage, rfl⟩ := hw
    simp [State.writing, State.payload, hstage, hkind, hp]
  | fill =>
    rw [hkind] at hw
    obtain ⟨hstage, hi, rfl⟩ := hw
    simp [State.writing, State.payload, hstage, hkind, hp, hi]
  | coll =>
    rw [hkind] at hw
    obtain ⟨⟨cs, hstage⟩, hsettled⟩ := hw
    simp [State.writing, hstage, hkind, hp, hsettled]
  | tld sp a t => exact absurd hkind (hk sp a t)
  | cpyw | accrd | msync | collSk => rw [hkind] at hw; exact hw.elim

end

/-- A change of an operation changes no byte. -/
theorem State.byte_updOp (s : State) (core id : Nat) (f : EngOp → EngOp) (m : MemId) (b : Nat) : (s.updOp core id f).byte m b = s.byte m b := by
  have hh : (s.updOp core id f).hbmKeys = s.hbmKeys := (State.keepsWork_setDir _ _).hbmKeys
  have hw : (s.updOp core id f).wsKeys = s.wsKeys := (State.keepsWork_setDir _ _).wsKeys
  have hmask : (s.updOp core id f).mask m b = s.mask m b := by cases m <;> simp [State.mask, hh, hw]
  simp [State.byte, State.mem, hmask]

section
variable {s : State} {core id : Nat} {o : EngOp} {r : Reach} {ps : List (Option Target)} {bytes : List Byte} (ho : (s.core core).op id = some o)
  (hr : s.reach core o = some r) (hp : s.isPaused o = false)
include ho hr hp

/-- A ready operation has read its source, memory as it was. -/
theorem State.engineBegin_reads (hport : s.portGone ps = false) (hpeer : s.peerRefuses ps = false) (hsource : sourceOf s r o ps) (hstage : o.stage = .waiting)
    (hi : s.issuerDone o.ref o.id = true) (hrefresh : ∀ t, some t ∈ ps → s.inRefresh core t = false)
    (hfree : s.sourceFree core o (rangesAt ps) = true) (hpoison : (rangesAt ps).any s.poisoned = false)
    (hcoll : ∀ rec_ num, o.kind.coll? = some (rec_, num) → o.admitted = true ∧ s.cutOff (rec_.group (s.ctxOf o.ref)) = false) :
    ∃ t q, s.engineBegin core id = some t ∧ t.mems = s.mems ∧ (t.core core).op id = some q ∧ q.stage = .begun (s.bytesAt ps) := by
  obtain ⟨hcore, -⟩ := State.reach_eq_some hr
  have hread := State.readSource_of_free (State.srcPlaces_of_sourceOf hsource) hport hpeer (by rwa [hcore]) (by rwa [hcore]) hpoison
  rw [← State.engineBegin_of_source ho hr hp hsource hstage hi hcoll, Core.id_of_op ho, hcore] at hread
  exact ⟨_, { o with stage := .begun (s.bytesAt ps), paused := none }, hread, by rw [State.updOp_mems, State.walked_mems],
    State.op_updOp_of_keepsWork (s.keepsWork_walked _ _ _) ho fun _ => rfl, rfl⟩

/-- An operation that may write the rest of its payload writes it, its completion word and its handle. -/
theorem exec_engineCompletion_writes (hw : writes s o bytes) (hwritable : Writable s r o o.unwritten ps) :
    ∃ t, exec (.engineCompletion core id) s = .next t ∧ endedWith core id o.slot 0 o.rmask t
      ∧ (∀ m b, ¬inCompletion o.ref.team o.cw m b → t.byte m b = (s.putAt (ps.map fun t => t.filter o.unwritten) bytes).byte m b)
      ∧ ∀ off v, o.cw = some (off, v) → t.load (localByte o.ref.team off) 4 = v.toNat := by
  obtain ⟨hcore, -⟩ := State.reach_eq_some hr
  obtain ⟨after, hcomplete, hafter⟩ := State.completeOp_of_writes hr hp hw
  rw [State.writePayload_of_writable hwritable, State.land_of_plain (EngOp.plain_of_writes hw), hcore] at hcomplete
  obtain ⟨hkeep, hmems⟩ := hafter ((s.payloadPut r o bytes o.unwritten ps).finishOp core o o.rmask)
  refine ⟨_, exec_engineCompletion ho hcomplete, ?_, fun m b hout => ?_, fun off v hcw => ?_⟩
  · rw [← Core.id_of_op ho]
    exact endedWith.keepsWork (State.endedWith_finishOp ..) hkeep
  · rw [hkeep.byte hmems, State.byte_finishOp _ _ _ _ hout, State.byte_payloadPut]
  · rw [hkeep.load hmems, State.load_finishOp _ _ _ _ hcw]

/-- An operation writes a unit that it holds, once, and holds it no longer (R245, R246). -/
theorem State.engineWrite_unit (hw : writes s o bytes) (hk : ∀ sp a t, o.kind ≠ .tld sp a t) {n : Nat} {u : Range} (hu : o.held[n]? = some u)
    (hwritable : Writable s r o (fun t => u.meets (t.range 1)) ps) :
    ∃ t, s.engineWrite core id n = some t
      ∧ (t.core core).op id = some { o with atHome := o.atHome.filter fun g => decide (g ≠ u), wrote := u :: o.wrote }
      ∧ ∀ m b, t.byte m b = (s.putAt (ps.map fun t => t.filter fun t => u.meets (t.range 1)) bytes).byte m b := by
  obtain ⟨hcore, -⟩ := State.reach_eq_some hr
  refine ⟨(s.payloadPut r o bytes (fun t => u.meets (t.range 1)) ps).updOp core id fun o =>
    { o with atHome := o.atHome.filter fun g => decide (g ≠ u), wrote := u :: o.wrote }, ?_, ?_, fun m b => ?_⟩
  · rw [State.engineWrite, ho, Option.bind_some, State.writing_of_writes hp hw hk, Option.bind_some, hr, Option.bind_some, State.writeUnit, hu, Option.bind_some,
      State.writePart_of_writable hwritable, hcore, Core.id_of_op ho]
  · exact State.op_updOp_of_keepsWork (s.keepsWork_payloadPut ..) ho fun _ => rfl
  · rw [State.byte_updOp, State.byte_payloadPut]
end

/-- What is ready is read, and what is read is written (R245, R312, R315, R317, R321, R325). -/
theorem State.moves_bytes {s : State} {core id : Nat} {o : EngOp} (ho : (s.core core).op id = some o) : enginesMoveBytes s core id o := by
  intro r ps hr hp hport hpeer
  have hout {m : MemId} {b : Nat} (h : ¬∃ off v, o.cw = some (off, v) ∧ (localByte o.ref.team off).mem = m ∧ off % 2 ^ 24 ≤ b ∧ b < off % 2 ^ 24 + 4) :
      ¬inCompletion o.ref.team o.cw m b := fun ⟨off, v, hcw, hm, hb⟩ => h ⟨off, v, hcw, hm.symm, hb⟩
  refine ⟨State.engineBegin_reads ho hr hp hport hpeer, fun bytes hdest hw hlen => ⟨fun hmay => ?_, fun n u hu hk hmay => ?_⟩⟩
  · obtain ⟨t, hexec, hend, hbyte, hcw⟩ := exec_engineCompletion_writes ho hr hp hw ⟨State.dstPlaces_of_destinationOf hdest, hport, hpeer, hmay⟩
    refine ⟨t, hexec, hend, fun k q hlast hq => ?_, fun m b hrest hb => ?_, hcw⟩
    · rw [hbyte _ _ (hout hq)]
      exact State.byte_putAt_last (by rw [List.length_map, hlen]) s hlast.1 hlast.2
    · rw [hbyte _ _ (hout hb)]
      exact State.byte_putAt_outside _ _ s hrest
  · obtain ⟨t, hwrite, hop, hbyte⟩ := State.engineWrite_unit ho hr hp hw hk hu ⟨State.dstPlaces_of_destinationOf hdest, hport, hpeer, hmay⟩
    refine ⟨t, hwrite, hop, fun k q hlast => ?_, fun m b hpart => ?_⟩
    · rw [hbyte]
      exact State.byte_putAt_last (by rw [List.length_map, hlen]) s hlast.1 hlast.2
    · rw [hbyte]
      exact State.byte_putAt_outside _ _ s hpart

end Sys2Proof.Machine
end

/-! Boxes and layout conversions (R228, R235, R315, R317) -/
section
namespace Sys2Proof.Machine

/-! ### Lists cut into pieces of one length -/

/-- Among pieces of one length, an index gives the piece and the place in it. -/
theorem getElem?_flatMap_pieces {α β : Type} {f : α → List β} {n : Nat} (hf : ∀ a, (f a).length = n) (l : List α) (m : Nat) {j : Nat} (hj : j < n) :
    (l.flatMap f)[m * n + j]? = l[m]?.bind fun a => (f a)[j]? := by
  induction l generalizing m with
  | nil => simp
  | cons a l ih =>
    rw [List.flatMap_cons]
    cases m with
    | zero => rw [Nat.zero_mul, Nat.zero_add, List.getElem?_append_left (by rw [hf]; exact hj)]; rfl
    | succ m =>
      rw [List.getElem?_append_right (by rw [hf, Nat.succ_mul]; omega), hf, Nat.succ_mul, show m * n + n + j - n = m * n + j by omega, ih]
      rfl

/-! ### The elements of a box -/

/-- An element's coordinates are the digits of its number, the first coordinate the fastest (R315). -/
theorem getElem?_boxCoords (bs : List Nat) {m : Nat} (hm : m < (boxCoords bs).length) :
    (boxCoords bs)[m]? = some ((List.range bs.length).map fun i => m / (bs.take i).foldl (fun a b => a * b) 1 % bs.getD i 0) := by
  induction bs generalizing m with
  | nil =>
    obtain rfl : m = 0 := Nat.lt_one_iff.1 hm
    rfl
  | cons b bs ih =>
    have hlen : ∀ rest : List Nat, ((List.range b).map fun e => e :: rest).length = b := fun rest => by simp
    rw [length_boxCoords, List.foldl_cons, foldl_mul_eq, Nat.one_mul, ← length_boxCoords] at hm
    have hb : 0 < b := Nat.pos_of_ne_zero fun h => by simp [h] at hm
    have hdiv : m / b < (boxCoords bs).length := Nat.div_lt_of_lt_mul hm
    rw [boxCoords, show m = m / b * b + m % b from (Nat.div_add_mod' m b).symm, getElem?_flatMap_pieces hlen _ _ (Nat.mod_lt _ hb), ih hdiv, Nat.div_add_mod',
      Option.bind_some, List.length_cons, List.range_succ_eq_map, List.map_cons, List.map_map]
    simp only [List.getElem?_map, List.getElem?_range (Nat.mod_lt m hb), Option.map_some, List.take_zero, List.foldl_nil, Nat.div_one, List.getD_cons_zero]
    refine congrArg (fun l => some (m % b :: l)) (List.map_congr_left fun i _ => ?_)
    rw [Function.comp_apply, List.take_succ_cons, List.foldl_cons, foldl_mul_eq _ (1 * b), Nat.one_mul, List.getD_cons_succ, Nat.div_div_eq_div_mul]

section
variable (rec_ : Shape) {k0 k : List Int}

theorem Shape.boxBytes_eq : rec_.boxBytes = rec_.n * rec_.count := foldl_mul_eq _ _

theorem Shape.getElem?_elements (hbox : rec_.rank ≤ rec_.box.length) (hk0 : k0.length = rec_.rank) {m : Nat} (hm : m < rec_.count) :
    (rec_.elements k0)[m]? = some ((List.range rec_.rank).map fun i =>
      k0.getD i 0 + ((m / (rec_.box.take i).foldl (fun a b => a * b) 1 % rec_.box.getD i 0 : Nat) : Int)) := by
  have hlen : (rec_.box.take rec_.rank).length = rec_.rank := by rw [List.length_take]; omega
  rw [Shape.elements, List.getElem?_map, getElem?_boxCoords _ (by rwa [length_boxCoords]), Option.map_some, hlen]
  refine congrArg some (eq_map_range_of_getElem? (by simp [hk0]) fun i hi => ?_)
  simp [hi, hk0, List.take_take, Nat.min_eq_left hi.le]

/-- Two lists side by side, by index. -/
theorem zip_eq_map_range {α β : Type} {l : List α} {l' : List β} (h : l.length ≤ l'.length) (a : α) (b : β) :
    l.zip l' = (List.range l.length).map fun i => (l.getD i a, l'.getD i b) := by
  refine eq_map_range_of_getElem? (by simpa using h) fun i hi => ?_
  have hi' : i < l'.length := by omega
  simp [hi, hi']

theorem Shape.inBounds_iff (hsize : rec_.rank ≤ rec_.size.length) (hk : k.length = rec_.rank) :
    rec_.inBounds k = true ↔ ∀ i, i < rec_.rank → 0 ≤ k.getD i 0 ∧ k.getD i 0 < rec_.size.getD i 0 := by
  rw [Shape.inBounds, List.take_of_length_le hk.le, zip_eq_map_range (by omega) 0 0, hk]
  simp

theorem foldl_add_int (l : List Int) (a : Int) : l.foldl (fun a b => a + b) a = a + l.sum := by
  induction l generalizing a with
  | nil => exact (Int.add_zero a).symm
  | cons b l ih => rw [List.foldl_cons, ih, List.sum_cons, Int.add_assoc]

theorem Shape.addr_eq (hstride : rec_.rank ≤ rec_.stride.length) (hk : k.length = rec_.rank) :
    rec_.addr k = rec_.base + ((List.range rec_.rank).map fun i => k.getD i 0 * rec_.stride.getD i 0).sum := by
  rw [Shape.addr, List.take_of_length_le hk.le, zip_eq_map_range (by omega) 0 0, hk, foldl_add_int, List.map_map]
  rfl

/-- Without a layout conversion a scatter reads the elements that are in bounds. -/
theorem Shape.mem_scattered (hxf : rec_.xf = 0) (m : Nat) :
    m ∈ rec_.scattered k0 ↔ m < rec_.count ∧ ∃ e, (rec_.elements k0)[m]? = some e ∧ rec_.inBounds e = true := by
  have hn : m * rec_.n / rec_.n = m := Nat.mul_div_cancel _ (Nat.two_pow_pos _)
  simp only [Shape.scattered, List.mem_filter, List.mem_range, hxf, xfFrom, hn]
  cases (rec_.elements k0)[m]? with
  | none => simp
  | some e => simp
end

/-! ### The layout conversions of a kilobyte (R235) -/

/-- A kilobyte taken through a map of its places. -/
def kilobyteThrough (f : Nat → Nat) (l : List Byte) : List Byte := (List.range l.length).map fun j => l.getD (f j) 0

theorem getElem?_kilobyteThrough {f : Nat → Nat} {l : List Byte} {j : Nat} (hj : j < l.length) (hf : f j < l.length) :
    (kilobyteThrough f l)[j]? = l[f j]? := by
  simp [kilobyteThrough, hj, hf]

theorem kilobyteThrough_inverse {f g : Nat → Nat} {l : List Byte} (hg : ∀ j, j < l.length → g j < l.length) (hfg : ∀ j, j < l.length → f (g j) = j) :
    kilobyteThrough g (kilobyteThrough f l) = l := by
  have hlen : (kilobyteThrough f l).length = l.length := by simp [kilobyteThrough]
  refine List.ext_getElem? fun j => ?_
  by_cases hj : j < l.length
  · rw [getElem?_kilobyteThrough (by rwa [hlen]) (by rw [hlen]; exact hg j hj), getElem?_kilobyteThrough (hg j hj) (by rwa [hfg j hj]), hfg j hj]
  · rw [List.getElem?_eq_none (by simpa [kilobyteThrough] using hj), List.getElem?_eq_none (by omega)]

theorem xfFrom_bytes {r c : Nat} (hc : c < 32) : xfFrom 1 (32 * r + c) = 32 * c + r := by
  rw [xfFrom]
  omega

theorem xfFrom_words {r c b : Nat} (hc : c < 16) (hb : b < 4) : xfFrom 2 ((16 * r + c) * 4 + b) = (16 * c + r) * 4 + b := by
  rw [xfFrom]
  omega

theorem xfFrom_blocks {i j r c : Nat} (hj : j < 4) (hr : r < 8) (hc : c < 8) :
    xfFrom 3 ((4 * i + j) * 64 + 8 * r + c) = (8 * i + r) * 32 + 8 * j + c := by
  rw [xfFrom]
  · omega
  all_goals nofun

theorem xfInto_blocks {i j r c : Nat} (hj : j < 4) (hr : r < 8) (hc : c < 8) :
    xfInto 3 ((8 * i + r) * 32 + 8 * j + c) = (4 * i + j) * 64 + 8 * r + c := by
  rw [xfInto]
  · omega
  all_goals nofun

/-- A scatter's conversion stays in the kilobyte and is undone by a gather's. -/
theorem xfFrom_xfInto {xf y : Nat} (hxf : xf ≤ 3) (hy : y < 1024) : xfInto xf y < 1024 ∧ xfFrom xf (xfInto xf y) = y := by
  rcases (by omega : xf = 0 ∨ xf = 1 ∨ xf = 2 ∨ xf = 3) with rfl | rfl | rfl | rfl
  · exact ⟨hy, rfl⟩
  · have hdigits : y = 32 * (y / 32) + y % 32 := by omega
    have hr : y / 32 < 32 := by omega
    have hc : y % 32 < 32 := by omega
    have hinto : xfInto 1 y = 32 * (y % 32) + y / 32 := (congrArg (xfFrom 1) hdigits).trans (xfFrom_bytes hc)
    rw [hinto, xfFrom_bytes hr]
    omega
  · have hdigits : y = (16 * (y / 64) + y / 4 % 16) * 4 + y % 4 := by omega
    have hr : y / 64 < 16 := by omega
    have hc : y / 4 % 16 < 16 := by omega
    have hb : y % 4 < 4 := by omega
    have hinto : xfInto 2 y = (16 * (y / 4 % 16) + y / 64) * 4 + y % 4 := (congrArg (xfFrom 2) hdigits).trans (xfFrom_words hc hb)
    rw [hinto, xfFrom_words hr hb]
    omega
  · have hdigits : y = (8 * (y / 256) + y / 32 % 8) * 32 + 8 * (y / 8 % 4) + y % 8 := by omega
    have hj : y / 8 % 4 < 4 := by omega
    have hr : y / 32 % 8 < 8 := by omega
    have hc : y % 8 < 8 := by omega
    have hinto : xfInto 3 y = (4 * (y / 256) + y / 8 % 4) * 64 + 8 * (y / 32 % 8) + y % 8 :=
      (congrArg (xfInto 3) hdigits).trans (xfInto_blocks hj hr hc)
    rw [hinto, xfFrom_blocks hj hr hc]
    omega

section
variable {l : List Byte} (hl : l.length = 1024)
include hl

theorem xfScatter_xfGather {xf : Nat} (hxf : xf ≤ 3) : (xfGather xf l).length = 1024 ∧ xfScatter xf (xfGather xf l) = l := by
  unfold xfGather xfScatter
  split
  · exact ⟨hl, rfl⟩
  · exact ⟨by simpa using hl, kilobyteThrough_inverse (fun j hj => hl ▸ (xfFrom_xfInto hxf (hl ▸ hj)).1) fun j hj => (xfFrom_xfInto hxf (hl ▸ hj)).2⟩

theorem getElem?_xfGather {xf j k : Nat} (hxf : xf ≠ 0) (hj : j < 1024) (hk : xfFrom xf j = k) (hk' : k < 1024) : (xfGather xf l)[j]? = l[k]? := by
  subst hk
  rw [xfGather, if_neg hxf]
  exact getElem?_kilobyteThrough (by omega) (by omega)
end

/-- Boxes, the swizzle and the layout conversions (R228, R235, R315). -/
theorem boxes_and_conversions : boxesAndConversions := by
  refine ⟨fun rec_ k0 k hbox hsize hstride hk0 => ⟨rfl, rec_.boxBytes_eq, rec_.length_elements k0, fun m hm => rec_.getElem?_elements hbox hk0 hm,
    fun hk => ⟨rec_.inBounds_iff hsize hk, rec_.addr_eq hstride hk⟩, rec_.mem_scattered⟩, fun _ _ => rfl, fun l hl => ?_⟩
  refine ⟨rfl, fun xf => xfScatter_xfGather hl, fun r c _ hc => ?_, fun r c b _ hc hb => ?_, fun i j r c _ hj hr hc => ?_⟩
  · exact getElem?_xfGather hl (by decide) (by omega) (xfFrom_bytes hc) (by omega)
  · exact getElem?_xfGather hl (by decide) (by omega) (xfFrom_words hc hb) (by omega)
  · exact getElem?_xfGather hl (by decide) (by omega) (xfFrom_blocks hj hr hc) (by omega)

end Sys2Proof.Machine
end

/-! What the parts of a collective give every rank (R325 to R327) -/
section
namespace Sys2Proof.Machine

/-! ### The operators -/

/-- The value of an operator is the specification's. -/
theorem rvApply_fst (op : RvOp) (a b : Word) : (rvApply op a b).1 = rvOf op a b := by
  cases op with
  | addF32 | addI32 | minF32 | maxF32 => rfl
  | minI32 =>
    simp only [rvApply, rvOf]
    rcases Int.lt_or_le b.toInt a.toInt with h | h
    · rw [if_pos h, if_neg (Int.not_le.2 h)]
    · rw [if_neg (Int.not_lt.2 h), if_pos h]
  | maxI32 =>
    simp only [rvApply, rvOf]
    rcases Int.lt_trichotomy a.toInt b.toInt with h | h | h
    · rw [if_pos h, if_pos h.le]
    · rw [BitVec.eq_of_toInt_eq h, ite_self, ite_self]
    · rw [if_neg (Int.not_lt.2 h.le), if_neg (Int.not_le.2 h)]

/-- Values combined one after another give the fold of the operator. -/
theorem foldWords_fst (op : RvOp) (a : Word) (l : List Word) : (foldWords (rvApply op) (a :: l)).1 = l.foldl (rvOf op) a := by
  have step : ∀ (l : List Word) (r : Word × Conds),
      (l.foldl (fun (r : Word × Conds) b => let v := rvApply op r.1 b; (v.1, r.2.join v.2)) r).1 = l.foldl (rvOf op) r.1 := by
    intro l
    induction l with
    | nil => exact fun _ => rfl
    | cons b l ih =>
      intro r
      rw [List.foldl_cons, ih, List.foldl_cons, ← rvApply_fst]
  exact step l (a, {})

theorem rvOf_addF32_zero : rvOf .addF32 0 0 = 0 := by decide +kernel

/-- A tree of zeros has the root +0.0 (R326). -/
theorem rvTree_zero (n : Nat) {v : Nat → Word} (h : ∀ k, k < 2 ^ n → v k = 0) : rvTree .addF32 n v = 0 := by
  induction n generalizing v with
  | zero => exact h 0 Nat.one_pos
  | succ n ih =>
    rw [rvTree, ih fun k hk => h k (by omega), ih fun k hk => h _ (by omega), rvOf_addF32_zero]

/-- An order of a list has its elements. -/
theorem permute_perm {α : Type} (n k : Nat) (l : List α) : (permute n k l).Perm l := by
  induction n generalizing k l with
  | zero => rfl
  | succ n ih =>
    cases l with
    | nil => rfl
    | cons a l =>
      have hi : k % (l.length + 1) < (a :: l).length := Nat.mod_lt _ (Nat.succ_pos _)
      rw [permute, List.getElem?_eq_getElem hi]
      exact ((ih _ _).cons _).trans (List.getElem_cons_eraseIdx_perm hi)

/-! ### The fixed tree (R326) -/

/-- A run of 2^m indexes that begins in an aligned block of as many begins at its start. -/
theorem eq_start_of_aligned {m r start : Nat} (hr : 2 ^ m ∣ r) (hs : 2 ^ m ∣ start) (h : start ≤ r) (h' : r < start + 2 ^ m) : r = start := by
  obtain ⟨a, rfl⟩ := hr
  obtain ⟨b, rfl⟩ := hs
  have hb : b ≤ a := Nat.le_of_mul_le_mul_left h (Nat.two_pow_pos m)
  have ha : a < b + 1 := by rw [← Nat.mul_add_one] at h'; exact Nat.lt_of_mul_lt_mul_left h'
  rw [show a = b by omega]

/-- A run lies within a block, or meets none of its indexes. -/
def fits (start n : Nat) (r : Nat × Nat × Word) : Prop :=
  (r.1 + r.2.1 ≤ start ∨ start + n ≤ r.1) ∨ (start ≤ r.1 ∧ r.1 + r.2.1 ≤ start + n)

/-- An aligned run lies within the block of all leaves, or after it. -/
theorem fits_root {k P : Nat} {r : Nat × Nat × Word} (hrun : r.2.1 = 2 ^ k) (hdvd : r.2.1 ∣ r.1) (hshort : r.1 = 0 → r.2.1 ≤ 2 ^ P) : fits 0 (2 ^ P) r := by
  unfold fits
  by_cases h0 : r.1 = 0
  · exact .inr ⟨Nat.zero_le _, by rw [h0]; simpa using hshort h0⟩
  · by_cases hout : 2 ^ P ≤ r.1
    · exact .inl (.inr (by omega))
    · refine .inr ⟨Nat.zero_le _, ?_⟩
      have hsmall := Nat.le_of_dvd (Nat.pos_of_ne_zero h0) hdvd
      have hdvd' : r.2.1 ∣ 2 ^ P := by
        rw [hrun] at hsmall ⊢
        exact Nat.pow_dvd_pow 2 ((Nat.pow_le_pow_iff_right (by omega : 1 < 2)).1 (by omega))
      obtain ⟨a, ha⟩ := hdvd
      obtain ⟨b, hb⟩ := hdvd'
      have hab : a < b := by
        rw [ha, hb] at hout
        exact Nat.lt_of_mul_lt_mul_left (Nat.not_le.1 hout)
      have := Nat.mul_le_mul_left r.2.1 hab
      rw [Nat.mul_succ] at this
      omega

/-- The runs of a tree: each of a power of two, aligned, with the root of its leaves. -/
def isRun (v : Nat → Word) (r : Nat × Nat × Word) : Prop := ∃ k, r.2.1 = 2 ^ k ∧ 2 ^ k ∣ r.1 ∧ r.2.2 = rvTree .addF32 k fun j => v (r.1 + j)

/-- The halves of a block. A run within it, other than the block, lies within a half. -/
theorem fits_halves {v : Nat → Word} {r : Nat × Nat × Word} {start n : Nat} (hr : isRun v r) (hs : 2 ^ (n + 1) ∣ start) (hfit : fits start (2 ^ (n + 1)) r)
    (hne : ¬(r.1 = start ∧ r.2.1 = 2 ^ (n + 1))) : fits start (2 ^ n) r ∧ fits (start + 2 ^ n) (2 ^ n) r := by
  obtain ⟨k, hrun, hdvd, -⟩ := hr
  unfold fits at hfit ⊢
  rw [hrun] at hfit hne ⊢
  rcases hfit with h | ⟨hlo, hhi⟩
  · omega
  · have hkn : k ≤ n := by
      by_contra hk
      have hpow : 2 ^ (n + 1) ≤ 2 ^ k := Nat.pow_le_pow_right (by omega) (by omega)
      refine hne ⟨eq_start_of_aligned ((Nat.pow_dvd_pow 2 (by omega)).trans hdvd) hs hlo (by have := Nat.two_pow_pos k; omega), by omega⟩
    have hmid : 2 ^ k ∣ start + 2 ^ n := Nat.dvd_add ((Nat.pow_dvd_pow 2 (by omega)).trans hs) (Nat.pow_dvd_pow 2 hkn)
    obtain ⟨a, ha⟩ := hdvd
    obtain ⟨b, hb⟩ := hmid
    rcases Nat.lt_or_ge a b with hab | hab
    · have := Nat.mul_le_mul_left (2 ^ k) hab
      rw [Nat.mul_succ] at this
      omega
    · have := Nat.mul_le_mul_left (2 ^ k) hab
      omega

section
variable {v : Nat → Word} {runs : List (Nat × Nat × Word)} (hruns : ∀ r ∈ runs, isRun v r) (hzero : ∀ k, (∀ r ∈ runs, k < r.1 ∨ r.1 + r.2.1 ≤ k) → v k = 0)
include hruns hzero

/-- A leaf of the fixed tree is that of the run of one index, and +0.0 without one. -/
theorem detNode_leaf {start : Nat} {l : List (Nat × Nat × Word)} (hl : ∀ r, r.1 = start → (r ∈ l ↔ r ∈ runs)) (hfit : ∀ r ∈ runs, fits start 1 r) :
    (detNode 0 start l).1 = v start := by
  rw [detNode]
  dsimp only
  split
  · next r hfind =>
    have hstart : r.1 = start := by simpa using List.find?_some hfind
    have hr : r ∈ runs := (hl r hstart).1 (List.mem_of_find?_eq_some hfind)
    obtain ⟨k, hrun, -, hval⟩ := hruns r hr
    have hone : 2 ^ k ≤ 1 := by
      have := hfit r hr
      unfold fits at this
      have := Nat.two_pow_pos k
      omega
    obtain rfl : k = 0 := by
      by_contra hk
      have := Nat.one_lt_two_pow hk
      omega
    rw [hval, hstart]
    rfl
  · next hnone =>
    refine (hzero start fun r hr => ?_).symm
    have hne : ∀ r ∈ l, r.1 ≠ start := by simpa using hnone
    have := hfit r hr
    unfold fits at this
    have hout : r.1 ≠ start := fun h => hne r ((hl r h).2 hr) h
    omega

/-- The node of the fixed tree is the root of the leaves of its block: the runs that begin in the block are those of the list, every run lies within the block or
outside it, and leaves of no run are +0.0. -/
theorem detNode_eq_rvTree (n : Nat) {start : Nat} {l : List (Nat × Nat × Word)} (hs : 2 ^ n ∣ start)
    (hl : ∀ r, start ≤ r.1 → r.1 < start + 2 ^ n → (r ∈ l ↔ r ∈ runs)) (hfit : ∀ r ∈ runs, fits start (2 ^ n) r) :
    (detNode n start l).1 = rvTree .addF32 n fun j => v (start + j) := by
  induction n generalizing start l with
  | zero => exact detNode_leaf hruns hzero (fun r hr => hl r hr.ge (by rw [hr]; exact Nat.lt_succ_self _)) hfit
  | succ n ih =>
    have hblock : ∀ r, r ∈ l.filter (fun r => decide (start ≤ r.1) && decide (r.1 < start + 2 ^ (n + 1))) ↔ r ∈ runs ∧ start ≤ r.1 ∧ r.1 < start + 2 ^ (n + 1) := by
      intro r
      simp only [List.mem_filter, Bool.and_eq_true, decide_eq_true_eq]
      exact ⟨fun ⟨hr, hlo, hhi⟩ => ⟨(hl r hlo hhi).1 hr, hlo, hhi⟩, fun ⟨hr, hlo, hhi⟩ => ⟨(hl r hlo hhi).2 hr, hlo, hhi⟩⟩
    rw [detNode]
    dsimp only
    split
    · next hempty =>
      refine (rvTree_zero _ fun k hk => hzero _ fun r hr => ?_).symm
      have hout : ¬(start ≤ r.1 ∧ r.1 < start + 2 ^ (n + 1)) := fun hin => by
        have := (hblock r).2 ⟨hr, hin⟩
        rw [List.isEmpty_iff.1 hempty] at this
        cases this
      have := hfit r hr
      unfold fits at this
      omega
    · split
      · next r hfind =>
        obtain ⟨hstart, hwhole⟩ : r.1 = start ∧ r.2.1 = 2 ^ (n + 1) := by simpa using List.find?_some hfind
        obtain ⟨k, hrun, -, hval⟩ := hruns r ((hblock r).1 (List.mem_of_find?_eq_some hfind)).1
        rw [hval, hstart, Nat.pow_right_injective (le_refl 2) (hrun.symm.trans hwhole)]
      · next hnone =>
        have hhalves : ∀ r ∈ runs, fits start (2 ^ n) r ∧ fits (start + 2 ^ n) (2 ^ n) r := fun r hr => by
          refine fits_halves (hruns r hr) hs (hfit r hr) fun ⟨hstart, hwhole⟩ => ?_
          have hmem := (hblock r).2 ⟨hr, hstart.ge, by rw [hstart]; exact Nat.lt_add_of_pos_right (Nat.two_pow_pos _)⟩
          exact List.find?_eq_none.1 hnone r hmem (by simp [hstart, hwhole])
        have hdvd : 2 ^ n ∣ start := (Nat.pow_dvd_pow 2 (Nat.le_succ n)).trans hs
        have hleft := ih hdvd (l := l.filter fun r => decide (start ≤ r.1) && decide (r.1 < start + 2 ^ (n + 1)))
          (fun r hlo hhi => by rw [hblock]; exact ⟨And.left, fun hr => ⟨hr, hlo, by omega⟩⟩) fun r hr => (hhalves r hr).1
        have hright := ih (start := start + 2 ^ n) (Nat.dvd_add hdvd (Nat.dvd_refl _))
          (l := (l.filter fun r => decide (start ≤ r.1) && decide (r.1 < start + 2 ^ (n + 1))).filter fun r => decide (start + 2 ^ n ≤ r.1))
          (fun r hlo hhi => by rw [List.mem_filter, hblock]; exact ⟨fun h => h.1.1, fun hr => ⟨⟨hr, by omega, by omega⟩, by simpa using hlo⟩⟩) fun r hr => (hhalves r hr).2
        rw [rvApply_fst, hleft, hright, rvTree]
        simp only [Nat.add_assoc]
end

/-- A node that a run covers exactly has its value. -/
theorem detNode_of_cover (n : Nat) {start : Nat} {l : List (Nat × Nat × Word)} {w : Word} (hw : ∀ r ∈ l, r.1 = start → r.2.2 = w)
    {q : Nat × Nat × Word} (hq : q ∈ l) (hstart : q.1 = start) (hrun : q.2.1 = 2 ^ n) : (detNode n start l).1 = w := by
  cases n with
  | zero =>
    rw [detNode]
    dsimp only
    split
    · next r hfind => exact hw r (List.mem_of_find?_eq_some hfind) (by simpa using List.find?_some hfind)
    · next hnone => exact absurd hstart (by simpa using List.find?_eq_none.1 hnone q hq)
  | succ n =>
    have hmem : q ∈ l.filter fun r => decide (start ≤ r.1) && decide (r.1 < start + 2 ^ (n + 1)) := by
      rw [List.mem_filter]
      exact ⟨hq, by simp [hstart]⟩
    rw [detNode]
    dsimp only
    rw [if_neg fun hempty => by rw [List.isEmpty_iff.1 hempty] at hmem; cases hmem]
    split
    · next r hfind =>
      obtain ⟨hr, -⟩ : r.1 = start ∧ r.2.1 = 2 ^ (n + 1) := by simpa using List.find?_some hfind
      exact hw r (List.mem_filter.1 (List.mem_of_find?_eq_some hfind)).1 hr
    · next hnone => exact absurd (List.find?_eq_none.1 hnone q hmem) (by simp [hstart, hrun])

theorem foldl_levels {m : Nat} (l : List (Nat × Nat)) {a : Nat} (hle : ∀ r ∈ l, r.1 = 0 → r.2.log2 ≤ m) (ha : a ≤ m)
    (hex : a = m ∨ ∃ r ∈ l, r.1 = 0 ∧ r.2.log2 = m) : l.foldl (fun m r => if r.1 = 0 then max m r.2.log2 else m) a = m := by
  induction l generalizing a with
  | nil => exact hex.resolve_right nofun
  | cons r l ih =>
    have hr := hle r List.mem_cons_self
    rw [List.foldl_cons]
    refine ih (fun r hr => hle r (List.mem_cons_of_mem _ hr)) (by split <;> omega) ?_
    rcases hex with rfl | ⟨q, hq, h0, hm⟩
    · left
      split <;> omega
    · rcases List.mem_cons.1 hq with rfl | hq
      · left
        rw [if_pos h0]
        omega
      · exact .inr ⟨q, hq, h0, hm⟩

/-- The levels of the tree, when no run from 0 on is longer and the least power of two or such a run has as many. -/
theorem detLevels_eq {nelem P m : Nat} {runs : List (Nat × Nat)} (hP : nelem ≤ 2 ^ P) (hmin : ∀ k, nelem ≤ 2 ^ k → P ≤ k)
    (hle : ∀ r ∈ runs, r.1 = 0 → r.2.log2 ≤ m) (hPm : P ≤ m) (hex : P = m ∨ ∃ r ∈ runs, r.1 = 0 ∧ r.2.log2 = m) : detLevels nelem runs = m := by
  have hbase : (if nelem ≤ 1 then 0 else (nelem - 1).log2 + 1) = P := by
    split
    · next h => exact (Nat.le_zero.1 (hmin 0 h)).symm
    · next h =>
      refine Nat.le_antisymm ?_ (hmin _ ?_)
      · exact (Nat.log2_lt (by omega)).2 (by omega)
      · have := Nat.lt_log2_self (n := nelem - 1)
        omega
  rw [detLevels, hbase]
  exact foldl_levels runs hle hPm hex

/-! ### The lanes of a reduction (R325) -/

section
variable {ps : List Part} {nelem order P : Nat} {lev : Part → Nat} (i : Nat) (hrun : ∀ q ∈ ps, q.run = 2 ^ lev q ∧ q.ebase % q.run = 0)
  (hP : nelem ≤ 2 ^ P) (hmin : ∀ k, nelem ≤ 2 ^ k → P ≤ k)
include hrun hP hmin

/-- A reduction with `.det` is the root of the tree over the least power of two of leaves (R326). -/
theorem reduceLane_det {v : Nat → Word} (hshort : ∀ q ∈ ps, q.ebase = 0 → q.run ≤ 2 ^ P)
    (hval : ∀ q ∈ ps, q.lane i = rvTree .addF32 (lev q) fun k => v (q.ebase + k)) (hzero : ∀ k, (∀ q ∈ ps, k < q.ebase ∨ q.ebase + q.run ≤ k) → v k = 0) :
    (reduceLane 0 nelem order ps i).1 = canon32 (rvTree .addF32 P v) := by
  have hlevels : detLevels nelem (ps.map fun p => (p.ebase, p.run)) = P := by
    refine detLevels_eq hP hmin (fun r hr h0 => ?_) (le_refl P) (.inl rfl)
    obtain ⟨q, hq, rfl⟩ := List.mem_map.1 hr
    have hle := hshort q hq h0
    rw [(hrun q hq).1] at hle ⊢
    rw [Nat.log2_two_pow]
    exact (Nat.pow_le_pow_iff_right (by omega)).1 hle
  have hfits : ∀ r ∈ ps.map (fun p => (p.ebase, p.run, p.lane i)), fits 0 (2 ^ P) r := by
    intro r hr
    obtain ⟨q, hq, rfl⟩ := List.mem_map.1 hr
    exact fits_root (hrun q hq).1 (Nat.dvd_of_mod_eq_zero (hrun q hq).2) (hshort q hq)
  have hroot := detNode_eq_rvTree (v := v) (runs := ps.map fun p => (p.ebase, p.run, p.lane i)) (fun r hr => by
    obtain ⟨q, hq, rfl⟩ := List.mem_map.1 hr
    obtain ⟨hpow, hmod⟩ := hrun q hq
    exact ⟨lev q, hpow, hpow ▸ Nat.dvd_of_mod_eq_zero hmod, hval q hq⟩) (fun k hk => hzero k fun q hq => hk _ (List.mem_map_of_mem hq))
    P (Nat.dvd_zero _) (fun _ _ _ => Iff.rfl) hfits
  simp only [Nat.zero_add] at hroot
  rw [reduceLane]
  dsimp only
  rw [hlevels, hroot]

/-- A run from 0 on that covers the tree is its root. -/
theorem reduceLane_covered (hdis : ps.Pairwise fun a b => a.ebase + a.run ≤ b.ebase ∨ b.ebase + b.run ≤ a.ebase) {q : Part} (hq : q ∈ ps) (h0 : q.ebase = 0)
    (hlong : 2 ^ P ≤ q.run) : (reduceLane 0 nelem order ps i).1 = canon32 (q.lane i) := by
  have honly : ∀ p ∈ ps, p.ebase = 0 → p = q := fun p hp hp0 => by
    by_contra hne
    have hsymm : Std.Symm fun a b : Part => a.ebase + a.run ≤ b.ebase ∨ b.ebase + b.run ≤ a.ebase := ⟨fun _ _ => Or.symm⟩
    have hpos (x : Part) (hx : x ∈ ps) : 0 < x.run := by rw [(hrun x hx).1]; exact Nat.two_pow_pos _
    have := hpos p hp
    have := hpos q hq
    rcases hdis.forall hp hq hne with h | h <;> omega
  have hlev : q.run.log2 = lev q := by rw [(hrun q hq).1, Nat.log2_two_pow]
  have hlevels : detLevels nelem (ps.map fun p => (p.ebase, p.run)) = lev q := by
    refine detLevels_eq hP hmin (fun r hr hr0 => ?_) ?_ (.inr ⟨_, List.mem_map_of_mem hq, h0, hlev⟩)
    · obtain ⟨p, hp, rfl⟩ := List.mem_map.1 hr
      rw [honly p hp hr0, hlev]
    · rw [(hrun q hq).1] at hlong
      exact (Nat.pow_le_pow_iff_right (by omega)).1 hlong
  have hroot := detNode_of_cover (lev q) (start := 0) (l := ps.map fun p => (p.ebase, p.run, p.lane i)) (w := q.lane i) (fun r hr hr0 => by
    obtain ⟨p, hp, rfl⟩ := List.mem_map.1 hr
    rw [honly p hp hr0]) (List.mem_map_of_mem hq) h0 (hrun q hq).1
  rw [reduceLane]
  dsimp only
  rw [hlevels, hroot]
end

/-! ### The result -/

/-- A piece cut out of pieces of one length. -/
theorem take_drop_flatMap_pieces {α β : Type} {f : α → List β} {n : Nat} (hf : ∀ a, (f a).length = n) {l : List α} {m : Nat} {a : α} (ha : l[m]? = some a) :
    ((l.flatMap f).drop (n * m)).take n = f a := by
  refine List.ext_getElem? fun j => ?_
  by_cases hj : j < n
  · rw [List.getElem?_take_of_lt hj, List.getElem?_drop, Nat.mul_comm, getElem?_flatMap_pieces hf _ _ hj, ha, Option.bind_some]
  · rw [List.getElem?_eq_none (by rw [List.length_take]; omega), List.getElem?_eq_none (by rw [hf]; omega)]

/-- Lane `i` of the result of an all-reduce. -/
theorem collResult_lane {r : CollRec} (hk : r.kind = 0) (order : Nat) (ps : List Part) :
    (collResult r order ps).1.length = 4 * r.lanes ∧ ∀ i, i < r.lanes →
      BitVec.ofNat 32 (leNat (((collResult r order ps).1.drop (4 * i)).take 4)) = (reduceLane r.op r.nelem order ps i).1 := by
  have hlen : ∀ v : Word × Conds, (leBytes 4 v.1.toNat).length = 4 := fun v => length_leBytes _ _
  simp only [collResult, hk]
  refine ⟨by simp [List.length_flatMap, hlen, Function.comp_def, Nat.mul_comm], fun i hi => ?_⟩
  rw [take_drop_flatMap_pieces hlen (a := reduceLane r.op r.nelem order ps i) (by simp [hi]), leNat_leBytes]
  have hlt := (reduceLane r.op r.nelem order ps i).1.isLt
  exact BitVec.eq_of_toNat_eq (by rw [BitVec.toNat_ofNat]; omega)

/-- A word is the canonical result of an operator on words one after another. -/
def foldedTo (op : RvOp) (l : List Word) (w : Word) : Prop := ∃ a l', l = a :: l' ∧ w = canon32 (l'.foldl (rvOf op) a)

section
variable (nelem order : Nat) (p : Part) (l : List Part) (i : Nat)

/-- A sum `.arr` is of the words in some order (R325). -/
theorem reduceLane_arr : ∃ ws, ws.Perm ((p :: l).map fun q => q.lane i) ∧ foldedTo .addF32 ws (reduceLane 1 nelem order (p :: l) i).1 := by
  have hperm := permute_perm ((p :: l).map fun q => q.lane i).length order ((p :: l).map fun q => q.lane i)
  refine ⟨_, hperm, ?_⟩
  unfold reduceLane
  dsimp only
  generalize permute ((p :: l).map fun q => q.lane i).length order ((p :: l).map fun q => q.lane i) = ws at hperm ⊢
  cases ws with
  | nil => exact absurd hperm.length_eq (by simp)
  | cons a ws => exact ⟨a, ws, rfl, congrArg canon32 (foldWords_fst .addF32 a ws)⟩

theorem reduceLane_add : (reduceLane 2 nelem order (p :: l) i).1 = ((p :: l).map fun q => q.lane i).foldl (fun a b => a + b) 0 := by
  refine (foldWords_fst .addI32 (p.lane i) (l.map fun q => q.lane i)).trans ?_
  rw [List.map_cons, List.foldl_cons, show (0 : Word) + p.lane i = p.lane i from BitVec.zero_add _]
  rfl

theorem reduceLane_min : foldedTo .minF32 ((p :: l).map fun q => q.lane i) (reduceLane 3 nelem order (p :: l) i).1 :=
  ⟨_, _, rfl, congrArg canon32 (foldWords_fst .minF32 _ _)⟩

theorem reduceLane_max : foldedTo .maxF32 ((p :: l).map fun q => q.lane i) (reduceLane 4 nelem order (p :: l) i).1 :=
  ⟨_, _, rfl, congrArg canon32 (foldWords_fst .maxF32 _ _)⟩
end

end Sys2Proof.Machine
end

/-! The parts of a collective meet, and its results are written (R325 to R328) -/
section
namespace Sys2Proof.Machine

/-! ### Parts in the order of their ranks -/

theorem insertPart_eq (a : Part) (l : List Part) : insertPart a l = l.orderedInsert (fun a b => a.rank ≤ b.rank) a := by
  induction l with
  | nil => rfl
  | cons b l ih => rw [insertPart, List.orderedInsert_cons, ih]

theorem foldr_insertPart_eq (l : List Part) : l.foldr insertPart [] = l.insertionSort fun a b => a.rank ≤ b.rank := by
  induction l with
  | nil => rfl
  | cons a l ih => rw [List.foldr_cons, ih, insertPart_eq, List.insertionSort_cons]

/-- Parts of different ranks have one order. -/
theorem foldr_insertPart_of_sorted {l ps : List Part} (hperm : ps.Perm l) (hsorted : ps.Pairwise fun a b => a.rank < b.rank) : l.foldr insertPart [] = ps := by
  have htotal : Std.Total fun a b : Part => a.rank ≤ b.rank := ⟨fun a b => Nat.le_total a.rank b.rank⟩
  have htrans : IsTrans Part fun a b => a.rank ≤ b.rank := ⟨fun _ _ _ => Nat.le_trans⟩
  have hsymm : Std.Symm fun a b : Part => a.rank ≠ b.rank := ⟨fun _ _ => Ne.symm⟩
  have hsort : (l.insertionSort fun a b => a.rank ≤ b.rank).Perm ps := (List.perm_insertionSort _ l).trans hperm.symm
  rw [foldr_insertPart_eq]
  refine List.Perm.eq_of_pairwise (le := fun a b => a.rank ≤ b.rank) (fun a b ha hb hab hba => ?_) (List.pairwise_insertionSort _ l) (hsorted.imp Nat.le_of_lt) hsort
  by_contra hne
  exact (hsorted.imp Nat.ne_of_lt).forall (hsort.mem_iff.1 ha) hb hne (Nat.le_antisymm hab hba)

/-- All states have the parameters of the first. -/
theorem sketchesAgree_iff (ps : List Part) :
    sketchesAgree ps = true ↔ ∀ a ∈ ps, ∀ b ∈ ps, a.data.take 8 = b.data.take 8 ∧ a.data.length = b.data.length := by
  cases ps with
  | nil => exact ⟨fun _ => nofun, fun _ => rfl⟩
  | cons p l =>
    simp only [sketchesAgree, List.all_eq_true, Bool.and_eq_true, decide_eq_true_eq]
    refine ⟨fun h => ?_, fun h q hq => h q (List.mem_cons_of_mem p hq) p List.mem_cons_self⟩
    have hall : ∀ q ∈ p :: l, q.data.take 8 = p.data.take 8 ∧ q.data.length = p.data.length := List.forall_mem_cons.2 ⟨⟨rfl, rfl⟩, h⟩
    exact fun a ha b hb => ⟨(hall a ha).1.trans (hall b hb).1.symm, (hall a ha).2.trans (hall b hb).2.symm⟩

/-! ### The exchange -/

/-- The parts of an operation, each changed in its own way. -/
theorem State.op_foldl_each {s : State} {mine : List (Nat × EngOp)} (hmine : ∀ e ∈ mine, (s.core e.1).op e.2.id = some e.2) {f : Nat × EngOp → EngOp → EngOp}
    (hid : ∀ e o, (f e o).id = o.id) (hff : ∀ e o, f e (f e o) = f e o) {e : Nat × EngOp} (he : e ∈ mine) :
    ((mine.foldl (fun s e => s.updOp e.1 e.2.id (f e)) s).core e.1).op e.2.id = some (f e e.2) := by
  have hsame : ∀ x ∈ mine, e.1 = x.1 → e.2.id = x.2.id → x = e := fun x hx hc hi => by
    have hx' := hmine x hx
    rw [← hc, ← hi, hmine e he] at hx'
    exact Prod.ext hc.symm (Option.some.inj hx').symm
  exact State.op_foldl_updOp (core := fun e : Nat × EngOp => e.1) (id := fun e => e.2.id) (f := f) hid (fun x hx hc hi => by rw [hsame x hx hc hi])
    (fun x hx hc hi => by rw [hsame x hx hc hi, hff]) s (hmine e he) ⟨e, he, rfl, rfl⟩

theorem State.mems_foldl_updOp (s : State) (l : List (Nat × EngOp)) (f : Nat × EngOp → EngOp → EngOp) :
    (l.foldl (fun s e => s.updOp e.1 e.2.id (f e)) s).mems = s.mems := State.foldl_mems (fun s _ => s.updOp_mems _ _ _) l s

/-- A part receives the result and the conditions of its lanes. -/
def EngOp.receive (mask : Word) (v : List Byte × List Conds) (o : EngOp) : EngOp := { o with stage := .exchanged v.1 v.2, rmask := mask }

/-- A part fails with an error. -/
def EngOp.failed (err : Nat) (o : EngOp) : EngOp := { o with stage := .failed err }

/-- The states of the ranks other than one. -/
def othersOf (ps : List Part) (rank : Nat) : List Byte := (ps.filter fun p => p.rank != rank).flatMap fun p => p.data

theorem othersOf_eq (ps : List Part) (rank : Nat) : othersOf ps rank = (ps.filter fun p => decide (p.rank ≠ rank)).flatMap fun p => p.data := by
  have hkeep : (fun p : Part => p.rank != rank) = fun p => decide (p.rank ≠ rank) := by
    funext p
    rw [bne, beq_eq_decide, decide_not]
  rw [othersOf, hkeep]

/-- What the part of a sketch's operation becomes when the parts meet. -/
def EngOp.sketchMet (mask : Word) (ps : List Part) (p o : EngOp) : EngOp :=
  if sketchesAgree ps then match p.kind.coll? with
    | some q => o.receive mask (othersOf ps q.1.rank, [])
    | none => o
  else o.failed 6

section
variable {s : State} {core id : Nat} {o : EngOp} {r : CollRec} {num : Nat} {ps : List Part}

/-- Every part has read its source, and the parts with those of the other packages, in order, are a list. -/
structure Met (s : State) (o : EngOp) (r : CollRec) (num : Nat) (sk : Bool) (ps : List Part) : Prop where
  read : ∀ e ∈ s.partsOf (r.group (s.ctxOf o.ref)) num, e.2.part.isSome
  perm : ps.Perm ((s.partsOf (r.group (s.ctxOf o.ref)) num).filterMap (fun e => e.2.part) ++ o.peers.map (peerPart sk))
  sorted : ps.Pairwise fun a b => a.rank < b.rank

theorem State.exchange_coll {src dst : Nat} {r' : CollRec} {n : Nat} (hk : o.kind = .coll r' src dst n) (h : Met s o r num false ps) :
    s.exchange o r num = some ((s.partsOf (r.group (s.ctxOf o.ref)) num).foldl (fun s e => s.updOp e.1 e.2.id
      (EngOp.receive (rankBits (List.range r.ranks)) (collResult r o.order ps))) s) := by
  obtain ⟨hread, hperm, hsorted⟩ := h
  have hlen := List.filterMap_length_eq_length.2 hread
  unfold State.exchange
  rw [hk]
  dsimp only
  rw [if_neg (not_not.2 hlen), foldr_insertPart_of_sorted hperm hsorted]
  rfl

theorem State.exchange_sketch {slot : Nat} {r' : CollRec} {n : Nat} (hk : o.kind = .collSk r' slot n) (h : Met s o r num true ps) :
    s.exchange o r num = some ((s.partsOf (r.group (s.ctxOf o.ref)) num).foldl (fun s e => s.updOp e.1 e.2.id
      (EngOp.sketchMet (rankBits (List.range r.ranks)) ps e.2)) s) := by
  obtain ⟨hread, hperm, hsorted⟩ := h
  have hlen := List.filterMap_length_eq_length.2 hread
  unfold State.exchange
  rw [hk]
  dsimp only
  rw [if_neg (not_not.2 hlen), foldr_insertPart_of_sorted hperm hsorted]
  unfold EngOp.sketchMet
  cases sketchesAgree ps with
  | false => rfl
  | true =>
    refine congrArg some (List.foldl_ext _ _ _ fun z e he => ?_)
    obtain ⟨q, hq⟩ := Option.isSome_iff_exists.1 (State.coll?_of_inGroup (List.mem_filter.1 he).2)
    rw [hq]
    rfl

theorem EngOp.isSome_part {p : EngOp} (hb : ∃ d, p.stage = .begun d) (hc : p.kind.coll?.isSome) : p.part.isSome := by
  obtain ⟨d, hd⟩ := hb
  obtain ⟨q, hq⟩ := Option.isSome_iff_exists.1 hc
  rw [EngOp.part, hd, hq]
  rfl

/-- A part of a collective goes on, with no port down that it needs. -/
theorem State.engineBegin_partMove (ho : (s.core core).op id = some o) (hc : o.kind.coll? = some (r, num))
    (hcut : s.cutOff (r.group (s.ctxOf o.ref)) = false) : s.engineBegin core id = s.partMove core o r num := by
  rw [State.engineBegin, ho, Option.bind_some, hc]
  dsimp only
  rw [hcut, Bool.and_false]
  rfl

theorem State.engineBegin_exchange (ho : (s.core core).op id = some o) (hc : o.kind.coll? = some (r, num)) (hb : ∃ d, o.stage = .begun d)
    (hcut : s.cutOff (r.group (s.ctxOf o.ref)) = false) : s.engineBegin core id = s.exchange o r num := by
  obtain ⟨d, hd⟩ := hb
  rw [State.engineBegin_partMove ho hc hcut, State.partMove, hd]

/-- A part that has received the result holds it for its writes (R325). -/
theorem State.engineBegin_result {d : List Byte} {c : List Conds} (ho : (s.core core).op id = some o) (hs : o.stage = .exchanged d c)
    (hc : o.kind.coll? = some (r, num)) (hcut : s.cutOff (r.group (s.ctxOf o.ref)) = false) :
    ∃ t, s.engineBegin core id = some t ∧ t.mems = s.mems ∧ (t.core core).op id = some { o with stage := .result d c } := by
  refine ⟨s.updOp core id fun o => { o with stage := .result d c }, ?_, s.updOp_mems _ _ _, State.op_updOp_of_keepsWork (.refl s) ho fun _ => rfl⟩
  rw [State.engineBegin_partMove ho hc hcut, State.partMove, hs, Core.id_of_op ho]

/-! ### The merge of sketch states (R294, R328) -/

theorem piecesOf_eq (n k : Nat) (l : List Byte) : piecesOf n k l = (List.range k).map fun j => (l.drop (n * j)).take n := by
  induction k generalizing l with
  | zero => rfl
  | succ k ih =>
    rw [piecesOf, ih, List.range_succ_eq_map, List.map_cons, List.map_map, Nat.mul_zero, List.drop_zero]
    refine congrArg (l.take n :: ·) (List.map_congr_left fun j _ => ?_)
    rw [Function.comp_apply, List.drop_drop, Nat.mul_succ, Nat.add_comm]

/-- The states are merged one after another. -/
theorem State.mergeAll_fst (s : State) (k : Bind) (d : List Byte) : (s.mergeAll k d).1 =
    (List.range (d.length / (64 + (s.skNow k).body))).foldl (fun z j => (z.skMerge k ((d.drop ((64 + (s.skNow k).body) * j)).take (64 + (s.skNow k).body))).1) s := by
  have hfst : ∀ (l : List (List Byte)) (x : State × Bool),
      (l.foldl (fun (r : State × Bool) src => let q := r.1.skMerge k src; (q.1, r.2 || q.2)) x).1 = l.foldl (fun z src => (z.skMerge k src).1) x.1 := by
    intro l
    induction l with
    | nil => exact fun _ => rfl
    | cons src l ih => exact fun x => ih _
  rw [State.mergeAll]
  dsimp only
  rw [hfst, piecesOf_eq, List.foldl_map]

/-- A part of a sketch's operation merges the states of the other ranks, and ends. -/
theorem exec_merge {slot : Nat} {d : List Byte} {c : List Conds} {k : Bind} (ho : (s.core core).op id = some o) (hk : o.kind = .collSk r slot num)
    (hs : o.stage = .result d c) (hp : s.isPaused o = false) (hsettled : s.groupSettled o r num = true) (hb : s.bound (s.ctxOf o.ref) slot = some k)
    (hfree : s.instanceFree true o.ref o.id (s.ctxOf o.ref) slot k.ranges = true) (hpoison : k.ranges.any s.poisoned = false) :
    ∃ t, exec (.engineCompletion core id) s = .next t ∧ endedWith core id o.slot 0 o.rmask t ∧ (o.cw = none → t.mems = (s.mergeAll k d).1.mems)
      ∧ ∀ off v, o.cw = some (off, v) → t.load (localByte o.ref.team off) 4 = v.toNat := by
  let u := (k.ranges.foldl State.l2Results (s.mergeAll k d).1).skWrote (o.scopeAgent core) k
  have hu : u.mems = (s.mergeAll k d).1.mems := (State.skWrote_mems _ _ _).trans (State.foldl_mems (fun s x => s.l2Results_mems x) _ _)
  obtain ⟨t, ht, hkeep, hmems⟩ : ∃ t, s.completeOp core o = some t ∧ (u.finishOp core o o.rmask).KeepsWork t ∧ t.mems = (u.finishOp core o o.rmask).mems := by
    refine ⟨if (s.mergeAll k d).2 then (u.finishOp core o o.rmask).count (o.counter core) [6] else u.finishOp core o o.rmask, ?_, ?_, ?_⟩
    · simp only [State.completeOp, hs, hk, hp, hsettled, State.finishColl, hb, Option.bind_some, hfree, hpoison]
      rfl
    · split
      · exact State.keepsWork_count _ _ _
      · exact .refl _
    · split
      · exact State.count_mems _ _ _
      · rfl
  refine ⟨t, exec_engineCompletion ho ht, ?_, fun hcw => ?_, fun off v hcw => ?_⟩
  · rw [← Core.id_of_op ho]
    exact endedWith.keepsWork (State.endedWith_finishOp ..) hkeep
  · rw [hmems, State.finishOp, State.completeHandle_mems, hcw]
    exact hu
  · rw [hkeep.load hmems, State.load_finishOp _ _ _ _ hcw]
end

/-! ### What collectives give -/

section
variable {s : State} {core id : Nat} {o : EngOp} {r : CollRec} {num : Nat} {ps : List Part}

/-- Where all parts have read their sources, every part of a collective on data receives the result. -/
theorem State.engineBegin_coll {src dst n : Nat} {r' : CollRec} (hk : o.kind = .coll r' src dst n) (hex : s.engineBegin core id = s.exchange o r num)
    (hmet : Met s o r num false ps) (hmine : ∀ e ∈ s.partsOf (r.group (s.ctxOf o.ref)) num, (s.core e.1).op e.2.id = some e.2) :
    ∃ t, s.engineBegin core id = some t ∧ t.mems = s.mems ∧ ∀ e ∈ s.partsOf (r.group (s.ctxOf o.ref)) num, ∃ q, (t.core e.1).op e.2.id = some q
      ∧ q.stage = .exchanged (collResult r o.order ps).1 (collResult r o.order ps).2 := by
  refine ⟨_, hex.trans (State.exchange_coll hk hmet), State.mems_foldl_updOp s _ fun _ => _, fun e he => ⟨e.2.receive (rankBits (List.range r.ranks)) (collResult r o.order ps), ?_, rfl⟩⟩
  exact State.op_foldl_each (f := fun _ => EngOp.receive _ _) hmine (fun _ _ => rfl) (fun _ _ => rfl) he

/-- Every part of a sketch's operation receives the other states, or fails with 6 where the parameters differ (R328). -/
theorem State.engineBegin_sketch {slot n : Nat} {r' : CollRec} (hk : o.kind = .collSk r' slot n) (hex : s.engineBegin core id = s.exchange o r num)
    (hmet : Met s o r num true ps) (hmine : ∀ e ∈ s.partsOf (r.group (s.ctxOf o.ref)) num, (s.core e.1).op e.2.id = some e.2) :
    ∃ t, s.engineBegin core id = some t ∧ t.mems = s.mems ∧ ∀ e ∈ s.partsOf (r.group (s.ctxOf o.ref)) num, ∃ q, (t.core e.1).op e.2.id = some q
      ∧ ∀ c, e.2.kind.coll? = some c → (sketchesAgree ps = true → q.stage = .exchanged (othersOf ps c.1.rank) []) ∧ (sketchesAgree ps = false → q.stage = .failed 6) := by
  have hid : ∀ (mask : Word) (e : Nat × EngOp) (o : EngOp), (EngOp.sketchMet mask ps e.2 o).id = o.id := fun mask e o => by
    unfold EngOp.sketchMet
    split
    · split <;> rfl
    · rfl
  have htwice : ∀ (mask : Word) (e : Nat × EngOp) (o : EngOp), EngOp.sketchMet mask ps e.2 (EngOp.sketchMet mask ps e.2 o) = EngOp.sketchMet mask ps e.2 o := by
    intro mask e o
    unfold EngOp.sketchMet
    split
    · split <;> rfl
    · rfl
  refine ⟨_, hex.trans (State.exchange_sketch hk hmet), State.mems_foldl_updOp s _ fun e => EngOp.sketchMet _ ps e.2, fun e he => ⟨_,
    State.op_foldl_each (f := fun e => EngOp.sketchMet _ ps e.2) hmine (hid _) (htwice _) he, fun c hc => ⟨fun hagree => ?_, fun hdiffer => ?_⟩⟩⟩
  · rw [EngOp.sketchMet, if_pos hagree, hc]
    rfl
  · rw [EngOp.sketchMet, if_neg (ne_true_of_eq_false hdiffer)]
    rfl
end

/-- What the parts of a collective give, and how each rank receives it (R325 to R328). -/
theorem collective_results : collectiveResults := by
  refine ⟨fun r order p l => ⟨fun hk => by simp [collResult, hk], fun hk => by simp [collResult, hk], fun hk => ?_⟩,
    ?_, fun s core id o d c ho hs r num hc hcut => State.engineBegin_result ho hs hc hcut,
    fun s core id slot num o r d c k ho hk hs hp hsettled hbound hfree hpoison => ?_⟩
  · obtain ⟨hlen, hlane⟩ := collResult_lane hk order (p :: l)
    refine ⟨hlen, fun i hi => ?_⟩
    have hres := hlane i hi
    beta_reduce
    rw [hres]
    refine ⟨fun hop => ?_, fun hop => ?_, fun hop => ?_, fun hop => ?_, fun hop lev v P hrun hdis hP hmin => ⟨fun hshort hval hzero => ?_, fun q hq h0 hlong => ?_⟩⟩
    all_goals rw [hop]
    · exact reduceLane_arr ..
    · exact reduceLane_add ..
    · exact reduceLane_min ..
    · exact reduceLane_max ..
    · exact reduceLane_det i hrun hP hmin hshort hval hzero
    · exact reduceLane_covered i hrun hP hmin hdis hq h0 hlong
  · intro s core id o r num ps ho hc hb hcut mine sk hmine hperm hsorted
    have hex := State.engineBegin_exchange ho hc hb hcut
    have hread : ∀ e ∈ mine, e.2.part.isSome := fun e he => EngOp.isSome_part (hmine e he).1 (State.coll?_of_inGroup (List.mem_filter.1 he).2)
    have hops : ∀ e ∈ mine, (s.core e.1).op e.2.id = some e.2 := fun e he => (hmine e he).2
    cases hk : o.kind with
    | coll =>
      have hsk : sk o = false := by simp only [sk, hk]
      rw [hsk] at hperm
      obtain ⟨t, ht, hmems, hparts⟩ := State.engineBegin_coll hk hex ⟨hread, hperm, hsorted⟩ hops
      refine ⟨t, ht, hmems, fun e he => ?_⟩
      obtain ⟨q, hq, hstage⟩ := hparts e he
      exact ⟨q, hq, fun _ => hstage, fun h => absurd (hsk.symm.trans h) (by decide)⟩
    | collSk =>
      have hsk : sk o = true := by simp only [sk, hk]
      rw [hsk] at hperm
      obtain ⟨t, ht, hmems, hparts⟩ := State.engineBegin_sketch hk hex ⟨hread, hperm, hsorted⟩ hops
      refine ⟨t, ht, hmems, fun e he => ?_⟩
      obtain ⟨q, hq, hstage⟩ := hparts e he
      refine ⟨q, hq, fun h => absurd (hsk.symm.trans h) (by decide), fun _ c hc => ⟨fun hagree => ?_, fun ⟨a, ha, b, hb, hne⟩ => ?_⟩⟩
      · rw [(hstage c hc).1 ((sketchesAgree_iff ps).2 hagree), othersOf_eq]
      · refine (hstage c hc).2 (Bool.eq_false_iff.2 fun hagree => ?_)
        obtain ⟨hparams, hlength⟩ := (sketchesAgree_iff ps).1 hagree a ha b hb
        exact hne.elim (absurd hparams) (absurd hlength)
    | lin | fill | gather | scatter | cpyw | tld | tst | accrd | msync => rw [hk] at hc; cases hc
  · have := exec_merge ho hk hs hp hsettled hbound hfree hpoison
    rwa [State.mergeAll_fst] at this

end Sys2Proof.Machine
end

/-! Engines complete (R154, R166 to R168, R312 to R318, R323 to R329, R403) -/
section
namespace Sys2Proof.Machine

/-- Settles O54, each event from the lemma on its move: what is read and written, what a collective gives, and what welts, groups and aborts do. -/
theorem enginesComplete : Obligations.EnginesComplete := by
  unfold Obligations.EnginesComplete
  intro s core id o ho i lands
  refine ⟨State.moves_bytes ho, collective_results, boxes_and_conversions, fun n => exec_failed ho, ?lin, ?fill, ?msync, ?welt, ?group, ?abort,
    s.abortedIn_abortGroup⟩
  case lin =>
    intro ssp a b n d hk hs hd hfit hw hp hr hmay
    exact exec_lin_local ho hk hs hd hfit hw hp hr hmay
  case fill =>
    intro a pat n hk hs hi hfit hw hp hr hmay
    exact exec_fill_local ho hk hs hi hfit hw hp hr hmay
  case msync =>
    intro hk hs hd
    refine ⟨fun h => ?_, fun h => ?_⟩
    · rw [exec_msync ho hk hs hd, State.msyncErr_halted h]
    · rw [exec_msync ho hk hs hd, State.msyncErr_running h]
  case welt =>
    intro sp rec_ k0 tile ta tb a z tm hk htm hp c m cmd joined
    refine ⟨?_, fun hs hhead hroom => ?_⟩
    · intro d p hs hw hpause hpipe hhome dst hmay
      obtain ⟨t, hexec, hbytes, hcw, hjoined, hwaits⟩ := exec_cpyw ho hk htm hp hs hw hpause hpipe hhome hmay
      refine ⟨t, hexec, hbytes, hcw, fun hroom hnone => hjoined ((Core.queueRoom_iff _ _).2 ⟨hroom, hnone⟩), fun hfull => hwaits ?_⟩
      rw [Bool.eq_false_iff, Ne, Core.queueRoom_iff]
      exact fun ⟨hroom, hnone⟩ => hfull.elim (Nat.not_le.2 hroom) fun hsome => hsome hnone
    · obtain ⟨t, hexec, hjoined, hmems⟩ := exec_weltEnqueue ho hk htm hp hs hhead hroom
      exact ⟨t, hexec, hjoined, hmems⟩
  case group =>
    intro die slot peers order r num hu hk g recs hf hp
    refine ⟨_, exec_groupAssembly (order := order) hu hk hf hp, fun c k p hop hg => ?_⟩
    exact State.op_foldl_parts s g num (fun o => o.id_assemble _ peers order) hop hg (p.assemble_assemble _ peers order)
  case abort =>
    intro g num received hn mine h
    exact ⟨_, exec_collAbort hn h, s.abortedIn_abortGroup g num (some received)⟩

end Sys2Proof.Machine
end
